-- ==== Sys2Proof/Word.lean ====
section
/-! DEFINITION. The word types of the JX880 and their plainest arithmetic: 64-bit scalars, 2048-bit vectors,
128-bit predicates, 512-bit stream descriptors, 32-bit syllables held as natural numbers. -/

namespace Sys2Proof

/-- A scalar register, control register or address word (07_bundles, "Register files"). -/
abbrev W64 := BitVec 64

/-- One byte of storage (R3). -/
abbrev Byte := BitVec 8

/-- A vector register v0–v31 (R7). -/
abbrev VWord := BitVec 2048

/-- A predicate register p0–p15, or an entry of the mask stack (R43). -/
abbrev PWord := BitVec 128

/-- A stream register g0–g15: the 64-byte descriptor of R244, word 0 in the low bits. -/
abbrev GWord := BitVec 512

/-- Scalar register number, s0–s63 (R149). -/
abbrev SReg := Fin 64

/-- Vector register number, v0–v31 (R149). -/
abbrev VReg := Fin 32

/-- Predicate register number, p0–p15 (R149). -/
abbrev PReg := Fin 16

/-- Stream register number, g0–g15 (R149). -/
abbrev GReg := Fin 16

/-- Accumulator tile number, t0–t3 (R149). -/
abbrev TileIx := Fin 4

/-- Walker register number, w0–w15 (R285). -/
abbrev WReg := Fin 16

/-- Cluster queue number, 0–31 (R175). -/
abbrev QueueIx := Fin 32

/-- Field `[lo+n-1 : lo]` of a word held as a natural number (R3). -/
def fieldOf (w lo n : Nat) : Nat := w / 2 ^ lo % 2 ^ n

/-- Sign extension of an `n`-bit field to 64 bits (R138, SExt). -/
def sext64 {n : Nat} (x : BitVec n) : W64 := x.signExtend 64

/-- Zero extension of an `n`-bit field to 64 bits (R138, ZExt). -/
def zext64 {n : Nat} (x : BitVec n) : W64 := x.setWidth 64

/-- The 64-bit word of a Boolean result. -/
def boolWord (b : Bool) : W64 := if b then 1 else 0

end Sys2Proof
end

