-- ==== Sys2Proof/Syntax.lean ====
section
/-! DEFINITION. The instructions and events of the JX880: one constructor for each row of spec/opcode_table.json.
The first part holds the core syllables by slot (R151–R158), the second the walker syllables (R160), the third the
events, steps of the machine that no word encodes (95_what_each_step_holds). -/

namespace Sys2Proof

/-- The twelve slots of a bundle, in MASK bit order (R144). -/
inductive Slot where
  | br | s0 | s1 | ls | ag | v0 | v1 | vx | vp | vm | mx | ec
deriving DecidableEq, Repr

/-- MASK bit minus 20 of a slot (R144, R164). -/
def Slot.code : Slot → Nat
  | .br => 0 | .s0 => 1 | .s1 => 2 | .ls => 3 | .ag => 4 | .v0 => 5 | .v1 => 6 | .vx => 7 | .vp => 8
  | .vm => 9 | .mx => 10 | .ec => 11

/-- Lane types T = 0 to 6 of F-V (R147). -/
inductive Ty where
  | f32 | f16 | bf16 | i32 | i16 | n32 | n16
deriving DecidableEq, Repr

/-- The nineteen element formats (R45). -/
inductive Fmt where
  | f32 | f16 | bf16 | e4m3 | e5m2 | e3m2 | e2m3 | e2m1 | e8m0
  | i32 | i16 | i8 | i4 | i2 | b1 | n16 | n8 | n4 | n1
deriving DecidableEq, Repr

/-- Vector source operand: a vector register, or a scalar s0–s31 broadcast to every lane (R149). -/
inductive VSrc where
  | vec (r : VReg)
  | scal (r : Fin 32)
deriving DecidableEq, Repr

/-- Rounding field of a conversion: VMODE.RM or a mode of its own (R219). -/
inductive RmSel where
  | vmode | rne | rtz | rdn | rup
deriving DecidableEq, Repr

/-- Overflow selector .S or .I (R55). -/
inductive Ovf where
  | sat | ieee
deriving DecidableEq, Repr

/-- The typed buffers, coded 0 to 3 (R73). -/
inductive Buf where
  | wb | ab | cb | dm
deriving DecidableEq, Repr

/-- Access size and extension of an LS operation (R204). -/
inductive Sz where
  | b1 | b2 | b4 | b8
deriving DecidableEq, Repr

/-- Scopes of fences and global atomics (R98, R181, R204). -/
inductive Scope where
  | core | clus | pkg | dom | sys | dur
deriving DecidableEq, Repr

/-- Comparison of WAITM (R176). -/
inductive Cmp where
  | eq | ne | lt | ge | ltn | gen
deriving DecidableEq, Repr

/-- Operation of a reduction or scan (R221). -/
inductive RedOp where
  | add | max | min | and | or | xor
deriving DecidableEq, Repr

/-- Operation of VHACC (R225). -/
inductive HaccOp where
  | add | max | cnt
deriving DecidableEq, Repr

/-- Operation of an atomic (R209, R277). -/
inductive AmoOp where
  | add | min | max | minn | maxn | and | or | xor | swap | cas
deriving DecidableEq, Repr

/-- Cache level of IPF (R183). -/
inductive CacheLevel where
  | l0 | l1 | l2
deriving DecidableEq, Repr

/-- What TLBINV invalidates (R195). -/
inductive TlbKind where
  | page | tenant | all
deriving DecidableEq, Repr

/-- Half of a predicate register (R240). -/
inductive Half where
  | lo | hi
deriving DecidableEq, Repr

/-- The fields of VCVT's extension syllable (R219). -/
structure CvtArgs where
  dt : Ty
  rm : RmSel
  ov : Ovf
  hi : Bool
deriving DecidableEq, Repr

/-- The fields of the extension syllable of the unpacks and packs (R233, R235). -/
structure PackArgs where
  fmt  : Fmt
  part : Fin 16
  rm   : RmSel
  ov   : Ovf
  grp  : Fin 3
deriving DecidableEq, Repr

/-- The extension syllable of a VM operation (R241). -/
structure VmArgs where
  buf : Buf
  sb  : SReg
  off : BitVec 16
deriving DecidableEq, Repr

/-- The extension syllable of VHACC (R225). -/
structure HaccArgs where
  sb  : SReg
  cb  : Bool
  lgn : Fin 16
  op  : HaccOp
deriving DecidableEq, Repr

/-- The operation field FOP of VNEST (R229). -/
inductive NestOp where
  | vadd | vsub | vmul | vfma | vmin | vmax | vand | vor | vxor | vmov
deriving DecidableEq, Repr

/-- One level of a VNEST nest: extent minus 1 and the three line strides (R229). -/
structure NestLevel where
  x  : BitVec 10
  sd : BitVec 8
  sa : BitVec 8
  sb : BitVec 8
deriving DecidableEq, Repr

/-- The operands of VNEST (R229). -/
structure NestArgs where
  fop   : NestOp
  t     : Ty
  p     : PReg
  bufD  : Buf
  bufA  : Buf
  bufB  : Buf
  baseD : BitVec 13
  baseA : BitVec 13
  baseB : BitVec 13
  l0 : NestLevel
  l1 : NestLevel
  l2 : NestLevel
  l3 : NestLevel
  l4 : NestLevel
deriving DecidableEq, Repr

/-- The fields of PRECSET (R262). -/
structure PrecsetArgs where
  tile : TileIx
  accf : Fin 4
  fmtA : BitVec 5
  fmtB : BitVec 5
  wa   : Fin 16
  wb   : Fin 16
  rnda : Bool
  rndb : Bool
deriving DecidableEq, Repr

/-- A Abaing transaction (R363). -/
structure Transaction where
  op     : Fin 16
  src    : Fin 128
  tenant : Fin 16
  lane   : Fin 16
  tag    : BitVec 12
  addr   : BitVec 45
  detail : BitVec 40
  data   : List Byte
deriving DecidableEq, Repr

/-- A received flit: its bytes 0 to 247, link header and payload, and its CRC (R363). -/
structure Flit where
  body : List Byte
  crc  : BitVec 64
deriving DecidableEq, Repr

/-- The instructions and events of the JX880, one constructor for each row of spec/opcode_table.json. -/
inductive Instr where
  -- BR slot (R151)
  | b (x : BitVec 25)
  | bz (a : SReg) (x : BitVec 13)
  | bnz (a : SReg) (x : BitVec 13)
  | beq (a b : SReg) (x : BitVec 13)
  | bne (a b : SReg) (x : BitVec 13)
  | blt (a b : SReg) (x : BitVec 13)
  | bge (a b : SReg) (x : BitVec 13)
  | bltn (a b : SReg) (x : BitVec 13)
  | bgen (a b : SReg) (x : BitVec 13)
  | bany (a : PReg) (x : BitVec 13)
  | bnone (a : PReg) (x : BitVec 13)
  | bmz (x : BitVec 25)
  | call (x : BitVec 25)
  | calli (d a : SReg)
  | jmpi (a : SReg)
  | loop (a : SReg) (n : Fin 4) (x : BitVec 13)
  | loopp (a : SReg) (n : Fin 4) (x : BitVec 13) (stages : Fin 8)
  | sloop (q : QueueIx) (p : PReg) (x : BitVec 13)
  | bsel (a b : SReg)
  | mpush (a : PReg)
  | minv
  | mpop
  | idle (n : BitVec 12)
  | endTask
  | yield
  | waite
  | waitq (q : QueueIx)
  | waitm (d a b : SReg) (cc : Cmp) (w32 : Bool) (timeout : BitVec 16)
  | csync
  | barinit (a b : SReg)
  | bararr (a : SReg)
  | barwait (a b : SReg)
  | fence (s : Scope)
  | pbar
  | pcommit (a b : SReg)
  | getc (d : SReg) (i : BitVec 13)
  | setc (a : SReg) (i : BitVec 13)
  | trap (imm : BitVec 19)
  | rte
  | ipf (a b : SReg) (l : CacheLevel)
  | ipin (a b : SReg) (l2 : Bool)
  | iunpin (a b : SReg) (l2 : Bool)
  | setallow (a b : SReg) (n : Bool)
  | setallowMode (a b : SReg) (n : Bool)
  | ctxsave (d a b : SReg)
  | ctxload (d a b : SReg)
  | gfreeze (d a : SReg)
  | gthaw (a b : SReg)
  | tlbinv (a b : SReg) (k : TlbKind)
  | segload (d a b : SReg)
  | msgsend (a b : SReg)
  | halt
  -- S0 and S1 slots (R152)
  | add (d a b : SReg)
  | sub (d a b : SReg)
  | addi (d a : SReg) (i : BitVec 13)
  | mul (d a b : SReg)
  | mulh (d a b : SReg)
  | mulhn (d a b : SReg)
  | madd (d a b : SReg)
  | div (d a b : SReg)
  | divn (d a b : SReg)
  | rem (d a b : SReg)
  | remn (d a b : SReg)
  | and (d a b : SReg)
  | or (d a b : SReg)
  | xor (d a b : SReg)
  | andi (d a : SReg) (i : BitVec 13)
  | ori (d a : SReg) (i : BitVec 13)
  | xori (d a : SReg) (i : BitVec 13)
  | shl (d a b : SReg)
  | shr (d a b : SReg)
  | sar (d a b : SReg)
  | shli (d a : SReg) (k : Fin 64)
  | shri (d a : SReg) (k : Fin 64)
  | sari (d a : SReg) (k : Fin 64)
  | slt (d a b : SReg)
  | sltn (d a b : SReg)
  | seq (d a b : SReg)
  | slti (d a : SReg) (i : BitVec 13)
  | sel (d c a b : SReg)
  | min (d a b : SReg)
  | max (d a b : SReg)
  | minn (d a b : SReg)
  | maxn (d a b : SReg)
  | li (d : SReg) (i : BitVec 19)
  | lih (d : SReg) (i : BitVec 19)
  | clz (d a : SReg)
  | popc (d a : SReg)
  | exts (d a : SReg) (pos len1 : Fin 64)
  | extz (d a : SReg) (pos len1 : Fin 64)
  | ins (d a : SReg) (pos len1 : Fin 64)
  | ceilm (d a b : SReg)
  | divc (d a b : SReg)
  -- LS slot (R153)
  | ld (d a b : SReg) (sx : Bool) (sz : Sz)
  | st (d a b : SReg) (sz : Sz)
  | ldg (d a b : SReg) (sx : Bool) (sz : Sz)
  | stg (d a b : SReg) (sz : Sz)
  | amoaddDm (d a b : SReg) (sx : Bool) (sz : Sz)
  | amoaddGlobal (d a b : SReg) (sc : Scope) (sx : Bool) (sz : Sz)
  | amominDm (d a b : SReg) (sx : Bool) (sz : Sz)
  | amominGlobal (d a b : SReg) (sc : Scope) (sx : Bool) (sz : Sz)
  | amomaxDm (d a b : SReg) (sx : Bool) (sz : Sz)
  | amomaxGlobal (d a b : SReg) (sc : Scope) (sx : Bool) (sz : Sz)
  | amominnDm (d a b : SReg) (sx : Bool) (sz : Sz)
  | amominnGlobal (d a b : SReg) (sc : Scope) (sx : Bool) (sz : Sz)
  | amomaxnDm (d a b : SReg) (sx : Bool) (sz : Sz)
  | amomaxnGlobal (d a b : SReg) (sc : Scope) (sx : Bool) (sz : Sz)
  | amoandDm (d a b : SReg) (sx : Bool) (sz : Sz)
  | amoandGlobal (d a b : SReg) (sc : Scope) (sx : Bool) (sz : Sz)
  | amoorDm (d a b : SReg) (sx : Bool) (sz : Sz)
  | amoorGlobal (d a b : SReg) (sc : Scope) (sx : Bool) (sz : Sz)
  | amoxorDm (d a b : SReg) (sx : Bool) (sz : Sz)
  | amoxorGlobal (d a b : SReg) (sc : Scope) (sx : Bool) (sz : Sz)
  | amoswapDm (d a b : SReg) (sx : Bool) (sz : Sz)
  | amoswapGlobal (d a b : SReg) (sc : Scope) (sx : Bool) (sz : Sz)
  | amocasDm (d a b : SReg) (sx : Bool) (sz : Sz)
  | amocasGlobal (d a b : SReg) (sc : Scope) (sx : Bool) (sz : Sz)
  -- AG slot (R154)
  | gset (d : GReg) (a b : SReg)
  | gsetf (d : GReg) (a : SReg) (f : Fin 27)
  | gget (d : SReg) (a : GReg) (f : Fin 27)
  | gadv (d : GReg) (a : SReg)
  | grst (d : GReg)
  | gmask (d : GReg) (a b : SReg)
  | gcopy (d a : GReg)
  -- V0 and V1 slots (R155)
  | vadd (d : VReg) (a b : VSrc) (p : PReg) (t : Ty)
  | vsub (d : VReg) (a b : VSrc) (p : PReg) (t : Ty)
  | vmul (d : VReg) (a b : VSrc) (p : PReg) (t : Ty)
  | vfma (d : VReg) (a b : VSrc) (p : PReg) (t : Ty)
  | vfms (d : VReg) (a b : VSrc) (p : PReg) (t : Ty)
  | vfnma (d : VReg) (a b : VSrc) (p : PReg) (t : Ty)
  | vmin (d : VReg) (a b : VSrc) (p : PReg) (t : Ty)
  | vmax (d : VReg) (a b : VSrc) (p : PReg) (t : Ty)
  | vabs (d : VReg) (a : VSrc) (p : PReg) (t : Ty)
  | vneg (d : VReg) (a : VSrc) (p : PReg) (t : Ty)
  | vand (d : VReg) (a b : VSrc) (p : PReg) (t : Ty)
  | vor (d : VReg) (a b : VSrc) (p : PReg) (t : Ty)
  | vxor (d : VReg) (a b : VSrc) (p : PReg) (t : Ty)
  | vnot (d : VReg) (a : VSrc) (p : PReg) (t : Ty)
  | vshl (d : VReg) (a b : VSrc) (p : PReg) (t : Ty)
  | vshr (d : VReg) (a b : VSrc) (p : PReg) (t : Ty)
  | vsar (d : VReg) (a b : VSrc) (p : PReg) (t : Ty)
  | vmulh (d : VReg) (a b : VSrc) (p : PReg) (t : Ty)
  | vclamp (d : VReg) (a b c : VSrc) (p : PReg) (t : Ty)
  | vscale (d : VReg) (a b : VSrc) (p : PReg) (t : Ty)
  | vcmpeq (d : PReg) (a b : VSrc) (p : PReg) (t : Ty)
  | vcmpne (d : PReg) (a b : VSrc) (p : PReg) (t : Ty)
  | vcmplt (d : PReg) (a b : VSrc) (p : PReg) (t : Ty)
  | vcmple (d : PReg) (a b : VSrc) (p : PReg) (t : Ty)
  | vclass (d : PReg) (a : VSrc) (mask : BitVec 6) (p : PReg) (t : Ty)
  | vsel (d : VReg) (a b : VSrc) (p : PReg) (t : Ty)
  | vmov (d : VReg) (a : VSrc) (p : PReg) (t : Ty)
  | vbcast (d : VReg) (a : VReg) (b : Fin 32) (p : PReg) (t : Ty)
  | vins (d : VReg) (a b : Fin 32) (p : PReg) (t : Ty)
  | vext (d : Fin 32) (a : VReg) (b : Fin 32) (p : PReg) (t : Ty)
  | viota (d : VReg) (a b : Fin 32) (p : PReg) (t : Ty)
  | vcvt (d : VReg) (a : VReg) (p : PReg) (t : Ty) (x : CvtArgs)
  | vrcp (d : VReg) (a : VSrc) (p : PReg) (t : Ty)
  | vrsq (d : VReg) (a : VSrc) (p : PReg) (t : Ty)
  | vsqrt (d : VReg) (a : VSrc) (p : PReg) (t : Ty)
  | vexp2 (d : VReg) (a : VSrc) (p : PReg) (t : Ty)
  | vlog2 (d : VReg) (a : VSrc) (p : PReg) (t : Ty)
  | vtanh (d : VReg) (a : VSrc) (p : PReg) (t : Ty)
  | vsin (d : VReg) (a : VSrc) (p : PReg) (t : Ty)
  | vred (d : VReg) (a : VReg) (op : RedOp) (p : PReg) (t : Ty)
  | vscan (d : VReg) (a : VReg) (op : RedOp) (exc : Bool) (p : PReg) (t : Ty)
  | vperm (d : VReg) (a b : VReg) (p : PReg) (t : Ty)
  | vrot (d : VReg) (a : VReg) (b : Fin 32) (p : PReg) (t : Ty)
  | vzip (d : VReg) (a b : VReg) (p : PReg) (t : Ty)
  | vunzip (d : VReg) (a b : VReg) (p : PReg) (t : Ty)
  | vtopk (d : VReg) (a : VReg) (k : BitVec 8) (isMin : Bool) (p : PReg) (t : Ty)
  | vhacc (a : VReg) (b : VSrc) (p : PReg) (t : Ty) (x : HaccArgs)
  | vnest (x : NestArgs)
  -- VX and VP slots (R156)
  | vunpk (d : VReg) (a : VReg) (p : PReg) (t : Ty) (x : PackArgs)
  | vunpks (d : VReg) (a : VReg) (b : VSrc) (p : PReg) (t : Ty) (x : PackArgs)
  | vunpkz (d : VReg) (a : VReg) (b : VSrc) (p : PReg) (t : Ty) (x : PackArgs)
  | vpack (d : VReg) (a : VReg) (p : PReg) (t : Ty) (x : PackArgs)
  | vpacksc (d : VReg) (a : VReg) (p : PReg) (t : Ty) (x : PackArgs)
  | vpackz (d : VReg) (a : VReg) (p : PReg) (t : Ty) (x : PackArgs)
  | pand (d a b : PReg)
  | por (d a b : PReg)
  | pxor (d a b : PReg)
  | pnot (d a : PReg)
  | psetHalf (d : PReg) (a : SReg) (h : Half)
  | psetL16 (d : PReg) (a : SReg)
  | psetL32 (d : PReg) (a : SReg)
  | pget (d : SReg) (a : PReg) (h : Half)
  | pcnt (d : SReg) (a : PReg) (w32 : Bool)
  -- VM slot (R156)
  | vld (d : VReg) (p : PReg) (t : Ty) (x : VmArgs)
  | vst (d : VReg) (p : PReg) (t : Ty) (x : VmArgs)
  | vlds (d : VReg) (st : Fin 32) (p : PReg) (t : Ty) (x : VmArgs)
  | vsts (d : VReg) (st : Fin 32) (p : PReg) (t : Ty) (x : VmArgs)
  | vldx (d : VReg) (a : VReg) (p : PReg) (t : Ty) (x : VmArgs)
  | vstx (d : VReg) (a : VReg) (p : PReg) (t : Ty) (x : VmArgs)
  | vldb (d : VReg) (p : PReg) (t : Ty) (x : VmArgs)
  -- MX slot (R157)
  | mma (t : TileIx) (ga gb : GReg) (at_ : BitVec 16) (nk : BitVec 16)
  | mmaz (t : TileIx) (ga gb : GReg) (at_ : BitVec 16) (nk : BitVec 16)
  | mmag (d : SReg) (ga gb : GReg) (g : BitVec 12)
  | mmas (q : QueueIx) (ga gb : GReg)
  | tdrain (t : TileIx) (rm : RmSel) (b : SReg) (fmt : Fmt) (ov : Ovf) (at_ : BitVec 16) (rows : BitVec 8)
  | tload (t : TileIx) (b : SReg) (fmt : Fmt) (at_ : BitVec 16) (rows : BitVec 8)
  | tclr (t : TileIx)
  | tmask (t : TileIx) (a b : SReg)
  | precset (x : PrecsetArgs)
  | tstat (d : SReg) (t : TileIx) (c : Bool)
  -- EC slot (R158)
  | copy (d a b : SReg) (e : Bool) (buf : Buf) (out : Bool) (map : Bool) (at_ n : BitVec 16)
  | copym (d a b : SReg) (e : Bool) (buf : Buf) (map : Bool) (at_ n : BitVec 16)
  | gather (d a b : SReg) (lsz : Fin 9) (buf : Buf) (iw : Bool) (n : BitVec 16)
  | scatter (d a b : SReg) (lsz : Fin 9) (buf : Buf) (iw : Bool) (n : BitVec 16)
  | xsend (a b : SReg) (buf : Buf) (at_ n : BitVec 16)
  | xrecv (a b : SReg) (buf : Buf) (at_ n : BitVec 16)
  | fput (a b : SReg) (buf : Buf) (n : BitVec 16)
  | fget (a b : SReg) (buf : Buf) (n : BitVec 16)
  | fatom (d a b : SReg) (op : AmoOp) (sz64 : Bool) (sx : Bool) (sys : Bool)
  | dput (a b : SReg) (buf : Buf) (n : BitVec 16)
  | dget (a b : SReg) (n : BitVec 16)
  | wstart (a b : SReg) (q : QueueIx)
  | wstop
  | qsend (a b : SReg) (q : QueueIx) (eos : Bool)
  | qrecv (d : SReg) (q : QueueIx)
  | launch (a : SReg)
  | signal (a b : SReg) (msi : Bool) (vec : BitVec 11)
  | fill (a b : SReg) (e : Bool) (buf : Buf) (at_ n : BitVec 16)
  -- Woad walker (R160)
  | wld (d a : WReg) (i : BitVec 18)
  | wldp (d a : WReg) (i : BitVec 18)
  | wadd (d a b : WReg)
  | waddi (d a : WReg) (i : BitVec 18)
  | wsub (d a b : WReg)
  | wshli (d a : WReg) (k : Fin 64)
  | wshri (d a : WReg) (k : Fin 64)
  | wand (d a b : WReg)
  | wli (d : WReg) (i : BitVec 18)
  | wbeq (a b : WReg) (i : BitVec 14)
  | wbne (a b : WReg) (i : BitVec 14)
  | wblt (a b : WReg) (i : BitVec 14)
  | wj (i : BitVec 18)
  | wloop (d : WReg) (i : BitVec 18)
  | wemit (a b : WReg)
  | wemitz (t : TileIx)
  | wtile (a b : WReg) (fmt : BitVec 5) (first : Bool) (t : TileIx)
  | wgetc (d : WReg) (n : BitVec 14)
  | wsetc (a : WReg) (n : BitVec 14)
  | wgath (d a b : WReg)
  | wflush
  | weos
  | whalt
  -- Events: c is a context key CORE.ID·4 + CTX.ID, k an index into a queue of the state
  | timedResultPerform (c k : Nat)
  | untimedOperationPerform (c k : Nat)
  | waitCompletion (c : Nat)
  | taskEndComplete (c : Nat)
  | handOver (core : Nat)
  | lowPriorityPromotion (c : Nat)
  | runOverrun (c : Nat)
  | csyncRelease (c : Nat)
  | barrierArrivalCount (c k : Nat)
  | waitmPoll (c : Nat)
  | waitmTimeout (c : Nat)
  | allowanceApply (k : Nat)
  | trapEntry (c : Nat)
  | rteResume (c : Nat)
  | timerInterrupt (c : Nat)
  | freezeBoundary (c : Nat)
  | thaw (c : Nat)
  | codeFetchMiss (c : Nat)
  | codeFetchArrival (c : Nat)
  | timedPageFault (c k : Nat)
  | translationResolved (c k : Nat)
  | sideLogRetry (core : Nat)
  | copyLineLand (c k : Nat)
  | copymFollowOnStart (c k : Nat)
  | mmaKgroupUpdate (c k : Nat)
  | xsendLineArrival (c k : Nat)
  | vnestStep (c k : Nat)
  | madderGatherReturn (c k : Nat)
  | mmagStart (c k : Nat)
  | mmasTokenTake (c k : Nat)
  | queueEntryEnter (clus q : Nat)
  | walkStart (clus : Nat)
  | walkResume (clus : Nat)
  | wtileOpen (clus : Nat)
  | walkerTokenEnqueue (clus : Nat)
  | launchPortWrite (fn off : Nat) (bytes : List Byte)
  | nodeAdmission (fn : Nat)
  | nodeReady (fn n : Nat)
  | gangPlacement (fn n : Nat) (place : List Nat)
  | regionMigrationComplete (region stack : Nat)
  | preemptionTimeout (fn n : Nat)
  | nodeCommit (fn n : Nat)
  | nodeRollback (fn n : Nat) (own : Bool)
  | redundantCompare (fn n task : Nat)
  | qctlTd (fn : Nat)
  | qctlRst (fn : Nat)
  | registerWrite (fn off : Nat) (v : W64)
  | hostWindowWrite (fn off : Nat) (bytes : List Byte)
  | hostWindowRead (fn off len : Nat)
  | regionCreate (fn : Nat)
  | regionFree (fn : Nat)
  | regionDma (fn : Nat)
  | kernelLoad (fn : Nat)
  | faultRead (fn : Nat)
  | ctxControl (fn : Nat)
  | attest (fn : Nat)
  | healthRead (fn : Nat)
  | journalRead (fn : Nat)
  | tenantCreate (fn : Nat)
  | tenantDestroy (fn : Nat)
  | setAllowCmd (fn : Nat)
  | sealSet (fn : Nat)
  | healthLogRead (fn : Nat)
  | powerSet (fn : Nat)
  | telemetry (fn : Nat)
  | imageWrite (fn : Nat)
  | functionLevelReset (fn : Nat)
  | fbpop (die : Nat)
  | pgreqEvict (c : Nat) (v : W64)
  | pgreqMigrate (c : Nat) (v : W64)
  | dataFlit (port : Nat) (f : Flit)
  | ackFlit (port : Nat) (ack : BitVec 12)
  | nak (port : Nat) (good : BitVec 12)
  | widthMarkerFlit (port : Nat) (width : Fin 4)
  | laneFault (port : Nat) (lane : Fin 8)
  | laneRetest (port : Nat) (passed : BitVec 8)
  | retrainComplete (port : Nat) (peer : Fin 256)
  | noPathTimeout (dest : Fin 128)
  | droopTrip (clus : Nat)
  | droopRelease
  | brownOut (mv : Nat)
  | brownOutRecovery
  | powerLoss
  | boot
  | clusterRetentionExit (clus : Nat) (parityOk : Bool)
  | scrubUncorrectable (line : Nat)
  | clusterRetire (clus cause : Nat)
  | wearCrossing (clus : Nat) (percent : Nat)
  | healthStateChange
deriving DecidableEq, Repr

end Sys2Proof
end

