-- ==== Sys2Proof/Config.lean ====
section
/-! DEFINITION. What one JX880-A12 fixes (R5, R7, R8) and the free values of the spec: constants without a body, so
that no proof can learn a number for them. -/

namespace Sys2Proof.Config

/-- Compute cores of the package (R5). -/
def cores : Nat := 384
/-- Logical clusters (R5). -/
def clusters : Nat := 96
/-- Dies (R5). -/
def dies : Nat := 4
/-- Number of the first system core, a numbering of the model (log 6). -/
def firstSystemCore : Nat := 384
/-- System cores (R5). -/
def systemCores : Nat := 8
/-- Bytes of one HBM stack, 48 GiB (R8, R88). -/
def hbmStack : Nat := 0xC_0000_0000
/-- End of HBM (R88). -/
def hbmEnd : Nat := 0x60_0000_0000
/-- Start of the durable tier (R88). -/
def durBase : Nat := 0x800_0000_0000
/-- End of the durable tier (R88). -/
def durEnd : Nat := 0x900_0000_0000
/-- Bytes of one durable stack (R88). -/
def durStack : Nat := 0x40_0000_0000
/-- Start of the host window (R88). -/
def hostBase : Nat := 0x1000_0000_0000
/-- End of the host window and of the physical space (R88). -/
def hostEnd : Nat := 0x2000_0000_0000
/-- Start of the configuration region, the top 1 GiB of durable stack 0 (R88). -/
def configBase : Nat := 0x83F_C000_0000
/-- Start of the journal of die 0 (R96). -/
def journalBase : Nat := 0x83F_FF00_0000
/-- Distance of the journals of two dies (R96). -/
def journalStep : Nat := 0x10_0000
/-- Base of Lemelo's supervisor code region in HBM (R186). PRESUMED: the spec gives no address (log 13). -/
def supervisorCode : Nat := 0x5F_F000_0000
/-- Length of Lemelo's supervisor code region. PRESUMED (log 13). -/
def supervisorCodeLen : Nat := 0x1000_0000

/-- The free values, each a function of a counter that the step reads and advances (log 3). -/
opaque freeWord : Nat → W64
/-- Free contents of one byte of storage. -/
opaque freeByte : Nat → Byte
/-- Free contents of a vector register. -/
opaque freeVector : Nat → VWord
/-- Free contents of one tile element. -/
opaque freeElement : Nat → BitVec 32
/-- Free choice among two outcomes the spec both allows. -/
opaque freeBool : Nat → Bool

/-- Which of the values that the spec allows a read sees (R87, R117): a function of the counter, the cycle and the place. -/
opaque freePick : Nat → Nat → Nat → Nat

/-- Which of the encodings within the bound a special function gives (R220): a fixed function of the operation, the
format code and the input bits. -/
opaque sfuResult : Nat → Nat → Nat → Nat
/-- What the shadow unit computes from where it, or the main unit, errs in one written lane (R70): none where neither does. -/
opaque shadowError : Nat → Option Nat
/-- Toggle energy measured for a cycle, at most the declared figure of its argument (R137). -/
opaque measuredEnergy : Nat → Nat → Nat
/-- The agent code of an agent to which R73 and its extensions give none (R30): 0 the command port, 1 the gather unit, 2 the
fabric and durable units. -/
opaque agentCode : Nat → Nat
/-- ML-DSA-44 verification of a record or image at an address (R368, R369). -/
opaque signatureValid : Nat → List Byte → Bool
/-- The bytes of the ML-DSA-44 signature of a digest with the device identity key, 2,420 of them (R370). -/
opaque signature : BitVec 256 → Nat → Byte
/-- The identity public key, 1,312 bytes (R370). -/
opaque identityKey : Nat → Byte
/-- Digest of the boot ROM (R370). -/
opaque romDigest : BitVec 256
/-- Does the trial of a unit pass: a self-test item (R353, R381), or the derivation of the identity key (R368)? -/
opaque passes : Nat → Bool
/-- Measured power in µW, before the bound of R372 (R377). -/
opaque sensor : Nat → Nat → Nat
/-- Junction temperature of a cluster in °C (R376, R377). -/
opaque temperature : Nat → Nat → Nat
/-- Cycles for which the package is without power (R374). -/
opaque outage : Nat → Nat
/-- The SRAM rail in mV, which is fixed (R371). -/
def sramRail : Nat := 720

/-! ### Bodies of the configuration records

The spec gives the record's frame (R369) and not the layout of its bodies: what a body says is a fixed, unknown function
of its bytes. -/

/-- What a tenant policy gives one function (R311, R356). -/
structure Policy where
  cores    : List Nat
  grants   : List (Nat × Nat × Nat × Nat)
  hbmUnits : Nat
  durable  : List (Nat × Nat)
  host     : List (Nat × Nat)
  weights  : List Nat
  msix     : Nat
  tvec     : BitVec 64
  ptroot   : BitVec 64
deriving DecidableEq, Repr, Inhabited

/-- The tenants of a policy record, by function. -/
opaque policyOf : List Byte → List (Nat × Policy)
/-- What a domain record says (R366, R367): the package's own id, the ids of the packages of its domain, its (package, tenant, own
tenant) triples, and Lemelo's route table as (package, hash lane, port). -/
structure Domain where
  id       : Nat
  packages : List Nat
  triples  : List (Nat × Nat × Nat)
  routes   : List (Nat × Nat × Nat)
deriving DecidableEq, Repr, Inhabited

/-- The domain of a domain record. -/
opaque domainOf : List Byte → Domain
/-- CRC-64 of the bytes of a flit: the spec names no polynomial (R363). -/
opaque crc64 : List Byte → BitVec 64
/-- The trimmed logic voltage in mV that a trim record gives a cluster at a clock step in MHz (R371). -/
opaque trimmed : List Byte → Nat → Nat → Nat
/-- The lowest Lemelo VERSION of a version-floor record. -/
opaque versionFloor : List Byte → Nat
/-- The Lemelo image of slot A (0) or B (1) as a descriptor record places it: address, length, VERSION. -/
opaque imageSlot : List Byte → Nat → Nat × Nat × Nat

end Sys2Proof.Config
end

