-- ==== Sys2Proof/WellFormed.lean ====
section
/-! DEFINITION. Which instructions an encoding can name: the operand limits of the entries that the types of
Syntax.lean do not already carry (R161 step 3). An ill-formed term has no encoding; Decode.lean refuses its word. -/

namespace Sys2Proof

/-- Lane width in bits of a type (R212). -/
def Ty.width : Ty → Nat
  | .f32 | .i32 | .n32 => 32
  | .f16 | .bf16 | .i16 | .n16 => 16

/-- Lane count of a type (R212). -/
def Ty.lanes (t : Ty) : Nat := 2048 / t.width

/-- Is the type a floating type? (R147) -/
def Ty.isFloat : Ty → Bool
  | .f32 | .f16 | .bf16 => true
  | .i32 | .i16 | .n32 | .n16 => false

/-- Is the type a signed integer type? -/
def Ty.isSigned : Ty → Bool
  | .i32 | .i16 => true
  | _ => false

/-- Element width in bits of a format (R45). -/
def Fmt.bits : Fmt → Nat
  | .f32 | .i32 => 32
  | .f16 | .bf16 | .i16 | .n16 => 16
  | .e4m3 | .e5m2 | .e8m0 | .i8 | .n8 => 8
  | .e3m2 | .e2m3 => 6
  | .e2m1 | .i4 | .n4 => 4
  | .i2 => 2
  | .b1 | .n1 => 1

/-- Is the format a floating element format? E8M0 is a scale only (R47). -/
def Fmt.isFloat : Fmt → Bool
  | .f32 | .f16 | .bf16 | .e4m3 | .e5m2 | .e3m2 | .e2m3 | .e2m1 => true
  | _ => false

/-- Packed floating formats, codes 0x03–0x07 (R233). -/
def Fmt.packFloat : Fmt → Bool
  | .e4m3 | .e5m2 | .e3m2 | .e2m3 | .e2m1 => true
  | _ => false

/-- Packed signed formats I8, I4, I2, B1, codes 0x12–0x15 (R233). -/
def Fmt.packSigned : Fmt → Bool
  | .i8 | .i4 | .i2 | .b1 => true
  | _ => false

/-- Packed unsigned formats N8, N4, N1, codes 0x1A–0x1C (R233). -/
def Fmt.packUnsigned : Fmt → Bool
  | .n8 | .n4 | .n1 => true
  | _ => false

/-- A format that the unpacks and packs know at all (R233, R235). -/
def Fmt.packAny (f : Fmt) : Bool := f.packFloat || f.packSigned || f.packUnsigned

/-- Group size of a GRP field (R57, R233). -/
def groupSize (g : Fin 3) : Nat := 32 * 2 ^ g.val

/-- A part is legal when it fits the register (R231). -/
def partOk (f : Fmt) (part : Fin 16) (t : Ty) : Bool := (part.val + 1) * t.lanes * f.bits ≤ 2048

/-- Is the index a control register of R150? -/
def controlIndexOk (i : Nat) : Bool :=
  i ≤ 7 || (0x10 ≤ i && i ≤ 0x14) || (0x18 ≤ i && i ≤ 0x1C) || (0x20 ≤ i && i ≤ 0x23) ||
  (0x30 ≤ i && i ≤ 0x32) || (0x40 ≤ i && i ≤ 0x42) || i = 0x50 || i = 0x51 || i = 0x60 ||
  (0x70 ≤ i && i ≤ 0x7D) || (0x80 ≤ i && i ≤ 0x83) || i = 0x88 || i = 0x90 || i = 0xA0 ||
  (0x100 ≤ i && i ≤ 0x1FF)

/-- The type and format pairs of VUNPK (R233). -/
def unpkTypeOk (f : Fmt) (t : Ty) : Bool :=
  if f.packFloat then t.isFloat
  else if f.packSigned then t.isFloat || t.isSigned
  else true

/-- The type and format pairs of VPACK (R235). -/
def packTypeOk (f : Fmt) (t : Ty) : Bool := t.isFloat || !f.packFloat

/-- Steps of a VNEST nest (R229). -/
def NestArgs.steps (x : NestArgs) : Nat :=
  (x.l0.x.toNat + 1) * (x.l1.x.toNat + 1) * (x.l2.x.toNat + 1) * (x.l3.x.toNat + 1) * (x.l4.x.toNat + 1)

/-- A loop's displacement is positive (R167). -/
def loopDispOk (x : BitVec 13) : Bool := decide (0 < x.toInt)

/-- Size and extension of a load (R204). -/
def loadOk (sx : Bool) (sz : Sz) : Bool := !(sx && sz == .b8)

/-- Size and extension of an atomic (R204). -/
def amoOk (sx : Bool) (sz : Sz) : Bool := (sz == .b4) || (sz == .b8 && !sx)

/-- Scope of a global atomic (R204). -/
def amoScopeOk (sc : Scope) : Bool := sc != .dur

/-- The formats of TDRAIN and TLOAD, and the even row count of I8 (R259). -/
def drainOk (f : Fmt) (rows : BitVec 8) : Bool :=
  (f == .f32 || f == .f16 || f == .bf16 || f == .i32 || f == .i16 || f == .i8) &&
  rows.toNat ≤ 128 && !(f == .i8 && rows.toNat % 2 == 1)

/-- A count of at least one (R264). -/
def countOk (n : BitVec 16) : Bool := n != 0

/-- Well-formed instructions: those that some word of the spec's encoding names. -/
def Instr.wf : Instr → Bool
  | .loop _ _ x => loopDispOk x
  | .loopp _ _ x _ => loopDispOk x
  | .sloop _ p x => loopDispOk x && p != 0
  | .getc _ i => controlIndexOk i.toNat
  | .setc _ i => controlIndexOk i.toNat
  | .trap imm => imm.toNat < 262144
  | .setallow a _ n => n || a == 0
  | .setallowMode a _ n => n || a == 0
  | .exts _ _ pos len1 => pos.val + len1.val + 1 ≤ 64
  | .extz _ _ pos len1 => pos.val + len1.val + 1 ≤ 64
  | .ins _ _ pos len1 => pos.val + len1.val + 1 ≤ 64
  | .ld _ _ _ sx sz => loadOk sx sz
  | .ldg _ _ _ sx sz => loadOk sx sz
  | .amoaddDm _ _ _ sx sz | .amominDm _ _ _ sx sz | .amomaxDm _ _ _ sx sz | .amominnDm _ _ _ sx sz
  | .amomaxnDm _ _ _ sx sz | .amoandDm _ _ _ sx sz | .amoorDm _ _ _ sx sz | .amoxorDm _ _ _ sx sz
  | .amoswapDm _ _ _ sx sz | .amocasDm _ _ _ sx sz => amoOk sx sz
  | .amoaddGlobal _ _ _ sc sx sz | .amominGlobal _ _ _ sc sx sz | .amomaxGlobal _ _ _ sc sx sz
  | .amominnGlobal _ _ _ sc sx sz | .amomaxnGlobal _ _ _ sc sx sz | .amoandGlobal _ _ _ sc sx sz
  | .amoorGlobal _ _ _ sc sx sz | .amoxorGlobal _ _ _ sc sx sz | .amoswapGlobal _ _ _ sc sx sz
  | .amocasGlobal _ _ _ sc sx sz => amoOk sx sz && amoScopeOk sc
  | .vabs _ _ _ t => t.isFloat || t.isSigned
  | .vneg _ _ _ t => t.isFloat || t.isSigned
  | .vshl _ _ _ _ t | .vshr _ _ _ _ t | .vsar _ _ _ _ t | .vmulh _ _ _ _ t => !t.isFloat
  | .viota _ _ _ _ t => !t.isFloat
  | .vscale _ _ _ _ t => t.isFloat
  | .vclass _ _ _ _ t => t.isFloat
  | .vcvt _ _ _ t x => x.dt != t && !(x.hi && t.width == x.dt.width)
  | .vrcp _ _ _ t | .vrsq _ _ _ t | .vsqrt _ _ _ t | .vexp2 _ _ _ t | .vlog2 _ _ _ t | .vtanh _ _ _ t
  | .vsin _ _ _ t => t.isFloat
  | .vred _ _ op _ t => !t.isFloat || op == .add || op == .max || op == .min
  | .vscan _ _ op _ _ t => !t.isFloat || op == .add || op == .max || op == .min
  | .vzip d _ _ _ _ => d.val % 2 == 0
  | .vunzip d _ _ _ _ => d.val % 2 == 0
  | .vtopk d _ k _ _ t => d.val % 2 == 0 && 1 ≤ k.toNat && k.toNat ≤ t.lanes
  | .vhacc _ _ _ t x => (t == .f32 || t == .i32) && 4 ≤ x.lgn.val && !(x.op == .cnt && t == .f32)
  | .vnest x => x.bufD != .wb && x.bufD != .dm && x.bufA != .dm && x.bufB != .dm && x.steps ≤ 65536
  | .vunpk _ _ _ t x =>
      x.fmt.packAny && partOk x.fmt x.part t && x.rm == .vmode && x.ov == .sat &&
      !(x.fmt.packFloat && x.grp != 0) && unpkTypeOk x.fmt t
  | .vunpks _ _ _ _ t x =>
      x.fmt.packAny && partOk x.fmt x.part t && !(x.fmt.packFloat && x.grp != 0) && t.isFloat
  | .vunpkz _ _ _ _ t x =>
      partOk x.fmt x.part t && (x.fmt == .n8 || x.fmt == .n4) && t.isFloat
  | .vpack _ _ _ t x => x.fmt.packAny && partOk x.fmt x.part t && x.grp == 0 && packTypeOk x.fmt t
  | .vpacksc d _ _ t x =>
      x.fmt.packFloat && partOk x.fmt x.part t && x.grp == 0 && t.isFloat && d.val % 2 == 0
  | .vpackz d _ _ t x =>
      (x.fmt == .n8 || x.fmt == .n4) && partOk x.fmt x.part t && groupSize x.grp ≤ t.lanes && t.isFloat &&
      d.val % 2 == 0
  | .mma _ ga gb _ nk => ga != gb && countOk nk
  | .mmaz _ ga gb _ nk => ga != gb && countOk nk
  | .tdrain _ _ _ f _ _ rows => drainOk f rows
  | .tload _ _ f _ rows => drainOk f rows
  | .copy d _ _ _ _ out map _ n => countOk n && !(map && out) && (map || d == 0)
  | .copym _ _ _ _ _ _ _ n => countOk n
  | .gather _ _ _ _ _ _ n => countOk n
  | .scatter _ _ _ _ _ _ n => countOk n
  | .xsend _ _ _ _ n | .xrecv _ _ _ _ n => countOk n
  | .fput _ _ _ n | .fget _ _ _ n => countOk n
  | .fatom _ _ _ _ sz64 sx _ => !(sz64 && sx)
  | .dput _ _ _ n => countOk n
  | .dget _ _ n => countOk n
  | .signal _ _ msi vec => msi || vec == 0
  | .fill _ _ _ _ _ n => countOk n
  | _ => true

/-- The events: rows of the table that no word encodes (95_what_each_step_holds). -/
def Instr.isEvent : Instr → Bool
  | .timedResultPerform .. | .untimedOperationPerform .. | .waitCompletion .. | .taskEndComplete ..
  | .handOver .. | .lowPriorityPromotion .. | .runOverrun .. | .csyncRelease .. | .barrierArrivalCount ..
  | .waitmPoll .. | .waitmTimeout .. | .allowanceApply .. | .trapEntry .. | .rteResume ..
  | .timerInterrupt .. | .freezeBoundary .. | .thaw .. | .codeFetchMiss .. | .codeFetchArrival ..
  | .timedPageFault .. | .translationResolved .. | .sideLogRetry .. | .copyLineLand ..
  | .copymFollowOnStart .. | .mmaKgroupUpdate .. | .xsendLineArrival .. | .vnestStep ..
  | .madderGatherReturn .. | .mmagStart .. | .mmasTokenTake .. | .queueEntryEnter .. | .walkStart ..
  | .walkResume .. | .wtileOpen .. | .walkerTokenEnqueue .. | .launchPortWrite .. | .nodeAdmission ..
  | .nodeReady .. | .gangPlacement .. | .regionMigrationComplete .. | .preemptionTimeout ..
  | .nodeCommit .. | .nodeRollback .. | .redundantCompare .. | .qctlTd .. | .qctlRst ..
  | .registerWrite .. | .hostWindowWrite .. | .hostWindowRead .. | .regionCreate .. | .regionFree ..
  | .regionDma .. | .kernelLoad .. | .faultRead .. | .ctxControl .. | .attest .. | .healthRead ..
  | .journalRead .. | .tenantCreate .. | .tenantDestroy .. | .setAllowCmd .. | .sealSet ..
  | .healthLogRead .. | .powerSet .. | .telemetry .. | .imageWrite .. | .functionLevelReset ..
  | .fbpop .. | .pgreqEvict .. | .pgreqMigrate .. | .dataFlit .. | .ackFlit .. | .nak ..
  | .widthMarkerFlit .. | .laneFault .. | .laneRetest .. | .retrainComplete .. | .noPathTimeout ..
  | .droopTrip .. | .droopRelease | .brownOut .. | .brownOutRecovery | .powerLoss | .boot
  | .clusterRetentionExit .. | .scrubUncorrectable .. | .clusterRetire .. | .wearCrossing ..
  | .healthStateChange => true
  | _ => false

end Sys2Proof
end

