-- ==== Sys2Proof/Machine/State.lean ====
section
/-! DEFINITION. The state of the JX880 as plain data: contexts, cores, clusters, dies, tenants, memories, and what is in
flight between them. Every piece of state the spec names has a field here (INVENTORY.md lists them). -/

namespace Sys2Proof.Machine

/-- Memory: (address, byte) pairs, addresses rising, no byte 0; an unlisted address reads 0 (log 1). -/
abbrev Memory := List Host.Cell

/-- Sparse table by number, numbers rising; a missing entry is the default of its kind. -/
abbrev Table (α : Type) := List (Nat × α)

/-- Entry `k` of a table. -/
def Table.get {α : Type} (t : Table α) (k : Nat) (default : α) : α :=
  match t with
  | [] => default
  | (k', v) :: r => if k = k' then v else Table.get r k default

/-- The table with entry `k` set. -/
def Table.put {α : Type} (t : Table α) (k : Nat) (v : α) : Table α :=
  match t with
  | [] => [(k, v)]
  | (k', v') :: r =>
    if k = k' then (k, v) :: r else if k < k' then (k, v) :: (k', v') :: r else (k', v') :: Table.put r k v

/-- User or supervisor mode (R185). -/
inductive Mode where
  | user | supervisor
deriving DecidableEq, Repr

/-- Kinds of hardware loops (R167). -/
inductive LoopKind where
  | loop | loopp | sloop
deriving DecidableEq, Repr

/-- An entry of the loop stack (R167). -/
structure LoopEntry where
  kind   : LoopKind
  lc     : Fin 4
  start  : W64
  stop   : W64
  trip   : W64
  stages : Nat
  queue  : Nat
  pred   : PReg
deriving DecidableEq, Repr

/-- A pending redirect: target and delay bundles still to issue (R42). -/
structure Redirect where
  target : W64
  left   : Nat
  /-- whether loop entries that exclude the target pop as control goes there (R167, log 35) -/
  pops   : Bool
deriving DecidableEq, Repr

/-- A write of one register (R102): vectors and stream registers carry a bit mask of what is written. -/
inductive RegWrite where
  | s  (r : SReg) (x : W64)
  | v  (r : VReg) (mask x : VWord)
  | p  (r : PReg) (x : PWord)
  | g  (r : GReg) (mask x : GWord)
  | cr (i : Nat) (x : W64)
deriving DecidableEq, Repr

/-- A buffer line range in flight to or from an engine (R73): buffer and byte offset in the partition. -/
structure Place where
  buf : Buf
  off : Nat
deriving DecidableEq, Repr

/-- The latched operands of an MMA-class run (R251, R254). -/
structure MmaRun where
  tile  : TileIx
  prec  : BitVec 32
  rows  : Nat
  cols  : Nat
  ga    : GWord
  gb    : GWord
  padm  : W64
  start : Int
  nk    : Nat
  zero  : Bool
  missed : Bool
deriving DecidableEq, Repr

/-- A copy command (R266–R271): `stride` is the grant interval, `half` the half-latency h, `map` the 64-byte copy map. -/
structure CopyRun where
  engine : Nat
  place  : Place
  out    : Bool
  vaddr  : Nat
  lines  : Nat
  start  : Int
  stride : Nat
  half   : Nat
  map    : Option GWord
  src    : List Nat
  dest   : Nat
  missed : Bool
deriving DecidableEq, Repr

/-- What a timed effect in flight does next (R29). -/
inductive Act where
  /-- a register result with the flags it raises (R54) and, for a floating result, slot and type for R70 -/
  | result (w : RegWrite) (flags : BitVec 5) (shadow : Option (Nat × Ty))
  /-- the end of a slot's occupancy (R164) -/
  | occupy (slot : Nat)
  | dmRead (d : SReg) (addr size : Nat) (sx : Bool)
  | dmWrite (addr : Nat) (bytes : List Byte)
  | dmAtomic (d : SReg) (op : AmoOp) (addr size : Nat) (sx : Bool) (v c : W64)
  | vmRead (d : VReg) (buf : Buf) (cells : List (Nat × Nat))
  | vmWrite (buf : Buf) (cells : List (Nat × Byte))
  | gRead (d : GReg) (addr : Nat)
  | bselRead (v : BitVec 32) (addr : Nat)
  | pcommitRead (vaddr addr : Nat)
  | launchRead (addr : Nat)
  | barInit (index : Nat) (count : BitVec 16)
  | mmaRead (run : MmaRun) (group : Nat) (k : Nat) (opsA opsB : Memory) (badA badB : List Nat)
  | mmaUpdate (run : MmaRun) (group : Nat) (opsA opsB : Memory) (badA badB : List Nat)
  | drain (tile : TileIx) (fmt : Fmt) (rm : Nat) (ov : Ovf) (isInt : Bool) (base rows line : Nat) (missed : Bool)
  | drainWrite (tile : TileIx) (off : Nat) (data : Memory)
  | tloadRead (tile : TileIx) (fmt : Fmt) (base rows line : Nat) (missed : Bool)
  | tloadWrite (tile : TileIx) (fmt : Fmt) (rows line : Nat) (data : Memory) (bad : Bool)
  | tclr (tile : TileIx)
  | tmask (tile : TileIx) (rows cols : Nat)
  | clampClear (tile : TileIx)
  | copySample (run : CopyRun) (line : Nat)
  | copySource (run : CopyRun) (line : Nat)
  | copyLand (run : CopyRun) (line : Nat) (data : Memory) (bad : Bool)
  | copyPerform (run : CopyRun) (line : Nat) (data : Memory) (bad : Bool)
  | mapGather (run : CopyRun) (line : Nat) (held : Memory) (bad : Bool)
  | mapLand (run : CopyRun) (line : Nat) (held : Memory) (bad : Bool)
  | fill (run : CopyRun) (pattern : W64) (line : Nat)
  | sendRead (dest : Nat) (place : Place) (lines line x : Nat) (missed : Bool)
  /-- a line on its way to a receiver; `line` is where the run starts at the sender -/
  | sendLand (dest : Nat) (line : Nat) (data : Memory) (bad : List Nat)
  | recv (src : Nat) (place : Place) (lines : Nat) (start : Int)
  | nestStep (x : NestArgs) (slot : Nat) (mask : PWord) (rm : Nat) (n : Nat)
  | nestWrite (x : NestArgs) (slot : Nat) (mask : PWord) (line : Nat) (data : VWord) (flags : BitVec 5) (bad : Bool)
deriving DecidableEq, Repr

/-- A timed effect in flight: order of issue, TTC of its next effect, and the register results it will still write
as (file, index, TTC) with the file coding of R102. -/
structure Flight where
  seq : Nat
  due : Nat
  act : Act
  res : List (Nat × Nat × Nat)
deriving DecidableEq, Repr

/-- Where an untimed register result goes and how it is extended (R30). -/
structure Result where
  reg  : SReg
  x    : Option W64
deriving DecidableEq, Repr

/-- What an untimed operation does (R28). Addresses are device virtual addresses. -/
inductive Job where
  | load (vaddr size : Nat) (sx : Bool)
  | store (vaddr : Nat) (bytes : List Byte)
  | atomic (op : AmoOp) (vaddr size : Nat) (sx : Bool) (v c : W64) (sc : Scope)
  | gather (vaddr size : Nat) (idx : List Nat) (place : Place)
  | scatter (vaddr size : Nat) (idx : List Nat) (place : Place)
  | fput (vaddr : Nat) (place : Place) (lines : Nat)
  | fget (vaddr : Nat) (place : Place) (lines : Nat)
  | dput (vaddr : Nat) (place : Place) (pieces : Nat)
  | dget (vaddr : Nat) (place : Place) (pieces : Nat)
  | record (vaddr : Nat) (bytes : List Byte)
  /-- the elements of a SCATTER that stand in the side log, and those that wait for room in it (R89) -/
  | replay (elements rest : List (Nat × List Byte))
  | walk
  | qsend (q : Nat) (eos : Bool) (dest : Nat) (x : W64)
  | qrecv (q : Nat)
  | mmag (ga gb : GWord) (padm : W64) (table : List W64)
  /-- `tiles` are named by tokens so far; `missed` says that it has raised missed operand (R104) -/
  | mmas (q : Nat) (ga gb : GWord) (padm : W64) (tiles : List Nat) (missed : Bool)
  /-- `slot` is 0 for V0, 1 for V1 (R70) -/
  | vhacc (t : Ty) (x : HaccArgs) (base : Nat) (keys vals : VWord) (act : PWord) (rm slot : Nat)
  | arrive (bar : Nat)
  | signal (vaddr : Nat) (bytes : List Byte) (msi : Option Nat)
  | fence (sc : Scope)
  | ctxsave (target paddr : Nat)
  | ctxload (target paddr : Nat)
  | gfreeze (target : Nat) (f : Nat)
  | tlbinv (k : TlbKind) (vaddr : W64) (tenant : Nat)
  | segload (target paddr : Nat)
  | message (dest : Nat) (bytes : List Byte)
  | pgreq (v : W64)
deriving DecidableEq, Repr

/-- An untimed operation of a context: whether it has performed, and in which GCC, whether it is under way elsewhere (a fabric transfer, an
entry at a full queue, an MMAG that has started), the result-buffer entry it fills, whether it waits for
everything before it (a scoped atomic) and everything after waits for it, its 64-byte lines, pending buffer lines, and
whether it sits in a held unit or side log (R30, R89, R111). -/
structure Untimed where
  seq     : Nat
  job     : Job
  done    : Bool
  sent    : Bool
  result  : Option Result
  ordered : Bool
  lines   : List Nat
  pending : List Place
  held    : Option Nat
  /-- a fault to be raised at the boundary after the draining wait (R187) -/
  fault   : Option (Nat × W64)
  at_     : Nat
  /-- causes of the second row of R187 found while the handler of its program runs (R191) -/
  late    : List (Nat × W64)
  /-- GCC at which it entered its unit's side log (R351) -/
  loggedAt : Option Nat
deriving DecidableEq, Repr

/-- What a wait waits for (R31). -/
inductive WaitKind where
  | waite
  | waitq (q : Nat)
  | waitm (d : SReg) (vaddr : Nat) (b : W64) (cc : Cmp) (w32 : Bool) (deadline : Option Nat) (hit : Option Bool)
  | barwait (bar : Nat) (phase : BitVec 16)
  | csync (arrival : Nat)
  | pbar
  | pcommit
  | yield
  | endTask
  | rte
  | resumeAt (r : Nat)
deriving DecidableEq, Repr

/-- A wait in progress: its kind, the GCC of its issue, and the bundle that holds it (R31, R187). -/
structure Wait where
  kind : WaitKind
  at_  : Nat
  pc   : W64
deriving DecidableEq, Repr

/-- A snapshot entry (R190): the flight, its DELAY, and a fault found while it waited (R191). -/
structure SnapEntry where
  flight : Flight
  delay  : Nat
  fault  : Option (Nat × W64)
deriving DecidableEq, Repr

/-- Freeze reasons (R341). -/
inductive FreezeMark where
  | pre | pf | hu | fe | lk | trp | dbl
deriving DecidableEq, Repr

/-- A freeze: its GCC F, the reasons still set, and the earliest thaw GCC (R341, R342). -/
structure Freeze where
  f     : Nat
  marks : List FreezeMark
  soon  : Nat
deriving DecidableEq, Repr

/-- One segment entry in four words (R86). -/
structure Segment where
  w0 : W64
  w1 : W64
  w2 : W64
  w3 : W64
deriving DecidableEq, Repr

/-- Four sizes or bases, one per typed buffer (R72). -/
structure Quad where
  wb : Nat
  ab : Nat
  cb : Nat
  dm : Nat
deriving DecidableEq, Repr

/-- The task a context runs: what the launch unit set at its placement (R72, R85, R312, R384). -/
structure Task where
  tenant  : Nat
  node    : Nat
  serial  : Nat
  kdesc   : Nat
  /-- physical base of the code image, its length, and the offset of the entry bundle in it -/
  code    : Nat
  codeLen : Nat
  entry   : Nat
  woad    : Nat
  woadLen : Nat
  tid     : List Nat
  text    : List Nat
  gang    : List Nat
  prio    : Nat
  spec    : Bool
  redundant : Bool
  twin    : Bool
  runlen  : Nat
  aclass  : Nat
  carry   : Nat
  half    : Nat
  grant   : Nat
  sync    : Bool
  tiles   : BitVec 4
  base    : Quad
  size    : Quad
  segs    : List Segment
deriving DecidableEq, Repr

/-- A context (R7, "Register files and control registers", R150): its registers, control state, and all it has in
flight. `task = none` is a free context. -/
structure Ctx where
  task    : Option Task
  mode    : Mode
  pc      : W64
  ttc     : Nat
  s       : Vector W64 64
  v       : Vector VWord 32
  p       : Vector PWord 16
  g       : Vector GWord 16
  prec    : Vector (BitVec 32) 4
  heapBase : W64
  heapLim : W64
  heapOff : W64
  vmode   : BitVec 2
  vflags  : BitVec 5
  /-- VFLAGS as GETC reads it: without the flags of results that perform in this cycle (R54) -/
  flagsSeen : BitVec 5
  padm    : W64
  tvec    : W64
  tcause  : BitVec 8
  tpc     : W64
  tval    : W64
  tframe  : W64
  tstate  : BitVec 16
  trtgt   : W64
  trttc   : W64
  winlog  : Vector (BitVec 24) 8
  lc      : Vector W64 4
  sp      : BitVec 8
  mask    : List PWord
  hstat   : W64
  loops   : List LoopEntry
  redirect : Option Redirect
  /-- whether the redirect that a trap saved pops loop entries, for RTE (R192) -/
  heldPops : Bool
  /-- requests of the bundle that issues, taken over after its last operation: a taken branch -/
  branch  : Option Redirect
  /-- the next bundle after a loop instruction with trip 0 (R168) -/
  skip    : Option W64
  /-- the mask stack from the next bundle onward (R43) -/
  maskNext : Option (List PWord)
  /-- loop-state updates of the bundle's loop instruction, in flight behind its other results (R302) -/
  loopState : List (Nat × W64)
  /-- cycles still to idle (R173, R131, R132) -/
  idle    : Nat
  wait    : Option Wait
  /-- the wait in which a trap was taken, for RTE (R192, R194) -/
  heldWait : Option Wait
  /-- GCC of the HALT that stopped the context (R195) -/
  halted  : Option Nat
  /-- GCC at which the next bundle may issue (R185, R33, R192) -/
  resume  : Nat
  seq     : Nat
  /-- `seq` at the start of this cycle: effects numbered below it were issued in earlier cycles (R104) -/
  seqMark : Nat
  flights : List Flight
  untimed : List Untimed
  snap    : List SnapEntry
  snapU   : List Untimed
  frameGcc : Nat
  /-- TFRAME at the entry, where the frame stands (R189, R304) -/
  frameAt : Nat
  /-- the operations whose descriptors the frame holds, by `seq`, in its order (R190, R302) -/
  frameOrder : List Nat
  /-- causes to be taken at the boundary of this cycle, and those held for the resumption (R187) -/
  causes  : List (Nat × W64)
  heldCauses : List (Nat × W64)
  irq     : BitVec 3
  group   : List Nat
  freeze  : Option Freeze
  preAt   : Option Nat
  readyAt : Option Nat
  /-- ready for 2^20 cycles: high priority at the next hand-over (R22) -/
  promoted : Bool
  started : Nat
  /-- cycles its code has held the width since its last origin besides CSYNC's (R23) -/
  ran     : Nat
  lastPersist : Option Nat
  missing : Option W64
deriving DecidableEq, Repr

/-- A reservation interval (R126) in GCC: start, end (none while open until the wait of context `ctx`), draw, and the
GCC at which a trap or freeze paused it (R130). -/
structure Interval where
  ctx   : Nat
  start : Nat
  stop  : Option Nat
  draw  : Nat
  paused : Option Nat
deriving DecidableEq, Repr

/-- A posted allowance or mode (R136). -/
structure Post where
  core  : Nat
  posted : Nat
  isMode : Bool
  value : W64
deriving DecidableEq, Repr

/-- An accumulator tile (R7, R263, R384): 128 × 128 elements of four bytes, element (m, n) at byte 4·(128 m + n). -/
structure Tile where
  mem    : Memory
  rows   : Nat
  cols   : Nat
  clamp  : Bool
  poison : Bool
deriving DecidableEq, Repr

/-- A named barrier (R178). -/
structure Barrier where
  count : BitVec 16
  arr   : BitVec 16
  phase : BitVec 16
deriving DecidableEq, Repr

/-- A core: who holds the issue width, its buffers, tiles, barriers and energy state (R7, R21, R126, R129, R178). -/
structure CoreState where
  width   : Option (Fin 4)
  last    : Fin 4
  incoming : Option (Fin 4)
  handCycles : Nat
  /-- padding cycles of the hand-over so far (R132) -/
  padded  : Nat
  wb : Memory
  ab : Memory
  cb : Memory
  dm : Memory
  /-- byte addresses whose parity fails (R78), by buffer code -/
  parity  : List (Nat × Nat)
  /-- bytes written in this cycle as they were before it: buffer code, byte address, byte (R99) -/
  written : List (Nat × Nat × Byte)
  tiles   : Vector Tile 4
  /-- the tiles as they were before this cycle, once untimed work has written one (R99) -/
  tilesWere : Option (Vector Tile 4)
  barriers : Table Barrier
  resv    : List Interval
  /-- declared weight and E(c) of the last eight cycles, latest first (R122) -/
  window  : List (Nat × Nat)
  weight  : Nat
  /-- architected weight of the vector unit's operations of this cycle (R137) -/
  vweight : Nat
  target  : Nat
  value   : Nat
  strict  : Bool
  ecnt    : Vector W64 3
  /-- 64-byte blocks of code pinned in L1 as (physical block, tenant, node) (R91) -/
  pins    : List (Nat × Nat × Nat)
  /-- times of its shadow divergences (R70, R378) -/
  divergences : List Nat
  /-- system cores: PTSEL, PGREQ and its result, payloads received by MSGSEND (R195, R349) -/
  ptsel   : BitVec 4
  pgreq   : W64
  pgres   : Option (BitVec 2)
  messages : List (List Byte)
deriving DecidableEq, Repr

/-- A queue entry (R280): end of stream, addressee (core index · 4 + CTX.ID), payload; and the walk that emitted it, by the
number of its WSTART (R292). -/
structure QEntry where
  eos  : Bool
  dest : Nat
  x    : W64
  walk : Option Nat
deriving DecidableEq, Repr

/-- The open tile of a walk (R292): AB line offset, format code, token fields, and the runs covered so far. -/
structure OpenTile where
  line  : Nat
  fmt   : Nat
  first : Bool
  tile  : Nat
  kidx  : BitVec 32
  runs  : List Nat
deriving DecidableEq, Repr

/-- A walk (R285–R287, R300): issuing context, its UNTIMED sequence number, queue, offset and registers. -/
structure Walk where
  ctx    : Nat
  seq    : Nat
  queue  : Nat
  pc     : Nat
  w      : Vector W64 16
  wtok   : W64
  wpfc   : W64
  wpf    : W64
  tile   : Option OpenTile
  /-- a WTILE that waits for earlier tokens to be read (R292) -/
  waitTile : Option OpenTile
  ebuf   : List (Nat × Memory)
  /-- token waiting for room in the queue, and whether the walk ends with it (R286) -/
  pend   : Option (QEntry × Bool)
  held   : Option Nat
  /-- the reason of a fault that waits for room in the fault buffer, while the walk stands at its syllable (R340) -/
  late   : Option Nat
  stop   : Bool
  /-- whether it has begun to run, before a save too (R300) -/
  begun  : Bool
  /-- AB line ranges of tokens whose A lines MMAS has not all read (R292) -/
  busy   : List (Nat × Nat)
deriving DecidableEq, Repr

/-- A cluster: queues, walker, start queue, walker lines written and pending, translation cache, L2 pins, rail and wear
(R6, R280, R286, R298, R350, R371, R376). -/
structure ClusterState where
  queues  : Table (List QEntry)
  full    : Table (List (Nat × Nat × QEntry))
  walk    : Option Walk
  startQ  : List Walk
  walkLines : List (Nat × Nat × Nat)
  /-- the 16 KiB of walker program memory and its resident images: source address, base, length (R284) -/
  program : Memory
  images  : List (Nat × Nat × Nat)
  tlb     : List (Nat × Nat × W64)
  pins    : List (Nat × Nat × Nat)
  tripped : Option Nat
  /-- its wear counter in nanoseconds (R376) -/
  wear    : Nat
  quarantined : Bool
  spareUsed : Bool
  losses  : List Nat
  /-- a spare is to take its number once its contexts are saved (R378) -/
  swapping : Bool
  /-- in cluster retention: its clock is stopped, its rail at 0.54 V (R353, R371) -/
  retained : Bool
deriving DecidableEq, Repr

/-- A fault-buffer entry in four words (R338). -/
structure FaultEntry where
  w0 : W64
  w1 : W64
  w2 : W64
  w3 : W64
deriving DecidableEq, Repr

/-- A die: its fault buffer and held events, and its spares (R5, R339, R340). -/
structure DieState where
  faults : List FaultEntry
  held   : List FaultEntry
  ovf    : Bool
  spares : Nat
  /-- the scrubbers that a full buffer has paused, by the SUB of their reports (R340) -/
  scrubPaused : List Nat
deriving DecidableEq, Repr

/-- States of a node (R321). -/
inductive NodeState where
  | free | waiting | ready | running | committing | rollingBack | retired
deriving DecidableEq, Repr

/-- A staged effect of a node (R117, R120, R282, R283). A write of a paged segment keeps its page, which may move or go before the
commit (R283, R350); a fabric write, whether its data was poisoned (R353). -/
inductive Staged where
  | hostWrite (ctx seq : Nat) (paddr : Nat) (bytes : List Byte) (page : Option Nat)
  | msi (ctx seq : Nat) (vec : Nat)
  | launch (ctx seq : Nat) (record : GWord)
  | fabric (ctx seq : Nat) (pkg paddr : Nat) (bytes : List Byte) (bad : Bool)
deriving DecidableEq, Repr

/-- A write of a node to HBM that has not committed (R87): its number in the order of performance, its address, and the bytes before
and after. -/
structure Tentative where
  no     : Nat
  addr   : Nat
  before : List Byte
  after  : List Byte
deriving DecidableEq, Repr

/-- A node-table entry (R316, R318, R321): the launch record and descriptor as read at admission, dependences, tasks,
staged effects, and its writes to HBM (R87). -/
structure Node where
  state  : NodeState
  record : GWord
  desc   : Memory
  args   : Memory
  preds  : List Nat
  status : Nat
  rolls  : Nat
  ownRolls : Nat
  /-- its place in the order of R322: the number of its last turn, or of its becoming READY -/
  readyAt : Nat
  gangs  : List Nat
  running : List Nat
  segs   : List Segment
  heap   : W64 × W64 × W64
  migrating : List (Nat × Nat)
  /-- the dies of its D coordinates, chosen with the first gang (R324) -/
  dies : List (Nat × Nat)
  /-- the dies on which tasks of this run have run (R96) -/
  ranOn : List Nat
  /-- the unmapped page of its data table that Lemelo has been asked for (R385) -/
  asked : Option Nat
  staged : List Staged
  /-- its writes to HBM before its commit: address, the bytes before and the bytes written (R87) -/
  tentative : List Tentative
  /-- by task and copy: the writes that left its core, by order of issue (R354) -/
  digests : Table (List (Nat × List Byte))
  unplacedSince : Option Nat
  /-- the status with which Lemelo will end the node, 0 for none (R299, R336, R337) -/
  fate   : Nat
  /-- an error after which it rolls back has come (R299, R327, R336) -/
  mustRoll : Bool
  /-- its data table has been written for this run (R385) -/
  laid : Bool
  /-- tasks that have ended: context and GCC of the last persist point (R96, R310) -/
  past   : List (Nat × Option Nat)
deriving DecidableEq, Repr

/-- A region (R315): size in 64 KiB units, physical base. -/
structure Region where
  size  : Nat
  paddr : Nat
deriving DecidableEq, Repr

/-- An access through the device-memory window: its offset in BAR 2, its length or its bytes, and the window as it arrived (R358). -/
structure WinAccess where
  off    : Nat
  len    : Nat
  bytes  : Option (List Byte)
  en     : Bool
  region : Nat
  base   : Nat
deriving DecidableEq, Repr

/-- A tenant and its PCI Express function (R311, R317, R332–R335, R358, R360). -/
structure Tenant where
  live    : Bool
  cores   : List Nat
  /-- grants: (core, engine, stack, interval) (R80) -/
  grants  : List (Nat × Nat × Nat × Nat)
  /-- the cycle, modulo its interval, of each grant in the slot table (R80) -/
  slots   : List Nat
  hbmUnits : Nat
  durable : List (Nat × Nat)
  host    : List (Nat × Nat)
  weights : List Nat
  msix    : Nat
  tvec    : W64
  ptroot  : W64
  regions : Table Region
  stage   : Memory
  queue   : List GWord
  nodes   : Table Node
  alloc   : Nat
  en      : Bool
  tda     : Bool
  drop    : Nat
  bad     : Nat
  qserial : BitVec 32
  rollmax : BitVec 8
  pwait   : BitVec 20
  ntsel   : BitVec 10
  winEn   : Bool
  winRegion : BitVec 16
  winOff  : BitVec 24
  mbLost  : Bool
  mbIe    : Bool
  mbDone  : Bool
  mbBusy  : Bool
  req     : Memory
  rsp     : Memory
  /-- BAR 4: the MSI-X table and the vectors whose pending bits are set (R356) -/
  msixTable : Memory
  msixPending : List Nat
  /-- bytes of BAR 2 (R356) -/
  barSize : Nat
  /-- window accesses that wait for a migration, in order of arrival (R358, R359) -/
  winQueue : List WinAccess
  /-- by node: the context that its waiting gang pre-empts (R325) -/
  preempts : Table Nat
  /-- a function-level reset waits for the drained queue (R362) -/
  flr     : Bool
deriving DecidableEq, Repr

/-- A fabric transaction on its way out: destination, context and sequence number of the operation, and which 64-byte
piece of it (R366). -/
structure Outbound where
  dest : Nat
  ctx  : Nat
  seq  : Nat
  ix   : Nat
  tr   : Transaction
deriving DecidableEq, Repr

/-- An Abaing port (R363–R366). -/
structure Port where
  state    : Nat
  width    : Nat
  faulted  : BitVec 8
  peer     : Nat
  retrains : Nat
  crcerr   : W64
  replays  : W64
  txSeq    : BitVec 12
  rxSeq    : BitVec 12
  replay   : List (BitVec 12 × List Outbound)
  waiting  : List Outbound
  nakSent  : Bool
  markers  : List Nat
  /-- lanes in use (R365) -/
  lanes    : BitVec 8
  /-- the bytes of a transaction that goes on in the next flit (R363) -/
  rxPart   : List Byte
  /-- the fair queues (R367): the tag of the last transaction sent, and of the last of each tenant -/
  fairNow  : Nat
  fairTags : Table Nat
  /-- GCC since which the port is narrowed or down with faulted lanes (R379) -/
  since    : Option Nat
  /-- a self-test found the port bad (R381) -/
  bad      : Bool
deriving DecidableEq, Repr

/-- Whose write it is: a write over the fabric (R117) or a durable write of a node of this package (R94), with package,
tenant, and serial or NODE.ID. -/
structure Writer where
  fabric : Bool
  src    : Nat
  tenant : Nat
  node   : Nat
deriving DecidableEq, Repr

/-- One byte written while a write to it by a node that has not committed stands: by whom (none: committed, or what stood there
before), at which GCC, address and value (R94, R117). -/
structure OpenByte where
  by_  : Option Writer
  at_  : Nat
  addr : Nat
  byte : Byte
deriving DecidableEq, Repr

/-- A write whose writer has not committed and that no other reader's choice depends on: an atomic, or a write over the fabric. It bounds
what its own writer may read (R207): its number in the order of performance, its address and length. -/
structure OwnWrite where
  by_  : Writer
  no   : Nat
  addr : Nat
  len  : Nat
deriving DecidableEq, Repr

/-- A byte that the host wrote through the window while a live node named its region: what that node reads there is undefined
(R359). -/
structure Cloud where
  no     : Nat
  addr   : Nat
  tenant : Nat
  node   : Nat
  serial : Nat
deriving DecidableEq, Repr

/-- A context saved by the image engine (R325, R343): where it stood, the context whole, and its tiles, partitions,
reservations and walk. `handle` numbers the save. -/
structure Saved where
  handle : Nat
  key    : Nat
  ctx    : Ctx
  tiles  : List (Nat × Tile)
  parts  : List (Nat × Memory)
  resv   : List Interval
  walk   : Option Walk
  /-- AB lines pending under its walks, each with the number of the WSTART (R298) -/
  lines  : List (Nat × Nat)
deriving DecidableEq, Repr

/-- Phases of a cycle, in order (DESIGN CHOICE, log 4): the boundary before the cycle (traps, resumptions, thaws, wait
completions); register results; issue; bank arbitration; storage reads; storage writes; walkers and untimed work; the
end of the cycle (hand-over, counters). -/
inductive Phase where
  | start | regs | issue | arb | reads | writes | walk | boundary
deriving DecidableEq, Repr

/-- What bank arbitration refuses in this cycle (R73, R106): the reads or writes of a bank group of a core (for DM the
group is the port: 0 LS, 1 COPY), one write of a flight, or the tile elements of rows [r0, r1) and columns [c0, c1). -/
inductive Refused where
  | bank (core buf group : Nat) (write : Bool)
  | flight (ctx seq : Nat)
  | tile (ctx seq r0 r1 c0 c1 : Nat)
deriving DecidableEq, Repr

/-- The machine. -/
structure State where
  /-- events of the outside world, oldest first (R355–R367, R373–R383) -/
  inputs  : List Instr
  phase   : Phase
  /-- cores still to issue in this cycle, or work still to visit in its walk phase (log 4) -/
  agenda  : List Nat
  /-- the context that acts (core · 4 + index), the slot its operation stands in, the cluster whose walker acts -/
  cur     : Nat
  slot    : Slot
  walker  : Nat
  /-- cause and TVAL of the operation that faulted at issue, for the bundle that holds it (R161 step 7) -/
  issueFault : Option (Nat × W64)
  refused : List Refused
  /-- counter of the free values (the model's own field, log 3) -/
  fresh   : Nat
  gcc     : Nat
  ctxs    : Table Ctx
  cores   : Table CoreState
  clusters : Table ClusterState
  diesT   : Table DieState
  tenants : Table Tenant
  ports   : Table Port
  mem     : Memory
  /-- bytes of `mem` written in this cycle as they were before it (R99) -/
  written : List (Nat × Byte)
  /-- bytes whose value is undefined for a node (R359) -/
  clouded : List Cloud
  /-- writes that bound what their writers may read (R207) -/
  noted : List OwnWrite
  /-- 64-byte pieces of the lines that memory delivers uncorrectable (R353) -/
  marked  : List Nat
  posts   : List Post
  /-- bytes with writes of nodes that have not committed, in the order the writes were accepted (R94, R117) -/
  uncommitted : List OpenByte
  /-- bytes of HBM whose last write was a global atomic, which a rollback does not undo (R211) -/
  atomic  : List Nat
  routes  : List (Nat × Nat × Nat)
  domain  : List (Nat × Nat × Nat)
  /-- ids of the packages of the domain (R367) -/
  packages : List Nat
  applied : List (Nat × Nat × Nat)
  outbound : List Outbound
  /-- fabric reads and atomics whose response has not come (R363), and the next tag of each destination and lane (R366) -/
  awaiting : List Outbound
  tags : Table Nat
  admitNext : Nat
  /-- turns of the launch unit so far (R322) -/
  turns : Nat
  msixSent : List (Nat × Nat)
  /-- whose context entries the journals of the last power loss hold, by die: the journal itself does not say (R96, R361) -/
  journalOwners : Table (List Nat)
  /-- contexts saved by the image engine whose tasks wait to come back (R325, R343) -/
  saved   : List Saved
  /-- what the launch unit and the image engine keep for the images that CTXSAVE has written (R343, R347) -/
  images  : List Saved
  pkgId   : Nat
  clock   : Nat
  /-- the stretched A-clock while a droop detector has tripped, in MHz (R373) -/
  stretched : Option Nat
  /-- femtoseconds of the second in progress, after which every cluster wears (R376) -/
  elapsed : Nat
  /-- body of the trim record, as boot applied it (R368, R371) -/
  trims   : List Byte
  /-- cycles of earlier power-ups and outages: with GCC, the time in which 24 h are counted (R378, R379) -/
  era     : Nat
  /-- times of the latest 256 shadow divergences (R379) -/
  divLog  : List Nat
  bootStep : BitVec 8
  /-- items of the self-test that have completed (R381) -/
  testItem : Nat
  booted  : Bool
  measures : Vector (BitVec 256) 8
  bootCount : Nat
  sealed  : Bool
  sealNext : Bool
  pcap    : Nat
  ilim    : Nat
  brown   : Option Nat
  /-- contexts whose groups the brown-out froze, latest first (R375) -/
  brownFrozen : List Nat
  /-- HEALTH.STATE as last posted (R379, R380) -/
  health  : BitVec 2
  /-- what the last host read of a window returned (R358, R359) -/
  readData : List Byte
  /-- health log: next index and entries (R382) -/
  logNext : Nat
  healthLog : Table (List Byte)
deriving DecidableEq, Repr

/-- Why a step stops. -/
inductive Fault where
  /-- raised by `step` alone, when `inputs` holds a core or walker instruction: the outside world makes events only,
  so no run of the hardware has such a state. Safe. -/
  | notAnEvent
deriving DecidableEq, Repr

/-- Why a step has no meaning. -/
inductive Refusal where
  /-- an instruction not modelled yet: raised by an arm of Dispatch.lean. Safe. -/
  | notModelled (mnemonic : String)
deriving DecidableEq, Repr

/-- A context before any task: registers at 0 where the spec states no reset value (log 2), TEXT at 1 (R17), PREC at the
value of task start (R57). -/
def Ctx.reset : Ctx where
  task := none
  mode := .user
  pc := 0
  ttc := 0
  s := Vector.replicate 64 0
  v := Vector.replicate 32 0
  p := (Vector.replicate 16 0)
  g := Vector.replicate 16 0
  prec := Vector.replicate 4 0x4277
  heapBase := 0
  heapLim := 0
  heapOff := 0
  vmode := 0
  vflags := 0
  flagsSeen := 0
  padm := 0
  tvec := 0
  tcause := 0
  tpc := 0
  tval := 0
  tframe := 0
  tstate := 0
  trtgt := 0
  trttc := 0
  winlog := Vector.replicate 8 0
  lc := Vector.replicate 4 0
  sp := 0
  mask := []
  hstat := 0
  loops := []
  redirect := none
  heldPops := false
  branch := none
  skip := none
  maskNext := none
  loopState := []
  idle := 0
  wait := none
  heldWait := none
  halted := none
  resume := 0
  seq := 0
  seqMark := 0
  flights := []
  untimed := []
  snap := []
  snapU := []
  frameGcc := 0
  frameAt := 0
  frameOrder := []
  causes := []
  heldCauses := []
  irq := 0
  group := []
  freeze := none
  preAt := none
  readyAt := none
  promoted := false
  started := 0
  ran := 0
  lastPersist := none
  missing := none

/-- A tile with the whole window open (R263). -/
def Tile.reset : Tile := ⟨[], 128, 128, false, false⟩

/-- A core at reset: ALLOW.TARGET and VALUE 6,400, STRETCH, counters 0 (R129, R137). -/
def CoreState.reset : CoreState where
  width := none
  last := 3
  incoming := none
  handCycles := 0
  padded := 0
  wb := []
  ab := []
  cb := []
  dm := []
  parity := []
  written := []
  tiles := Vector.replicate 4 Tile.reset
  tilesWere := none
  barriers := []
  resv := []
  window := []
  weight := 0
  vweight := 0
  target := 6400
  value := 6400
  strict := false
  ecnt := Vector.replicate 3 0
  pins := []
  divergences := []
  ptsel := 0
  pgreq := 0
  pgres := none
  messages := []

/-- A cluster at reset. -/
def ClusterState.reset : ClusterState :=
  ⟨[], [], none, [], [], [], [], [], [], none, 0, false, false, [], false, false⟩

/-- A die at reset: empty fault buffer, two spare clusters (R5, R339). -/
def DieState.reset : DieState := ⟨[], [], false, 2, []⟩

/-- A node-table entry that is FREE (R321). -/
def Node.reset : Node where
  state := .free
  record := 0
  desc := []
  args := []
  preds := []
  status := 0
  rolls := 0
  ownRolls := 0
  readyAt := 0
  gangs := []
  running := []
  segs := []
  heap := (0, 0, 0)
  migrating := []
  dies := []
  ranOn := []
  asked := none
  staged := []
  tentative := []
  digests := []
  unplacedSince := none
  fate := 0
  mustRoll := false
  laid := false
  past := []

/-- A function whose tenant does not exist yet: queue registers at reset (R333, R334), 128 MiB BAR 2 (R356). -/
def Tenant.reset : Tenant where
  live := false
  cores := []
  grants := []
  slots := []
  hbmUnits := 0
  durable := []
  host := []
  weights := []
  msix := 64
  tvec := 0
  ptroot := 0
  regions := []
  stage := []
  queue := []
  nodes := []
  alloc := 0
  en := false
  tda := false
  drop := 0
  bad := 0
  qserial := 0
  rollmax := 4
  pwait := 50
  ntsel := 0
  winEn := false
  winRegion := 0
  winOff := 0
  mbLost := false
  mbIe := false
  mbDone := false
  mbBusy := false
  req := []
  rsp := []
  msixTable := []
  msixPending := []
  barSize := 0x800_0000
  winQueue := []
  preempts := []
  flr := false

/-- A port at reset: down, the status words 0 (R366). -/
def Port.reset : Port where
  state := 0
  width := 0
  faulted := 0
  peer := 0
  retrains := 0
  crcerr := 0
  replays := 0
  txSeq := 0
  rxSeq := 0
  replay := []
  waiting := []
  nakSent := false
  markers := []
  lanes := 0xFF
  rxPart := []
  fairNow := 0
  fairTags := []
  since := none
  bad := false

/-- The machine right after reset: nothing booted, no task placed, memory with nothing listed. -/
def State.reset : State where
  inputs := []
  phase := .start
  agenda := []
  cur := 0
  slot := .br
  walker := 0
  issueFault := none
  refused := []
  fresh := 0
  gcc := 0
  ctxs := []
  cores := []
  clusters := []
  diesT := []
  tenants := []
  ports := []
  mem := []
  written := []
  clouded := []
  noted := []
  marked := []
  posts := []
  uncommitted := []
  atomic := []
  routes := []
  domain := []
  packages := []
  applied := []
  outbound := []
  awaiting := []
  tags := []
  admitNext := 0
  turns := 0
  msixSent := []
  journalOwners := []
  saved := []
  images := []
  pkgId := 0
  clock := 700
  stretched := none
  elapsed := 0
  trims := []
  era := 0
  divLog := []
  bootStep := 0
  testItem := 0
  booted := false
  measures := Vector.replicate 8 0
  bootCount := 0
  sealed := false
  sealNext := false
  pcap := 3000
  ilim := 60
  brown := none
  brownFrozen := []
  health := 0
  readData := []
  logNext := 0
  healthLog := []

end Sys2Proof.Machine
end

