-- ==== Sys2Proof/Machine/Mem.lean ====
section
/-! DEFINITION. Operations over memory, the one place where its canonical form and the byte order live (R3, R99). -/

namespace Sys2Proof.Machine

/-- The canonical form: addresses strictly rising, no entry equal to what an unlisted address reads as. -/
abbrev Memory.wf (m : Memory) : Prop := m.Pairwise (fun x y => x.1 < y.1) ∧ ∀ c ∈ m, c.2 ≠ 0

/-- The byte at an address; an unlisted address reads 0 (log 1). -/
def memRead : Memory → Nat → Byte
  | [], _ => 0
  | c :: r, a => if c.1 = a then c.2 else memRead r a

/-- The memory without an entry for `a`. -/
def memErase (m : Memory) (a : Nat) : Memory := m.filter (fun c => c.1 != a)

/-- Insert an entry in address order. -/
def memInsert : Memory → Nat → Byte → Memory
  | [], a, b => [(a, b)]
  | c :: r, a, b => if a < c.1 then (a, b) :: c :: r else c :: memInsert r a b

/-- Write one byte, keeping the canonical form. -/
def memWrite (m : Memory) (a : Nat) (b : Byte) : Memory :=
  if b = 0 then memErase m a else memInsert (memErase m a) a b

/-- Write consecutive bytes. -/
def memWriteList (m : Memory) (a : Nat) : List Byte → Memory
  | [] => m
  | b :: r => memWriteList (memWrite m a b) (a + 1) r

/-- Read consecutive bytes. -/
def memReadList (m : Memory) (a n : Nat) : List Byte := (List.range n).map (fun i => memRead m (a + i))

/-- Little-endian number of a byte list (R3). -/
def natOfBytes : List Byte → Nat
  | [] => 0
  | b :: r => b.toNat + 256 * natOfBytes r

/-- Little-endian bytes of a number (R3). -/
def bytesOfNat : Nat → Nat → List Byte
  | 0, _ => []
  | n + 1, x => BitVec.ofNat 8 x :: bytesOfNat n (x / 256)

/-- Little-endian number of n bytes at an address (R3). -/
def memReadNat (m : Memory) (a n : Nat) : Nat := natOfBytes (memReadList m a n)

/-- Write n little-endian bytes of a number (R3). -/
def memWriteNat (m : Memory) (a n x : Nat) : Memory := memWriteList m a (bytesOfNat n x)

/-- The cells of [lo, lo + len), with addresses counted from lo. -/
def memSlice (m : Memory) (lo len : Nat) : Memory :=
  (m.filter (fun c => decide (lo ≤ c.1 ∧ c.1 < lo + len))).map (fun c => (c.1 - lo, c.2))

/-- Write the cells of a list, each at its address. -/
def memWriteCells (m : Memory) : Memory → Memory
  | [] => m
  | c :: r => memWriteCells (memWrite m c.1 c.2) r

/-- Make [lo, lo + len) read as the slice does. -/
def memPlace (m : Memory) (lo len : Nat) (sl : Memory) : Memory :=
  m.filter (fun c => decide (c.1 < lo)) ++
  memWriteCells [] ((sl.filter (fun c => decide (c.1 < len))).map (fun c => (lo + c.1, c.2))) ++
  m.filter (fun c => decide (lo + len ≤ c.1))

/-- Shift the addresses of a slice. -/
def memShift (m : Memory) (d : Nat) : Memory := m.map (fun c => (c.1 + d, c.2))

/-- A vector register from 256 bytes, byte 0 in bits [7:0] (R231). -/
def vecOfMem (m : Memory) : VWord :=
  BitVec.ofNat 2048 ((m.filter (fun c => decide (c.1 < 256))).foldl (fun x c => x + c.2.toNat * 2 ^ (8 * c.1)) 0)

/-- Byte k of a wide word. -/
def byteOf {n : Nat} (x : BitVec n) (k : Nat) : Byte := x.extractLsb' (8 * k) 8

/-- The 256 bytes of a vector register as a memory. -/
def memOfVec (x : VWord) : Memory := memWriteList [] 0 ((List.range 256).map (byteOf x))

/-- Free bytes of a slice, drawn from the counter `n` (log 3). -/
def freeSlice (n len : Nat) : Memory := memWriteList [] 0 ((List.range len).map (fun i => Config.freeByte (n + i)))

/-- The element of width `b` bits at index `j` of a run at byte 0 of a slice (R49). -/
def elementAt (m : Memory) (b j : Nat) : Nat :=
  match b with
  | 1 => fieldOf (memRead m (j / 8)).toNat (j % 8) 1
  | 2 => fieldOf (memRead m (j / 4)).toNat (2 * (j % 4)) 2
  | 4 => fieldOf (memRead m (j / 2)).toNat (4 * (j % 2)) 4
  | 6 => fieldOf (memReadNat m (3 * (j / 4)) 3) (6 * (j % 4)) 6
  | _ => memReadNat m (j * (b / 8)) (b / 8)

/-- First byte and byte count of element `j` of a run (R49). -/
def elementSpan (b j : Nat) : Nat × Nat :=
  match b with
  | 1 => (j / 8, 1)
  | 2 => (j / 4, 1)
  | 4 => (j / 2, 1)
  | 6 => (3 * (j / 4), 3)
  | _ => (j * (b / 8), b / 8)

/-- Set element `j` of a run (R49). -/
def setElement (m : Memory) (b j x : Nat) : Memory :=
  let (a, n) := elementSpan b j
  let lo := match b with
    | 1 => j % 8
    | 2 => 2 * (j % 4)
    | 4 => 4 * (j % 2)
    | 6 => 6 * (j % 4)
    | _ => 0
  let old := memReadNat m a n
  memWriteNat m a n (old - fieldOf old lo b * 2 ^ lo + x % 2 ^ b * 2 ^ lo)

end Sys2Proof.Machine
end

