-- ==== Sys2Proof/Machine/Num.lean ====
section
/-! DEFINITION. Exact numbers and the rounding of R45–R56: decoding a floating encoding, exact sums, products, quotients
and roots, RoundFmt with the flags of R52 and the overflow rules of R55, and RoundInt (R238). -/

namespace Sys2Proof

/-- Fraction bits f (R46). -/
def Fmt.fracBits : Fmt → Nat
  | .f32 => 23 | .f16 => 10 | .bf16 => 7 | .e4m3 => 3 | .e5m2 => 2 | .e3m2 => 2 | .e2m3 => 3 | .e2m1 => 1
  | _ => 0

/-- Exponent bits (R46). -/
def Fmt.expBits : Fmt → Nat
  | .f32 => 8 | .f16 => 5 | .bf16 => 8 | .e4m3 => 4 | .e5m2 => 5 | .e3m2 => 3 | .e2m3 => 2 | .e2m1 => 2
  | _ => 0

/-- Bias B (R46). -/
def Fmt.bias : Fmt → Nat
  | .f32 => 127 | .f16 => 15 | .bf16 => 127 | .e4m3 => 7 | .e5m2 => 15 | .e3m2 => 3 | .e2m3 => 1 | .e2m1 => 1
  | _ => 0

/-- Formats with infinities (R46). -/
def Fmt.hasInf : Fmt → Bool
  | .f32 | .f16 | .bf16 | .e5m2 => true
  | _ => false

/-- Formats with a NaN (R46). -/
def Fmt.hasNan : Fmt → Bool
  | .f32 | .f16 | .bf16 | .e5m2 | .e4m3 => true
  | _ => false

/-- The floating format of a lane type (R147). -/
def Ty.fmt : Ty → Fmt
  | .f32 => .f32 | .f16 => .f16 | .bf16 => .bf16 | .i32 => .i32 | .i16 => .i16 | .n32 => .i32 | .n16 => .n16

/-- The format of a code; none where the code is unassigned (R45). -/
def Fmt.ofCode : Nat → Option Fmt
  | 0x00 => some .f32 | 0x01 => some .f16 | 0x02 => some .bf16 | 0x03 => some .e4m3 | 0x04 => some .e5m2
  | 0x05 => some .e3m2 | 0x06 => some .e2m3 | 0x07 => some .e2m1 | 0x08 => some .e8m0
  | 0x10 => some .i32 | 0x11 => some .i16 | 0x12 => some .i8 | 0x13 => some .i4 | 0x14 => some .i2 | 0x15 => some .b1
  | 0x19 => some .n16 | 0x1A => some .n8 | 0x1B => some .n4 | 0x1C => some .n1
  | _ => none

/-- The code of a format (R45). -/
def Fmt.code : Fmt → Nat
  | .f32 => 0x00 | .f16 => 0x01 | .bf16 => 0x02 | .e4m3 => 0x03 | .e5m2 => 0x04 | .e3m2 => 0x05 | .e2m3 => 0x06
  | .e2m1 => 0x07 | .e8m0 => 0x08 | .i32 => 0x10 | .i16 => 0x11 | .i8 => 0x12 | .i4 => 0x13 | .i2 => 0x14
  | .b1 => 0x15 | .n16 => 0x19 | .n8 => 0x1A | .n4 => 0x1B | .n1 => 0x1C

end Sys2Proof

namespace Sys2Proof.Machine

/-- A decoded value: NaN (signalling?), infinity, or (−1)^neg · m · 2^e (R46). -/
inductive Num where
  | nan (signalling : Bool)
  | inf (neg : Bool)
  | fin (neg : Bool) (m : Nat) (e : Int)
deriving DecidableEq, Repr

/-- Flags in VFLAGS order: bit 0 NV, 1 DZ, 2 OF, 3 UF, 4 NX (R54). -/
abbrev Flags := BitVec 5

def flagNV : Flags := 1
def flagDZ : Flags := 2
def flagOF : Flags := 4
def flagUF : Flags := 8
def flagNX : Flags := 16

/-- The flag `f` when `c` holds. -/
def flagIf (c : Bool) (f : Flags) : Flags := if c then f else 0

/-- CanonNaN (R46, R47, R56). -/
def canonNaN : Fmt → Nat
  | .f32 => 0x7FC0_0000 | .f16 => 0x7E00 | .bf16 => 0x7FC0 | .e4m3 => 0x7F | .e5m2 => 0x7E | .e8m0 => 0xFF
  | _ => 0

/-- The exponent field of an encoding. -/
def expField (x : Nat) (f : Fmt) : Nat := fieldOf x f.fracBits f.expBits

/-- The fraction field of an encoding. -/
def fracField (x : Nat) (f : Fmt) : Nat := fieldOf x 0 f.fracBits

/-- The sign bit of an encoding. -/
def signField (x : Nat) (f : Fmt) : Bool := x.testBit (f.fracBits + f.expBits)

/-- The integer significand m of Decode (R56). -/
def significand (x : Nat) (f : Fmt) : Nat :=
  if expField x f = 0 then fracField x f else 2 ^ f.fracBits + fracField x f

/-- The weight exponent e of Decode (R56). -/
def weightExp (x : Nat) (f : Fmt) : Int :=
  (if expField x f = 0 then 1 else (expField x f : Int)) - f.bias - f.fracBits

/-- The value of a floating encoding (R46). -/
def decodeFloat (x : Nat) (f : Fmt) : Num :=
  let top := 2 ^ f.expBits - 1
  let s := signField x f
  if f = .e4m3 ∧ expField x f = 15 ∧ fracField x f = 7 then .nan false
  else if f.hasInf ∧ expField x f = top then
    if fracField x f = 0 then .inf s else .nan (!(fracField x f).testBit (f.fracBits - 1))
  else .fin s (significand x f) (weightExp x f)

/-- The value of an integer encoding; B1 is bipolar (R48). -/
def intValue (x : Nat) (f : Fmt) : Int :=
  match f with
  | .b1 => if x % 2 = 0 then 1 else -1
  | .i32 | .i16 | .i8 | .i4 | .i2 =>
    let y := x % 2 ^ f.bits
    if y < 2 ^ (f.bits - 1) then y else (y : Int) - 2 ^ f.bits
  | _ => (x % 2 ^ f.bits : Nat)

/-- An integer as an exact number. -/
def Num.ofInt (i : Int) : Num := .fin (decide (i < 0)) i.natAbs 0

/-- The value of an encoding of any element format (R46–R48). -/
def decodeAny (x : Nat) (f : Fmt) : Num := if f.isFloat then decodeFloat x f else .ofInt (intValue x f)

/-- The value 2^(E−127) of an E8M0 scale (R47). -/
def decodeScale (x : Nat) : Num := if x % 256 = 255 then .nan false else .fin false 1 ((x % 256 : Nat) - 127)

/-- Signed mantissa of a finite value. -/
def signedMant (neg : Bool) (m : Nat) : Int := if neg then -(m : Int) else m

/-- Exact sum of two finite values: signed mantissa and exponent. -/
def exactAdd (n1 : Bool) (m1 : Nat) (e1 : Int) (n2 : Bool) (m2 : Nat) (e2 : Int) : Int × Int :=
  let e := min e1 e2
  (signedMant n1 m1 * 2 ^ (e1 - e).toNat + signedMant n2 m2 * 2 ^ (e2 - e).toNat, e)

/-- Rounding up of the magnitude: `low` and `high` compare the discarded part with one half (R53: 0 RNE, 1 RTZ, 2 RDN,
3 RUP). -/
def roundsUp (rm : Nat) (neg odd : Bool) (inexact : Bool) (half above : Bool) : Bool :=
  match rm with
  | 0 => above || (half && odd)
  | 1 => false
  | 2 => inexact && neg
  | _ => inexact && !neg

/-- Round m · 2^(−sh) to an integer; a sticky remainder lies just above m. -/
def roundShift (rm : Nat) (neg : Bool) (m : Nat) (sh : Int) (sticky : Bool) : Nat × Bool :=
  if sh ≤ 0 then
    let n := m * 2 ^ (-sh).toNat
    (n + (if roundsUp rm neg (n % 2 = 1) sticky false false then 1 else 0), sticky)
  else
    let d := 2 ^ sh.toNat
    let n := m / d
    let r := m % d
    let inexact := sticky || r != 0
    let above := decide (d < 2 * r) || (decide (2 * r = d) && sticky)
    let half := decide (2 * r = d) && !sticky
    (n + (if roundsUp rm neg (n % 2 = 1) inexact half above then 1 else 0), inexact)

/-- Mantissa of the largest finite value (R46). -/
def maxMant : Fmt → Nat
  | .e4m3 => 14
  | f => 2 ^ (f.fracBits + 1) - 1

/-- Exponent of the largest finite value's mantissa (R46). -/
def maxExp (f : Fmt) : Int :=
  (if f.hasInf then (2 ^ f.expBits - 2 : Int) else 2 ^ f.expBits - 1) - f.bias - f.fracBits

/-- Encoding of N · 2^q with N ≤ 2^p, q at least the subnormal quantum. -/
def encodeFinite (f : Fmt) (neg : Bool) (n : Nat) (q : Int) : Nat :=
  let p := f.fracBits + 1
  let s := if neg then 2 ^ (f.fracBits + f.expBits) else 0
  if n < 2 ^ f.fracBits then s + n
  else
    let (n, q) := if n = 2 ^ p then (2 ^ f.fracBits, q + 1) else (n, q)
    s + (q + f.fracBits + f.bias).toNat * 2 ^ f.fracBits + (n - 2 ^ f.fracBits)

/-- ±max finite. -/
def maxFinite (f : Fmt) (neg : Bool) : Nat := encodeFinite f neg (maxMant f) (maxExp f)

/-- ±∞ of a format that has it. -/
def infinity (f : Fmt) (neg : Bool) : Nat :=
  (if neg then 2 ^ (f.fracBits + f.expBits) else 0) + (2 ^ f.expBits - 1) * 2 ^ f.fracBits

/-- Does IEEE 754 overflow to ∞ in this mode? (R55) -/
def overflowsToInf (rm : Nat) (neg : Bool) : Bool :=
  match rm with
  | 0 => true
  | 1 => false
  | 2 => neg
  | _ => !neg

/-- The result of an overflow to a floating format (R55). -/
def overflowResult (f : Fmt) (neg : Bool) (rm : Nat) (ov : Ovf) : Nat :=
  if ov = .ieee ∧ overflowsToInf rm neg then
    if f.hasInf then infinity f neg else if f = .e4m3 then canonNaN .e4m3 else maxFinite f neg
  else maxFinite f neg

/-- RoundFmt (R56) of (−1)^neg · (m + ε·sticky) · 2^e to a floating format. -/
def roundFmt (neg : Bool) (m : Nat) (e : Int) (sticky : Bool) (f : Fmt) (rm : Nat) (ov : Ovf) : Nat × Flags :=
  if m = 0 then (encodeFinite f neg 0 0, 0)
  else
    let (m, e) := if sticky then (m * 2 ^ 64, e - 64) else (m, e)
    let lead := e + Nat.log2 m
    let emin : Int := 1 - f.bias
    let q := max lead emin - f.fracBits
    let (n, inexact) := roundShift rm neg m (q - e) sticky
    if decide (maxExp f ≤ q) && decide (maxMant f < n * 2 ^ (q - maxExp f).toNat) then
      (overflowResult f neg rm ov, flagOF ||| flagNX)
    else
      (encodeFinite f neg n q, flagIf inexact flagNX ||| flagIf (inexact && decide (lead < emin)) flagUF)

/-- Range of an integer format (R48). -/
def intLo (f : Fmt) : Int :=
  match f with
  | .i32 | .i16 | .i8 | .i4 | .i2 => -(2 ^ (f.bits - 1) : Nat)
  | .b1 => -1
  | _ => 0

/-- Largest value of an integer format (R48). -/
def intHi (f : Fmt) : Int :=
  match f with
  | .i32 | .i16 | .i8 | .i4 | .i2 => (2 ^ (f.bits - 1) : Nat) - 1
  | .b1 => 1
  | _ => (2 ^ f.bits : Nat) - 1

/-- Two's complement of an integer in w bits. -/
def wrapInt (w : Nat) (i : Int) : Nat := (i % (2 ^ w : Nat)).toNat

/-- Sat (R56). -/
def satInt (x lo hi : Int) : Int := if x < lo then lo else if hi < x then hi else x

/-- RoundInt of an exact value (R238). -/
def roundInt (neg : Bool) (m : Nat) (e : Int) (rm : Nat) : Int × Bool :=
  let (n, inexact) := roundShift rm neg m (-e) false
  (signedMant neg n, inexact)

/-- RoundInt of (−1)^neg · a / b (R238). -/
def roundRatio (neg : Bool) (a b : Nat) (rm : Nat) : Int :=
  let n := a / b
  let r := a % b
  signedMant neg (n + (if roundsUp rm neg (n % 2 = 1) (r != 0) (2 * r = b) (decide (b < 2 * r)) then 1 else 0))

/-- A range of integers `w` bits wide as a conversion target (R55). -/
structure IntTarget where
  w  : Nat
  lo : Int
  hi : Int

/-- Conversion to an integer range (R55). -/
def convertInt (x : Num) (t : IntTarget) (rm : Nat) (ov : Ovf) : Nat × Flags :=
  let bad := if t.lo < 0 then t.lo else 0
  match x with
  | .nan _ => (wrapInt t.w (if ov = .sat then 0 else bad), flagNV)
  | .inf neg =>
    if ov = .sat then (wrapInt t.w (if neg then t.lo else t.hi), 0) else (wrapInt t.w bad, flagNV)
  | .fin neg m e =>
    let (i, inexact) := roundInt neg m e rm
    if i < t.lo ∨ t.hi < i then
      if ov = .sat then (wrapInt t.w (satInt i t.lo t.hi), flagOF ||| flagNX)
      else (wrapInt t.w bad, flagOF ||| flagNX ||| flagNV)
    else (wrapInt t.w i, flagIf inexact flagNX)

/-- Conversion to a floating format (R55). -/
def convertFloat (x : Num) (f : Fmt) (rm : Nat) (ov : Ovf) : Nat × Flags :=
  match x with
  | .nan sig =>
    if f.hasNan then (canonNaN f, flagIf sig flagNV) else (0, flagNV)
  | .inf neg =>
    if ov = .sat then (maxFinite f neg, 0)
    else if f.hasInf then (infinity f neg, 0)
    else if f = .e4m3 then (canonNaN f, flagNV)
    else (maxFinite f neg, 0)
  | .fin neg m e => roundFmt neg m e false f rm ov

/-- Packing to B1: the sign (R236). -/
def convertB1 (x : Num) : Nat × Flags :=
  match x with
  | .nan _ => (0, flagNV)
  | .inf neg => (if neg then 1 else 0, 0)
  | .fin neg m _ => (if neg && m != 0 then 1 else 0, 0)

/-- Conversion of an exact value to any element format (R55, R236). -/
def convert (x : Num) (f : Fmt) (rm : Nat) (ov : Ovf) : Nat × Flags :=
  if f.isFloat then convertFloat x f rm ov
  else if f = .b1 then convertB1 x
  else convertInt x ⟨f.bits, intLo f, intHi f⟩ rm ov

/-- The value of a lane (R212). -/
def laneValue (t : Ty) (x : Nat) : Num :=
  match t with
  | .f32 | .f16 | .bf16 => decodeFloat x t.fmt
  | .i32 | .i16 => .ofInt (intValue x t.fmt)
  | .n32 => .ofInt (x % 2 ^ 32 : Nat)
  | .n16 => .ofInt (x % 2 ^ 16 : Nat)

/-- Conversion of an exact value to a lane type (R219). -/
def convertTy (x : Num) (t : Ty) (rm : Nat) (ov : Ovf) : Nat × Flags :=
  match t with
  | .f32 | .f16 | .bf16 => convertFloat x t.fmt rm ov
  | .i32 | .i16 => convertInt x ⟨t.width, intLo t.fmt, intHi t.fmt⟩ rm ov
  | .n32 => convertInt x ⟨32, 0, 2 ^ 32 - 1⟩ rm ov
  | .n16 => convertInt x ⟨16, 0, 2 ^ 16 - 1⟩ rm ov

/-- NV for a signalling operand (R52). -/
def sigFlag : Num → Flags
  | .nan true => flagNV
  | _ => 0

/-- Is the value a NaN? -/
def Num.isNaN : Num → Bool
  | .nan _ => true
  | _ => false

/-- Is the value a zero? -/
def Num.isZero : Num → Bool
  | .fin _ 0 _ => true
  | _ => false

/-- Negation. -/
def Num.neg : Num → Num
  | .nan s => .nan s
  | .inf n => .inf (!n)
  | .fin n m e => .fin (!n) m e

/-- Rounded floating sum of exact values: IEEE signs of zero and ∞ − ∞ invalid (R52, R66). -/
def addRound (x y : Num) (f : Fmt) (rm : Nat) : Nat × Flags :=
  match x, y with
  | .nan a, .nan b => (canonNaN f, flagIf (a || b) flagNV)
  | .nan a, _ => (canonNaN f, flagIf a flagNV)
  | _, .nan b => (canonNaN f, flagIf b flagNV)
  | .inf a, .inf b => if a = b then (infinity f a, 0) else (canonNaN f, flagNV)
  | .inf a, _ => (infinity f a, 0)
  | _, .inf b => (infinity f b, 0)
  | .fin n1 m1 e1, .fin n2 m2 e2 =>
    let (s, e) := exactAdd n1 m1 e1 n2 m2 e2
    if s = 0 then
      (encodeFinite f (if m1 = 0 ∧ m2 = 0 ∧ n1 = n2 then n1 else rm == 2) 0 0, 0)
    else roundFmt (decide (s < 0)) s.natAbs e false f rm .ieee

/-- The exact product, or NaN with NV for 0 · ∞ (R216). A zero product takes the product of the signs, for VUNPKS and VUNPKZ too, whose
integer zero counts as +0 (R234; DESIGN CHOICE, log 144). -/
def mulExact (x y : Num) : Num × Flags :=
  match x, y with
  | .nan a, .nan b => (.nan false, flagIf (a || b) flagNV)
  | .nan a, _ => (.nan false, flagIf a flagNV)
  | _, .nan b => (.nan false, flagIf b flagNV)
  | .inf a, .inf b => (.inf (a != b), 0)
  | .inf a, .fin n m _ => if m = 0 then (.nan false, flagNV) else (.inf (a != n), 0)
  | .fin n m _, .inf b => if m = 0 then (.nan false, flagNV) else (.inf (n != b), 0)
  | .fin n1 m1 e1, .fin n2 m2 e2 => (.fin (n1 != n2) (m1 * m2) (e1 + e2), 0)

/-- Rounded product. -/
def mulRound (x y : Num) (f : Fmt) (rm : Nat) : Nat × Flags :=
  let (p, fl) := mulExact x y
  let (r, fl') := convertFloat p f rm .ieee
  (r, fl ||| fl')

/-- Fused multiply-add a · b + d, rounded once (R52, R216). -/
def fmaRound (a b d : Num) (f : Fmt) (rm : Nat) : Nat × Flags :=
  let (p, fl) := mulExact a b
  let (r, fl') := addRound p d f rm
  (r, fl ||| fl' ||| sigFlag d)

/-- Order of two non-NaN values with −0 below +0 (R216): is x below y? -/
def numLess (x y : Num) : Bool :=
  match x, y with
  | .inf a, .inf b => a && !b
  | .inf a, _ => a
  | _, .inf b => !b
  | .fin n1 m1 e1, .fin n2 m2 e2 =>
    let (s, _) := exactAdd n1 m1 e1 (!n2) m2 e2
    if m1 = 0 ∧ m2 = 0 then n1 && !n2 else decide (s < 0)
  | _, _ => false

/-- Equality of two non-NaN values, −0 equal to +0 (R218). -/
def numEq (x y : Num) : Bool :=
  match x, y with
  | .inf a, .inf b => a == b
  | .fin n1 m1 e1, .fin n2 m2 e2 => (exactAdd n1 m1 e1 (!n2) m2 e2).1 == 0
  | _, _ => false

/-- Integer square root by digits, highest bit first. -/
def isqrt (fuel : Nat) (n : Nat) : Nat :=
  match fuel with
  | 0 => 0
  | k + 1 =>
    let r := 2 * isqrt k (n / 4)
    if (r + 1) * (r + 1) ≤ n then r + 1 else r

/-- √(m · 2^e) with 80 further bits: mantissa, exponent, sticky. -/
def sqrtExact (m : Nat) (e : Int) : Nat × Int × Bool :=
  let sh : Nat := if (e % 2 = 0) then 160 else 161
  let big := m * 2 ^ sh
  let r := isqrt (Nat.log2 big / 2 + 2) big
  (r, (e - sh) / 2, decide (r * r ≠ big))

/-- 1/(m · 2^e) with 80 further bits. -/
def recipExact (m : Nat) (e : Int) : Nat × Int × Bool :=
  let sh := 80 + Nat.log2 m
  (2 ^ sh / m, -e - sh, decide (2 ^ sh % m ≠ 0))

end Sys2Proof.Machine
end

