-- ==== Sys2Proof/Machine/Ops.lean ====
section
/-! DEFINITION. The named operations over the state: contexts and cores by number, registers, timed effects in flight,
freezing, the fault buffer, taking a trap (R185) and returning from one (R192). -/

namespace Sys2Proof.Machine

/-! ### Parts of the machine by number -/

/-- Context `k` = CORE.ID · 4 + CTX.ID. -/
def ctxOf (s : State) (k : Nat) : Ctx := Table.get s.ctxs k Ctx.reset
def setCtx (s : State) (k : Nat) (c : Ctx) : State := { s with ctxs := Table.put s.ctxs k c }
def modCtx (s : State) (k : Nat) (f : Ctx → Ctx) : State := setCtx s k (f (ctxOf s k))
def coreOf (s : State) (n : Nat) : CoreState := Table.get s.cores n CoreState.reset
def setCore (s : State) (n : Nat) (c : CoreState) : State := { s with cores := Table.put s.cores n c }
def modCore (s : State) (n : Nat) (f : CoreState → CoreState) : State := setCore s n (f (coreOf s n))
def clusterOf (s : State) (n : Nat) : ClusterState := Table.get s.clusters n ClusterState.reset
def modCluster (s : State) (n : Nat) (f : ClusterState → ClusterState) : State :=
  { s with clusters := Table.put s.clusters n (f (clusterOf s n)) }
def dieOf (s : State) (n : Nat) : DieState := Table.get s.diesT n DieState.reset
def modDie (s : State) (n : Nat) (f : DieState → DieState) : State :=
  { s with diesT := Table.put s.diesT n (f (dieOf s n)) }
def tenantOf (s : State) (n : Nat) : Tenant := Table.get s.tenants n Tenant.reset
def modTenant (s : State) (n : Nat) (f : Tenant → Tenant) : State :=
  { s with tenants := Table.put s.tenants n (f (tenantOf s n)) }
def portOf (s : State) (n : Nat) : Port := Table.get s.ports n Port.reset
def modPort (s : State) (n : Nat) (f : Port → Port) : State :=
  { s with ports := Table.put s.ports n (f (portOf s n)) }
def nodeOf (s : State) (t n : Nat) : Node := Table.get (tenantOf s t).nodes n Node.reset
def modNode (s : State) (t n : Nat) (f : Node → Node) : State :=
  modTenant s t (fun x => { x with nodes := Table.put x.nodes n (f (Table.get x.nodes n Node.reset)) })

/-- CORE.ID of a context. -/
def coreIx (k : Nat) : Nat := k / 4
/-- CTX.ID of a context. -/
def ctxIx (k : Nat) : Fin 4 := Fin.ofNat 4 k
/-- CLUS.ID of a context (R6). System cores stand in no logical cluster of R6: theirs are 96 and 97, four system cores of two
dies each, with a queue set, a walker and a translation cache of their own (DESIGN CHOICE, log 94). -/
def clusIx (k : Nat) : Nat := k / 16
/-- DIE.ID of a context; system cores 384 + 2d and 385 + 2d belong to die d (R5, R6, log 6). -/
def dieIx (k : Nat) : Nat := if k / 4 < Config.firstSystemCore then k / 384 else (k / 4 - Config.firstSystemCore) / 2

/-- The acting context. -/
def here (s : State) : Ctx := ctxOf s s.cur
def modHere (s : State) (f : Ctx → Ctx) : State := modCtx s s.cur f
def hereCore (s : State) : CoreState := coreOf s (coreIx s.cur)
def modHereCore (s : State) (f : CoreState → CoreState) : State := modCore s (coreIx s.cur) f

/-- Does the context hold a task, or is it a system-core context that runs? -/
def occupied (c : Ctx) (k : Nat) : Bool :=
  c.task.isSome || (decide (Config.firstSystemCore ≤ k / 4) && c.mode == .supervisor)

/-- Advance the counter of the free values (log 3). -/
def nextFresh (s : State) (n : Nat) : State := { s with fresh := s.fresh + n }

/-! ### Registers (R7, R149) -/

/-- A scalar register; s0 reads zero. -/
def Ctx.readS (c : Ctx) (r : SReg) : W64 := if r = 0 then 0 else c.s[r]
/-- A predicate register; p0 reads all ones. -/
def Ctx.readP (c : Ctx) (r : PReg) : PWord := if r = 0 then BitVec.allOnes 128 else c.p[r]
def Ctx.readV (c : Ctx) (r : VReg) : VWord := c.v[r]
def Ctx.readG (c : Ctx) (r : GReg) : GWord := c.g[r]
/-- MT, the top of the mask stack; all ones at depth 0 and in supervisor mode (R43, R172). -/
def Ctx.mt (c : Ctx) : PWord :=
  match c.mode, c.mask with
  | .user, m :: _ => m
  | _, _ => BitVec.allOnes 128
/-- SP, 0xFF in supervisor mode (R37, R185). -/
def Ctx.readSP (c : Ctx) : BitVec 8 := if c.mode = .supervisor then 0xFF else c.sp

/-- The file coding of R102 and the register a write goes to; none when it is discarded (R138). -/
def regDest : RegWrite → Option (Nat × Nat)
  | .s r _ => if r = 0 then none else some (0, r.val)
  | .v r _ _ => some (1, r.val)
  | .p r _ => if r = 0 then none else some (2, r.val)
  | .g r _ _ => some (3, r.val)
  | .cr i _ => some (4, i)

/-- Write a control register (R150, R182): reserved bits are dropped; a read-only index is left alone. -/
def Ctx.writeCR (c : Ctx) (i : Nat) (x : W64) : Ctx :=
  match i with
  | 0x20 => { c with prec := c.prec.set 0 (x.setWidth 32 &&& 0x0FFF_FFFF) }
  | 0x21 => { c with prec := c.prec.set 1 (x.setWidth 32 &&& 0x0FFF_FFFF) }
  | 0x22 => { c with prec := c.prec.set 2 (x.setWidth 32 &&& 0x0FFF_FFFF) }
  | 0x23 => { c with prec := c.prec.set 3 (x.setWidth 32 &&& 0x0FFF_FFFF) }
  | 0x50 => { c with vmode := x.setWidth 2 }
  | 0x51 => { c with vflags := x.setWidth 5, flagsSeen := x.setWidth 5 }
  | 0x60 => { c with padm := x }
  | 0x70 => { c with tvec := x }
  | 0x71 => { c with tcause := x.setWidth 8 }
  | 0x72 => { c with tpc := x }
  | 0x73 => { c with tval := x }
  | 0x74 => { c with tframe := x }
  | 0x75 => { c with tstate := (c.tstate &&& 0xFF11) ||| (x.setWidth 16 &&& 0x00EE) }
  | 0x80 => { c with lc := c.lc.set 0 x }
  | 0x81 => { c with lc := c.lc.set 1 x }
  | 0x82 => { c with lc := c.lc.set 2 x }
  | 0x83 => { c with lc := c.lc.set 3 x }
  | 0x88 => { c with sp := x.setWidth 8 }
  | 0xA0 => { c with hstat := x &&& 0xFF_FF01 }
  | 0x100 => { c with trtgt := x }
  | 0x101 => { c with trttc := x }
  | _ => c

/-- Perform a register write. -/
def Ctx.writeReg (c : Ctx) (w : RegWrite) : Ctx :=
  match w with
  | .s r x => if r = 0 then c else { c with s := c.s.set r x }
  | .v r m x => { c with v := c.v.set r ((c.v[r] &&& ~~~m) ||| (x &&& m)) }
  | .p r x => if r = 0 then c else { c with p := c.p.set r x }
  | .g r m x => { c with g := c.g.set r ((c.g[r] &&& ~~~m) ||| (x &&& m)) }
  | .cr i x => c.writeCR i x

/-! ### The outcome of an operation at issue -/

/-- An operation at issue: it proceeds, or raises a cause with the TVAL the spec states (R161 step 7). -/
inductive Issue where
  | ok (s : State)
  | trap (cause : Nat) (tval : Option W64)

/-- Chain two parts of an operation. -/
def Issue.andThen (i : Issue) (f : State → Issue) : Issue :=
  match i with
  | .ok s => f s
  | .trap c v => .trap c v

/-- Raise a cause unless the condition holds. -/
def guardIssue (s : State) (ok : Bool) (cause : Nat) (tval : Option W64) : Issue :=
  if ok then .ok s else .trap cause tval

/-- A further fault of the same operation: of several faults at issue the lowest code is raised (R187, log 15). -/
def Issue.unless (r : Issue) (bad : Bool) (cause : Nat) (tval : Option W64) : Issue :=
  if bad then
    match r with
    | .ok _ => .trap cause tval
    | .trap c v => if c < cause then .trap c v else .trap cause tval
  else r

/-- Add a timed effect of the acting context. -/
def Ctx.addFlight (c : Ctx) (due : Nat) (act : Act) (res : List (Nat × Nat × Nat)) : Ctx :=
  { c with seq := c.seq + 1, flights := c.flights ++ [⟨c.seq, due, act, res⟩] }

/-- Add a timed effect `lat` cycles after issue. -/
def fly (s : State) (lat : Nat) (act : Act) : State := modHere s (fun c => c.addFlight (c.ttc + lat) act [])

/-- Would a result to this register in this cycle collide with one in flight? (R102) -/
def Ctx.collides (c : Ctx) (file index due : Nat) : Bool := c.flights.any (fun f => f.res.contains (file, index, due))

/-- TVAL of a write collision on a register (R102). -/
def collisionVal (file index : Nat) : W64 := BitVec.ofNat 64 (index % 256 + 256 * (file % 16))

/-- Add an effect that writes a register `regLat` cycles after issue and acts first at `lat` (R101, R102). -/
def flyTo (s : State) (dest : Option (Nat × Nat)) (lat regLat : Nat) (act : Act) : Issue :=
  match dest with
  | none => .ok (fly s lat act)
  | some (file, index) =>
    if (here s).collides file index ((here s).ttc + regLat) then .trap 0x0A (some (collisionVal file index))
    else .ok (modHere s (fun c => c.addFlight (c.ttc + lat) act [(file, index, c.ttc + regLat)]))

/-- Schedule a register result (R163). -/
def result (s : State) (lat : Nat) (w : RegWrite) : Issue := flyTo s (regDest w) lat lat (.result w 0 none)

/-- Schedule a result that raises flags and is checked by the shadow unit (R54, R70). -/
def resultF (s : State) (lat : Nat) (w : RegWrite) (fl : Flags) (shadow : Option (Nat × Ty)) : Issue :=
  flyTo s (regDest w) lat lat (.result w fl shadow)

/-- Is the slot of the operation free? (R164) -/
def slotFree (s : State) : Bool :=
  !(here s).flights.any (fun f => decide (f.act = .occupy s.slot.code ∧ (here s).ttc < f.due))

/-- Slot busy unless the slot is free (R164). -/
def withSlot (s : State) (f : State → Issue) : Issue :=
  if slotFree s then f s else .trap 0x03 (some (BitVec.ofNat 64 s.slot.code))

/-- Occupy the slot for `n` cycles (R164). -/
def occupy (s : State) (n : Nat) : State := if n ≤ 1 then s else fly s n (.occupy s.slot.code)

/-- TVAL of an illegal encoding found at issue (R162). -/
def illegalVal (word index slot reason : Nat) : W64 :=
  BitVec.ofNat 64 (word % 2 ^ 32 * 2 ^ 32 + index % 256 * 2 ^ 24 + slot % 16 * 2 ^ 20 + reason % 16 * 2 ^ 16)

/-- Is the operation a VHACC, whose result is its progress? (R226) -/
def isHacc (u : Untimed) : Bool := match u.job with
  | .vhacc .. => true
  | _ => false

/-- Does the operation hold an entry of the result buffer, as a register result and a VHACC do? (R30, R228) -/
def holdsEntry (u : Untimed) : Bool := u.result.isSome

/-- Entries of the result buffer in use; those of an interrupted program stand in its snapshot (R30, R185). -/
def Ctx.resultCount (c : Ctx) : Nat := (c.untimed.filter holdsEntry).length

/-- An untimed operation as it issues. -/
def newUntimed (seq : Nat) (job : Job) (res : Option Result) (ordered : Bool) (lines : List Nat) (pending : List Place) :
    Untimed where
  seq := seq
  job := job
  done := false
  sent := false
  result := res
  ordered := ordered
  lines := lines
  pending := pending
  held := none
  fault := none
  at_ := 0
  late := []
  loggedAt := none

/-- The untimed operations of a context, those of an interrupted program after its handler's (R185). -/
def Ctx.allUntimed (c : Ctx) : List Untimed := c.untimed ++ c.snapU

/-- Add an untimed operation of the acting context; a 17th register result is slot busy (R30). -/
def issueUntimed (s : State) (job : Job) (res : Option Result) (ordered : Bool) (lines : List Nat)
    (pending : List Place) : Issue :=
  if res.isSome && decide (16 ≤ (here s).resultCount) then .trap 0x03 (some (BitVec.ofNat 64 s.slot.code))
  else .ok (modHere s (fun c => { c with
    seq := c.seq + 1
    untimed := c.untimed ++ [newUntimed c.seq job res ordered lines pending] }))

/-- The result-buffer entry of a scalar destination; s0 takes none (R207). -/
def resultFor (d : SReg) : Option Result := if d = 0 then none else some ⟨d, none⟩

/-! ### The fault buffer (R338–R340) -/

/-- Build an entry (R338). -/
def faultEntry (tenant node core ctx sub cause gcc : Nat) (addr : W64) (syl off : Nat) : FaultEntry where
  w0 := BitVec.ofNat 64 (tenant % 16 * 2 ^ 60 + node % 1024 * 2 ^ 50 + core % 512 * 2 ^ 40 + ctx % 4 * 2 ^ 38 +
    sub % 256 * 2 ^ 8 + cause % 256)
  w1 := BitVec.ofNat 64 gcc
  w2 := addr
  w3 := BitVec.ofNat 64 (syl % 2 ^ 32 * 2 ^ 32 + off % 2 ^ 32)

/-- Post an event, or hold it at its source when the buffer is full (R340). -/
def postFault (s : State) (die : Nat) (e : FaultEntry) : State :=
  modDie s die (fun d =>
    if d.faults.length < 4096 then { d with faults := d.faults ++ [e] }
    else { d with held := d.held ++ [e], ovf := true })

/-- Post an event of context `k` (R338). -/
def postCtxFault (s : State) (k sub cause : Nat) (addr : W64) (syl off : Nat) : State :=
  let c := ctxOf s k
  let t := c.task.map (fun t => (t.tenant, t.node))
  postFault s (dieIx k) (faultEntry (t.getD (0, 0)).1 (t.getD (0, 0)).2 (coreIx k) (k % 4) sub cause s.gcc addr syl off)

/-! ### Time and the health log (R378–R382) -/

/-- The time that goes on over a power loss, in cycles. -/
def now (s : State) : Nat := s.era + s.gcc

/-- Cycles of 24 hours at the set clock. -/
def dayCycles (s : State) : Nat := 86400 * s.clock * 1_000_000

/-- Is an event of time `g` within the last 24 hours? -/
def isRecent (s : State) (g : Nat) : Bool := decide (now s < g + dayCycles s)

/-- Append an entry to the health log (R382). -/
def postHealth (s : State) (kind unit : Nat) (data : List Byte) : State :=
  let entry := bytesOfNat 4 s.bootCount ++ bytesOfNat 2 kind ++ bytesOfNat 2 unit ++ bytesOfNat 8 s.gcc ++
    (data ++ List.replicate 48 0).take 48
  { s with healthLog := s.healthLog.put (s.logNext % 4096) entry, logNext := s.logNext + 1 }

/-! ### Freezing (R35, R341) -/

/-- Pause the reservations of a context (R130). -/
def pauseResv (s : State) (k : Nat) : State :=
  modCore s (coreIx k) (fun c => { c with resv := c.resv.map (fun i =>
    if i.ctx = k ∧ i.paused = none then { i with paused := some s.gcc } else i) })

/-- Resume the reservations of a context paused since `from_`: their ends move later by the paused cycles (R130). -/
def resumeResv (s : State) (k from_ : Nat) : State :=
  modCore s (coreIx k) (fun c => { c with resv := c.resv.map (fun i =>
    match i.paused with
    | some p =>
      if i.ctx = k ∧ from_ ≤ p then
        { i with paused := none, stop := i.stop.map (· + (s.gcc - p)),
                 start := if p ≤ i.start then i.start + (s.gcc - p) else i.start }
      else i
    | none => i) })

/-- Give up the width if context `k` holds it and another context is ready later; the core keeps no holder. -/
def freezeCtx (s : State) (k : Nat) (m : FreezeMark) : State :=
  match (ctxOf s k).freeze with
  | some f => modCtx s k (fun c => { c with freeze := some { f with marks := if f.marks.contains m then f.marks else m :: f.marks } })
  | none => pauseResv (modCtx s k (fun c => { c with freeze := some ⟨s.gcc, [m], 0⟩ })) k

/-- The sync group of a context: the members it knows that know it, itself alone where it is in none. A member that the image engine
has saved is in no group until it is back in its context, and is again in the old one then (R306). -/
def groupOf (s : State) (k : Nat) : List Nat :=
  if (ctxOf s k).group = [] then [k]
  else (ctxOf s k).group.filter (fun j => j == k || (ctxOf s j).group.contains k)

/-- Freeze the sync group of a context, or the context alone (R35). -/
def freezeGroup (s : State) (k : Nat) (m : FreezeMark) : State := (groupOf s k).foldl (fun s j => freezeCtx s j m) s

/-- Clear a freeze reason; the last one cleared sets the earliest thaw (R342). -/
def clearMark (s : State) (k : Nat) (m : FreezeMark) (soon : Nat) : State :=
  modCtx s k (fun c => { c with freeze := c.freeze.map (fun f =>
    { f with marks := f.marks.filter (· != m), soon := max f.soon (max soon (s.gcc + 1)) }) })

/-- Clear a reason on the whole group. -/
def clearGroup (s : State) (k : Nat) (m : FreezeMark) (soon : Nat) : State :=
  (groupOf s k).foldl (fun s j => clearMark s j m soon) s

/-! ### Taking a trap (R185–R193) -/

/-- Partition sizes and bases of a context; a context without a task has none. -/
def Ctx.size (c : Ctx) (b : Buf) : Nat :=
  match c.task with
  | none => 0
  | some t => match b with
    | .wb => t.size.wb | .ab => t.size.ab | .cb => t.size.cb | .dm => t.size.dm

/-- Partition base (R72). -/
def Ctx.base (c : Ctx) (b : Buf) : Nat :=
  match c.task with
  | none => 0
  | some t => match b with
    | .wb => t.base.wb | .ab => t.base.ab | .cb => t.base.cb | .dm => t.base.dm

/-- A typed buffer of a core. -/
def CoreState.bufMem (c : CoreState) : Buf → Memory
  | .wb => c.wb | .ab => c.ab | .cb => c.cb | .dm => c.dm

/-- Replace a typed buffer. -/
def CoreState.setBuf (c : CoreState) (b : Buf) (m : Memory) : CoreState :=
  match b with
  | .wb => { c with wb := m } | .ab => { c with ab := m } | .cb => { c with cb := m } | .dm => { c with dm := m }

/-- Buffer code of R73. -/
def bufCode : Buf → Nat
  | .wb => 0 | .ab => 1 | .cb => 2 | .dm => 3

/-- Bytes of a partition as a slice. -/
def bufSlice (s : State) (k : Nat) (b : Buf) (off len : Nat) : Memory :=
  memSlice ((coreOf s (coreIx k)).bufMem b) ((ctxOf s k).base b + off) len

/-- The bytes of a partition as they were before the writes of this cycle, which no read of it sees (R99). -/
def bufPrior (s : State) (k : Nat) (b : Buf) (off len : Nat) : Memory :=
  let lo := (ctxOf s k).base b + off
  ((coreOf s (coreIx k)).written.reverse.filter (fun w => w.1 == bufCode b && decide (lo ≤ w.2.1 ∧ w.2.1 < lo + len))).foldl
    (fun m w => memWrite m (w.2.1 - lo) w.2.2) (bufSlice s k b off len)

/-- Write bytes into a partition; their parity is written anew, failing where `bad` says (R78). -/
def bufWrite (s : State) (k : Nat) (b : Buf) (off : Nat) (len : Nat) (sl : Memory) (bad : List Nat) : State :=
  let lo := (ctxOf s k).base b + off
  modCore s (coreIx k) (fun c =>
    { c.setBuf b (memPlace (c.bufMem b) lo len sl) with
      written := c.written ++ (List.range len).map (fun i => (bufCode b, lo + i, memRead (c.bufMem b) (lo + i)))
      parity := c.parity.filter (fun p => !(p.1 == (bufCode b) && decide (lo ≤ p.2 ∧ p.2 < lo + len))) ++
        bad.map (fun i => ((bufCode b), lo + i)) })

/-- Offsets in [off, off + len) of a partition whose parity fails (R78). -/
def badBytes (s : State) (k : Nat) (b : Buf) (off len : Nat) : List Nat :=
  let lo := (ctxOf s k).base b + off
  ((coreOf s (coreIx k)).parity.filter (fun p => p.1 == (bufCode b) && decide (lo ≤ p.2 ∧ p.2 < lo + len))).map
    (fun p => p.2 - lo)

/-- Device address of line j of a copy. -/
def copyAddr (r : CopyRun) (j : Nat) : Nat := if r.map.isSome then r.src.getD j 0 * 256 else r.vaddr + 256 * j

/-- The next slot of a copy's flight at TTC `ttc`: the line's address, and the cycles until its slot (R81, R270). -/
def nextSlot (f : Flight) (ttc : Nat) : Option (Nat × Nat) :=
  let reads (r : CopyRun) (j : Nat) : Option (Nat × Nat) :=
    let n := (ttc + r.half - f.due + (r.stride - 1)) / r.stride
    if j + n < r.lines then some (copyAddr r (j + n), f.due + n * r.stride - (ttc + r.half)) else none
  match f.act with
  | .copySample r j => reads r j
  | .mapGather r j _ _ => reads r j
  | .copySource r j => some (copyAddr r j, f.due + (r.stride - 1) - ttc)
  | .copyPerform r j _ _ => if ttc + r.half ≤ f.due then some (copyAddr r j, f.due - (ttc + r.half)) else none
  | _ => none

/-- DELAY of an entry (R190): until its next effect, the slot of a copy's line being one (R305), and that of a load being its
register result (R302). -/
def entryDelay (e : SnapEntry) : Nat :=
  match nextSlot e.flight (e.flight.due - e.delay), e.flight.act, e.flight.res with
  | some x, _, _ => min e.delay x.2
  | none, .dmRead .., r :: _ | none, .dmAtomic .., r :: _ | none, .vmRead .., r :: _ | none, .gRead .., r :: _ =>
    e.delay + (r.2.2 - e.flight.due)
  | _, _, _ => e.delay

/-- Snapshot descriptor of an entry (R190). -/
def descriptor (e : SnapEntry) : W64 × W64 :=
  let (kind, file, index) : Nat × Nat × Nat := match e.flight.act with
    | .result w _ _ => (1, ((regDest w).getD (0, 0)).1, ((regDest w).getD (0, 0)).2)
    | .dmRead d _ _ _ => (1, 0, d.val)
    | .dmAtomic d .. => (1, 0, d.val)
    | .vmRead d .. => (1, 1, d.val)
    | .gRead d _ => (1, 3, d.val)
    | .occupy sl => (2, 0, sl)
    | .dmWrite a _ => (3, 3, a / 256)
    | .vmWrite b cells => (3, (bufCode b), ((cells.head?.map (fun c => c.1 / 256)).getD 0))
    | .mmaRead r .. => (4, 0, r.tile.val)
    | .mmaUpdate r .. => (4, 0, r.tile.val)
    | .drain t .. => (4, 0, t.val)
    | .drainWrite t .. => (4, 0, t.val)
    | .tloadRead t .. => (4, 0, t.val)
    | .tloadWrite t .. => (4, 0, t.val)
    | .tclr t => (4, 0, t.val)
    | .tmask t _ _ => (4, 0, t.val)
    | .clampClear t => (4, 0, t.val)
    | .copySample r _ | .copySource r _ | .copyLand r .. | .copyPerform r .. | .mapGather r .. | .mapLand r .. | .fill r .. =>
      (5, r.engine, r.place.off / 256)
    | .sendRead _ p .. => (6, 0, p.off / 256)
    | .sendLand _ line .. => (6, 0, line)
    | .recv _ p .. => (7, 0, p.off / 256)
    | .nestStep _ sl .. => (2, 0, sl)
    | .nestWrite _ sl .. => (2, 0, sl)
    | .bselRead .. => (1, 4, 0x60)
    | .pcommitRead .. | .launchRead .. => (8, 0, 0)
    | .barInit i _ => (3, 0, i)
  let value : W64 := match e.fault, e.flight.act with
    | some (c, v), _ => BitVec.ofNat 64 (c % 256 * 2 ^ 56 + v.toNat % 2 ^ 56)
    | none, .result (.s _ x) _ _ => x
    | none, .result (.cr _ x) _ _ => x
    | none, _ => 0
  (BitVec.ofNat 64 (kind * 2 ^ 56 + (if e.fault.isSome then 2 ^ 48 else 0) + e.delay % 2 ^ 16 * 2 ^ 32 +
    file % 256 * 2 ^ 16 + index % 2 ^ 16), value)

/-- Descriptor of an untimed entry: KIND 8, UNT set; INDEX is the register of its result, else the first of its pending
lines (R185 step 3, R190). FLT and VALUE show a cause found for it, to be raised at r or at its wait (R191). -/
def untimedDescriptor (u : Untimed) : W64 × W64 :=
  let index : Nat := match u.result, u.pending with
    | some r, _ => r.reg.val
    | none, p :: _ => p.off / 256
    | none, [] => 0
  match u.late.head?.or u.fault with
  | none => (BitVec.ofNat 64 (8 * 2 ^ 56 + 2 ^ 49 + index % 2 ^ 16), 0)
  | some (c, v) => (BitVec.ofNat 64 (8 * 2 ^ 56 + 2 ^ 49 + 2 ^ 48 + index % 2 ^ 16),
      BitVec.ofNat 64 (c % 256 * 2 ^ 56 + v.toNat % 2 ^ 56))

/-- Does an untimed operation hold a result-buffer entry, pending lines or a pending tile? (R185 step 3) -/
def isSnapped (u : Untimed) : Bool :=
  u.result.isSome || u.pending != [] || (match u.job with
    | .mmag _ _ _ table => table != []
    | .mmas _ _ _ _ tiles _ => tiles != []
    | _ => false)

/-- The snapshot of the flights at the boundary `ttc`, in issue order (R185). -/
def snapshot (fl : List Flight) (ttc : Nat) : List SnapEntry := fl.map (fun f => ⟨f, f.due - ttc, none⟩)

/-- Which of two flights of one command its descriptor shows: a step of VNEST (R230) before a slot occupancy (R190) before others. -/
def snapRank (e : SnapEntry) : Nat := match e.flight.act with
  | .nestStep .. | .nestWrite .. => 0
  | .occupy _ => 1
  | _ => 2

/-- Two flights of one command as one entry: the one of the lower rank, else the sooner one, with the fault of either (R190). -/
def joinSnap (x y : SnapEntry) : SnapEntry :=
  { (if snapRank x < snapRank y ∨ (snapRank x = snapRank y ∧ x.delay ≤ y.delay) then x else y) with fault := x.fault.or y.fault }

/-- Enter a flight with its DELAY: one entry for a command. -/
def mergeSnap (e : SnapEntry) : List SnapEntry → List SnapEntry
  | [] => [e]
  | x :: r => if x.flight.seq = e.flight.seq then joinSnap x e :: r else x :: mergeSnap e r

/-- Insert an entry by DELAY, and by order of issue within one DELAY (R302). -/
def insertSnap (e : SnapEntry) : List SnapEntry → List SnapEntry
  | [] => [e]
  | x :: r =>
    if x.delay < e.delay ∨ (x.delay = e.delay ∧ x.flight.seq ≤ e.flight.seq) then x :: insertSnap e r else e :: x :: r

/-- The entries that have a descriptor: one for each command, in increasing DELAY, issue order within one (R190, R302). -/
def snapHeads (l : List SnapEntry) : List SnapEntry :=
  ((l.map (fun e => { e with delay := entryDelay e })).foldl (fun acc e => mergeSnap e acc) []).foldl
    (fun acc e => insertSnap e acc) []

/-- A descriptor with its place in the frame: DELAY, then order of issue. -/
structure FrameEntry where
  delay : Nat
  seq   : Nat
  words : W64 × W64
deriving DecidableEq, Repr

/-- Insert a descriptor by DELAY, and by order of issue within one DELAY (R302). -/
def insertFrame (e : FrameEntry) : List FrameEntry → List FrameEntry
  | [] => [e]
  | x :: r => if x.delay < e.delay ∨ (x.delay = e.delay ∧ x.seq ≤ e.seq) then x :: insertFrame e r else e :: x :: r

/-- The entries of the frame in its order, at most 64, as many as the buffer holds; the DELAY field of an untimed one is 0 (R185, R190,
R302). -/
def frameEntries (snap : List SnapEntry) (us : List Untimed) : List FrameEntry :=
  (((snapHeads snap).map (fun e => FrameEntry.mk e.delay e.flight.seq (descriptor e)) ++
    (us.filter isSnapped).map (fun u => FrameEntry.mk 0 u.seq (untimedDescriptor u))).foldl (fun acc e => insertFrame e acc) []).take 64

/-- The descriptors of a snapshot (R190). -/
def descriptors (snap : List SnapEntry) (us : List Untimed) : List (W64 × W64) := (frameEntries snap us).map (fun e => e.words)

/-- Is the flight copy, send or receive state, so that SGM is set? (R188) A FILL is not counted among copies (DESIGN CHOICE, log 141). -/
def isCopyState : Act → Bool
  | .copySample .. | .copySource .. | .copyLand .. | .copyPerform .. | .mapGather .. | .mapLand .. => true
  | _ => false

/-- The 64-bit words of the trap frame (R189), in order from offset 0. -/
def frameWords (c : Ctx) (gcc : Nat) : List W64 :=
  [c.tcause.setWidth 64, c.tpc, c.tval, c.tstate.setWidth 64, c.trttc, BitVec.ofNat 64 gcc, c.trtgt] ++
  c.lc.toList ++ [c.sp.setWidth 64, BitVec.ofNat 64 c.mask.length, c.vmode.setWidth 64, c.vflags.setWidth 64, c.padm] ++
  c.prec.toList.map (fun p => p.setWidth 64) ++ c.winlog.toList.map (fun w => w.setWidth 64) ++
  [BitVec.ofNat 64 (descriptors c.snap c.snapU).length, 0, 0, 0] ++ (descriptors c.snap c.snapU).flatMap (fun d => [d.1, d.2])

/-- Write the frame at TFRAME (R185 step 6). -/
def writeFrame (s : State) (k : Nat) : State :=
  let c := ctxOf s k
  let ws := frameWords c s.gcc
  bufWrite s k .dm c.tframe.toNat (8 * ws.length)
    (memWriteList [] 0 (ws.flatMap (fun w => bytesOfNat 8 w.toNat))) []

/-- Does the frame area lie in the DM partition, 64-byte aligned? (R186, R189) A TFRAME that a handler left unaligned makes the
next trap a double fault, as one outside the partition does: the spec does not say (DESIGN CHOICE, log 95). -/
def frameFits (c : Ctx) : Bool := decide (c.tframe.toNat % 64 = 0 ∧ c.tframe.toNat + 1280 ≤ c.size .dm)

/-- Lemelo will end the node of a context with a status (R336, R337). -/
def setFate (s : State) (k status : Nat) : State :=
  match (ctxOf s k).task with
  | some t => modNode s t.tenant t.node (fun n => { n with fate := status })
  | none => s

/-- The node of a context rolls back: the context consumed uncorrectable data, diverged, or is lost (R327, R336). -/
def setRoll (s : State) (k : Nat) : State :=
  match (ctxOf s k).task with
  | some t => modNode s t.tenant t.node (fun n => { n with mustRoll := true })
  | none => s

/-- A double fault (R193, R337): the context freezes with DBL, an entry is posted, and Lemelo ends the node FAULTED. -/
def doubleFault (s : State) (k cause : Nat) (tval tpc : W64) : State :=
  let s := setFate s k 5
  let s := modCtx s k (fun c => { c with tstate := c.tstate ||| 0x80 })
  postCtxFault (freezeGroup s k .dbl) k cause 0x21 tval 0 tpc.toNat

/-- TSTATE at entry (R188). -/
def entryStatus (nsnap : Nat) (defer wt sgm : Bool) (rd : Option Redirect) : BitVec 16 :=
  BitVec.ofNat 16 (nsnap % 256 * 256 + (if defer then 64 else 0) + (if wt then 32 else 0) + (if sgm then 16 else 0) +
    ((rd.map (fun r => r.left)).getD 0) % 4 * 4 + (if rd.isSome then 2 else 0))

/-- Take a trap of context `k` at the boundary b = this GCC (R185). `tpc` is the bundle to resume, with any pending
redirect still in the context; an unstated TVAL is a free value (log 3). -/
def takeTrap (s : State) (k cause : Nat) (tval : Option W64) (tpc : W64) (wt defer : Bool) : State :=
  let v := tval.getD (Config.freeWord s.fresh)
  let s := if tval.isSome then s else nextFresh s 1
  let c := ctxOf s k
  if c.mode = .supervisor ∨ ¬ frameFits c then doubleFault s k cause v tpc
  else
    let snap := snapshot c.flights c.ttc
    let n := (descriptors snap c.untimed).length
    let sgm := c.group != [] || c.flights.any (fun f => isCopyState f.act)
    let s := setCtx s k { c with
      tcause := BitVec.ofNat 8 cause, tpc := tpc, tval := v,
      tstate := entryStatus n defer wt sgm c.redirect,
      trtgt := (c.redirect.map (fun r => r.target)).getD 0,
      trttc := BitVec.ofNat 64 c.ttc,
      snap := snap, snapU := c.untimed, flights := [], untimed := [], frameGcc := s.gcc, frameAt := c.tframe.toNat,
      frameOrder := (frameEntries snap c.untimed).map (fun e => e.seq), loopState := [],
      heldPops := c.redirect.any (fun r => r.pops), redirect := none, branch := none, skip := none, maskNext := none, idle := 0, wait := none,
      heldWait := if wt then c.wait else none,
      mode := .supervisor, ttc := 0, pc := c.tvec, resume := s.gcc + 8 }
    let s := writeFrame s k
    let s := pauseResv (if cause = 0x0F ∨ cause = 0x10 then setRoll s k else s) k
    (groupOf s k).foldl (fun s j => if j = k then s else freezeCtx s j .trp) s

/-- Raise a cause at issue: the trap names the bundle itself, which had no effect (R187, first row). -/
def raiseAtIssue (s : State) (cause : Nat) (tval : Option W64) : State :=
  { takeTrap s s.cur cause tval (here s).pc false false with
    issueFault := some (cause, tval.getD (Config.freeWord s.fresh)) }

/-- Turn an operation at issue into the outcome of a step. -/
def finish (s : State) : Issue → Host.Outcome State Fault Refusal
  | .ok t => .next t
  | .trap c v => .next (raiseAtIssue s c v)

/-- Post a cause to be taken at the boundary after this cycle (R187, second row). -/
def postCause (s : State) (k cause : Nat) (tval : W64) : State :=
  modCtx s k (fun c => { c with causes := c.causes ++ [(cause, tval)] })

/-! ### Returning from a trap (R192) -/

/-- The cycle r of R192: at least three after RTE, one after the drain, and in phase when SGM is set. -/
def resumeCycle (c : Ctx) (issued drained : Nat) : Nat :=
  let r := max (issued + 3) (drained + 1)
  if c.tstate.getLsbD 4 then r + (c.frameGcc % 1024 + 1024 - r % 1024) % 1024 else r

/-- The group members frozen by a trap thaw with the trapped one (R192). -/
def releaseTrap (s : State) (j : Nat) : State :=
  modCtx s j (fun c => { c with freeze := c.freeze.map (fun f =>
    { f with marks := f.marks.filter (· != .trp), soon := max f.soon s.gcc }) })

/-- An act whose TTCs move by `d`, where a handler has changed TRTTC. -/
def Act.moveBy (d : Int) : Act → Act
  | .mmaRead r g n a b x y => .mmaRead { r with start := r.start + d } g n a b x y
  | .mmaUpdate r g a b x y => .mmaUpdate { r with start := r.start + d } g a b x y
  | .copySample r j => .copySample { r with start := r.start + d } j
  | .copySource r j => .copySource { r with start := r.start + d } j
  | .copyLand r j m b => .copyLand { r with start := r.start + d } j m b
  | .copyPerform r j m b => .copyPerform { r with start := r.start + d } j m b
  | .mapGather r j m b => .mapGather { r with start := r.start + d } j m b
  | .mapLand r j m b => .mapLand { r with start := r.start + d } j m b
  | .fill r x j => .fill { r with start := r.start + d } x j
  | .recv src p n st => .recv src p n (st + d)
  | a => a

/-- A flight whose next effect is at TTC `due`. -/
def Flight.moveTo (f : Flight) (due : Nat) : Flight :=
  { f with
    due := due
    act := f.act.moveBy ((due : Int) - f.due)
    res := f.res.map (fun r => (r.1, r.2.1, r.2.2 + due - f.due)) }

/-- The redirect that RTE restores (R192), and where control goes first: with RCNT 0 to the target at once, or behind the wait
that resumes. Where WT was set and TPC holds no wait, the bundle at TPC issues in full before the target (log 96). -/
def restoredPath (c : Ctx) (w : Option Wait) (after : W64) : W64 × Option Redirect :=
  let left := (c.tstate.extractLsb' 2 2).toNat
  let first := if w.isSome then after else c.tpc
  if !c.tstate.getLsbD 1 then (first, none)
  else if left = 0 ∧ w.isNone ∧ c.tstate.getLsbD 5 then (first, some ⟨c.trtgt, 1, c.heldPops⟩)
  else if left = 0 then (c.trtgt, none)
  else (first, some ⟨c.trtgt, left, c.heldPops⟩)

/-- The causes deferred to the resumption: those of faulted snapshot entries (R191), each with 0x100 added to its code. -/
def deferredCauses (c : Ctx) : List (Nat × W64) :=
  (c.snap.filterMap (fun e => e.fault) ++ c.snapU.flatMap (fun u => u.late)).map (fun f => (f.1 + 0x100, f.2))

/-- Everything RTE restores at r: mode, TTC, TPC, redirect, snapshot entries, reservations, group members; the deferred causes
are posted (R191, R192). `w` is the wait that resumes and `after` the bundle behind it. -/
def resumeFromTrap (s : State) (k : Nat) (w : Option Wait) (after : W64) : State :=
  let c := ctxOf s k
  let ttc := c.trttc.toNat
  let path := restoredPath c w after
  let s := setCtx s k { c with
    mode := if c.tstate.getLsbD 0 then .supervisor else .user,
    ttc := ttc, pc := path.1, redirect := path.2,
    flights := c.snap.map (fun e => e.flight.moveTo (ttc + e.delay)) ++ c.flights,
    untimed := c.snapU.map (fun u => { u with late := [] }), snap := [], snapU := [], wait := w, heldWait := none,
    resume := s.gcc, causes := c.causes ++ c.heldCauses ++ deferredCauses c, heldCauses := [] }
  let s := resumeResv s k 0
  (groupOf s k).foldl (fun s j => if j = k then s else releaseTrap s j) s

end Sys2Proof.Machine
end

