-- ==== Sys2Proof/Machine/Energy.lean ====
section
/-! DEFINITION. Weights, draws and the window rule (R122–R136). -/

namespace Sys2Proof.Machine

/-- Weight of a V operation's arithmetic class (R124). -/
def classWeight (t : Ty) : Nat :=
  match t with
  | .f32 => 8 | .f16 | .bf16 => 6 | _ => 5

/-- The architected weight of an operation (R124); events and walker syllables carry none. -/
def opWeight : Instr → Nat
  | .mul .. | .mulh .. | .mulhn .. | .madd .. => 2
  | .div .. | .divn .. | .rem .. | .remn .. | .divc .. => 3
  | .add .. | .sub .. | .addi .. | .and .. | .or .. | .xor .. | .andi .. | .ori .. | .xori .. | .shl .. | .shr ..
  | .sar .. | .shli .. | .shri .. | .sari .. | .slt .. | .sltn .. | .seq .. | .slti .. | .sel .. | .min .. | .max ..
  | .minn .. | .maxn .. | .li .. | .lih .. | .clz .. | .popc .. | .exts .. | .extz .. | .ins .. | .ceilm .. => 1
  | .ld .. | .st .. | .ldg .. | .stg .. => 2
  | .amoaddDm .. | .amoaddGlobal .. | .amominDm .. | .amominGlobal .. | .amomaxDm .. | .amomaxGlobal ..
  | .amominnDm .. | .amominnGlobal .. | .amomaxnDm .. | .amomaxnGlobal .. | .amoandDm .. | .amoandGlobal ..
  | .amoorDm .. | .amoorGlobal .. | .amoxorDm .. | .amoxorGlobal .. | .amoswapDm .. | .amoswapGlobal ..
  | .amocasDm .. | .amocasGlobal .. => 3
  | .gset .. | .gsetf .. | .gget .. | .gadv .. | .grst .. | .gmask .. | .gcopy .. => 1
  | .vadd _ _ _ _ t | .vsub _ _ _ _ t | .vmul _ _ _ _ t | .vfma _ _ _ _ t | .vfms _ _ _ _ t | .vfnma _ _ _ _ t
  | .vmin _ _ _ _ t | .vmax _ _ _ _ t | .vabs _ _ _ t | .vneg _ _ _ t | .vclamp _ _ _ _ _ t
  | .vscale _ _ _ _ t => classWeight t
  | .vand .. | .vor .. | .vxor .. | .vnot .. | .vshl .. | .vshr .. | .vsar .. | .vmulh .. | .vsel .. | .vmov ..
  | .viota .. | .vins .. => 5
  | .vcmpeq .. | .vcmpne .. | .vcmplt .. | .vcmple .. | .vclass .. => 4
  | .vcvt _ _ _ _ x => classWeight x.dt
  | .vbcast .. | .vext .. | .vperm .. | .vrot .. | .vzip .. | .vunzip .. => 6
  | .vrcp .. | .vrsq .. | .vsqrt .. | .vexp2 .. | .vlog2 .. | .vtanh .. | .vsin .. => 14
  | .vred .. | .vscan .. => 10
  | .vtopk .. => 16
  | .vhacc .. => 12
  | .vnest .. => 4
  | .vunpk .. | .vunpks .. | .vunpkz .. | .vpack .. | .vpacksc .. | .vpackz .. => 3
  | .pand .. | .por .. | .pxor .. | .pnot .. | .psetHalf .. | .psetL16 .. | .psetL32 .. | .pget .. | .pcnt .. => 1
  | .vld .. | .vst .. | .vlds .. | .vsts .. | .vldb .. => 8
  | .vldx .. | .vstx .. => 10
  | .mma .. | .mmaz .. | .mmag .. | .mmas .. | .tdrain .. | .tload .. | .tclr .. | .tmask .. | .precset .. | .tstat .. => 2
  | .copy .. | .copym .. | .gather .. | .scatter .. | .xsend .. | .xrecv .. | .fput .. | .fget .. | .fatom .. | .dput ..
  | .dget .. | .wstart .. | .wstop | .qsend .. | .qrecv .. | .launch .. | .signal .. | .fill .. => 2
  | .b .. | .bz .. | .bnz .. | .beq .. | .bne .. | .blt .. | .bge .. | .bltn .. | .bgen .. | .bany .. | .bnone ..
  | .bmz .. | .call .. | .calli .. | .jmpi .. | .loop .. | .loopp .. | .sloop .. | .bsel .. | .mpush .. | .minv | .mpop
  | .idle .. | .endTask | .yield | .waite | .waitq .. | .waitm .. | .csync | .barinit .. | .bararr .. | .barwait ..
  | .fence .. | .pbar | .pcommit .. | .getc .. | .setc .. | .trap .. | .rte | .ipf .. | .ipin .. | .iunpin ..
  | .setallow .. | .setallowMode .. | .ctxsave .. | .ctxload .. | .gfreeze .. | .gthaw .. | .tlbinv .. | .segload ..
  | .msgsend .. | .halt => 1
  | _ => 0

/-- Draw of an interval in cycle `t` (R126): from its start to its end. One paused by a trap or freeze counts in full from the
start it was reserved for, and without end (R122, R127, R130). -/
def Interval.drawAt (i : Interval) (t : Nat) : Nat :=
  if decide (i.start ≤ t) && (i.paused.isSome || i.stop.all (fun e => decide (t ≤ e))) then i.draw else 0

/-- Sum of the draws of a core's reservations in cycle `t`. -/
def drawsAt (resv : List Interval) (t : Nat) : Nat := (resv.map (fun i => i.drawAt t)).sum

/-- E(c) of the last `n` cycles, latest first (R122). -/
def pastEnergy (c : CoreState) (n : Nat) : Nat := ((c.window.take n).map (fun w => w.2)).sum

/-- S(t) with `w` as the weight of a bundle issued at t (R122). -/
def windowSum (c : CoreState) (t w : Nat) (resv : List Interval) : Nat := pastEnergy c 7 + w + drawsAt resv t

/-- Window sum of the cycle t + dt, dt ≥ 1, as check 2 of R127 counts it. -/
def futureSum (c : CoreState) (t w dt : Nat) (resv : List Interval) : Nat :=
  let ahead := ((List.range (min dt 8)).map (fun i => drawsAt resv (t + dt - i) + 8)).sum
  if dt < 8 then ahead + (w + drawsAt resv t) + pastEnergy c (7 - dt) else ahead

/-- The ends of intervals after t: windows grow only while starts are ahead, so check 2 looks at the cycles up to eight
past the last start (R127). -/
def lastStart (t : Nat) (resv : List Interval) : Nat := resv.foldl (fun m i => max m i.start) t

/-- Offsets dt ≥ 1 whose windows check 2 examines: every window that ends within eight cycles of t, of a start or of a
stop; between them the sum is constant (R127). -/
def checkOffsets (t : Nat) (resv : List Interval) : List Nat :=
  let marks := t :: resv.flatMap (fun i => i.start :: i.stop.toList)
  marks.flatMap (fun m => ((List.range 9).map (fun j => m + j)).filterMap (fun e => if t < e then some (e - t) else none))

/-- Earliest failing dt of check 2 (R127, R128). -/
def failingWindow (c : CoreState) (t w allow : Nat) (resv : List Interval) : Option Nat :=
  (checkOffsets t resv).foldl (fun best dt =>
    if allow < futureSum c t w dt resv then some (match best with | none => dt | some b => min b dt) else best) none

/-- What the window check answers. -/
inductive WindowVerdict where
  | fits
  | refused (tval : W64) (dt : Nat)
deriving DecidableEq, Repr

/-- TVAL of the illegal-bundle trap (R128). A DT above 65,535 does not fit its field and is stored modulo 2^16: the spec is
silent (DESIGN CHOICE, log 97). -/
def refusalVal (allow dt : Nat) (full res : Bool) (sum : Nat) : W64 :=
  BitVec.ofNat 64 (allow % 2 ^ 16 * 2 ^ 48 + dt % 2 ^ 16 * 2 ^ 32 + (if full then 2 ^ 17 else 0) +
    (if res then 2 ^ 16 else 0) + min sum 0xFFFF)

/-- The checks of R122 and R127 on a bundle of declared weight `w` that reserves `new` at t, in the order of R128. The interval of a
command with a missed start that lies wholly before t takes no entry and calls for no second check (R161; DESIGN CHOICE, log 139). -/
def windowCheck (c : CoreState) (t w : Nat) (new : List Interval) : WindowVerdict :=
  let new := new.filter (fun i => i.stop.all (fun e => decide (t ≤ e)))
  let resv := c.resv ++ new
  let now := windowSum c t w resv
  if c.value < now then .refused (refusalVal c.value 0 false false now) 0
  else if new = [] then .fits
  else if 16 < resv.length then .refused (refusalVal c.value 0 true false 0) 0
  else match failingWindow c t w c.value resv with
    | none => .fits
    | some dt => .refused (refusalVal c.value dt false true (futureSum c t w dt resv)) dt

/-- WINLOG of a refused bundle: W and E of the eight cycles of the failing window (R128). -/
def refusedLog (c : CoreState) (t w dt : Nat) (resv : List Interval) : Vector (BitVec 24) 8 :=
  Vector.ofFn (fun k : Fin 8 =>
    let at_ := dt + k.val
    -- cycle t + dt − 7 + k
    if 7 < at_ then
      let cyc := t + (at_ - 7)
      BitVec.ofNat 24 (8 * 2 ^ 16 + min (drawsAt resv cyc + 8) 0xFFFF)
    else if at_ = 7 then BitVec.ofNat 24 (w % 256 * 2 ^ 16 + min (w + drawsAt resv t) 0xFFFF)
    else
      let x := (c.window[6 - at_]?).getD (0, 0)
      BitVec.ofNat 24 (x.1 % 256 * 2 ^ 16 + min x.2 0xFFFF))

/-- The requirement RQ of a core's resident set (R134): classes and carries of the occupied contexts. -/
def requirement (s : State) (core : Nat) : Nat :=
  let ks := (List.range 4).filterMap (fun i => (ctxOf s (core * 4 + i)).task.map (fun t => (t.aclass * 400, t.carry)))
  let total := (ks.map (fun x => x.2)).sum
  ks.foldl (fun m x => max m (x.1 + (total - x.2))) 0

/-- Largest eight-cycle draw of the intervals in the table, open and paused ones without end (R135): the sum changes its slope
only within eight cycles of t, of a start or of a stop. -/
def drawPeak (c : CoreState) (t : Nat) : Nat :=
  (0 :: checkOffsets t c.resv).foldl (fun m d => max m (((List.range 8).map (fun i => drawsAt c.resv (t + d - i))).sum)) 0

/-- Recompute VALUE in STRETCH mode (R135). -/
def stretchValue (s : State) (core : Nat) : State :=
  modCore s core (fun c => if c.strict then c else { c with value := max c.target (requirement s core) })

/-- Add reservations of the acting core (R126). -/
def reserve (s : State) (new : List Interval) : State := modHereCore s (fun c => { c with resv := c.resv ++ new })

/-- Remove the intervals of context `k` that last until its wait; those of an interrupted program stay (R126, R130). -/
def releaseOpen (s : State) (k : Nat) : State :=
  modCore s (coreIx k) (fun c => { c with resv := c.resv.filter (fun i => !(i.ctx == k && i.stop.isNone && i.paused.isNone)) })

/-- A timed span of the acting context in GCC, from TTC `a` to TTC `b`; one whose start was missed lies behind, and its cycles before
this one count for nothing (R161). -/
def span (s : State) (a b draw : Nat) : Interval :=
  let c := here s
  ⟨s.cur, s.gcc + a - c.ttc, some (s.gcc + b - c.ttc), draw, none⟩

/-- A reservation from issue to the draining wait. -/
def openSpan (s : State) (draw : Nat) : Interval := ⟨s.cur, s.gcc, none, draw, none⟩

end Sys2Proof.Machine
end

