-- ==== Sys2Proof/Machine/Operands.lean ====
section
/-! DEFINITION. Operand forms: vector lanes and scalar broadcasts (R149, R212), addresses of buffers and of device
memory (R72, R84–R88, R348), and the bytes behind them. -/

namespace Sys2Proof.Machine

/-! ### Lanes (R212, R213) -/

/-- lane(v, i, w) (R138). -/
def laneOf (x : VWord) (w i : Nat) : Nat := (x.extractLsb' (w * i) w).toNat

/-- A register from its lanes. -/
def ofLanes (w n : Nat) (f : Nat → Nat) : VWord :=
  BitVec.ofNat 2048 ((List.range n).foldl (fun acc i => acc + f i % 2 ^ w * 2 ^ (w * i)) 0)

/-- A vector source: the register, or a scalar broadcast to every lane (R149). -/
def readSrc (c : Ctx) (t : Ty) : VSrc → VWord
  | .vec r => c.readV r
  | .scal r => ofLanes t.width t.lanes (fun _ => (c.readS (r.castLE (by decide))).toNat)

/-- The scalar of a transfer operand s0–s31. -/
def readLow (c : Ctx) (r : Fin 32) : W64 := c.readS (r.castLE (by decide))

/-- The predicate bit of lane i: bit i for 16-bit lanes, bit 2i for 32-bit lanes (R43). -/
def laneBit (p : PWord) (t : Ty) (i : Nat) : Bool := p.getLsbD (if t.width = 32 then 2 * i else i)

/-- The lanes that act: predicate AND MT (R213). -/
def activity (c : Ctx) (p : PReg) : PWord := c.readP p &&& c.mt

/-- The register bits of the lanes that act. -/
def laneMask (t : Ty) (act : PWord) : VWord :=
  ofLanes t.width t.lanes (fun i => if laneBit act t i then 2 ^ t.width - 1 else 0)

/-- Predicate bits of lane i (R218). -/
def predBits (t : Ty) (i : Nat) : Nat := if t.width = 32 then 3 * 2 ^ (2 * i) else 2 ^ i

/-- A predicate register from its lanes. -/
def ofLaneBits (t : Ty) (f : Nat → Bool) : PWord :=
  BitVec.ofNat 128 ((List.range t.lanes).foldl (fun acc i => acc + if f i then predBits t i else 0) 0)

/-! ### Buffers (R71–R73) -/

/-- Does [off, off + len) lie inside the partition? (R72) -/
def inPartition (c : Ctx) (b : Buf) (off len : Nat) : Bool := decide (off + len ≤ c.size b)

/-- Bank group of a byte offset: address bit 11 (R71). -/
def bankGroup (off : Nat) : Nat := off / 2048 % 2

/-- The 256-byte lines of a range. -/
def linesOf (off len : Nat) : List Nat :=
  if len = 0 then [] else (List.range ((off + len - 1) / 256 - off / 256 + 1)).map (fun i => off / 256 + i)

/-- TVAL of R73. -/
def bufVal (line buf : Nat) (write : Bool) (agb aga : Nat) : W64 :=
  BitVec.ofNat 64 (line % 2 ^ 16 * 2 ^ 16 + buf % 16 * 2 ^ 12 + (if write then 2 ^ 11 else 0) + agb % 16 * 16 + aga % 16)

/-- Does a walk of the context hold an AB line? Those of an interrupted program stand in its snapshot (R185, R298). -/
def walkHolds (s : State) (k line : Nat) : Bool :=
  (clusterOf s (clusIx k)).walkLines.any (fun l => l.1 == k && l.2.2 == line && !(ctxOf s k).snapU.any (fun u => u.seq == l.2.1))

/-- Buffer lines of the context that are pending: from its untimed operations and its walks (R30, R298). -/
def pendingLine (s : State) (k : Nat) (b : Buf) (line : Nat) : Bool :=
  (ctxOf s k).untimed.any (fun u => u.pending.any (fun p => p.buf == b && p.off / 256 == line)) || (b == .ab && walkHolds s k line)

/-- First pending line among the lines of a range. -/
def firstPending (s : State) (k : Nat) (b : Buf) (off len : Nat) : Option Nat :=
  (linesOf off len).find? (fun l => pendingLine s k b l)

/-- Raise pending line when an access touches one (R30). -/
def checkPending (s : State) (b : Buf) (off len : Nat) (write : Bool) (agent : Nat) : Issue :=
  match firstPending s s.cur b off len with
  | none => .ok s
  | some l => .trap 0x08 (some (bufVal l (bufCode b) write agent agent))

/-- Does an untimed operation make a tile pending? (R257, R258) -/
def holdsTile (t : TileIx) (u : Untimed) : Bool :=
  match u.job with
  | .mmag _ _ _ table => table.any (fun e => fieldOf e.toNat 16 2 == t.val)
  | .mmas _ _ _ _ tiles _ => tiles.contains t.val
  | _ => false

/-- A tile is pending under an MMAG or MMAS of the context (R257, R258). -/
def tilePending (c : Ctx) (t : TileIx) : Bool := c.untimed.any (holdsTile t)

/-- TVAL of a pending line met by an agent to which R73 gives no code (R30). -/
def pendingVal (line buf : Nat) (write : Bool) (unit : Nat) : W64 :=
  bufVal line buf write (Config.agentCode unit) (Config.agentCode unit)

/-- Raise pending line when an instruction's read through the command port touches one (R30, R77). -/
def checkPort (s : State) (off len : Nat) : Issue :=
  match firstPending s s.cur .dm off len with
  | none => .ok s
  | some l => .trap 0x08 (some (pendingVal l 3 false 0))

/-- A read of DM through the command port at issue: aligned, inside the partition, not pending, clean (R77). What cannot be
read decides nothing. -/
def commandRead (s : State) (off len align : Nat) (f : Memory → Issue) : Issue :=
  if off % align != 0 || !inPartition (here s) .dm off len then .trap 0x16 none
  else (checkPort s off len).andThen (fun s =>
    if badBytes s s.cur .dm off len != [] then .trap 0x0F none else f (bufPrior s s.cur .dm off len))

/-! ### Device addresses (R84–R88, R348) -/

/-- Kinds of memory behind a device address (R86, R87). -/
inductive MemKind where
  | plain | pg | dur | host | rem
deriving DecidableEq, Repr

/-- A translated address. -/
structure Spot where
  kind  : MemKind
  pkg   : Nat
  paddr : Nat
  write : Bool
deriving DecidableEq, Repr

/-- The answer of a translation (R84, R89). -/
inductive Lookup where
  | hit (p : Spot)
  | unmapped
  | noSegment
deriving DecidableEq, Repr

def Segment.valid (g : Segment) : Bool := g.w3.getLsbD 0
def Segment.vbase (g : Segment) : Nat := fieldOf g.w0.toNat 16 40 * 65536
def Segment.bytes (g : Segment) : Nat := fieldOf g.w1.toNat 16 30 * 65536
def Segment.pbase (g : Segment) : Nat := fieldOf g.w2.toNat 16 29 * 65536
def Segment.pkg (g : Segment) : Nat := fieldOf g.w2.toNat 45 7
def Segment.kind (g : Segment) : MemKind :=
  if g.w3.getLsbD 1 then .pg else if g.w3.getLsbD 2 then .dur else if g.w3.getLsbD 3 then .host
  else if g.w3.getLsbD 4 then .rem else .plain
def Segment.readOnly (g : Segment) : Bool := g.w3.getLsbD 5

/-- Is the physical address inside the range of its kind? (R88) -/
def physOk (k : MemKind) (a : Nat) : Bool :=
  match k with
  | .plain | .pg => decide (a < Config.hbmEnd)
  | .dur => decide (Config.durBase ≤ a ∧ a < Config.durEnd)
  | .host => decide (Config.hostBase ≤ a ∧ a < Config.hostEnd)
  | .rem => true

/-- One level of the page walk: a valid table entry's NEXT (R348). -/
def nextTable (m : Memory) (table ix : Nat) : Option Nat :=
  let e := memReadNat m (table + 8 * ix) 8
  if e % 2 = 1 ∧ fieldOf e 1 12 = 0 ∧ fieldOf e 45 19 = 0 then some (fieldOf e 13 32 * 8192) else none

/-- The page walk: physical page and W (R348). -/
def pageWalk (m : Memory) (root v : Nat) : Option (Nat × Bool) :=
  match nextTable m root (fieldOf v 46 10) with
  | none => none
  | some t2 => match nextTable m t2 (fieldOf v 36 10) with
    | none => none
    | some t3 => match nextTable m t3 (fieldOf v 26 10) with
      | none => none
      | some t4 =>
        let e := memReadNat m (t4 + 8 * fieldOf v 16 10) 8
        if e % 2 = 1 ∧ fieldOf e 2 14 = 0 ∧ fieldOf e 45 19 = 0 ∧ fieldOf e 16 29 * 65536 < Config.hbmEnd
        then some (fieldOf e 16 29 * 65536, e.testBit 1) else none

/-- A cached translation of the cluster, or a page walk from the tenant's root (R349, R350). -/
def pageOf (s : State) (k tenant v : Nat) : Option (Nat × Bool) :=
  match (clusterOf s (clusIx k)).tlb.find? (fun e => e.1 == tenant && e.2.1 == v / 65536) with
  | some e => some (fieldOf e.2.2.toNat 16 29 * 65536, e.2.2.getLsbD 1)
  | none =>
    let root := (tenantOf s tenant).ptroot
    if root.getLsbD 0 then pageWalk s.mem (fieldOf root.toNat 13 32 * 8192) v else none

/-- The first valid segment that holds an address (R84). -/
def segmentAt (segs : Option (List Segment)) (v : Nat) : Option Segment :=
  (segs.getD []).find? (fun g => g.valid && decide (g.vbase ≤ v ∧ v < g.vbase + g.bytes))

/-- Translation of a 56-bit device address of a context (R84). -/
def translate (s : State) (k v : Nat) : Lookup :=
  let c := ctxOf s k
  match c.task with
  | none => .noSegment
  | some t =>
    if ((BitVec.ofNat 64 v - c.heapBase).toNat < c.heapLim.toNat) then
      let a := (BitVec.ofNat 64 v + c.heapOff).toNat
      if a < Config.hbmEnd then .hit ⟨.plain, 0, a, true⟩ else .noSegment
    else match segmentAt (some t.segs) v with
      | none => .noSegment
      | some g =>
        match g.kind with
        | .pg => match pageOf s k t.tenant v with
          | none => .unmapped
          | some (p, w) => .hit ⟨.pg, 0, p + v % 65536, w && !g.readOnly⟩
        | kd =>
          let a := g.pbase + (v - g.vbase)
          if physOk kd a then .hit ⟨kd, g.pkg, a, !g.readOnly⟩ else .noSegment

/-- The kind of the segment that holds an address, mapped or not, and whether it may be written: what the checks at issue need
(R84, R264). A page that is not mapped leaves the segment's RO to decide. -/
def kindOf (s : State) (k v : Nat) : Option (MemKind × Bool) :=
  match translate s k v with
  | .hit p => some (p.kind, p.write)
  | .unmapped => some (.pg, !(segmentAt ((ctxOf s k).task.map (fun t => t.segs)) v).any (fun g => g.readOnly))
  | .noSegment => none

/-- Cache the translation of a PG page in the cluster, in place of the oldest where it is full (R350). -/
def cachePage (s : State) (k v : Nat) : State :=
  match (ctxOf s k).task with
  | none => s
  | some t => match pageOf s k t.tenant v with
    | none => s
    | some (p, w) => modCluster s (clusIx k) (fun c =>
        if c.tlb.any (fun e => e.1 == t.tenant && e.2.1 == v / 65536) then c
        else { c with tlb := c.tlb.drop (c.tlb.length - 2047) ++ [(t.tenant, v / 65536, BitVec.ofNat 64 (p + (if w then 2 else 0) + 1))] })

/-! ### Bytes behind a physical address (R87, R94, R117) -/

/-- Word i of a launch record (R316). -/
def recWord (r : GWord) (i : Nat) : Nat := (r.extractLsb' (64 * i) 64).toNat
def recSerial (r : GWord) : Nat := fieldOf (recWord r 2) 32 32

/-- A byte as it was before the writes of this cycle, which no read of it sees (R99). -/
def priorByte (s : State) (a : Nat) : Byte :=
  match s.written.find? (fun w => w.1 == a) with
  | some w => w.2
  | none => memRead s.mem a

/-- Does an uncommitted write cover an address? -/
def Tentative.covers (w : Tentative) (a : Nat) : Bool := decide (w.addr ≤ a ∧ a < w.addr + w.after.length)

/-- The number behind that of the reader's own last uncommitted write of an address, 0 where it has none: a write of its node, an atomic
or a write over the fabric (R207). -/
def ownLatest (s : State) (ownNode : Nat → Nat → Bool) (own : Writer → Bool) (a : Nat) : Nat :=
  let node : List Nat := s.tenants.flatMap (fun t => t.2.nodes.flatMap (fun n =>
    if ownNode t.1 n.1 then (n.2.tentative.filter (fun w => w.covers a)).map (fun w => w.no + 1) else []))
  let noted : List Nat :=
    (s.noted.filter (fun w => own w.by_ && decide (w.addr ≤ a ∧ a < w.addr + w.len))).map (fun w => w.no + 1)
  (node ++ noted).foldl max 0

/-- Note an atomic or a write over the fabric of a writer that has not committed (R207). -/
def noteOwn (s : State) (w : Writer) (a len : Nat) : State :=
  { nextFresh s 1 with noted := s.noted ++ [⟨w, s.fresh, a, len⟩] }

/-- A writer has committed or rolled back: nothing of it is its own any more. -/
def dropOwn (s : State) (w : Writer) : State := { s with noted := s.noted.filter (fun x => x.by_ != w) }

/-- The bytes that uncommitted writes of other nodes let a read of HBM see besides the present one: none of those before the
reader's own latest write (R87, R207). -/
def tentativeBytes (s : State) (ownNode : Nat → Nat → Bool) (own : Writer → Bool) (a : Nat) : List Byte :=
  s.tenants.flatMap (fun t => t.2.nodes.flatMap (fun n =>
    if ownNode t.1 n.1 then []
    else (n.2.tentative.filter (fun w => w.covers a && decide (ownLatest s ownNode own a ≤ w.no))).flatMap (fun w =>
      [w.before.getD (a - w.addr) 0, w.after.getD (a - w.addr) 0])))

/-- Does a reader see an open byte: a write of an earlier cycle (R99) that is committed or its own (R94), or, of another node
over the fabric, as it may (R117)? -/
def isSeen (s : State) (own : Writer → Bool) (e : OpenByte) : Bool :=
  (e.at_ == 0 || decide (e.at_ < s.gcc)) && (match e.by_ with
    | none => true
    | some w => own w || (w.fabric && Config.freePick s.fresh s.gcc (2 * (e.addr / 64) + 1) % 2 == 0))

/-- The byte at an address as its open writes show it to a reader: the last that it sees (R94, R117). -/
def openByte (s : State) (own : Writer → Bool) (a : Nat) : Byte :=
  match ((s.uncommitted.filter (fun e => e.addr == a && isSeen s own e)).getLast?) with
  | some e => e.byte
  | none => priorByte s a

/-- A byte of the package as a reader sees it: where writes of other nodes are uncommitted, any of the values that the rules
allow, a choice for each byte of HBM (R87), and for each line written over the fabric (R117). -/
def seenByte (s : State) (ownNode : Nat → Nat → Bool) (own : Writer → Bool) (a : Nat) : Byte :=
  let base := openByte s own a
  match tentativeBytes s ownNode own a with
  | [] => base
  | l => (base :: l).getD (Config.freePick s.fresh s.gcc (2 * a) % (l.length + 1)) base

/-- Are the open writes of a writer the own ones of node (tenant, node)? -/
def ownWrites (s : State) (tenant node : Nat) (w : Writer) : Bool :=
  if w.fabric then w == ⟨true, s.pkgId, tenant, recSerial (nodeOf s tenant node).record⟩ else w == ⟨false, 0, tenant, node⟩

/-- Is what the host wrote at an address undefined for a node? (R359) -/
def isClouded (s : State) (tenant node a : Nat) : Bool :=
  s.clouded.any (fun c => c.addr == a && c.tenant == tenant && c.node == node &&
    c.serial == recSerial (nodeOf s tenant node).record)

/-- Read a byte of the package as node (tenant, node) sees it. -/
def physRead (s : State) (tenant node a : Nat) : Byte :=
  if isClouded s tenant node a then BitVec.ofNat 8 (Config.freePick s.fresh s.gcc (2 * a))
  else seenByte s (fun t n => t == tenant && n == node) (ownWrites s tenant node) a

def physReadList (s : State) (tenant node a n : Nat) : List Byte :=
  (List.range n).map (fun i => physRead s tenant node (a + i))

/-- The aligned 64-byte lines of a byte range. -/
def lines64 (a n : Nat) : List Nat :=
  if n = 0 then [] else (List.range ((a + n - 1) / 64 - a / 64 + 1)).map (fun i => a / 64 + i)

/-- Note a write to HBM that other nodes may or may not see until the node commits (R87). -/
def noteTentative (s : State) (tenant node a : Nat) (bytes : List Byte) : State :=
  match (nodeOf s tenant node).state with
  | .free | .retired => s
  | _ => modNode (nextFresh s 1) tenant node (fun n =>
      { n with tentative := n.tentative ++ [⟨s.fresh, a, memReadList s.mem a bytes.length, bytes⟩] })

/-- The 64-byte pieces of the line of an address, 256 bytes in HBM and 64 in the durable tier. -/
def linePieces (a : Nat) : List Nat :=
  if Config.durBase ≤ a then [a / 64] else (List.range 4).map (fun i => a / 256 * 4 + i)

/-- Pieces of lines that are written whole lose their mark; the line has lost it once all its pieces have (R353). -/
def clearMarks (s : State) (a len : Nat) : State :=
  { s with marked := s.marked.filter (fun l => !decide (a ≤ l * 64 ∧ l * 64 + 64 ≤ a + len)) }

/-- Mark pieces of lines as uncorrectable (R353). -/
def addMarks (s : State) (ls : List Nat) : State := { s with marked := s.marked ++ ls.filter (fun l => !s.marked.contains l) }

/-- Is the line of an address delivered uncorrectable? (R353) -/
def isMarked (s : State) (a : Nat) : Bool := (linePieces a).any (fun l => s.marked.contains l)

/-- Write bytes of memory; what they were before this cycle is kept for its reads (R99). -/
def putMem (s : State) (a : Nat) (bytes : List Byte) : State :=
  { s with
    written := s.written ++ (List.range bytes.length).map (fun i => (a + i, memRead s.mem (a + i)))
    mem := memWriteList s.mem a bytes }

/-- One byte of a write enters the list of open bytes if its writer has not committed, or if such writes stand there. -/
def noteByte (s : State) (by_ : Option Writer) (l : List OpenByte) (a : Nat) (b : Byte) : List OpenByte :=
  if l.any (fun e => e.addr == a) then l ++ [⟨by_, s.gcc, a, b⟩]
  else match by_ with
    | none => l
    | some _ => l ++ [⟨none, 0, a, memRead s.mem a⟩, ⟨by_, s.gcc, a, b⟩]

/-- A write that is open to its writer's commit or rollback, or, with none, final (R94, R117). -/
def openWrite (s : State) (by_ : Option Writer) (a : Nat) (bytes : List Byte) : State :=
  clearMarks (putMem { s with uncommitted := bytes.zipIdx.foldl (fun l b => noteByte s by_ l (a + b.2) b.1) s.uncommitted } a bytes)
    a bytes.length

/-- Write a run of bytes of the device's own, given as a slice: no node's commit or rollback concerns them. -/
def putSlice (s : State) (a len : Nat) (sl : Memory) : State :=
  let old := memSlice s.mem a len
  let m := memPlace s.mem a len sl
  let open_ := ((s.uncommitted.map (fun e => e.addr)).filter (fun x => decide (a ≤ x ∧ x < a + len))).eraseDups
  clearMarks { s with
    written := s.written ++ old.map (fun c => (a + c.1, c.2)) ++
      (sl.filter (fun c => memRead old c.1 == 0)).map (fun c => (a + c.1, 0))
    uncommitted := s.uncommitted ++ open_.map (fun x => ⟨none, s.gcc, x, memRead m x⟩)
    mem := m } a len

/-- Only bytes with a write of a node that has not committed stay open. -/
def stillOpen (l : List OpenByte) : List OpenByte := l.filter (fun e => l.any (fun x => x.addr == e.addr && x.by_.isSome))

/-- Where writes of other nodes have become final behind what the host wrote, the bytes are defined again for every node (R359). -/
def liftClouds (s : State) (gone : Nat → Nat → Bool) : State :=
  { s with clouded := s.clouded.filter (fun c => !gone c.no c.addr) }

/-- A commit: the writes of a writer are final (R94, R117). -/
def closeWrites (s : State) (w : Writer) : State :=
  let s := dropOwn (liftClouds s (fun no a => s.noted.any (fun x =>
    x.by_ == w && decide (x.addr ≤ a ∧ a < x.addr + x.len ∧ no < x.no)))) w
  { s with uncommitted := stillOpen (s.uncommitted.map (fun e => if e.by_ = some w then { e with by_ := none } else e)) }

/-- A rollback: the writes of a writer are taken back, and each byte holds the last write that is left (R94, R117, R121). -/
def takeBack (s : State) (w : Writer) : State :=
  let left := s.uncommitted.filter (fun e => e.by_ != some w)
  let gone := ((s.uncommitted.filter (fun e => e.by_ == some w)).map (fun e => e.addr)).eraseDups
  let s := gone.foldl (fun s a => match (left.filter (fun e => e.addr == a)).getLast? with
    | some e => putMem s a [e.byte]
    | none => s) s
  { dropOwn s w with uncommitted := stillOpen left }

/-- The writer of a durable write of a node of this package, none once it has committed (R94). -/
def durWriter (s : State) (tenant node : Nat) : Option Writer :=
  match (nodeOf s tenant node).state with
  | .free | .retired => none
  | _ => some ⟨false, 0, tenant, node⟩

/-- Write bytes of the package for a node: a durable write is staged (R94), one to HBM is open to other nodes (R87). -/
def physWrite (s : State) (tenant node a : Nat) (bytes : List Byte) : State :=
  let t := if Config.durBase ≤ a ∧ a < Config.durEnd then openWrite s (durWriter s tenant node) a bytes
    else openWrite (noteTentative s tenant node a bytes) none a bytes
  { t with
    atomic := t.atomic.filter (fun x => !decide (a ≤ x ∧ x < a + bytes.length))
    clouded := t.clouded.filter (fun c => !(c.tenant == tenant && c.node == node && decide (a ≤ c.addr ∧ c.addr < a + bytes.length))) }

/-- Move `len` bytes of HBM from one place to another, with the marks of uncorrectable lines (R353) and the writes that are
not committed (R87, R117), staged ones to the place among them (R283). -/
def moveBytes (s : State) (old new len : Nat) : State :=
  let within (b x : Nat) : Bool := decide (b ≤ x ∧ x < b + len)
  let moved (x : Nat) : Nat := if within old x then x - old + new else x
  { s with
    mem := memPlace s.mem new len (memSlice s.mem old len)
    marked := s.marked.filter (fun l => !within new (l * 64)) ++
      (s.marked.filter (fun l => within old (l * 64))).map (fun l => l - old / 64 + new / 64)
    uncommitted := s.uncommitted.map (fun e => { e with addr := moved e.addr })
    atomic := (s.atomic.filter (fun x => !within new x)).map moved
    clouded := s.clouded.map (fun c => { c with addr := moved c.addr })
    noted := s.noted.map (fun w => { w with addr := moved w.addr })
    tenants := s.tenants.map (fun t => (t.1, { t.2 with nodes := t.2.nodes.map (fun n => (n.1, { n.2 with
      tentative := n.2.tentative.map (fun w => { w with addr := moved w.addr })
      staged := n.2.staged.map (fun x => match x with
        | .hostWrite c q p b g => .hostWrite c q (moved p) b g
        | x => x) })) })) }

/-- Tenant and node of a context. -/
def nodeIds (c : Ctx) : Nat × Nat := (c.task.map (fun t => (t.tenant, t.node))).getD (0, 0)

/-! ### Code (R91, R145, R186) -/

/-- Physical address of a code offset of the context, and whether it is code at all (R165, R186). -/
def codeAddr (c : Ctx) (off : W64) : Option Nat :=
  match c.mode with
  | .supervisor =>
    if off.toNat < Config.supervisorCodeLen then some (Config.supervisorCode + off.toNat) else none
  | .user => match c.task with
    | none => none
    | some t =>
      let x := (off + BitVec.ofNat 64 t.entry).toNat
      if x < t.codeLen then some (t.code + x) else none

/-- The code segment of a context: physical base, length, and the offset in it that code offset 0 names (R91, R140, R186). -/
def codeSegment (c : Ctx) : Nat × Nat × Nat :=
  match c.mode, c.task with
  | .supervisor, _ => (Config.supervisorCode, Config.supervisorCodeLen, 0)
  | .user, some t => (t.code, t.codeLen, t.entry)
  | .user, none => (0, 0, 0)

/-- The physical 64-byte blocks of a code range that lie in the code segment (R183). -/
def codeBlocks (c : Ctx) (off len : W64) : List Nat :=
  let g := codeSegment c
  let lo := (off + BitVec.ofNat 64 g.2.2).toInt
  let first := (max lo 0).toNat
  let last := (min (lo + len.toNat) g.2.1).toNat
  if last ≤ first then [] else (List.range ((g.1 + last - 1) / 64 - (g.1 + first) / 64 + 1)).map (fun i => (g.1 + first) / 64 + i)

/-- A byte of code; one that the host wrote over is undefined for the node (R359). -/
def codeByte (s : State) (c : Ctx) (a : Nat) : Byte :=
  if c.mode == .user && isClouded s (nodeIds c).1 (nodeIds c).2 a then BitVec.ofNat 8 (Config.freePick s.fresh s.gcc (2 * a))
  else memRead s.mem a

/-- The 32-bit word at a code offset; 0 outside code. -/
def codeWord (s : State) (c : Ctx) (off : W64) : Nat :=
  match codeAddr c off with
  | none => 0
  | some a => natOfBytes ((List.range 4).map (fun i => codeByte s c (a + i)))

/-- Bytes of the bundle at a code offset (R145). -/
def bundleBytes (s : State) (c : Ctx) (off : W64) : W64 := BitVec.ofNat 64 (4 * (fieldOf (codeWord s c off) 16 4 + 1))

/-- The bundle that follows in fall-through order (R145). -/
def nextBundle (s : State) (c : Ctx) (off : W64) : W64 := off + bundleBytes s c off

/-- The pending redirect of a context as a frame or an image holds it: that of its delay bundles, or, in a wait behind which control
goes elsewhere than to the bundle that follows, one to be taken at once (R187, R188, R345). -/
def pendingRedirect (s : State) (c : Ctx) : Option Redirect :=
  c.redirect.or (c.wait.bind (fun w => if c.pc = nextBundle s c w.pc then none else some ⟨c.pc, 0, false⟩))

/-- ReturnOffset: the bundle after the second delay bundle (R166). -/
def returnOffset (s : State) (c : Ctx) : W64 := nextBundle s c (nextBundle s c (nextBundle s c c.pc))

end Sys2Proof.Machine
end

