-- ==== Sys2Proof/Machine/Flags.lean ====
section
/-! DEFINITION. Flag computations: the flags of a vector result over the lanes it writes (R54), and VFLAGS updates. -/

namespace Sys2Proof.Machine

/-- Flags of the lanes that act, ORed (R54). -/
def laneFlags (t : Ty) (act : PWord) (f : Nat → Flags) : Flags :=
  (List.range t.lanes).foldl (fun acc i => if laneBit act t i then acc ||| f i else acc) 0

/-- OR flags into VFLAGS (R54). -/
def Ctx.orFlags (c : Ctx) (fl : Flags) : Ctx := { c with vflags := c.vflags ||| fl }

/-- A masked vector write of the active lanes with their flags: register write and flags. -/
def lanesWrite (d : VReg) (t : Ty) (act : PWord) (f : Nat → Nat × Flags) : RegWrite × Flags :=
  (.v d (laneMask t act) (ofLanes t.width t.lanes (fun i => (f i).1)), laneFlags t act (fun i => (f i).2))

/-- The lanes a floating result writes, for the shadow check (R70): slot (0 V0, 1 V1) and type; none for integers. -/
def shadowOf (s : State) (t : Ty) : Option (Nat × Ty) :=
  if t.isFloat then some (if s.slot = .v1 then 1 else 0, t) else none

/-- Sign, exponent and top six fraction bits, the part of an encoding that the shadow unit computes (R70, log 16). -/
def shadowPart (f : Fmt) (x : Nat) : Nat := x / 2 ^ (f.fracBits - 6) * 2 ^ (f.fracBits - 6)

/-- What the shadow unit holds for a lane whose result is `x`: the part it computes of the same result, or of another where a unit
errs (R70). -/
def shadowValue (f : Fmt) (n x : Nat) : Nat := shadowPart f ((Config.shadowError n).getD x)

/-- The magnitude of a finite encoding in units of the least one of its format (R46). -/
def magnitude (f : Fmt) (x : Nat) : Nat := significand x f * 2 ^ (expField x f - 1)

/-- Do a result `x` and its shadow `y` diverge? Signs that differ where neither is zero, one of them alone a NaN or infinite, or
magnitudes further apart than 2^(E − 6), E the exponent of the larger one (R70). -/
def diverges (f : Fmt) (x y : Nat) : Bool :=
  match decodeFloat x f, decodeFloat y f with
  | .fin p _ _, .fin q _ _ =>
    let a := magnitude f x
    let b := magnitude f y
    (p != q && a != 0 && b != 0) ||
      decide (2 ^ (max (max (expField x f) (expField y f)) 1 - 1 + f.fracBits - 6) < max a b - min a b)
  | .fin .., _ | _, .fin .. => true
  | _, _ => false

end Sys2Proof.Machine
end

