-- ==== Sys2Proof/Machine/Stream.lean ====
section
/-! DEFINITION. The AG slot and the fields of stream descriptors (R244–R250). -/

namespace Sys2Proof.Machine

/-- Position, width and signedness of descriptor field f (R244). -/
def fieldSpec (f : Nat) : Nat × Nat × Bool :=
  match f with
  | 0 => (0, 13, false) | 1 => (13, 2, false) | 2 => (16, 5, false) | 3 => (24, 8, false) | 4 => (32, 9, false)
  | 5 => (41, 1, false) | 6 => (42, 1, false)
  | 7 => (64, 10, false) | 8 => (74, 10, false) | 9 => (84, 10, false) | 10 => (94, 10, false) | 11 => (104, 10, false)
  | 12 => (128, 16, true) | 13 => (144, 16, true) | 14 => (160, 16, true) | 15 => (176, 16, true)
  | 16 => (192, 16, true) | 17 => (208, 32, false)
  | 18 => (256, 13, false) | 19 => (269, 2, false) | 20 => (272, 13, false) | 21 => (285, 2, false)
  | 22 => (320, 16, true) | 23 => (336, 16, true) | 24 => (352, 16, true) | 25 => (368, 16, true)
  | _ => (384, 16, true)

/-- Field f of a descriptor, unsigned. -/
def gField (g : GWord) (f : Nat) : Nat := fieldOf g.toNat (fieldSpec f).1 (fieldSpec f).2.1

/-- Field f of a descriptor as GGET reads it: strides sign-extended (R249). -/
def gFieldInt (g : GWord) (f : Nat) : Int :=
  let x := gField g f
  let w := (fieldSpec f).2.1
  if (fieldSpec f).2.2 && x.testBit (w - 1) then (x : Int) - 2 ^ w else x

/-- The masked write of field f (R249). -/
def fieldWrite (d : GReg) (f x : Nat) : RegWrite :=
  let (lo, w, _) := fieldSpec f
  .g d (BitVec.ofNat 512 ((2 ^ w - 1) * 2 ^ lo)) (BitVec.ofNat 512 (x % 2 ^ w * 2 ^ lo))

/-- GSET: 64 bytes of DM read at +1, the register at +3 (R248). -/
def execGset (d : GReg) (a b : SReg) (s : State) : Host.Outcome State Fault Refusal :=
  finish s (withSlot s (fun s =>
    let addr := ((here s).readS a + (here s).readS b).toNat
    ((checkPending s .dm addr 64 false 14).andThen (fun s => flyTo s (some (3, d.val)) 1 3 (.gRead d addr))).unless
      (addr % 64 != 0 || !inPartition (here s) .dm addr 64) 0x16 none))

/-- GSETF (R249). -/
def execGsetf (d : GReg) (a : SReg) (f : Fin 27) (s : State) : Host.Outcome State Fault Refusal :=
  finish s (withSlot s (fun s => result s 1 (fieldWrite d f.val ((here s).readS a).toNat)))

/-- GGET (R249). -/
def execGget (d : SReg) (a : GReg) (f : Fin 27) (s : State) : Host.Outcome State Fault Refusal :=
  finish s (withSlot s (fun s => result s 1 (.s d (BitVec.ofInt 64 (gFieldInt ((here s).readG a) f.val)))))

/-- GADV (R250). -/
def execGadv (d : GReg) (a : SReg) (s : State) : Host.Outcome State Fault Refusal :=
  finish s (withSlot s (fun s =>
    result s 1 (fieldWrite d 17 (gField ((here s).readG d) 17 + ((here s).readS a).toNat))))

/-- GRST (R250). -/
def execGrst (d : GReg) (s : State) : Host.Outcome State Fault Refusal :=
  finish s (withSlot s (fun s => result s 1 (fieldWrite d 17 0)))

/-- GMASK: VROWS and KVAL (R250). -/
def execGmask (d : GReg) (a b : SReg) (s : State) : Host.Outcome State Fault Refusal :=
  finish s (withSlot s (fun s =>
    result s 1 (.g d (BitVec.ofNat 512 (0xFF * 2 ^ 24 + 0x1FF * 2 ^ 32))
      (BitVec.ofNat 512 (((here s).readS a).toNat % 256 * 2 ^ 24 + ((here s).readS b).toNat % 512 * 2 ^ 32)))))

/-- GCOPY (R250). -/
def execGcopy (d a : GReg) (s : State) : Host.Outcome State Fault Refusal :=
  finish s (withSlot s (fun s => result s 1 (.g d (BitVec.allOnes 512) ((here s).readG a))))

end Sys2Proof.Machine
end

