-- ==== Sys2Proof/Machine/Array.lean ====
section
/-! DEFINITION. The arithmetic of the matrix array: PREC (R57–R60), descriptors and their tiles (R244–R246), PlaneForm,
GroupSum and accumulation (R62–R67). -/

namespace Sys2Proof.Machine

/-! ### PREC (R57) -/

/-- The fields of a PREC value (R57). -/
structure Prec where
  wa   : Nat
  wb   : Nat
  fmtA : Option Fmt
  fmtB : Option Fmt
  rndA : Bool
  rndB : Bool
  accf : Nat
  sca  : Bool
  scb  : Bool
  grp  : Nat
  zpa  : Bool
  zpb  : Bool
deriving DecidableEq, Repr

/-- Read a PREC register (R57). -/
def precOf (x : BitVec 32) : Prec where
  wa := fieldOf x.toNat 0 4 + 1
  wb := fieldOf x.toNat 4 4 + 1
  fmtA := Fmt.ofCode (fieldOf x.toNat 8 5)
  fmtB := Fmt.ofCode (fieldOf x.toNat 13 5)
  rndA := x.getLsbD 18
  rndB := x.getLsbD 19
  accf := fieldOf x.toNat 20 2
  sca := x.getLsbD 22
  scb := x.getLsbD 23
  grp := fieldOf x.toNat 24 2
  zpa := x.getLsbD 26
  zpb := x.getLsbD 27

/-- Minimum width of an operand format (R59); none for a format the array does not take. -/
def minWidth : Fmt → Option Nat
  | .f16 | .bf16 | .e4m3 | .e5m2 | .e3m2 | .e2m3 | .e2m1 | .b1 | .n1 => some 1
  | .i16 | .n16 => some 16
  | .i8 | .n8 => some 8
  | .i4 | .n4 => some 4
  | .i2 => some 2
  | .f32 | .i32 | .e8m0 => none

/-- Default width of a format; 1 where R59 gives none (R262). -/
def defaultWidth : Fmt → Nat
  | .f16 => 11 | .bf16 => 8 | .e4m3 | .e2m3 => 4 | .e5m2 | .e3m2 => 3 | .e2m1 | .i2 => 2
  | .i16 | .n16 => 16 | .i8 | .n8 => 8 | .i4 | .n4 => 4
  | _ => 1

/-- One operand's share of R60: format, width, scales and zero points. -/
def precSideOk (f : Fmt) (w : Nat) (sc zp : Bool) (grp accf : Nat) : Bool :=
  (minWidth f).any (fun m => f.isFloat || decide (m ≤ w)) &&
  !(accf != 0 && (f.isFloat || sc)) &&
  !(f.isFloat && sc && grp != 0) &&
  !(zp && (!sc || !(f == .n8 || f == .n4)))

/-- The check of R60. -/
def precOk (p : Prec) : Bool :=
  match p.fmtA, p.fmtB with
  | some a, some b =>
    p.accf != 3 && p.grp != 3 && precSideOk a p.wa p.sca p.zpa p.grp p.accf && precSideOk b p.wb p.scb p.zpb p.grp p.accf
  | _, _ => false

/-- Cycles of a k-group (R68). -/
def precCycles (p : Prec) : Nat := p.wa * p.wb

/-! ### Descriptors (R244–R246) -/

/-- One operand of an MMA: descriptor, format, width, rounding, scale and zero-point streams. -/
structure Side where
  g    : GWord
  fmt  : Fmt
  w    : Nat
  rnd  : Bool
  sc   : Bool
  zp   : Bool
  grp  : Nat
  padm : Nat
  /-- line displacement of every base (R256) -/
  shift : Int
deriving DecidableEq, Repr

/-- The two operands under a PREC that passes R60. -/
def sideA (p : Prec) (g : GWord) (padm : W64) : Side := ⟨g, p.fmtA.getD .bf16, p.wa, p.rndA, p.sca, p.zpa, p.grp, padm.toNat, 0⟩
def sideB (p : Prec) (g : GWord) (padm : W64) : Side := ⟨g, p.fmtB.getD .bf16, p.wb, p.rndB, p.scb, p.zpb, p.grp, padm.toNat, 0⟩

/-- Are the reserved fields of a descriptor zero? (R244, R247) -/
def descReservedOk (g : GWord) : Bool :=
  let x := g.toNat
  fieldOf x 43 21 == 0 && fieldOf x 21 3 == 0 && fieldOf x 15 1 == 0 && fieldOf x (64 + 50) 14 == 0 &&
  fieldOf x (192 + 48) 16 == 0 && fieldOf x (256 + 31) 33 == 0 && fieldOf x (256 + 15) 1 == 0 &&
  fieldOf x (384 + 16) 48 == 0 && fieldOf x 448 64 == 0

/-- Buffer of a two-bit code; 3 names none that a descriptor may use (R244). -/
def bufOf : Nat → Buf
  | 0 => .wb | 1 => .ab | 2 => .cb | _ => .dm

/-- Extents of a descriptor, innermost first. -/
def descExtents (g : GWord) : List Nat := [7, 8, 9, 10, 11].map (fun f => gField g f + 1)

/-- Σ i_l · stride_l for position n, with the strides in fields f, f + 1, … (R245). -/
def descOffset (strides : List Int) : List Nat → Nat → Int
  | [], _ => 0
  | e :: r, n => (n % e : Nat) * strides.headD 0 + descOffset strides.tail r (n / e)

/-- Position reduced modulo the product of the extents (R245). -/
def descPos (g : GWord) (n : Nat) : Nat := n % (descExtents g).prod

/-- Line of the operand tile at position n. -/
def tileLine (g : GWord) (n : Nat) : Int :=
  gField g 0 + descOffset ([12, 13, 14, 15, 16].map (gFieldInt g)) (descExtents g) (descPos g n)

/-- Offset of the scale and zero-point blocks at position n. -/
def blockOffset (g : GWord) (n : Nat) : Int :=
  descOffset ([22, 23, 24, 25, 26].map (gFieldInt g)) (descExtents g) (descPos g n)

/-- Lines of an operand tile (R245). -/
def tileLines (f : Fmt) : Nat := 16 * f.bits

/-- Group size of the scales and zero points of an operand. -/
def sideGroup (d : Side) : Nat := if d.fmt.isFloat then 32 else 32 * 2 ^ d.grp

/-- Lines of a scale block; 0 when the operand carries none (R245). -/
def scaleLines (d : Side) : Nat := if !d.sc then 0 else if d.fmt.isFloat then 4 else 8 / 2 ^ d.grp

/-- Lines of a zero-point block. -/
def zeroLines (d : Side) : Nat := if d.zp then 4 / 2 ^ d.grp else 0

/-- What a stream reads: the operand tile, the scale block, or the zero-point block. -/
inductive Part where
  | operand | scale | zero
deriving DecidableEq, Repr

/-- Where the bytes of a part lie in the collected operands of a k-group. -/
def partBase : Part → Nat
  | .operand => 0 | .scale => 0x1_0000 | .zero => 0x1_8000

/-- A line that a stream reads: part, line number in it, buffer, line of the partition. -/
structure StreamLine where
  part : Part
  ix   : Nat
  buf  : Buf
  line : Int
deriving DecidableEq, Repr

/-- Lines of a block of `n` lines read in cycle k of a period of P: those L with ⌊L·P/n⌋ = k (R252). -/
def linesInCycle (n P k : Nat) : List Nat := (List.range n).filter (fun l => l * P / n == k)

/-- The lines a stream reads in cycle k of the group at position n; the tile may be displaced to a line of its own
(R252, R258). -/
def streamLines (d : Side) (tile : Buf × Int) (n P k : Nat) : List StreamLine :=
  (linesInCycle (tileLines d.fmt) P k).map (fun l => ⟨.operand, l, tile.1, tile.2 + l⟩) ++
  (linesInCycle (scaleLines d) P k).map
    (fun l => ⟨.scale, l, bufOf (gField d.g 19), gField d.g 18 + d.shift + blockOffset d.g n + l⟩) ++
  (linesInCycle (zeroLines d) P k).map
    (fun l => ⟨.zero, l, bufOf (gField d.g 21), gField d.g 20 + d.shift + blockOffset d.g n + l⟩)

/-- The tile a descriptor supplies at position n. -/
def descTile (d : Side) (n : Nat) : Buf × Int := (bufOf (gField d.g 1), tileLine d.g n + d.shift)

/-- Valid rows (A) or columns (B): VROWS less PADM under PADR (R246). -/
def validRows (d : Side) : Nat :=
  let v := if gField d.g 3 = 0 then 128 else gField d.g 3
  if gField d.g 6 = 1 then v - d.padm else v

/-- Valid k elements of the final k-group (R246). -/
def validK (d : Side) (final : Bool) : Nat :=
  if !final then 256
  else
    let v := if gField d.g 4 = 0 then 256 else gField d.g 4
    if gField d.g 5 = 1 then v - d.padm else v

/-! ### Operands of a k-group -/

/-- Element (r, k) of an operand (R79). -/
def opElement (d : Side) (m : Memory) (r k : Nat) : Nat := elementAt m d.fmt.bits ((k / 32 * 128 + r) * 32 + k % 32)

/-- Index of the scale and zero point of sub-block b in row r. -/
def blockIndex (d : Side) (r b : Nat) : Nat := b * 32 / sideGroup d * 128 + r

/-- Scale of sub-block b of row r: E8M0 or FP16; one without scales (R58). -/
def opScale (d : Side) (m : Memory) (r b : Nat) : Num :=
  if !d.sc then .fin false 1 0
  else if d.fmt.isFloat then decodeScale (memRead m (partBase .scale + blockIndex d r b)).toNat
  else decodeFloat (memReadNat m (partBase .scale + 2 * blockIndex d r b) 2) .f16

/-- Zero point of sub-block b of row r, in the element's width. -/
def opZero (d : Side) (m : Memory) (r b : Nat) : Nat :=
  if d.zp then (memRead m (partBase .zero + blockIndex d r b)).toNat % 2 ^ d.fmt.bits else 0

/-- Is element (r, k) present? (R246) -/
def isPresent (d : Side) (final : Bool) (r k : Nat) : Bool := decide (r < validRows d ∧ k < validK d final)

/-- Decoded value of an element without its scale: the integer less its zero point, or the floating value. -/
def opValue (d : Side) (m : Memory) (r k : Nat) : Num :=
  if d.fmt.isFloat then decodeFloat (opElement d m r k) d.fmt
  else .ofInt (intValue (opElement d m r k) d.fmt - opZero d m r (k / 32))

/-- One sub-block in planes: sign and magnitude per element, the unit exponent, and whether rounding clamped (R62). -/
structure Planes where
  els   : List (Bool × Nat)
  f     : Int
  clamp : Bool
deriving DecidableEq, Repr

/-- Lead of a decoded floating value: its hidden-bit position (R56). -/
def leadOf (d : Side) : Num → Option Int
  | .fin _ _ e => some (e + d.fmt.fracBits)
  | _ => none

/-- The window exponent F of a floating sub-block under scale exponent x (R62). -/
def windowExp (d : Side) (vals : List (Option Num)) (x : Int) : Int :=
  let leads := vals.filterMap (fun v => v.bind (leadOf d))
  match leads with
  | [] => 0
  | l :: ls => ls.foldl max l + x - d.w + 1

/-- Magnitude of a floating element in the window (R62). -/
def planeMag (d : Side) (f : Int) (m : Nat) (e : Int) : Nat × Bool :=
  let sh := f - e
  let a := if sh ≤ 0 then m * 2 ^ (-sh).toNat
    else if d.rnd then (2 * m + 2 ^ sh.toNat) / 2 ^ (sh.toNat + 1) else m / 2 ^ sh.toNat
  if 2 ^ d.w ≤ a then (2 ^ d.w - 1, true) else (a, false)

/-- PlaneForm (R62). Absent elements form magnitude 0. -/
def planeForm (d : Side) (m : Memory) (final : Bool) (r b : Nat) : Planes :=
  let vals := (List.range 32).map (fun i =>
    if isPresent d final r (b * 32 + i) then some (opValue d m r (b * 32 + i)) else none)
  if !d.fmt.isFloat then
    ⟨vals.map (fun v => match v with
      | some (.fin n q _) => (n, q)
      | _ => (false, 0)), 0, false⟩
  else match opScale d m r b with
    | .fin _ _ x =>
      let f := windowExp d vals x
      let els := vals.map (fun v => match v with
        | some (.fin n q e) => (n, planeMag d f q (e + x))
        | _ => (false, (0, false)))
      ⟨els.map (fun p => (p.1, p.2.1)), f, els.any (fun p => p.2.2)⟩
    | _ => ⟨List.replicate 32 (false, 0), 0, false⟩

/-- T_b: the exact sum of a sub-block (R63). -/
def subSum (a b : Planes) : Int :=
  ((a.els.zip b.els).map (fun p => signedMant (p.1.1 != p.2.1) (p.1.2 * p.2.2))).foldl (· + ·) 0

/-- The FP16 scale of an integer operand as signed significand and exponent; 1 where none applies. -/
def intScale (d : Side) (m : Memory) (r b : Nat) : Int × Int :=
  if d.fmt.isFloat || !d.sc then (1, 0)
  else match opScale d m r b with
    | .fin n q e => (signedMant n q, e)
    | _ => (0, 0)

/-- A sub-block's value: signed mantissa and exponent (R63). -/
def subValue (da db : Side) (ma mb : Memory) (final : Bool) (r c b : Nat) : Int × Int :=
  let pa := planeForm da ma final r b
  let pb := planeForm db mb final c b
  let sa := intScale da ma r b
  let sb := intScale db mb c b
  (subSum pa pb * sa.1 * sb.1, pa.f + pb.f + sa.2 + sb.2)

/-- The value of a present element with its scale, for R64; none when absent. -/
def fullValue (d : Side) (m : Memory) (final : Bool) (r k : Nat) : Option Num :=
  if !isPresent d final r k then none
  else match opScale d m r (k / 32) with
    | .nan _ => some (.nan false)
    | .inf _ => some (.nan false)
    | sc => some (mulExact (opValue d m r k) sc).1

/-- The special result of a k-group, if NaN or infinity decides it (R64). -/
def specialResult (as bs : List (Option Num)) : Option Num :=
  let isNan (v : Option Num) : Bool := v.any Num.isNaN
  let prods := (as.zip bs).filterMap (fun p => match p.1, p.2 with
    | some (.inf a), some (.inf b) => some (some (a != b))
    | some (.inf a), some (.fin n m _) => if m = 0 then some none else some (some (a != n))
    | some (.fin n m _), some (.inf b) => if m = 0 then some none else some (some (n != b))
    | _, _ => none)
  if as.any isNan || bs.any isNan then some (.nan false)
  else if prods.contains none || (prods.contains (some true) && prods.contains (some false)) then some (.nan false)
  else if prods.contains (some true) then some (.inf true)
  else if prods.contains (some false) then some (.inf false)
  else none

/-- GroupSum: one rounding of the eight sub-block values to F32 (R65). -/
def groupSum (v : List (Int × Int)) : Nat :=
  match (v.filter (fun p => p.1 != 0)).map (fun p => p.2) with
  | [] => 0
  | l :: ls =>
    let top := ls.foldl max l
    let parts := v.map (fun p =>
      if p.1 = 0 then ((0 : Int), false)
      else
        let q := 2 ^ (top - p.2).toNat
        (signedMant (decide (p.1 < 0)) (p.1.natAbs / q), decide (p.1.natAbs % q ≠ 0)))
    let w : Int := (parts.map (fun p => p.1)).foldl (· + ·) 0
    if w = 0 then 0 else (roundFmt (decide (w < 0)) w.natAbs top (parts.any (fun p => p.2)) .f32 0 .ieee).1

/-- The result of a k-group for output (r, c) as an F32 encoding (R64, R65). -/
def groupResult (da db : Side) (ma mb : Memory) (final : Bool) (r c : Nat) : Nat :=
  let ks := List.range 256
  match specialResult (ks.map (fullValue da ma final r)) (ks.map (fullValue db mb final c)) with
  | some (.inf n) => infinity .f32 n
  | some _ => canonNaN .f32
  | none => groupSum ((List.range 8).map (subValue da db ma mb final r c))

/-- G = Σ T_b of integer mode (R67). -/
def groupInt (da db : Side) (ma mb : Memory) (final : Bool) (r c : Nat) : Int :=
  ((List.range 8).map (fun b => subSum (planeForm da ma final r b) (planeForm db mb final c b))).foldl (· + ·) 0

/-- Accumulate: the new element, and whether it saturated (R66, R67). -/
def accumulate (p : Prec) (da db : Side) (ma mb : Memory) (final : Bool) (r c old : Nat) : Nat × Bool :=
  if p.accf = 0 then
    ((addRound (decodeFloat old .f32) (decodeFloat (groupResult da db ma mb final r c) .f32) .f32 0).1, false)
  else
    let x := intValue old .i32 + groupInt da db ma mb final r c
    if p.accf = 1 then (wrapInt 32 x, false)
    else (wrapInt 32 (satInt x (-(2 ^ 31)) (2 ^ 31 - 1)), decide (x < -(2 ^ 31) ∨ 2 ^ 31 - 1 < x))

/-! ### Tiles (R7, R254, R263) -/

/-- Element (r, c) of a tile. -/
def tileGet (t : Tile) (r c : Nat) : Nat := memReadNat t.mem (4 * (128 * r + c)) 4

/-- Set element (r, c). -/
def tileSet (t : Tile) (r c x : Nat) : Tile := { t with mem := memWriteNat t.mem (4 * (128 * r + c)) 4 x }

/-- The element positions of a rectangle. -/
def rect (r0 r1 c0 c1 : Nat) : List (Nat × Nat) :=
  (List.range (r1 - r0)).flatMap (fun i => (List.range (c1 - c0)).map (fun j => (r0 + i, c0 + j)))

/-- Set the elements of a rectangle that `skip` leaves in. -/
def tileFill (t : Tile) (ps : List (Nat × Nat)) (skip : Nat → Nat → Bool) (f : Nat → Nat → Nat) : Tile :=
  ps.foldl (fun t p => if skip p.1 p.2 then t else tileSet t p.1 p.2 (f p.1 p.2)) t

/-- A tile of a core. -/
def tileOf (s : State) (core : Nat) (t : TileIx) : Tile := (coreOf s core).tiles[t]

/-- A tile of a core as it was before the untimed work of this cycle, which no timed read of it sees (R99). -/
def tilePrior (s : State) (core : Nat) (t : TileIx) : Tile := ((coreOf s core).tilesWere.getD (coreOf s core).tiles)[t]

/-- Keep the tiles of a core as they are before untimed work writes one in this cycle (R99). -/
def keepTiles (s : State) (core : Nat) : State :=
  modCore s core (fun c => { c with tilesWere := c.tilesWere.or (some c.tiles) })

/-- Change a tile of a core. -/
def modTile (s : State) (core : Nat) (t : TileIx) (f : Tile → Tile) : State :=
  modCore s core (fun c => { c with tiles := c.tiles.set t (f c.tiles[t]) })

end Sys2Proof.Machine
end

