-- ==== Sys2Proof/Machine/Sfu.lean ====
section
/-! DEFINITION. The special functions of R220. The exact value is computed in 320-bit fixed point; where the spec only
bounds a result, the result is a free choice among the encodings within the bound (log 3, log 14). -/

namespace Sys2Proof.Machine

/-- The seven functions, in opcode order (R220). -/
inductive Sfu where
  | rcp | rsq | sqrt | exp2 | log2 | tanh | sin
deriving DecidableEq, Repr

/-- Number of a function, for the free choice. -/
def Sfu.code : Sfu → Nat
  | .rcp => 0 | .rsq => 1 | .sqrt => 2 | .exp2 => 3 | .log2 => 4 | .tanh => 5 | .sin => 6

/-- Fraction bits of the fixed point. -/
def fixBits : Nat := 320

/-- One in fixed point. -/
def fixOne : Nat := 2 ^ fixBits

/-- ln 2 in fixed point. -/
def fixLn2 : Nat := 0xb17217f7d1cf79abc9e3b39803f2f6af40f343267298b62d8a0d175b8baafa2be7b876206debac98

/-- π in fixed point. -/
def fixPi : Nat := 0x3243f6a8885a308d313198a2e03707344a4093822299f31d0082efa98ec4e6c89452821e638d01377

/-- m · 2^e in fixed point, truncated. -/
def toFix (m : Nat) (e : Int) : Nat :=
  let sh := e + fixBits
  if 0 ≤ sh then m * 2 ^ sh.toNat else m / 2 ^ (-sh).toNat

/-- Terms n, n+1, … of the series of e^y, the first of them t. -/
def expSeries (y : Nat) : Nat → Nat → Nat → Nat
  | 0, _, t => t
  | fuel + 1, n, t => t + expSeries y fuel (n + 1) (t * y / fixOne / (n + 1))

/-- e^y for 0 ≤ y < 1. -/
def fixExp (y : Nat) : Nat := expSeries y 80 0 fixOne

/-- n squarings. -/
def fixSquare : Nat → Nat → Nat
  | 0, x => x
  | n + 1, x => fixSquare n (x * x / fixOne)

/-- 2^f for 0 ≤ f < 1. -/
def fixExp2 (f : Nat) : Nat := fixExp (f * fixLn2 / fixOne)

/-- tanh x for x > 0; from 64 on it lies within 2^−180 of one. -/
def fixTanh (x : Nat) : Nat :=
  if 64 * fixOne ≤ x then fixOne - 1
  else
    let y := fixSquare 8 (fixExp (2 * x / 256))
    (y - fixOne) * fixOne / (y + fixOne)

/-- Terms k, k+1, … of the series of artanh u, with p = u^(2k+1). -/
def artanhSeries (u2 : Nat) : Nat → Nat → Nat → Nat
  | 0, k, p => p / (2 * k + 1)
  | fuel + 1, k, p => p / (2 * k + 1) + artanhSeries u2 fuel (k + 1) (p * u2 / fixOne)

/-- log2 z for 1 ≤ z < 2. -/
def fixLog2 (z : Nat) : Nat :=
  let u := (z - fixOne) * fixOne / (z + fixOne)
  2 * artanhSeries (u * u / fixOne) 110 0 u * fixOne / fixLn2

/-- Terms k, k+1, … of the series of sin y, the first of them t. -/
def sinSeries (y2 : Nat) : Nat → Nat → Nat → Int
  | 0, _, t => t
  | fuel + 1, k, t => t - sinSeries y2 fuel (k + 1) (t * y2 / fixOne / ((2 * k + 2) * (2 * k + 3)))

/-- |sin(π·x)| and whether it is negative, for x ≥ 0. -/
def fixSin (x : Nat) : Nat × Bool :=
  let r := x % (2 * fixOne)
  let neg := decide (fixOne ≤ r)
  let r := r % fixOne
  let r := if fixOne < 2 * r then fixOne - r else r
  let y := r * fixPi / fixOne
  ((sinSeries (y * y / fixOne) 60 0 y).toNat, neg)

/-- Is m a power of two? -/
def isPow2 (m : Nat) : Bool := m == 2 ^ Nat.log2 m

/-- The integer of a finite value, if it is one. -/
def asInteger (m : Nat) (e : Int) : Option Nat :=
  if 0 ≤ e then some (m * 2 ^ e.toNat) else if m % 2 ^ (-e).toNat = 0 then some (m / 2 ^ (-e).toNat) else none

/-- Encodings in the order of their values, both zeros at 0. -/
def orderOf (x : Nat) (f : Fmt) : Int :=
  let mag := x % 2 ^ (f.fracBits + f.expBits)
  if signField x f then -(mag : Int) else mag

/-- The encoding at a place of that order. -/
def ofOrder (i : Int) (f : Fmt) : Nat := if i < 0 then 2 ^ (f.fracBits + f.expBits) + i.natAbs else i.natAbs

/-- Quantum of the binade of m · 2^e (R56). -/
def ulpExp (m : Nat) (e : Int) (f : Fmt) : Int := max (e + Nat.log2 m) (1 - f.bias) - f.fracBits

/-- A result within b · 2^q of (−1)^neg · m · 2^e, chosen by `free`; overflow gives ±∞ (R220). UF is set for an
exact result that is tiny before rounding (R52), and for a subnormal result (R220). -/
def boundedResult (f : Fmt) (neg : Bool) (m : Nat) (e : Int) (b : Nat) (q : Int) (free : Nat) : Nat × Flags :=
  let big := (roundFmt neg m e false f 1 .sat).2 &&& flagOF
  if big ≠ 0 then (infinity f neg, flagOF ||| flagNX)
  else
    let lo := exactAdd neg m e true b q
    let hi := exactAdd neg m e false b q
    let l := orderOf (roundFmt (decide (lo.1 < 0)) lo.1.natAbs lo.2 false f 3 .sat).1 f
    let h := orderOf (roundFmt (decide (hi.1 < 0)) hi.1.natAbs hi.2 false f 2 .sat).1 f
    let r := ofOrder (l + (free % ((h - l).toNat + 1) : Nat)) f
    (r, flagNX ||| flagIf ((expField r f == 0 && fracField r f != 0) || decide (e + Nat.log2 m < 1 - f.bias)) flagUF)

/-- A result within b ulp. -/
def ulpResult (f : Fmt) (neg : Bool) (m : Nat) (e : Int) (b free : Nat) : Nat × Flags :=
  boundedResult f neg m e b (ulpExp m e f) free

/-- 1/√(m · 2^e) with more than 80 further bits: mantissa, exponent, sticky. -/
def rsqrtExact (m : Nat) (e : Int) : Nat × Int × Bool :=
  let sh0 := 200 + Nat.log2 m
  let sh := if (e + sh0) % 2 = 0 then sh0 else sh0 + 1
  let r := isqrt (sh / 2 + 2) (2 ^ sh / m)
  (r, -(e + sh) / 2, decide (r * r * m ≠ 2 ^ sh))

/-- VRCP and VRSQ: within 1 ulp for F32, correctly rounded in RNE for F16 and BF16 (R220). -/
def nearResult (f : Fmt) (neg : Bool) (x : Nat × Int × Bool) (free : Nat) : Nat × Flags :=
  if f = .f32 then ulpResult f neg x.1 x.2.1 1 free
  else
    let r := roundFmt neg x.1 x.2.1 x.2.2 f 0 .ieee
    (r.1, r.2 ||| flagNX)

/-- Invalid: CanonNaN with NV. -/
def invalid (f : Fmt) : Nat × Flags := (canonNaN f, flagNV)

/-- Bound of the transcendental functions in ulp (R220). -/
def ulpBound (f : Fmt) : Nat := if f = .f32 then 2 else 1

/-- VEXP2 of a finite non-zero value (R220). -/
def exp2Finite (f : Fmt) (neg : Bool) (m : Nat) (e : Int) (free : Nat) : Nat × Flags :=
  let big := decide (toFix m e ≥ 512 * fixOne)
  if big && !neg then (infinity f false, flagOF ||| flagNX)
  else if big then ulpResult f false 1 (-1000) (ulpBound f) free
  else
    let exact := match asInteger m e with
      | some i => roundFmt false 1 (if neg then -(i : Int) else i) false f 0 .ieee
      | none => (0, flagNX)
    if exact.2 = 0 then exact
    else
      let x : Int := if neg then -(toFix m e : Int) else toFix m e
      ulpResult f false (fixExp2 (x % fixOne).toNat) (x / fixOne - fixBits) (ulpBound f) free

/-- VLOG2 of a positive finite value (R220). -/
def log2Finite (f : Fmt) (m : Nat) (e : Int) (free : Nat) : Nat × Flags :=
  let k := e + Nat.log2 m
  if isPow2 m then roundFmt (decide (k < 0)) k.natAbs 0 false f 0 .ieee
  else
    let v : Int := k * fixOne + fixLog2 (toFix m (-(Nat.log2 m : Int)))
    -- x in [0.5, 2] when its binade is −1 or 0
    if k = -1 ∨ k = 0 then
      boundedResult f (decide (v < 0)) v.natAbs (-(fixBits : Int)) 1 (if f = .f32 then -22 else -10) free
    else ulpResult f (decide (v < 0)) v.natAbs (-(fixBits : Int)) (ulpBound f) free

/-- VSIN of a finite non-zero value (R220). -/
def sinFinite (f : Fmt) (neg : Bool) (m : Nat) (e : Int) (free : Nat) : Nat × Flags :=
  match asInteger m e, asInteger m (e + 1) with
  | some _, _ => (encodeFinite f neg 0 0, 0)
  | none, some h => roundFmt (neg != decide (h / 2 % 2 = 1)) 1 0 false f 0 .ieee
  | none, none =>
    let v := fixSin (toFix m e)
    if f = .f32 then boundedResult f (neg != v.2) v.1 (-(fixBits : Int)) 1 (-23) free
    else ulpResult f (neg != v.2) v.1 (-(fixBits : Int)) 1 free

/-- A special function of one value (R220). -/
def sfuValue (op : Sfu) (f : Fmt) (rm : Nat) (x : Num) (free : Nat) : Nat × Flags :=
  match x with
  | .nan sig => (canonNaN f, flagIf sig flagNV)
  | .inf neg =>
    match op with
    | .rcp => (encodeFinite f neg 0 0, 0)
    | .rsq => if neg then invalid f else (0, 0)
    | .sqrt => if neg then invalid f else (infinity f false, 0)
    | .exp2 => (if neg then 0 else infinity f false, 0)
    | .log2 => if neg then invalid f else (infinity f false, 0)
    | .tanh => roundFmt neg 1 0 false f 0 .ieee
    | .sin => invalid f
  | .fin neg 0 _ =>
    match op with
    | .rcp | .rsq => (infinity f neg, flagDZ)
    | .sqrt | .tanh | .sin => (encodeFinite f neg 0 0, 0)
    | .exp2 => roundFmt false 1 0 false f 0 .ieee
    | .log2 => (infinity f true, flagDZ)
  | .fin neg m e =>
    let k := e + Nat.log2 m
    let pow2 := isPow2 m
    match op with
    | .rcp => if pow2 then roundFmt neg 1 (-k) false f 0 .ieee else nearResult f neg (recipExact m e) free
    | .rsq =>
      if neg then invalid f
      else if pow2 && decide (k % 2 = 0) then roundFmt false 1 (-k / 2) false f 0 .ieee
      else nearResult f false (rsqrtExact m e) free
    | .sqrt =>
      if neg then invalid f
      else if pow2 && decide (k % 2 = 0) then roundFmt false 1 (k / 2) false f 0 .ieee
      else
        let x := sqrtExact m e
        let r := roundFmt false x.1 x.2.1 x.2.2 f rm .ieee
        (r.1, r.2 ||| flagNX)
    | .exp2 => exp2Finite f neg m e free
    | .log2 => if neg then invalid f else log2Finite f m e free
    | .tanh => ulpResult f neg (fixTanh (toFix m e)) (-(fixBits : Int)) (ulpBound f) free
    | .sin => sinFinite f neg m e free

end Sys2Proof.Machine
end

