-- ==== Sys2Proof/Machine/Vector.lean ====
section
/-! DEFINITION. The V0 and V1 slots (R212–R230). -/

namespace Sys2Proof.Machine

/-! ### One lane -/

/-- Latency of the arithmetic class of a type (R163, R215). -/
def classLat (t : Ty) : Nat :=
  match t with
  | .f32 => 4 | .f16 | .bf16 => 3 | _ => 2

/-- Latency of the integer and logic class (R163). -/
def logicLat : Nat := 2

/-- VMODE.RM (R53). -/
def Ctx.rm (c : Ctx) : Nat := c.vmode.toNat

/-- A rounding field (R219). -/
def rmOf (c : Ctx) : RmSel → Nat
  | .vmode => c.rm | .rne => 0 | .rtz => 1 | .rdn => 2 | .rup => 3

/-- The integer of a lane of an integer type (R212). -/
def laneInt (t : Ty) (x : Nat) : Int :=
  if t.isSigned then intValue x t.fmt else (x % 2 ^ t.width : Nat)

/-- Code of a lane type (R147). -/
def tyCode : Ty → Nat
  | .f32 => 0 | .f16 => 1 | .bf16 => 2 | .i32 => 3 | .i16 => 4 | .n32 => 5 | .n16 => 6

/-- An integer result in the lane width, without flags (R216). -/
def wrapLane (t : Ty) (i : Int) : Nat × Flags := (wrapInt t.width i, 0)

def laneAdd (t : Ty) (rm a b : Nat) : Nat × Flags :=
  if t.isFloat then addRound (laneValue t a) (laneValue t b) t.fmt rm else wrapLane t (a + b)
def laneSub (t : Ty) (rm a b : Nat) : Nat × Flags :=
  if t.isFloat then addRound (laneValue t a) (laneValue t b).neg t.fmt rm else wrapLane t ((a : Int) - b)
def laneMul (t : Ty) (rm a b : Nat) : Nat × Flags :=
  if t.isFloat then mulRound (laneValue t a) (laneValue t b) t.fmt rm else wrapLane t (a * b)
def laneFma (t : Ty) (rm a b d : Nat) : Nat × Flags :=
  if t.isFloat then fmaRound (laneValue t a) (laneValue t b) (laneValue t d) t.fmt rm else wrapLane t (a * b + d)
def laneFms (t : Ty) (rm a b d : Nat) : Nat × Flags :=
  if t.isFloat then fmaRound (laneValue t a) (laneValue t b) (laneValue t d).neg t.fmt rm
  else wrapLane t ((a * b : Nat) - (d : Int))
def laneFnma (t : Ty) (rm a b d : Nat) : Nat × Flags :=
  if t.isFloat then fmaRound (laneValue t a).neg (laneValue t b) (laneValue t d) t.fmt rm
  else wrapLane t ((d : Int) - (a * b : Nat))

/-- Floating minimum and maximum: −0 below +0, a single NaN gives the other operand (R216). -/
def floatMinMax (isMax : Bool) (f : Fmt) (a b : Nat) : Nat × Flags :=
  let x := decodeFloat a f
  let y := decodeFloat b f
  let r := if x.isNaN && y.isNaN then canonNaN f
    else if x.isNaN then b
    else if y.isNaN then a
    else if (if isMax then numLess x y else numLess y x) then b else a
  (r, sigFlag x ||| sigFlag y)

/-- VMIN and VMAX of a lane (R216). -/
def laneMinMax (isMax : Bool) (t : Ty) (a b : Nat) : Nat × Flags :=
  if t.isFloat then floatMinMax isMax t.fmt a b
  else if (if isMax then decide (laneInt t a < laneInt t b) else decide (laneInt t b < laneInt t a)) then (b, 0)
  else (a, 0)

/-- VABS and VNEG of a floating lane: the sign of a non-NaN value, CanonNaN for a NaN (R216). -/
def floatSign (t : Ty) (a : Nat) (x : Nat) : Nat × Flags :=
  let v := laneValue t a
  if v.isNaN then (canonNaN t.fmt, sigFlag v) else (x, 0)
def laneAbs (t : Ty) (a : Nat) : Nat × Flags :=
  if t.isFloat then floatSign t a (a % 2 ^ (t.width - 1)) else wrapLane t (laneInt t a).natAbs
def laneNeg (t : Ty) (a : Nat) : Nat × Flags :=
  if t.isFloat then floatSign t a (a ^^^ 2 ^ (t.width - 1)) else wrapLane t (-laneInt t a)

/-- The shift amount of a lane (R215). -/
def shiftAmount (t : Ty) (b : Nat) : Nat := b % t.width
def laneShl (t : Ty) (a b : Nat) : Nat × Flags := (a * 2 ^ shiftAmount t b % 2 ^ t.width, 0)
def laneShr (t : Ty) (a b : Nat) : Nat × Flags := (a / 2 ^ shiftAmount t b, 0)
/-- VSAR fills with a's top bit, whatever the type's sign (R215). -/
def laneSar (t : Ty) (a b : Nat) : Nat × Flags :=
  let x : Int := if a.testBit (t.width - 1) then (a : Int) - 2 ^ t.width else a
  wrapLane t (x / 2 ^ shiftAmount t b)
/-- VMULH (R215). -/
def laneMulh (t : Ty) (a b : Nat) : Nat × Flags := wrapLane t (laneInt t a * laneInt t b / 2 ^ t.width)
/-- VCLAMP: VMIN(VMAX(a, b), c) (R217). -/
def laneClamp (t : Ty) (a b c : Nat) : Nat × Flags :=
  let x := laneMinMax true t a b
  let y := laneMinMax false t x.1 c
  (y.1, x.2 ||| y.2)
/-- VSCALE: a · 2^b with b a signed integer of the lane width; beyond ±1000 the result no longer changes (R216). -/
def laneScale (t : Ty) (rm a b : Nat) : Nat × Flags :=
  let n : Int := if b.testBit (t.width - 1) then (b : Int) - 2 ^ t.width else b
  match laneValue t a with
  | .fin neg m e => roundFmt neg m (e + satInt n (-1000) 1000) false t.fmt rm .ieee
  | x => convertFloat x t.fmt rm .ieee

/-! ### Elementwise operations (R215–R217) -/

/-- A masked vector operation: lanes that act receive f i, with the flags of those lanes (R213). -/
def vecOp (d : VReg) (t : Ty) (p : PReg) (lat : Nat) (shadowed : Bool) (f : Ctx → Nat → Nat × Flags) (s : State) :
    Host.Outcome State Fault Refusal :=
  finish s (withSlot s (fun s =>
    let r := lanesWrite d t (activity (here s) p) (f (here s))
    resultF s lat r.1 r.2 (if shadowed then shadowOf s t else none)))

/-- Lane i of a vector source. -/
def srcLane (c : Ctx) (t : Ty) (a : VSrc) (i : Nat) : Nat := laneOf (readSrc c t a) t.width i

/-- Lane i of a vector register. -/
def regLane (c : Ctx) (t : Ty) (a : VReg) (i : Nat) : Nat := laneOf (c.readV a) t.width i

/-- An elementwise operation of class F or I on two sources (R215). -/
def vec2 (f : Ty → Nat → Nat → Nat → Nat × Flags) (d : VReg) (a b : VSrc) (p : PReg) (t : Ty) (s : State) :
    Host.Outcome State Fault Refusal :=
  vecOp d t p (classLat t) true (fun c i => f t c.rm (srcLane c t a i) (srcLane c t b i)) s

/-- A multiply-add with d read at issue (R215). -/
def vec3 (f : Ty → Nat → Nat → Nat → Nat → Nat × Flags) (d : VReg) (a b : VSrc) (p : PReg) (t : Ty) (s : State) :
    Host.Outcome State Fault Refusal :=
  vecOp d t p (classLat t) true
    (fun c i => f t c.rm (srcLane c t a i) (srcLane c t b i) (regLane c t d i)) s

/-- A logic operation on bit patterns (R215). -/
def vecLogic (f : Nat → Nat → Nat) (d : VReg) (a b : VSrc) (p : PReg) (t : Ty) (s : State) :
    Host.Outcome State Fault Refusal :=
  vecOp d t p logicLat false (fun c i => (f (srcLane c t a i) (srcLane c t b i), 0)) s

/-- An integer operation on two sources (R215). -/
def vecInt (f : Ty → Nat → Nat → Nat × Flags) (d : VReg) (a b : VSrc) (p : PReg) (t : Ty) (s : State) :
    Host.Outcome State Fault Refusal :=
  vecOp d t p logicLat false (fun c i => f t (srcLane c t a i) (srcLane c t b i)) s

def execVadd (d : VReg) (a b : VSrc) (p : PReg) (t : Ty) (s : State) : Host.Outcome State Fault Refusal := vec2 laneAdd d a b p t s
def execVsub (d : VReg) (a b : VSrc) (p : PReg) (t : Ty) (s : State) : Host.Outcome State Fault Refusal := vec2 laneSub d a b p t s
def execVmul (d : VReg) (a b : VSrc) (p : PReg) (t : Ty) (s : State) : Host.Outcome State Fault Refusal := vec2 laneMul d a b p t s
def execVfma (d : VReg) (a b : VSrc) (p : PReg) (t : Ty) (s : State) : Host.Outcome State Fault Refusal := vec3 laneFma d a b p t s
def execVfms (d : VReg) (a b : VSrc) (p : PReg) (t : Ty) (s : State) : Host.Outcome State Fault Refusal := vec3 laneFms d a b p t s
def execVfnma (d : VReg) (a b : VSrc) (p : PReg) (t : Ty) (s : State) : Host.Outcome State Fault Refusal := vec3 laneFnma d a b p t s
def execVmin (d : VReg) (a b : VSrc) (p : PReg) (t : Ty) (s : State) : Host.Outcome State Fault Refusal :=
  vec2 (fun t _ => laneMinMax false t) d a b p t s
def execVmax (d : VReg) (a b : VSrc) (p : PReg) (t : Ty) (s : State) : Host.Outcome State Fault Refusal :=
  vec2 (fun t _ => laneMinMax true t) d a b p t s
def execVabs (d : VReg) (a : VSrc) (p : PReg) (t : Ty) (s : State) : Host.Outcome State Fault Refusal :=
  vecOp d t p (classLat t) true (fun c i => laneAbs t (srcLane c t a i)) s
def execVneg (d : VReg) (a : VSrc) (p : PReg) (t : Ty) (s : State) : Host.Outcome State Fault Refusal :=
  vecOp d t p (classLat t) true (fun c i => laneNeg t (srcLane c t a i)) s
def execVand (d : VReg) (a b : VSrc) (p : PReg) (t : Ty) (s : State) : Host.Outcome State Fault Refusal := vecLogic (· &&& ·) d a b p t s
def execVor (d : VReg) (a b : VSrc) (p : PReg) (t : Ty) (s : State) : Host.Outcome State Fault Refusal := vecLogic (· ||| ·) d a b p t s
def execVxor (d : VReg) (a b : VSrc) (p : PReg) (t : Ty) (s : State) : Host.Outcome State Fault Refusal := vecLogic (· ^^^ ·) d a b p t s
def execVnot (d : VReg) (a : VSrc) (p : PReg) (t : Ty) (s : State) : Host.Outcome State Fault Refusal :=
  vecOp d t p logicLat false (fun c i => (2 ^ t.width - 1 - srcLane c t a i, 0)) s
def execVshl (d : VReg) (a b : VSrc) (p : PReg) (t : Ty) (s : State) : Host.Outcome State Fault Refusal := vecInt laneShl d a b p t s
def execVshr (d : VReg) (a b : VSrc) (p : PReg) (t : Ty) (s : State) : Host.Outcome State Fault Refusal := vecInt laneShr d a b p t s
def execVsar (d : VReg) (a b : VSrc) (p : PReg) (t : Ty) (s : State) : Host.Outcome State Fault Refusal := vecInt laneSar d a b p t s
def execVmulh (d : VReg) (a b : VSrc) (p : PReg) (t : Ty) (s : State) : Host.Outcome State Fault Refusal := vecInt laneMulh d a b p t s
/-- VCLAMP (R217). -/
def execVclamp (d : VReg) (a b c : VSrc) (p : PReg) (t : Ty) (s : State) : Host.Outcome State Fault Refusal :=
  vecOp d t p (classLat t) true (fun x i => laneClamp t (srcLane x t a i) (srcLane x t b i) (srcLane x t c i)) s
def execVscale (d : VReg) (a b : VSrc) (p : PReg) (t : Ty) (s : State) : Host.Outcome State Fault Refusal := vec2 laneScale d a b p t s
def execVmov (d : VReg) (a : VSrc) (p : PReg) (t : Ty) (s : State) : Host.Outcome State Fault Refusal :=
  vecOp d t p logicLat false (fun c i => (srcLane c t a i, 0)) s
/-- VIOTA (R215). -/
def execViota (d : VReg) (a b : Fin 32) (p : PReg) (t : Ty) (s : State) : Host.Outcome State Fault Refusal :=
  vecOp d t p logicLat false (fun c i => wrapLane t ((readLow c a).toNat + i * (readLow c b).toNat)) s

/-! ### Compares, selection, classification (R218) -/

/-- An operation that writes every bit of a predicate register; inactive lanes write 0 (R218). -/
def predOp (d : PReg) (t : Ty) (p : PReg) (f : Ctx → Nat → Bool × Flags) (s : State) :
    Host.Outcome State Fault Refusal :=
  finish s (withSlot s (fun s =>
    let c := here s
    let act := activity c p
    resultF s 2 (.p d (ofLaneBits t (fun i => laneBit act t i && (f c i).1))) (laneFlags t act (fun i => (f c i).2)) none))

/-- Equality of two lanes and its flags (R218). -/
def laneEq (t : Ty) (a b : Nat) : Bool × Flags :=
  if t.isFloat then
    let x := laneValue t a
    let y := laneValue t b
    (!x.isNaN && !y.isNaN && numEq x y, sigFlag x ||| sigFlag y)
  else (a == b, 0)

/-- Order of two lanes and its flags: any NaN raises NV (R218). -/
def laneOrder (orEqual : Bool) (t : Ty) (a b : Nat) : Bool × Flags :=
  if t.isFloat then
    let x := laneValue t a
    let y := laneValue t b
    if x.isNaN || y.isNaN then (false, flagNV)
    else (if orEqual then numEq x y || numLess x y else numLess x y && !numEq x y, 0)
  else (if orEqual then decide (laneInt t a ≤ laneInt t b) else decide (laneInt t a < laneInt t b), 0)

/-- class(a) in MASK (R218). -/
def laneClass (t : Ty) (mask : BitVec 6) (a : Nat) : Bool :=
  let f := t.fmt
  let hit : Bool := match laneValue t a with
    | .nan _ => mask.getLsbD 0
    | .inf _ => mask.getLsbD 1
    | .fin _ m _ =>
      if m = 0 then mask.getLsbD 4 else if expField a f = 0 then mask.getLsbD 3 else mask.getLsbD 2
  hit && (!mask.getLsbD 5 || signField a f)

def execVcmpeq (d : PReg) (a b : VSrc) (p : PReg) (t : Ty) (s : State) : Host.Outcome State Fault Refusal :=
  predOp d t p (fun c i => laneEq t (srcLane c t a i) (srcLane c t b i)) s
def execVcmpne (d : PReg) (a b : VSrc) (p : PReg) (t : Ty) (s : State) : Host.Outcome State Fault Refusal :=
  predOp d t p (fun c i => (!(laneEq t (srcLane c t a i) (srcLane c t b i)).1, (laneEq t (srcLane c t a i) (srcLane c t b i)).2)) s
def execVcmplt (d : PReg) (a b : VSrc) (p : PReg) (t : Ty) (s : State) : Host.Outcome State Fault Refusal :=
  predOp d t p (fun c i => laneOrder false t (srcLane c t a i) (srcLane c t b i)) s
def execVcmple (d : PReg) (a b : VSrc) (p : PReg) (t : Ty) (s : State) : Host.Outcome State Fault Refusal :=
  predOp d t p (fun c i => laneOrder true t (srcLane c t a i) (srcLane c t b i)) s
def execVclass (d : PReg) (a : VSrc) (mask : BitVec 6) (p : PReg) (t : Ty) (s : State) :
    Host.Outcome State Fault Refusal :=
  predOp d t p (fun c i => (laneClass t mask (srcLane c t a i), 0)) s
/-- VSEL: pP selects, and MT alone makes lanes inactive (R218). -/
def execVsel (d : VReg) (a b : VSrc) (p : PReg) (t : Ty) (s : State) : Host.Outcome State Fault Refusal :=
  finish s (withSlot s (fun s =>
    let c := here s
    let r := lanesWrite d t c.mt (fun i => (if laneBit (c.readP p) t i then srcLane c t a i else srcLane c t b i, 0))
    resultF s logicLat r.1 r.2 none))

/-! ### Conversion (R219) -/

/-- The lanes of the destination that a conversion writes: half H when it narrows (R219). -/
def cvtTarget (t : Ty) (x : CvtArgs) (i : Nat) : Bool :=
  if t.width = 32 && x.dt.width = 16 then i / 64 == (if x.hi then 1 else 0) else true

/-- The source lane of destination lane i (R219). -/
def cvtSource (t : Ty) (x : CvtArgs) (i : Nat) : Nat :=
  if t.width = 16 && x.dt.width = 32 then (if x.hi then 64 else 0) + i
  else if t.width = 32 && x.dt.width = 16 then i % 64
  else i

/-- The lanes a conversion writes as a predicate of the destination's lanes. -/
def cvtActive (t : Ty) (x : CvtArgs) (act : PWord) : PWord :=
  ofLaneBits x.dt (fun i => laneBit act x.dt i && cvtTarget t x i)

/-- VCVT (R219). -/
def execVcvt (d a : VReg) (p : PReg) (t : Ty) (x : CvtArgs) (s : State) : Host.Outcome State Fault Refusal :=
  finish s (withSlot s (fun s =>
    let c := here s
    let r := lanesWrite d x.dt (cvtActive t x (activity c p))
      (fun i => convertTy (laneValue t (regLane c t a (cvtSource t x i))) x.dt (rmOf c x.rm) x.ov)
    resultF s (classLat x.dt) r.1 r.2 (shadowOf s x.dt)))

/-! ### Special functions (R220) -/

/-- An SFU instruction: four cycles of its slot, result at +12 (R220). -/
def sfuOp (op : Sfu) (d : VReg) (a : VSrc) (p : PReg) (t : Ty) (s : State) : Host.Outcome State Fault Refusal :=
  finish s (withSlot s (fun s =>
    let c := here s
    let r := lanesWrite d t (activity c p) (fun i =>
      sfuValue op t.fmt c.rm (laneValue t (srcLane c t a i)) (Config.sfuResult op.code (tyCode t) (srcLane c t a i)))
    resultF (occupy s 4) 12 r.1 r.2 (shadowOf s t)))

def execVrcp (d : VReg) (a : VSrc) (p : PReg) (t : Ty) (s : State) : Host.Outcome State Fault Refusal := sfuOp .rcp d a p t s
def execVrsq (d : VReg) (a : VSrc) (p : PReg) (t : Ty) (s : State) : Host.Outcome State Fault Refusal := sfuOp .rsq d a p t s
def execVsqrt (d : VReg) (a : VSrc) (p : PReg) (t : Ty) (s : State) : Host.Outcome State Fault Refusal := sfuOp .sqrt d a p t s
def execVexp2 (d : VReg) (a : VSrc) (p : PReg) (t : Ty) (s : State) : Host.Outcome State Fault Refusal := sfuOp .exp2 d a p t s
def execVlog2 (d : VReg) (a : VSrc) (p : PReg) (t : Ty) (s : State) : Host.Outcome State Fault Refusal := sfuOp .log2 d a p t s
def execVtanh (d : VReg) (a : VSrc) (p : PReg) (t : Ty) (s : State) : Host.Outcome State Fault Refusal := sfuOp .tanh d a p t s
def execVsin (d : VReg) (a : VSrc) (p : PReg) (t : Ty) (s : State) : Host.Outcome State Fault Refusal := sfuOp .sin d a p t s

/-! ### Reductions and scans (R221, R222) -/

/-- One node of a reduction or step of a scan. -/
def combine (op : RedOp) (t : Ty) (rm a b : Nat) : Nat × Flags :=
  match op with
  | .add => laneAdd t rm a b
  | .max => laneMinMax true t a b
  | .min => laneMinMax false t a b
  | .and => (a &&& b, 0)
  | .or => (a ||| b, 0)
  | .xor => (a ^^^ b, 0)

/-- The identity of an operation (R221). -/
def identity (op : RedOp) (t : Ty) : Nat :=
  match op with
  | .add | .or | .xor => 0
  | .and => 2 ^ t.width - 1
  | .max => if t.isFloat then infinity t.fmt true else wrapInt t.width (if t.isSigned then -(2 ^ (t.width - 1) : Nat) else 0)
  | .min => if t.isFloat then infinity t.fmt false
    else if t.isSigned then 2 ^ (t.width - 1) - 1 else 2 ^ t.width - 1

/-- Two children of a node; an absent child passes the other on (R221). -/
def joinNodes (op : RedOp) (t : Ty) (rm : Nat) (x y : Option Nat) : Option Nat × Flags :=
  match x, y with
  | none, y => (y, 0)
  | x, none => (x, 0)
  | some a, some b => (some (combine op t rm a b).1, (combine op t rm a b).2)

/-- One level of the tree: the next level's nodes and the flags of this one. -/
def treeLevel (op : RedOp) (t : Ty) (rm : Nat) : List (Option Nat) → List (Option Nat) × Flags
  | x :: y :: r =>
    let n := joinNodes op t rm x y
    let u := treeLevel op t rm r
    (n.1 :: u.1, n.2 ||| u.2)
  | l => (l, 0)

/-- The binary tree of R221, `levels` levels high. -/
def treeReduce (op : RedOp) (t : Ty) (rm : Nat) : Nat → List (Option Nat) → Option Nat × Flags
  | 0, l => ((l.head?).join, 0)
  | k + 1, l =>
    let u := treeLevel op t rm l
    let r := treeReduce op t rm k u.1
    (r.1, u.2 ||| r.2)

/-- The active lanes of a register, absent where inactive. -/
def activeLanes (c : Ctx) (t : Ty) (a : VReg) (act : PWord) : List (Option Nat) :=
  (List.range t.lanes).map (fun i => if laneBit act t i then some (regLane c t a i) else none)

/-- Is the reduction checked by the shadow unit? (R213) -/
def redShadow (s : State) (op : RedOp) (t : Ty) : Option (Nat × Ty) :=
  match op with
  | .add | .max | .min => shadowOf s t
  | _ => none

/-- The first active lane of a scan, or the only one of a reduction, by itself: a NaN result is canonical, and a signalling one raises NV
(R52, R222; DEDUCED, log 131). -/
def scanFirst (t : Ty) (x : Nat) : Nat × Flags :=
  let v := laneValue t x
  if t.isFloat && v.isNaN then (canonNaN t.fmt, sigFlag v) else (x, 0)

/-- The result of a reduction whose tree has the root `r`: the identity where it is absent (R221). -/
def reduced (op : RedOp) (t : Ty) (r : Option Nat × Flags) : Nat × Flags :=
  match r.1 with
  | none => (identity op t, r.2)
  | some x => ((scanFirst t x).1, r.2 ||| (scanFirst t x).2)

/-- VRED: lane 0 receives the result, every other lane 0 (R221). -/
def execVred (d a : VReg) (op : RedOp) (p : PReg) (t : Ty) (s : State) : Host.Outcome State Fault Refusal :=
  finish s (withSlot s (fun s =>
    let c := here s
    let r := reduced op t (treeReduce op t c.rm (if t.width = 32 then 6 else 7) (activeLanes c t a (activity c p)))
    resultF s 6 (.v d (BitVec.allOnes 2048) (BitVec.ofNat 2048 r.1)) r.2 (redShadow s op t)))

/-- The scan over lanes: what each lane receives, and the flags; `acc` is the combination of the lanes before (R222). -/
def scanLanes (op : RedOp) (t : Ty) (rm : Nat) (exc : Bool) : Option Nat → List (Option Nat) → List Nat × Flags
  | _, [] => ([], 0)
  | acc, none :: r =>
    let u := scanLanes op t rm exc acc r
    (0 :: u.1, u.2)
  | none, some x :: r =>
    let z := scanFirst t x
    let u := scanLanes op t rm exc (some z.1) r
    ((if exc then identity op t else z.1) :: u.1, u.2 ||| (if exc && r.all (·.isNone) then 0 else z.2))
  | some y, some x :: r =>
    let z := combine op t rm y x
    let u := scanLanes op t rm exc (some z.1) r
    -- the exclusive form combines lane i only when a later active lane needs it
    ((if exc then y else z.1) :: u.1, u.2 ||| (if exc && r.all (·.isNone) then 0 else z.2))

/-- VSCAN (R222). -/
def execVscan (d a : VReg) (op : RedOp) (exc : Bool) (p : PReg) (t : Ty) (s : State) :
    Host.Outcome State Fault Refusal :=
  finish s (withSlot s (fun s =>
    let c := here s
    let act := activity c p
    let r := scanLanes op t c.rm exc none (activeLanes c t a act)
    resultF s 8 (.v d (laneMask t act) (ofLanes t.width t.lanes (fun i => r.1.getD i 0))) r.2 (redShadow s op t)))

/-! ### Permutes and lane transfers (R223) -/

/-- A permute: active lane i receives f i at +4 (R223). -/
def permute (d : VReg) (p : PReg) (t : Ty) (f : Ctx → Nat → Nat) (s : State) : Host.Outcome State Fault Refusal :=
  vecOp d t p 4 false (fun c i => (f c i, 0)) s

def execVperm (d a b : VReg) (p : PReg) (t : Ty) (s : State) : Host.Outcome State Fault Refusal :=
  permute d p t (fun c i => if regLane c t b i < t.lanes then regLane c t a (regLane c t b i) else 0) s
def execVrot (d a : VReg) (b : Fin 32) (p : PReg) (t : Ty) (s : State) : Host.Outcome State Fault Refusal :=
  permute d p t (fun c i => regLane c t a ((i + (readLow c b).toNat % t.lanes) % t.lanes)) s
def execVbcast (d a : VReg) (b : Fin 32) (p : PReg) (t : Ty) (s : State) : Host.Outcome State Fault Refusal :=
  permute d p t (fun c _ => regLane c t a ((readLow c b).toNat % t.lanes)) s
/-- VINS: one lane, in the integer class. -/
def execVins (d : VReg) (a b : Fin 32) (p : PReg) (t : Ty) (s : State) : Host.Outcome State Fault Refusal :=
  finish s (withSlot s (fun s =>
    let c := here s
    let act := activity c p
    let one := ofLaneBits t (fun i => laneBit act t i && i == (readLow c b).toNat % t.lanes)
    result s logicLat (.v d (laneMask t one) (ofLanes t.width t.lanes (fun _ => (readLow c a).toNat)))))
/-- VEXT: to a scalar, whatever the predicate. -/
def execVext (d : Fin 32) (a : VReg) (b : Fin 32) (_p : PReg) (t : Ty) (s : State) : Host.Outcome State Fault Refusal :=
  finish s (withSlot s (fun s =>
    let c := here s
    let x := regLane c t a ((readLow c b).toNat % t.lanes)
    result s 4 (.s (d.castLE (by decide)) (BitVec.ofInt 64 (if t.isSigned then laneInt t x else x)))))

/-- The second register of a pair. -/
def pairReg (d : VReg) : VReg := Fin.ofNat 32 (d.val + 1)

/-- Two masked results in a register pair, each with its own entry (R223, R235). -/
def pairWrite (d : VReg) (p : PReg) (t : Ty) (f g : Ctx → Nat → Nat) (s : State) : Host.Outcome State Fault Refusal :=
  finish s (withSlot s (fun s =>
    let c := here s
    let m := laneMask t (activity c p)
    (result s 4 (.v d m (ofLanes t.width t.lanes (f c)))).andThen
      (fun s => result s 4 (.v (pairReg d) m (ofLanes t.width t.lanes (g c))))))

def execVzip (d a b : VReg) (p : PReg) (t : Ty) (s : State) : Host.Outcome State Fault Refusal :=
  pairWrite d p t (fun c i => regLane c t (if i % 2 = 0 then a else b) (i / 2))
    (fun c i => regLane c t (if i % 2 = 0 then a else b) (t.lanes / 2 + i / 2)) s
/-- Lane j of the concatenation vA:vB with vA as the lower half. -/
def concatLane (c : Ctx) (t : Ty) (a b : VReg) (j : Nat) : Nat :=
  if j < t.lanes then regLane c t a j else regLane c t b (j - t.lanes)
def execVunzip (d a b : VReg) (p : PReg) (t : Ty) (s : State) : Host.Outcome State Fault Refusal :=
  pairWrite d p t (fun c i => concatLane c t a b (2 * i)) (fun c i => concatLane c t a b (2 * i + 1)) s

/-! ### VTOPK (R224) -/

/-- Does lane value x come strictly before y in the order of the selection? -/
def topBefore (isMin : Bool) (t : Ty) (x y : Nat) : Bool :=
  let less (a b : Nat) : Bool :=
    if t.isFloat then numLess (laneValue t a) (laneValue t b) && !numEq (laneValue t a) (laneValue t b)
    else decide (laneInt t a < laneInt t b)
  if isMin then less x y else less y x

/-- Insert a candidate behind those it does not precede. -/
def topInsert (isMin : Bool) (t : Ty) (x : Nat × Nat) : List (Nat × Nat) → List (Nat × Nat)
  | [] => [x]
  | y :: r => if topBefore isMin t x.1 y.1 then x :: y :: r else y :: topInsert isMin t x r

/-- The candidates in order: value and lane index; equal values by lower index (R224). -/
def topOrder (isMin : Bool) (t : Ty) (c : Ctx) (a : VReg) (act : PWord) : List (Nat × Nat) :=
  (List.range t.lanes).foldl (fun acc i =>
    if laneBit act t i && !(t.isFloat && (laneValue t (regLane c t a i)).isNaN) then topInsert isMin t (regLane c t a i, i) acc
    else acc) []

/-- VTOPK (R224). -/
def execVtopk (d a : VReg) (k : BitVec 8) (isMin : Bool) (p : PReg) (t : Ty) (s : State) :
    Host.Outcome State Fault Refusal :=
  finish s (withSlot s (fun s =>
    let c := here s
    let act := activity c p
    let l := topOrder isMin t c a act
    let fl := laneFlags t act (fun i => if t.isFloat then sigFlag (laneValue t (regLane c t a i)) else 0)
    let none_ := if t.isFloat then canonNaN t.fmt else 0
    let out (pick : Nat × Nat → Nat) (empty : Nat) (i : Nat) : Nat :=
      if i < k.toNat then ((l[i]?).map pick).getD empty else 0
    (resultF (occupy s 4) 10 (.v d (BitVec.allOnes 2048) (ofLanes t.width t.lanes (out (·.1) none_))) fl none).andThen
      (fun s => result s 10 (.v (pairReg d) (BitVec.allOnes 2048) (ofLanes t.width t.lanes (out (·.2) (2 ^ t.width - 1)))))))

/-! ### VHACC (R225–R228) -/

/-- Bytes of a table. -/
def haccBytes (x : HaccArgs) : Nat := 8 * 2 ^ x.lgn.val

/-- Buffer of a table. -/
def haccBuf (x : HaccArgs) : Buf := if x.cb then .cb else .ab

/-- The first line of a table that is pending from anything but a VHACC (R228). -/
def haccPending (s : State) (b : Buf) (off len : Nat) : Option Nat :=
  (linesOf off len).find? (fun l =>
    (here s).untimed.any (fun u => !(match u.job with | .vhacc .. => true | _ => false) &&
      u.pending.any (fun p => p.buf == b && p.off / 256 == l)) ||
    (b == .ab && walkHolds s s.cur l))

/-- VHACC at issue (R228). R73 gives it no agent code: TVAL of its pending-line fault has AGA = AGB = 0, and DIR write (DESIGN CHOICE,
log 125). -/
def execVhacc (a : VReg) (b : VSrc) (p : PReg) (t : Ty) (x : HaccArgs) (s : State) : Host.Outcome State Fault Refusal :=
  finish s (withSlot s (fun s =>
    let c := here s
    let base := (c.readS x.sb).toNat
    let buf := haccBuf x
    let len := haccBytes x
    let pend := match haccPending s buf base len with
      | some l => some (bufVal l (bufCode buf) true 0 0)
      | none => none
    ((issueUntimed s (.vhacc t x base (c.readV a) (readSrc c t b) (activity c p) c.rm (if s.slot = .v1 then 1 else 0)) (some ⟨0, none⟩)
      false [] ((linesOf base len).map (fun l => ⟨buf, l * 256⟩))).unless pend.isSome 0x08 pend).unless
        (base % 256 != 0 || !inPartition c buf base len) 0x16 none))

/-- Update of an entry (R226). -/
def haccUpdate (op : HaccOp) (t : Ty) (rm old v : Nat) : Nat × Flags :=
  match op with
  | .add => laneAdd t rm old v
  | .max => laneMinMax true t old v
  | .cnt => ((old + 1) % 2 ^ 32, 0)

/-- Probe the table for a key: entry number and whether it is the key's own (R226). -/
def haccProbe (m : Memory) (n key h : Nat) : Option (Nat × Bool) :=
  (List.range (min 8 (2 ^ n))).findSome? (fun j =>
    let e := (h + j) % 2 ^ n
    let k := memReadNat m (8 * e) 4
    if k = key then some (e, true) else if k = 0xFFFF_FFFF then some (e, false) else none)

/-- What a VHACC does to its table: the table (offsets from its base), the flags, the lane it stopped at, the bytes it wrote, and
the lanes it added to a value, each with the sum. -/
structure HaccRun where
  mem   : Memory
  flags : Flags
  stop  : Option Nat
  wrote : List Nat
  added : List (Nat × Nat)

/-- The lanes of a VHACC from lane i on (R226). -/
def haccRun (t : Ty) (x : HaccArgs) (keys vals : VWord) (act : PWord) (rm : Nat) : Nat → Memory → HaccRun
  | 0, m => ⟨m, 0, none, [], []⟩
  | left + 1, m =>
    let i := 63 - left
    let key := laneOf keys 32 i
    let v := laneOf vals 32 i
    if !laneBit act t i || key == 0xFFFF_FFFF then haccRun t x keys vals act rm left m
    else
      let n := x.lgn.val
      match haccProbe m n key ((key ^^^ (key / 2 ^ 16)) % 2 ^ n) with
      | none => ⟨m, 0, some i, [], []⟩
      | some (e, own) =>
        let u := if own then haccUpdate x.op t rm (memReadNat m (8 * e + 4) 4) v
          else (if x.op = .cnt then 1 else v, 0)
        let r := haccRun t x keys vals act rm left (memWriteNat (memWriteNat m (8 * e) 4 key) (8 * e + 4) 4 u.1)
        ⟨r.mem, u.2 ||| r.flags, r.stop,
          (List.range (if own then 4 else 8)).map (fun b => 8 * e + 7 - b) ++ r.wrote,
          if own && x.op == .add then (i, u.1) :: r.added else r.added⟩

/-! ### VNEST (R229, R230) -/

/-- The lane function of FOP. -/
def nestLane (f : NestOp) (t : Ty) (rm a b d : Nat) : Nat × Flags :=
  match f with
  | .vadd => laneAdd t rm a b
  | .vsub => laneSub t rm a b
  | .vmul => laneMul t rm a b
  | .vfma => laneFma t rm a b d
  | .vmin => laneMinMax false t a b
  | .vmax => laneMinMax true t a b
  | .vand => (a &&& b, 0)
  | .vor => (a ||| b, 0)
  | .vxor => (a ^^^ b, 0)
  | .vmov => (a, 0)

/-- Latency of FOP's class for T (R215). -/
def nestLat (f : NestOp) (t : Ty) : Nat :=
  match f with
  | .vand | .vor | .vxor | .vmov => logicLat
  | _ => classLat t

/-- The five levels of a nest, innermost first. -/
def nestLevels (x : NestArgs) : List NestLevel := [x.l0, x.l1, x.l2, x.l3, x.l4]

/-- Line of a stream at step n: base + Σ i_l · S_l (R230). -/
def nestLine (stride : NestLevel → BitVec 8) (base : BitVec 13) (ls : List NestLevel) (n : Nat) : Int :=
  match ls with
  | [] => base.toNat
  | l :: r =>
    let e := l.x.toNat + 1
    (n % e : Nat) * (stride l).toInt + nestLine stride base r (n / e)

def nestLineA (x : NestArgs) (n : Nat) : Int := nestLine (·.sa) x.baseA (nestLevels x) n
def nestLineB (x : NestArgs) (n : Nat) : Int := nestLine (·.sb) x.baseB (nestLevels x) n
def nestLineD (x : NestArgs) (n : Nat) : Int := nestLine (·.sd) x.baseD (nestLevels x) n

/-- Is a line inside the partition? -/
def lineOk (c : Ctx) (b : Buf) (l : Int) : Bool := decide (0 ≤ l) && inPartition c b (l.toNat * 256) 256

/-- The read streams of step n: agent code, buffer, signed line (R230). -/
def nestStreams (x : NestArgs) (n : Nat) : List (Nat × Buf × Int) :=
  [(11, x.bufA, nestLineA x n), (12, x.bufB, nestLineB x n)] ++
  (if x.fop = .vfma then [(13, x.bufD, nestLineD x n)] else [])

/-- The reads of step n of a VNEST that issued, whose lines all lie in their partitions. -/
def nestReads (x : NestArgs) (n : Nat) : List (Nat × Buf × Nat) :=
  (nestStreams x n).map (fun r => (r.1, r.2.1, r.2.2.toNat))

/-- Two reads of one bank group in one step, of lines inside the partition: the earlier in code order, with its partner's code
(R230). -/
def nestClash (c : Ctx) (x : NestArgs) (n : Nat) : Option (Nat × Nat × Nat × Buf) :=
  let r := (nestStreams x n).filter (fun p => lineOk c p.2.1 p.2.2)
  r.findSome? (fun p => (r.find? (fun q =>
    decide (p.1 < q.1) && p.2.1 == q.2.1 && bankGroup (p.2.2.toNat * 256) == bankGroup (q.2.2.toNat * 256))).map
      (fun q => (p.1, q.1, p.2.2.toNat, p.2.1)))

/-- Is the flight part of a VNEST? -/
def isNest (f : Flight) : Bool := match f.act with
  | .nestStep .. | .nestWrite .. => true
  | _ => false

/-- Does a context of the core run a VNEST whose last write is still ahead, one that a trap holds among them? A second VNEST that issues
in the very cycle of that write is refused too, since writes come after issue in a cycle (R230; DESIGN CHOICE, log 126). -/
def nestBusy (s : State) : Bool :=
  (List.range 4).any (fun i =>
    let c := ctxOf s (coreIx s.cur * 4 + i)
    c.flights.any isNest || c.snap.any (fun e => isNest e.flight))

/-- VNEST (R229, R230): its slot occupancy and its steps are flights of one command. -/
def execVnest (x : NestArgs) (s : State) : Host.Outcome State Fault Refusal :=
  finish s (withSlot s (fun s =>
    let c := here s
    if nestBusy s then .trap 0x03 (some (BitVec.ofNat 64 s.slot.code))
    else
      let steps := List.range x.steps
      match steps.findSome? (nestClash c x) with
        | some (a, b, line, buf) => .trap 0x07 (some (bufVal line (bufCode buf) false b a))
        | none =>
          if !steps.all (fun n => lineOk c x.bufA (nestLineA x n) && lineOk c x.bufB (nestLineB x n) &&
            lineOk c x.bufD (nestLineD x n)) then .trap 0x16 none
          else
          let s := reserve s [span s c.ttc (c.ttc + 1 + x.steps + nestLat x.fop x.t) 40]
          .ok (modHere s (fun c => { c with
            seq := c.seq + 1
            flights := c.flights ++ [⟨c.seq, c.ttc + x.steps + 1, .occupy s.slot.code, []⟩,
              ⟨c.seq, c.ttc + 2, .nestStep x s.slot.code (activity c x.p) c.rm 0, []⟩] }))))

end Sys2Proof.Machine
end

