-- ==== Sys2Proof/Machine/Matrix.lean ====
section
/-! DEFINITION. The MX slot at issue (R247, R251–R263, R384). -/

namespace Sys2Proof.Machine

/-! ### Checks -/

/-- Does the task own the tile? (R384) -/
def ownsTile (c : Ctx) (t : TileIx) : Bool := c.task.any (fun x => x.tiles.getLsbD t.val)

/-- TVAL of a pending tile: BUF 4, LINE tile × 128 (R30). -/
def tileVal (t : TileIx) (write : Bool) (agent : Nat) : W64 := bufVal (t.val * 128) 4 write agent agent

/-- Do `n` lines from `line` lie inside the partition? -/
def linesInside (c : Ctx) (b : Buf) (line : Int) (n : Nat) : Bool :=
  n == 0 || (decide (0 ≤ line) && inPartition c b (line.toNat * 256) (n * 256))

/-- The buffer checks of a descriptor: WB or AB wherever the array reads a stream (R71, R247). -/
def descBuffersOk (d : Side) : Bool :=
  gField d.g 1 < 2 && (!d.sc || gField d.g 19 < 2) && (!d.zp || gField d.g 21 < 2)

/-- The lines of the tile and blocks at position n lie inside the partition (R247). -/
def tileInside (c : Ctx) (d : Side) (n : Nat) : Bool :=
  linesInside c (descTile d n).1 (descTile d n).2 (tileLines d.fmt) &&
  linesInside c (bufOf (gField d.g 19)) (gField d.g 18 + d.shift + blockOffset d.g n) (scaleLines d) &&
  linesInside c (bufOf (gField d.g 21)) (gField d.g 20 + d.shift + blockOffset d.g n) (zeroLines d)

/-- The access checks of a descriptor over nk positions (R247). -/
def descAccessOk (c : Ctx) (d : Side) (nk : Nat) : Bool :=
  descReservedOk d.g && descBuffersOk d && decide (gField d.g 3 ≤ 128) &&
  (List.range nk).all (fun j => tileInside c d (gField d.g 17 + j))

/-- FMT of a descriptor agrees with PREC (R247). -/
def descFormatOk (d : Side) : Bool := Fmt.ofCode (gField d.g 2) == some d.fmt

/-- Two lines of one stream in one bank (R252). -/
def bankRepeat (l : List StreamLine) : Option StreamLine :=
  l.find? (fun x => decide (2 ≤ (l.filter (fun y => y.buf == x.buf && y.line % 16 == x.line % 16)).length))

/-- More lines of a stream in one buffer than the other operand leaves it (R253). -/
def rateExceeded (l other : List StreamLine) : Option StreamLine :=
  l.find? (fun x =>
    let n := (l.filter (fun y => y.buf == x.buf)).length
    decide (16 < n) || (decide (8 < n) && other.any (fun y => y.buf == x.buf)))

/-- A line of A in the bank group of a line of B (R74). -/
def groupMeet (a b : List StreamLine) : Option StreamLine :=
  a.find? (fun x => b.any (fun y => x.buf == y.buf && x.line / 8 % 2 == y.line / 8 % 2))

/-- TVAL of a conflict found at issue. -/
def conflictVal (x : StreamLine) (agb aga : Nat) : W64 := bufVal x.line.toNat (bufCode x.buf) false agb aga

/-- The conflict of one cycle of a k-group, with all the lines of the two operands for the rate rule. -/
def cycleConflict (la lb allA allB : List StreamLine) : Option W64 :=
  match bankRepeat la, bankRepeat lb, rateExceeded la allB, rateExceeded lb allA, groupMeet la lb with
  | some x, _, _, _, _ => some (conflictVal x 1 1)
  | _, some x, _, _, _ => some (conflictVal x 2 2)
  | _, _, some x, _, _ => some (conflictVal x 1 1)
  | _, _, _, some x, _ => some (conflictVal x 2 2)
  | _, _, _, _, some x => some (conflictVal x 2 1)
  | none, none, none, none, none => none

/-- The first bank conflict of an operation's streams (R74, R252, R253). -/
def arrayConflict (da db : Side) (nk P : Nat) : Option W64 :=
  (List.range nk).findSome? (fun j =>
    let na := gField da.g 17 + j
    let nb := gField db.g 17 + j
    let la := (List.range P).map (streamLines da (descTile da na) na P)
    let lb := (List.range P).map (streamLines db (descTile db nb) nb P)
    (la.zip lb).findSome? (fun p => cycleConflict p.1 p.2 la.flatten lb.flatten))

/-- An untimed array operation of the core that has not reached its draining wait (R255). -/
def arrayHeld (s : State) : Bool :=
  (List.range 4).any (fun i => (ctxOf s (coreIx s.cur * 4 + i)).allUntimed.any (fun u => match u.job with
    | .mmag .. => true
    | .mmas .. => true
    | _ => false))

/-- Does [start, start + len) overlap the span of a timed array operation? (R255) -/
def arrayBusy (s : State) (start len : Nat) : Bool :=
  (here s).flights.any (fun f => match f.act with
    | .mmaRead r .. =>
      decide (r.start < start + len ∧ start < r.start + r.nk * precCycles (precOf r.prec))
    | _ => false)

/-! ### MMA (R251–R255) -/

/-- Cycles per k-group that the window rule counts: those of PREC, or the largest where PREC would be refused (R161;
DEDUCED, log 113). -/
def countedCycles (p : Prec) : Nat := if precOk p then precCycles p else 256

/-- The reservation of an MMA-class command (R125). -/
def mmaDraw (s : State) (t : TileIx) (nk start : Nat) : Interval :=
  span s start (start + nk * countedCycles (precOf (here s).prec[t]) - 1) 720

/-- Start an MMA at TTC `start` with everything latched now: MMA, MMAZ and the follow-on of COPYM (R251, R271). -/
def mmaStart (s : State) (t : TileIx) (ga gb : GReg) (nk start : Nat) (zero : Bool) (slot : Nat) : Issue :=
  let c := here s
  let px := c.prec[t]
  let p := precOf px
  let da := sideA p (c.readG ga) c.padm
  let db := sideB p (c.readG gb) c.padm
  let tile := tileOf s (coreIx s.cur) t
  let run : MmaRun := ⟨t, px, tile.rows, tile.cols, c.readG ga, c.readG gb, c.padm, start, nk, zero, false⟩
  let go := (result s 1 (fieldWrite ga 17 (gField (c.readG ga) 17 + nk))).andThen (fun s =>
    (result s 1 (fieldWrite gb 17 (gField (c.readG gb) 17 + nk))).andThen (fun s =>
      .ok (fly (reserve s [mmaDraw s t nk start]) (start - c.ttc) (.mmaRead run 0 0 [] [] [] []))))
  let formOk := precOk p && descFormatOk da && descFormatOk db
  let accessOk := ownsTile c t && descAccessOk c da nk && descAccessOk c db nk
  -- streams that do not stand have no banks to conflict (R252)
  let conflict := if formOk && accessOk then arrayConflict da db nk (precCycles p) else none
  -- an MMA on a tile that an untimed array operation makes pending raises pending line (R257), not its slot busy (log 101)
  let busy := arrayBusy s start (nk * countedCycles p) || (arrayHeld s && !tilePending c t)
  (((((go.unless busy 0x03 (some (BitVec.ofNat 64 slot))).unless
    conflict.isSome 0x07 conflict).unless
    (tilePending c t) 0x08 (some (tileVal t true 9))).unless
    (!formOk) 0x0D none).unless (!accessOk) 0x16 none)

/-- A timed MX or EC command raises missed start after its AT (R29). -/
def timedAt (s : State) (at_ : BitVec 16) (f : State → Issue) : Issue :=
  (f s).unless (decide (at_.toNat < (here s).ttc)) 0x05 none

/-- MMA (R251). -/
def execMma (t : TileIx) (ga gb : GReg) (at_ nk : BitVec 16) (s : State) : Host.Outcome State Fault Refusal :=
  finish s (withSlot s (fun s => timedAt s at_ (fun s => mmaStart s t ga gb nk.toNat at_.toNat false 10)))
/-- MMAZ (R251). -/
def execMmaz (t : TileIx) (ga gb : GReg) (at_ nk : BitVec 16) (s : State) : Host.Outcome State Fault Refusal :=
  finish s (withSlot s (fun s => timedAt s at_ (fun s => mmaStart s t ga gb nk.toNat at_.toNat true 10)))

/-! ### MMAG and MMAS (R256–R258) -/

/-- A group of an MMAG table: NK, tile, Z, DA, DB (R256). -/
structure GroupEntry where
  nk   : Nat
  tile : TileIx
  z    : Bool
  da   : Int
  db   : Int
deriving DecidableEq, Repr

/-- Decode a table entry (R256). -/
def groupEntry (x : W64) : GroupEntry :=
  ⟨fieldOf x.toNat 0 16, Fin.ofNat 4 (fieldOf x.toNat 16 2), x.getLsbD 18,
   (x.extractLsb' 32 16).toInt, (x.extractLsb' 48 16).toInt⟩

/-- The table of G entries. -/
def groupTable (m : Memory) (g : Nat) : List W64 :=
  (List.range g).map (fun i => BitVec.ofNat 64 (memReadNat m (8 * i) 8))

/-- The operands of a group: the descriptors with their bases displaced (R256). -/
def groupSides (c : Ctx) (e : GroupEntry) (ga gb : GWord) (padm : W64) : Side × Side :=
  let p := precOf c.prec[e.tile]
  ({ sideA p ga padm with shift := e.da }, { sideB p gb padm with shift := e.db })

/-- The fault of a group at issue, if any (R60, R247, R384). -/
def groupFault (c : Ctx) (ga gb : GWord) (e : GroupEntry) : Option Nat :=
  let d := groupSides c e ga gb c.padm
  if e.nk ≠ 0 ∧ (!precOk (precOf c.prec[e.tile]) || !descFormatOk d.1 || !descFormatOk d.2) then some 0x0D
  else if !ownsTile c e.tile || (e.nk != 0 && !(descAccessOk c d.1 e.nk && descAccessOk c d.2 e.nk)) then some 0x16
  else none

/-- MMAG (R256, R257). -/
def execMmag (d : SReg) (ga gb : GReg) (g : BitVec 12) (s : State) : Host.Outcome State Fault Refusal :=
  finish s (withSlot s (fun s =>
    let c := here s
    let off := (c.readS d).toNat
    if g = 0 then .ok s
    else commandRead s off (8 * g.toNat) 8 (fun m =>
      let table := groupTable m g.toNat
      match (table.map groupEntry).findSome? (groupFault c (c.readG ga) (c.readG gb)) with
      | some code => .trap code none
      | none => issueUntimed (reserve s [openSpan s 720])
          (.mmag (c.readG ga) (c.readG gb) c.padm table) none false [] [])))

/-- The faults of MMAS that concern only its descriptors (R247, R258). -/
def masDescFault (g : GWord) : Option Nat :=
  if ((Fmt.ofCode (gField g 2)).bind minWidth).isNone then some 0x0D
  else if !descReservedOk g || decide (2 ≤ gField g 1) || decide (128 < gField g 3) then some 0x16
  else none

/-- MMAS (R258). -/
def execMmas (q : QueueIx) (ga gb : GReg) (s : State) : Host.Outcome State Fault Refusal :=
  finish s (withSlot s (fun s =>
    let c := here s
    let go := issueUntimed (reserve s [openSpan s 720]) (.mmas q.val (c.readG ga) (c.readG gb) c.padm [] false) none false [] []
    let bad (code : Nat) : Bool := masDescFault (c.readG ga) == some code || masDescFault (c.readG gb) == some code
    (go.unless (bad 0x0D) 0x0D none).unless (bad 0x16) 0x16 none))

/-! ### TDRAIN, TLOAD, TCLR, TMASK, PRECSET, TSTAT (R259–R263) -/

/-- Is PREC.t an integer mode, as ACCF stands now? -/
def tileIsInt (c : Ctx) (t : TileIx) : Bool := (precOf c.prec[t]).accf != 0

/-- Does the format of a drain or load fit PREC.t's accumulator mode: 0 for a floating one, 1 or 2 for an integer one? The reserved
mode 3 fits none; R259, of drains, does not name it (log 134). (R57, R259, R260) -/
def drainMode (accf : Nat) (f : Fmt) : Bool := if f.isFloat then accf == 0 else accf == 1 || accf == 2

/-- Rows of a drain or load: 0 means 128 (R259). -/
def drainRows (rows : BitVec 8) : Nat := if rows = 0 then 128 else rows.toNat

/-- Lines of a drain or load (R259). -/
def drainLines (f : Fmt) (rows : Nat) : Nat := rows * (f.bits / 8) / 2

/-- The checks common to TDRAIN and TLOAD (R259, R260, R384). -/
def drainChecks (s : State) (t : TileIx) (off : Nat) (f : Fmt) (rows : Nat) (write : Bool) (agent : Nat) (poison : Bool)
    (r : Issue) : Issue :=
  let c := here s
  (((r.unless (tilePending c t) 0x08 (some (tileVal t write agent))).unless
    (!drainMode (precOf c.prec[t]).accf f) 0x0D none).unless poison 0x0F none).unless
    (!ownsTile c t || off % 256 != 0 || !inPartition c .cb off (256 * drainLines f rows)) 0x16 none

/-- TDRAIN: line L at TTC AT + L (R259). -/
def execTdrain (t : TileIx) (rm : RmSel) (b : SReg) (fmt : Fmt) (ov : Ovf) (at_ : BitVec 16) (rows : BitVec 8)
    (s : State) : Host.Outcome State Fault Refusal :=
  finish s (withSlot s (fun s => timedAt s at_ (fun s =>
    let c := here s
    let off := (c.readS b).toNat
    let n := drainRows rows
    drainChecks s t off fmt n false 6 (tileOf s (coreIx s.cur) t).poison
      (.ok (fly s (at_.toNat - c.ttc) (.drain t fmt (rmOf c rm) ov (tileIsInt c t) off n 0 false))))))

/-- TLOAD: line L read at AT + L, written at AT + L + 1 (R260). -/
def execTload (t : TileIx) (b : SReg) (fmt : Fmt) (at_ : BitVec 16) (rows : BitVec 8) (s : State) :
    Host.Outcome State Fault Refusal :=
  finish s (withSlot s (fun s => timedAt s at_ (fun s =>
    let c := here s
    let off := (c.readS b).toNat
    let n := drainRows rows
    drainChecks s t off fmt n true 7 false
      (.ok (fly s (at_.toNat - c.ttc) (.tloadRead t fmt off n 0 false))))))

/-- TCLR and TMASK: a tile the task owns, not pending, acting at +1 (R261, R384). -/
def tileOp (t : TileIx) (agent : Nat) (act : Ctx → Act) (s : State) : Host.Outcome State Fault Refusal :=
  finish s (withSlot s (fun s =>
    let c := here s
    ((Issue.ok (fly s 1 (act c))).unless (tilePending c t) 0x08 (some (tileVal t true agent))).unless
      (!ownsTile c t) 0x16 none))

/-- TCLR (R261). -/
def execTclr (t : TileIx) (s : State) : Host.Outcome State Fault Refusal := tileOp t 10 (fun _ => .tclr t) s

/-- A TMASK limit: 0 or more than 128 gives 128 (R261). -/
def maskLimit (x : W64) : Nat :=
  let n := x.toNat % 256
  if n = 0 ∨ 128 < n then 128 else n

/-- TMASK (R261). -/
def execTmask (t : TileIx) (a b : SReg) (s : State) : Host.Outcome State Fault Refusal :=
  tileOp t 15 (fun c => .tmask t (maskLimit (c.readS a)) (maskLimit (c.readS b))) s

/-- A width field of PRECSET, minus 1: 0 stands for the default of the format (R59, R262). -/
def precWidth (w : Fin 16) (fmt : BitVec 5) : Nat :=
  if w.val = 0 then (((Fmt.ofCode fmt.toNat).map defaultWidth).getD 1) - 1 else w.val - 1

/-- The PREC value PRECSET writes (R262). -/
def precsetValue (x : PrecsetArgs) : Nat :=
  precWidth x.wa x.fmtA + precWidth x.wb x.fmtB * 2 ^ 4 + x.fmtA.toNat * 2 ^ 8 + x.fmtB.toNat * 2 ^ 13 +
  (if x.rnda then 2 ^ 18 else 0) + (if x.rndb then 2 ^ 19 else 0) + x.accf.val * 2 ^ 20

/-- PRECSET (R262). -/
def execPrecset (x : PrecsetArgs) (s : State) : Host.Outcome State Fault Refusal :=
  finish s (withSlot s (fun s => result s 2 (.cr (0x20 + x.tile.val) (BitVec.ofNat 64 (precsetValue x)))))

/-- Does a flight read or write the tile for MMA, TDRAIN or TLOAD? (R263) -/
def touchesTile (t : TileIx) : Act → Bool
  | .mmaRead r .. => r.tile == t
  | .mmaUpdate r .. => r.tile == t
  | .drain u .. => u == t
  | .drainWrite u .. => u == t
  | .tloadRead u .. => u == t
  | .tloadWrite u .. => u == t
  | _ => false

/-- Is the tile pending under an MMAG or MMAS of a context of the core? (R263) -/
def tileHeld (s : State) (core : Nat) (t : TileIx) : Bool :=
  (List.range 4).any (fun i => (ctxOf s (core * 4 + i)).allUntimed.any (holdsTile t))

/-- Is a tile access of a timed MMA, TDRAIN or TLOAD of the core scheduled, one that a trap holds among them? (R263) -/
def tileBusy (s : State) (core : Nat) (t : TileIx) : Bool :=
  (List.range 4).any (fun i =>
    let c := ctxOf s (core * 4 + i)
    c.flights.any (fun f => touchesTile t f.act) || c.snap.any (fun e => touchesTile t e.flight.act))

/-- The status word of TSTAT, which may name any tile of the core (R263, R384). -/
def tileStatus (s : State) (t : TileIx) : W64 :=
  let core := coreIx s.cur
  let x := tileOf s core t
  BitVec.ofNat 64 (x.cols * 2 ^ 18 + x.rows * 2 ^ 10 + (if tileHeld s core t then 8 else 0) +
    (if tileBusy s core t then 4 else 0) + (if x.clamp then 2 else 0) + (if x.poison then 1 else 0))

/-- TSTAT (R263). -/
def execTstat (d : SReg) (t : TileIx) (c : Bool) (s : State) : Host.Outcome State Fault Refusal :=
  finish s (withSlot s (fun s =>
    (result s 1 (.s d (tileStatus s t))).andThen (fun s => .ok (if c then fly s 1 (.clampClear t) else s))))

end Sys2Proof.Machine
end

