-- ==== Sys2Proof/Machine/Branch.lean ====
section
/-! DEFINITION. Branches, calls, hardware loops, BSEL, the mask stack and IDLE (R165–R173). -/

namespace Sys2Proof.Machine

/-- Drop the innermost loop entries up to the outermost one whose range excludes the target (R167). -/
def popLoops (target : W64) (ls : List LoopEntry) : List LoopEntry :=
  let outside (e : LoopEntry) : Bool := decide (target.toNat < e.start.toNat ∨ e.stop.toNat < target.toNat)
  match ls with
  | [] => []
  | e :: r => let r' := popLoops target r
    if r'.length < r.length ∨ outside e then r' else e :: r

/-- Does the bundle stand in a delay slot of a taken branch? (R41) -/
def inDelay (c : Ctx) : Bool := c.redirect.isSome

/-- A taken branch: shadow branch in a delay bundle, else fetch redirects after two delay bundles (R40, R41). -/
def takeBranch (s : State) (target : W64) (pops : Bool) : Issue :=
  if inDelay (here s) then .trap 0x04 none
  else .ok (modHere s (fun c => { c with
    branch := some ⟨target, 2, pops⟩ }))

/-- A conditional relative branch (R165). -/
def branchIf {n : Nat} (cond : Bool) (x : BitVec n) (s : State) : Issue :=
  withSlot s (fun s => if cond then takeBranch s ((here s).pc + 4 * sext64 x) true else .ok s)

/-- B (R165). -/
def execB (x : BitVec 25) (s : State) : Host.Outcome State Fault Refusal := finish s (branchIf true x s)
/-- BZ (R165). -/
def execBz (a : SReg) (x : BitVec 13) (s : State) : Host.Outcome State Fault Refusal :=
  finish s (branchIf ((here s).readS a == 0) x s)
/-- BNZ (R165). -/
def execBnz (a : SReg) (x : BitVec 13) (s : State) : Host.Outcome State Fault Refusal :=
  finish s (branchIf ((here s).readS a != 0) x s)
/-- BEQ (R165). -/
def execBeq (a b : SReg) (x : BitVec 13) (s : State) : Host.Outcome State Fault Refusal :=
  finish s (branchIf ((here s).readS a == (here s).readS b) x s)
/-- BNE (R165). -/
def execBne (a b : SReg) (x : BitVec 13) (s : State) : Host.Outcome State Fault Refusal :=
  finish s (branchIf ((here s).readS a != (here s).readS b) x s)
/-- BLT, signed (R165). -/
def execBlt (a b : SReg) (x : BitVec 13) (s : State) : Host.Outcome State Fault Refusal :=
  finish s (branchIf (((here s).readS a).slt ((here s).readS b)) x s)
/-- BGE, signed (R165). -/
def execBge (a b : SReg) (x : BitVec 13) (s : State) : Host.Outcome State Fault Refusal :=
  finish s (branchIf (!((here s).readS a).slt ((here s).readS b)) x s)
/-- BLTN, unsigned (R165). -/
def execBltn (a b : SReg) (x : BitVec 13) (s : State) : Host.Outcome State Fault Refusal :=
  finish s (branchIf (((here s).readS a).ult ((here s).readS b)) x s)
/-- BGEN, unsigned (R165). -/
def execBgen (a b : SReg) (x : BitVec 13) (s : State) : Host.Outcome State Fault Refusal :=
  finish s (branchIf (!((here s).readS a).ult ((here s).readS b)) x s)
/-- BANY (R165). -/
def execBany (a : PReg) (x : BitVec 13) (s : State) : Host.Outcome State Fault Refusal :=
  finish s (branchIf (((here s).readP a &&& (here s).mt) != 0) x s)
/-- BNONE (R165). -/
def execBnone (a : PReg) (x : BitVec 13) (s : State) : Host.Outcome State Fault Refusal :=
  finish s (branchIf (((here s).readP a &&& (here s).mt) == 0) x s)
/-- BMZ: taken when MT has no bit set (R43, R165). -/
def execBmz (x : BitVec 25) (s : State) : Host.Outcome State Fault Refusal :=
  finish s (branchIf ((here s).mt == 0) x s)

/-- CALL: as B, with the return offset in s63 at +1; the loop stack stays (R166, R167). -/
def execCall (x : BitVec 25) (s : State) : Host.Outcome State Fault Refusal :=
  finish s (withSlot s (fun s => (takeBranch s ((here s).pc + 4 * sext64 x) false).andThen
    (fun s => result s 1 (.s 63 (returnOffset s (here s))))))

/-- An indirect jump target must be a multiple of 4 (R166). -/
def jumpTo (s : State) (target : W64) (pops : Bool) : Issue :=
  (takeBranch s target pops).unless (target.toNat % 4 != 0) 0x16 none

/-- CALLI (R166). -/
def execCalli (d a : SReg) (s : State) : Host.Outcome State Fault Refusal :=
  finish s (withSlot s (fun s => (jumpTo s ((here s).readS a) false).andThen
    (fun s => result s 1 (.s d (returnOffset s (here s))))))

/-- JMPI (R166). -/
def execJmpi (a : SReg) (s : State) : Host.Outcome State Fault Refusal :=
  finish s (withSlot s (fun s => jumpTo s ((here s).readS a) true))

/-! ### Hardware loops -/

/-- SP at the start of pass p of a LOOPP (R37). -/
def stageBits (trip : Nat) (stages p : Nat) : BitVec 8 :=
  BitVec.ofNat 8 ((List.range stages).foldl (fun acc st =>
    acc + if decide (st ≤ p ∧ p - st < trip) then 2 ^ st else 0) 0)

/-- A hardware update of a control register: it never collides, and a SETC of the same cycle prevails (R182). -/
def hardwareCR (s : State) (i : Nat) (x : W64) : State := fly s 1 (.result (.cr i x) 0 none)

/-- Is an LC held by a stacked entry? (R167) -/
def holdsLc (c : Ctx) (n : Fin 4) : Bool := c.loops.any (fun e => e.kind != .sloop && e.lc == n)

/-- Is a LOOPP active? (R37) -/
def hasLoopp (c : Ctx) : Bool := c.loops.any (fun e => e.kind == .loopp)

/-- The checks common to the loop instructions (R36, R41, R167). -/
def enterLoop (s : State) (usesLc : Option (Fin 4)) (isPipelined : Bool) (f : State → Issue) : Issue :=
  let c := here s
  if inDelay c then .trap 0x04 none
  else if decide (c.mode = .supervisor) || decide (4 ≤ c.loops.length) ||
      usesLc.any (holdsLc c) || (isPipelined && hasLoopp c) then .trap 0x15 none
  else f s

/-- The bundle after the loop's end bundle, where a trip of 0 goes (R168). -/
def loopExit (s : State) (c : Ctx) (x : BitVec 13) : W64 := nextBundle s c (c.pc + 4 * sext64 x)

/-- Push a loop entry (R167). -/
def pushLoop (s : State) (kind : LoopKind) (lc : Fin 4) (x : BitVec 13) (trip : W64) (stages queue : Nat) (pred : PReg) :
    State :=
  modHere s (fun c => { c with loops :=
    ⟨kind, lc, nextBundle s c c.pc, c.pc + 4 * sext64 x, trip, stages, queue, pred⟩ :: c.loops })

/-- A loop with trip 0 in user mode and no delay slot skips to its exit (R168). Naming an LC that is held raises its trap (R167),
and so does a LOOPP while another is active: R37 gives both, the skip and the trap, and no order (DESIGN CHOICE, log 98). -/
def skipLoop (s : State) (n : Fin 4) (isPipelined : Bool) (x : BitVec 13) : Issue :=
  let c := here s
  if inDelay c then .trap 0x04 none
  else if c.mode = .supervisor ∨ holdsLc c n ∨ (isPipelined ∧ hasLoopp c) then .trap 0x15 none
  else .ok (modHere s (fun c => { c with skip := some (loopExit s c x) }))

/-- The loop-state updates of a loop instruction at its issue; they perform at +1 and stand behind the other results of its bundle
(R168, R169, R302). -/
def startLoop (s : State) (us : List (Nat × W64)) : State := modHere s (fun c => { c with loopState := us })

/-- LOOP (R168). -/
def execLoop (a : SReg) (n : Fin 4) (x : BitVec 13) (s : State) : Host.Outcome State Fault Refusal :=
  finish s (withSlot s (fun s =>
    let trip := (here s).readS a
    if trip = 0 then skipLoop s n false x
    else enterLoop s (some n) false (fun s => .ok (startLoop (pushLoop s .loop n x trip 1 0 0) [(0x80 + n.val, trip)]))))

/-- LOOPP (R37, R169). -/
def execLoopp (a : SReg) (n : Fin 4) (x : BitVec 13) (stages : Fin 8) (s : State) :
    Host.Outcome State Fault Refusal :=
  finish s (withSlot s (fun s =>
    let trip := (here s).readS a
    if trip = 0 then skipLoop s n true x
    else enterLoop s (some n) true (fun s =>
      .ok (startLoop (pushLoop s .loopp n x trip (stages.val + 1) 0 0)
        [(0x80 + n.val, trip + BitVec.ofNat 64 stages.val), (0x88, (stageBits trip.toNat (stages.val + 1) 0).setWidth 64)]))))

/-- SLOOP (R38, R170). -/
def execSloop (q : QueueIx) (p : PReg) (x : BitVec 13) (s : State) : Host.Outcome State Fault Refusal :=
  finish s (withSlot s (fun s => enterLoop s none false (fun s =>
    result (pushLoop s .sloop 0 x 0 1 q.val p) 1 (.p p 0))))

/-- Does the loop of an entry go round again at its end bundle? (R168–R170) -/
def loopContinues (c : Ctx) (e : LoopEntry) : Bool :=
  if e.kind = .sloop then c.readP e.pred != BitVec.allOnes 128 else decide (1 < c.lc[e.lc].toNat)

/-- The control-register updates of an entry's end test, performing at +1 (R168, R169). The number of the pass follows LC: after a SETC
to it the spec does not say whether p does, or counts the passes run (DESIGN CHOICE, log 115). -/
def loopUpdates (c : Ctx) (e : LoopEntry) : List (Nat × W64) :=
  let pass := e.trip.toNat + e.stages - c.lc[e.lc].toNat
  if e.kind = .sloop then []
  else if loopContinues c e then
    (0x80 + e.lc.val, c.lc[e.lc] - 1) ::
      (if e.kind = .loopp then [(0x88, (stageBits e.trip.toNat e.stages pass).setWidth 64)] else [])
  else (0x80 + e.lc.val, 0) :: (if e.kind = .loopp then [(0x88, 0)] else [])

/-- The end test on a loop stack: what stays, the updates, and where control goes (R167). -/
def endScan (c : Ctx) (ls : List LoopEntry) : List LoopEntry × List (Nat × W64) × Option W64 :=
  match ls with
  | [] => ([], [], none)
  | e :: r =>
    if e.stop != c.pc then (e :: r, [], none)
    else if loopContinues c e then (e :: r, loopUpdates c e, some e.start)
    else ((endScan c r).1, loopUpdates c e ++ (endScan c r).2.1, (endScan c r).2.2)

/-- The end test after the operations of a bundle: the new state, with the bundle's loop-state updates in flight, and where control
goes, if a loop continues. -/
def endTest (s : State) : State × Option W64 :=
  let x := endScan (here s) (here s).loops
  (((here s).loopState ++ x.2.1).foldl (fun s u => hardwareCR s u.1 u.2)
    (modHere s (fun c => { c with loops := x.1, loopState := [] })), x.2.2)

/-! ### BSEL, mask stack, IDLE -/

/-- BSEL: the table is read at +1 through the command port, and decides then (R39, R171); a pending line of entry 0 is met at
issue, one of the other entries by the read (R30). PADM is a timed result, which may collide (R102). -/
def execBsel (a b : SReg) (s : State) : Host.Outcome State Fault Refusal :=
  finish s (withSlot s (fun s =>
    let c := here s
    let off := (c.readS b).toNat
    let read (s : State) : Issue := flyTo s (some (4, 0x60)) 1 1 (.bselRead ((c.readS a).setWidth 32) off)
    if off % 8 != 0 || !inPartition c .dm off 8 then ((takeBranch s 0 true).andThen read).unless true 0x16 none
    else ((takeBranch s 0 true).andThen (fun s => checkPort s off 8)).andThen read))

/-- Entry j of a BSEL table (R171). -/
def bselEntry (s : State) (k off j : Nat) : Nat := memReadNat (bufPrior s k .dm (off + 8 * j) 8) 0 8

/-- The bucket BSEL selects among `nb`, as its index from 0 (R39, R171). -/
def bselPick (s : State) (k off nb v : Nat) : Option Nat :=
  (List.range nb).find? (fun j => decide (v ≤ fieldOf (bselEntry s k off (j + 1)) 0 32))

/-- The target of the selection (R171). -/
def bselTarget (s : State) (k off : Nat) (hit : Option Nat) : Nat :=
  fieldOf (bselEntry s k off ((hit.map (· + 1)).getD 0)) 32 32

/-- PADM after the selection (R39). -/
def bselPadm (s : State) (k off v : Nat) (hit : Option Nat) : W64 :=
  match hit with
  | some j => BitVec.ofNat 64 (fieldOf (bselEntry s k off (j + 1)) 0 32 - v)
  | none => 0

/-- BSEL's faults decided by its read: no redirect, PADM unchanged (R171, R77). -/
def bselFault (s : State) (k cause : Nat) (v : W64) : State :=
  postCause (modCtx s k (fun c => { c with redirect := none })) k cause v

/-- The table read of BSEL at +1: PADM and the redirect, or an access fault at the boundary (R171). -/
def bselRead (s : State) (k : Nat) (v : BitVec 32) (off : Nat) : State :=
  let nb := fieldOf (bselEntry s k off 0) 0 32
  let hit := bselPick s k off (min nb 64) v.toNat
  let target := bselTarget s k off hit
  let len := 8 * (nb + 1)
  if badBytes s k .dm off 8 != [] then nextFresh (bselFault s k 0x0F (Config.freeWord s.fresh)) 1
  else if decide (64 < nb) || !inPartition (ctxOf s k) .dm off len then
    nextFresh (bselFault s k 0x16 (Config.freeWord s.fresh)) 1
  else if (firstPending s k .dm off len).isSome then
    bselFault s k 0x08 (pendingVal ((firstPending s k .dm off len).getD 0) 3 false 0)
  else if badBytes s k .dm off len != [] then nextFresh (bselFault s k 0x0F (Config.freeWord s.fresh)) 1
  else if target % 4 ≠ 0 then nextFresh (bselFault s k 0x16 (Config.freeWord s.fresh)) 1
  else
    modCtx s k (fun c => { c with
      padm := bselPadm s k off v.toNat hit
      redirect := c.redirect.map (fun r => { r with target := BitVec.ofNat 64 target }) })

/-- The parent of MT (R43). -/
def maskParent (m : List PWord) : PWord := (m.tail.head?).getD (BitVec.allOnes 128)

/-- MPUSH (R43, R172). -/
def execMpush (a : PReg) (s : State) : Host.Outcome State Fault Refusal :=
  finish s (withSlot s (fun s =>
    let c := here s
    if c.mode = .supervisor then .ok s
    else if 16 ≤ c.mask.length then .trap 0x0E none
    else .ok (modHere s (fun c => { c with maskNext := some ((c.mt &&& c.readP a) :: c.mask) }))))

/-- MINV (R43, R172). -/
def execMinv (s : State) : Host.Outcome State Fault Refusal :=
  finish s (withSlot s (fun s =>
    let c := here s
    if c.mode = .supervisor then .ok s
    else match c.mask with
      | [] => .trap 0x0E none
      | m :: r => .ok (modHere s (fun c => { c with maskNext := some ((maskParent (m :: r) &&& ~~~m) :: r) }))))

/-- MPOP (R43, R172). -/
def execMpop (s : State) : Host.Outcome State Fault Refusal :=
  finish s (withSlot s (fun s =>
    let c := here s
    if c.mode = .supervisor then .ok s
    else match c.mask with
      | [] => .trap 0x0E none
      | _ :: r => .ok (modHere s (fun c => { c with maskNext := some r }))))

/-- IDLE (R173). -/
def execIdle (n : BitVec 12) (s : State) : Host.Outcome State Fault Refusal :=
  finish s (withSlot s (fun s => .ok (modHere s (fun c => { c with idle := n.toNat }))))

end Sys2Proof.Machine
end

