-- ==== Sys2Proof/Machine/LoadStore.lean ====
section
/-! DEFINITION. The LS slot: DM loads, stores and atomics, and their global forms (R204–R211). -/

namespace Sys2Proof.Machine

/-- Access size in bytes (R204). -/
def sizeOf' : Sz → Nat
  | .b1 => 1 | .b2 => 2 | .b4 => 4 | .b8 => 8

/-- Extension of an n-byte value (R204). -/
def extend (sx : Bool) (n x : Nat) : W64 :=
  let y := x % 2 ^ (8 * n)
  if sx && y.testBit (8 * n - 1) then BitVec.ofInt 64 ((y : Int) - 2 ^ (8 * n)) else BitVec.ofNat 64 y

/-- The new value of an atomic on n bytes; AMOCAS writes only on a match (R209). -/
def amoNew (op : AmoOp) (n old v c : Nat) : Option Nat :=
  let m := 2 ^ (8 * n)
  let sg (x : Nat) : Int := if x < m / 2 then x else (x : Int) - m
  match op with
  | .add => some ((old + v) % m)
  | .min => some (if sg old ≤ sg v then old else v)
  | .max => some (if sg v ≤ sg old then old else v)
  | .minn => some (if old ≤ v then old else v)
  | .maxn => some (if v ≤ old then old else v)
  | .and => some (old &&& v)
  | .or => some (old ||| v)
  | .xor => some (old ^^^ v)
  | .swap => some v
  | .cas => if old = c then some v else none

/-- A DM access: aligned and inside the partition, not of a pending line (R205, R30). -/
def dmAccess (s : State) (addr n : Nat) (write : Bool) (f : State → Issue) : Issue :=
  ((checkPending s .dm addr n write 8).andThen f).unless
    (addr % n != 0 || !inPartition (here s) .dm addr n) 0x16 none

/-- LD: reads at +1, result at +3 (R206). -/
def execLd (d a b : SReg) (sx : Bool) (sz : Sz) (s : State) : Host.Outcome State Fault Refusal :=
  finish s (withSlot s (fun s =>
    let addr := ((here s).readS a + (here s).readS b).toNat
    dmAccess s addr (sizeOf' sz) false (fun s =>
      flyTo s (regDest (.s d 0)) 1 3 (.dmRead d addr (sizeOf' sz) sx))))

/-- ST: performs at +1 with sD read at issue (R206). -/
def execSt (d a b : SReg) (sz : Sz) (s : State) : Host.Outcome State Fault Refusal :=
  finish s (withSlot s (fun s =>
    let addr := ((here s).readS a + (here s).readS b).toNat
    dmAccess s addr (sizeOf' sz) true (fun s =>
      .ok (fly s 1 (.dmWrite addr (bytesOfNat (sizeOf' sz) ((here s).readS d).toNat))))))

/-- The DM form of an atomic: reads and writes at +1, result at +3 (R209, R210). -/
def amoDm (op : AmoOp) (d a b : SReg) (sx : Bool) (sz : Sz) (s : State) : Host.Outcome State Fault Refusal :=
  finish s (withSlot s (fun s =>
    let addr := ((here s).readS a).toNat
    dmAccess s addr (sizeOf' sz) true (fun s =>
      flyTo s (regDest (.s d 0)) 1 3
        (.dmAtomic d op addr (sizeOf' sz) sx ((here s).readS b) ((here s).readS d)))))

/-- The page of an unmapped untimed access, which holds its unit or enters a side log (R89). -/
def heldPage (s : State) (vaddr : Nat) : Option Nat :=
  match translate s s.cur vaddr with
  | .unmapped => some (vaddr / 65536)
  | _ => none

/-- The unit of an untimed access and whether a write of it to an unmapped page stands in the unit's side log (R89): 0 the global
access unit, 1 the gather unit, 2 the scatter path. The fabric and durable units meet no pageable segment. -/
def jobUnit : Job → Option (Nat × Bool)
  | .load .. => some (0, false)
  | .store .. | .atomic .. => some (0, true)
  | .gather .. => some (1, false)
  | .scatter .. | .replay .. => some (2, true)
  | _ => none

/-- Is the operation a memory access, which fences, arrivals and scoped atomics order? (R110, R112, R113) -/
def isAccess : Job → Bool
  | .load .. | .store .. | .atomic .. | .gather .. | .scatter .. | .replay .. | .fput .. | .fget .. | .dput .. | .dget ..
  | .record .. | .mmag .. | .mmas .. | .vhacc .. | .signal .. | .walk => true
  | _ => false

/-- The pages for which an operation holds its unit or stands in its side log. -/
def heldPages (u : Untimed) : List Nat :=
  u.held.toList ++ (match u.job with
    | .replay l _ => l.map (fun e => e.1 / 65536)
    | _ => [])

/-- The physical line of a device line of a context, with its package; none while its page is unmapped. -/
def physLine (s : State) (k line : Nat) : Option (Nat × Nat) :=
  match translate s k (line * 64) with
  | .hit p => some (if p.kind = .rem ∧ p.pkg ≠ s.pkgId then p.pkg + 1 else 0, p.paddr / 64)
  | _ => none

/-- Do two lists of device lines of a context have a line in common, by its virtual or its physical address? (R111) -/
def meetLines (s : State) (k : Nat) (xs ys : List Nat) : Bool :=
  xs.any ys.contains || (let phys := ys.filterMap (physLine s k); xs.any (fun l => (physLine s k l).any phys.contains))

/-- Is the job a SCATTER that has not performed? -/
def isScatter : Job → Bool
  | .scatter .. => true
  | _ => false

/-- Is the operation a write that stands in its unit's side log for a page of its own? (R89) -/
def isLogHead (u : Untimed) : Bool := !u.done && (jobUnit u.job).any (·.2) && heldPages u != []

/-- The entries of a side log, for pages of their own, to one of whose lines the later write `u` of the context goes (R89). -/
def logHeads (s : State) (k : Nat) (u : Untimed) : List Untimed :=
  (ctxOf s k).allUntimed.filter (fun v => isLogHead v && decide (v.seq < u.seq) && meetLines s k v.lines u.lines)

/-- Does the operation stand in its unit's side log: for an unmapped page, or behind an earlier write of the log to one of its
lines? (R89) A SCATTER enters it by elements, as it performs. -/
def isLogged (s : State) (k : Nat) (u : Untimed) : Bool :=
  isLogHead u || (!u.done && (jobUnit u.job).any (·.2) && !isScatter u.job && logHeads s k u != [])

/-- Has the unit of an operation of this core an unresolved entry for the page already? (R338) -/
def pagePosted (s : State) (core : Nat) (job : Job) (page : Nat) : Bool :=
  (List.range 4).any (fun i => (ctxOf s (core * 4 + i)).allUntimed.any (fun u =>
    !u.done && (jobUnit u.job).map Prod.fst == (jobUnit job).map Prod.fst && (heldPages u).contains page))

/-- Post the unmapped page of an access, once per hold and once per page of a side log (R338); SUB 1 a held unit, 2 a side-log
entry. -/
def postPage (s : State) (k : Nat) (job : Job) (vaddr sub : Nat) : State :=
  if pagePosted s (coreIx k) job (vaddr / 65536) then s
  else postCtxFault s k sub 0x0B (BitVec.ofNat 64 vaddr) 0 (ctxOf s k).pc.toNat

/-- Post the page of an access that issues, if it is unmapped (R89). -/
def postHeld (s : State) (job : Job) (vaddr sub : Nat) : State :=
  if (heldPage s vaddr).isSome then postPage s s.cur job vaddr sub else s

/-- The operation `u` of the acting context as it issues: held on its page, and with the cycle in which it enters its unit's side log,
for that page or behind an earlier write of the log (R89, R351). -/
def heldOn (s : State) (page : Option Nat) (u : Untimed) : Untimed :=
  let u := { u with held := page }
  { u with loggedAt := if isLogged s s.cur u then some s.gcc else none }

/-- Mark the last untimed operation as held on its page (R89). -/
def markHeld (s : State) (page : Option Nat) : State :=
  modHere s (fun c => { c with untimed := c.untimed.mapIdx (fun i u =>
    if i + 1 = c.untimed.length then heldOn s page u else u) })

/-- Issue an untimed access of device memory: segment and alignment faults at issue, then the operation (R205, R207). -/
def globalAccess (s : State) (vaddr n : Nat) (allowed : MemKind → Bool) (write : Bool) (job : Job)
    (res : Option Result) (ordered : Bool) : Issue :=
  let wrong := match kindOf s s.cur vaddr with
    | none => true
    | some (k, w) => !allowed k || (write && !w)
  (((issueUntimed (postHeld s job vaddr (if write then 2 else 1)) job res ordered (lines64 vaddr n) []).andThen
    (fun t => .ok (markHeld t (heldPage s vaddr)))).unless wrong 0x0C none).unless (vaddr % n != 0) 0x16 none

/-- LDG (R207). -/
def execLdg (d a b : SReg) (sx : Bool) (sz : Sz) (s : State) : Host.Outcome State Fault Refusal :=
  finish s (withSlot s (fun s =>
    let v := ((here s).readS a + (here s).readS b).toNat
    globalAccess s v (sizeOf' sz) (fun _ => true) false (.load v (sizeOf' sz) sx) (resultFor d) false))

/-- STG (R207). -/
def execStg (d a b : SReg) (sz : Sz) (s : State) : Host.Outcome State Fault Refusal :=
  finish s (withSlot s (fun s =>
    let v := ((here s).readS a + (here s).readS b).toNat
    globalAccess s v (sizeOf' sz) (fun _ => true) true
      (.store v (bytesOfNat (sizeOf' sz) ((here s).readS d).toNat)) none false))

/-- The segments a global atomic may name, and the nodes that may issue one (R211, R354). -/
def atomicAllowed (c : Ctx) (k : MemKind) : Bool :=
  (k == .plain || k == .pg || k == .rem) && !(c.task.any (fun t => t.spec || t.redundant))

/-- The global form of an atomic (R211). -/
def amoGlobal (op : AmoOp) (d a b : SReg) (sc : Scope) (sx : Bool) (sz : Sz) (s : State) :
    Host.Outcome State Fault Refusal :=
  finish s (withSlot s (fun s =>
    let v := ((here s).readS a).toNat
    globalAccess s v (sizeOf' sz) (atomicAllowed (here s)) true
      (.atomic op v (sizeOf' sz) sx ((here s).readS b) ((here s).readS d) sc) (resultFor d) true))

def execAmoaddDm (d a b : SReg) (sx : Bool) (sz : Sz) (s : State) : Host.Outcome State Fault Refusal := amoDm .add d a b sx sz s
def execAmominDm (d a b : SReg) (sx : Bool) (sz : Sz) (s : State) : Host.Outcome State Fault Refusal := amoDm .min d a b sx sz s
def execAmomaxDm (d a b : SReg) (sx : Bool) (sz : Sz) (s : State) : Host.Outcome State Fault Refusal := amoDm .max d a b sx sz s
def execAmominnDm (d a b : SReg) (sx : Bool) (sz : Sz) (s : State) : Host.Outcome State Fault Refusal := amoDm .minn d a b sx sz s
def execAmomaxnDm (d a b : SReg) (sx : Bool) (sz : Sz) (s : State) : Host.Outcome State Fault Refusal := amoDm .maxn d a b sx sz s
def execAmoandDm (d a b : SReg) (sx : Bool) (sz : Sz) (s : State) : Host.Outcome State Fault Refusal := amoDm .and d a b sx sz s
def execAmoorDm (d a b : SReg) (sx : Bool) (sz : Sz) (s : State) : Host.Outcome State Fault Refusal := amoDm .or d a b sx sz s
def execAmoxorDm (d a b : SReg) (sx : Bool) (sz : Sz) (s : State) : Host.Outcome State Fault Refusal := amoDm .xor d a b sx sz s
def execAmoswapDm (d a b : SReg) (sx : Bool) (sz : Sz) (s : State) : Host.Outcome State Fault Refusal := amoDm .swap d a b sx sz s
def execAmocasDm (d a b : SReg) (sx : Bool) (sz : Sz) (s : State) : Host.Outcome State Fault Refusal := amoDm .cas d a b sx sz s
def execAmoaddGlobal (d a b : SReg) (sc : Scope) (sx : Bool) (sz : Sz) (s : State) : Host.Outcome State Fault Refusal := amoGlobal .add d a b sc sx sz s
def execAmominGlobal (d a b : SReg) (sc : Scope) (sx : Bool) (sz : Sz) (s : State) : Host.Outcome State Fault Refusal := amoGlobal .min d a b sc sx sz s
def execAmomaxGlobal (d a b : SReg) (sc : Scope) (sx : Bool) (sz : Sz) (s : State) : Host.Outcome State Fault Refusal := amoGlobal .max d a b sc sx sz s
def execAmominnGlobal (d a b : SReg) (sc : Scope) (sx : Bool) (sz : Sz) (s : State) : Host.Outcome State Fault Refusal := amoGlobal .minn d a b sc sx sz s
def execAmomaxnGlobal (d a b : SReg) (sc : Scope) (sx : Bool) (sz : Sz) (s : State) : Host.Outcome State Fault Refusal := amoGlobal .maxn d a b sc sx sz s
def execAmoandGlobal (d a b : SReg) (sc : Scope) (sx : Bool) (sz : Sz) (s : State) : Host.Outcome State Fault Refusal := amoGlobal .and d a b sc sx sz s
def execAmoorGlobal (d a b : SReg) (sc : Scope) (sx : Bool) (sz : Sz) (s : State) : Host.Outcome State Fault Refusal := amoGlobal .or d a b sc sx sz s
def execAmoxorGlobal (d a b : SReg) (sc : Scope) (sx : Bool) (sz : Sz) (s : State) : Host.Outcome State Fault Refusal := amoGlobal .xor d a b sc sx sz s
def execAmoswapGlobal (d a b : SReg) (sc : Scope) (sx : Bool) (sz : Sz) (s : State) : Host.Outcome State Fault Refusal := amoGlobal .swap d a b sc sx sz s
def execAmocasGlobal (d a b : SReg) (sc : Scope) (sx : Bool) (sz : Sz) (s : State) : Host.Outcome State Fault Refusal := amoGlobal .cas d a b sc sx sz s

end Sys2Proof.Machine
end

