-- ==== Sys2Proof/Machine/Wait.lean ====
section
/-! DEFINITION. Task control, waits, barriers, FENCE, GETC and SETC, code hints, TRAP and RTE (R174–R184, R192). -/

namespace Sys2Proof.Machine

/-- Word index of the BR syllable of the bundle: after the header and its guard syllables (R144, R146). -/
def brIndex (s : State) : Nat :=
  let h := codeWord s (here s) (here s).pc
  let ops := ((List.range 11).filter (fun i => h.testBit (21 + i))).length
  1 + (if h.testBit 7 then (ops + 7) / 8 else 0)

/-- An operation that has no place in supervisor mode: illegal encoding, REASON 5 (R174, R177). -/
def userOnly (s : State) (word : Nat) (f : State → Issue) : Issue :=
  if (here s).mode = .supervisor then .trap 0x01 (some (illegalVal word (brIndex s) 0 5)) else f s

/-- An operation of supervisor mode only: privileged in user mode (R195). -/
def supervisorOnly (s : State) (f : State → Issue) : Issue :=
  if (here s).mode = .supervisor then f s else .trap 0x14 none

/-- Enter a wait (R31). -/
def startWait (s : State) (k : WaitKind) : State := modHere s (fun c => { c with wait := some ⟨k, s.gcc, c.pc⟩ })

/-- END (R16, R174). -/
def execEndTask (s : State) : Host.Outcome State Fault Refusal :=
  finish s (withSlot s (fun s => userOnly s 0x3000_0000 (fun s => .ok (startWait s .endTask))))
/-- YIELD (R174). -/
def execYield (s : State) : Host.Outcome State Fault Refusal :=
  finish s (withSlot s (fun s => userOnly s 0x3200_0000 (fun s => .ok (startWait s .yield))))
/-- WAITE (R175). -/
def execWaite (s : State) : Host.Outcome State Fault Refusal := finish s (withSlot s (fun s => .ok (startWait s .waite)))
/-- WAITQ (R175). -/
def execWaitq (q : QueueIx) (s : State) : Host.Outcome State Fault Refusal :=
  finish s (withSlot s (fun s => .ok (startWait s (.waitq q.val))))

/-- The comparison of WAITM (R176). -/
def compareWord (cc : Cmp) (w32 : Bool) (x y : W64) : Bool :=
  let n := if w32 then 32 else 64
  let a := x.toNat % 2 ^ n
  let b := y.toNat % 2 ^ n
  let sg (v : Nat) : Int := if v < 2 ^ (n - 1) then v else (v : Int) - 2 ^ n
  match cc with
  | .eq => a == b
  | .ne => a != b
  | .lt => decide (sg a < sg b)
  | .ge => decide (sg b ≤ sg a)
  | .ltn => decide (a < b)
  | .gen => decide (b ≤ a)

/-- One comparison of the monitor: false when the word's page is unmapped; a HOST or REM word is a free value (R176, log 3, log 47). -/
def monitorHit (s : State) (k vaddr : Nat) (b : W64) (cc : Cmp) (w32 : Bool) : Bool :=
  match translate s k vaddr with
  | .hit p =>
    if p.kind = .rem ∨ p.kind = .host then Config.freeBool s.fresh
    else
      let ids := nodeIds (ctxOf s k)
      compareWord cc w32 (BitVec.ofNat 64 (natOfBytes (physReadList s ids.1 ids.2 p.paddr (if w32 then 4 else 8)))) b
  | _ => false

/-- The condition of a WAITM that is not met yet is met, by a true comparison or without one (R176). -/
def Wait.meet (w : Wait) (x : Bool) : Wait :=
  match w.kind with
  | .waitm d v b cc w32 dl none => { w with kind := .waitm d v b cc w32 dl (some x) }
  | _ => w

/-- A WAITM compares again (R176). -/
def lookAgain (s : State) (k : Nat) (w : Wait) : Wait :=
  match w.kind with
  | .waitm _ v b cc w32 _ none => if monitorHit s k v b cc w32 then w.meet true else w
  | _ => w

/-- A WAITM on a pageable word that is mapped by now compares again (R176, R351). -/
def lookMapped (s : State) (k : Nat) (w : Wait) : Wait :=
  match w.kind with
  | .waitm _ v _ _ _ _ _ => match translate s k v with
    | .hit p => if p.kind = .pg then lookAgain s k w else w
    | _ => w
  | _ => w

/-- The unmapped page of a monitored word is posted as that of a load is (R89, R176). -/
def postMonitor (s : State) (v n : Nat) : State := postHeld s (.load v n false) v 1

/-- WAITM (R176). -/
def execWaitm (d a b : SReg) (cc : Cmp) (w32 : Bool) (timeout : BitVec 16) (s : State) :
    Host.Outcome State Fault Refusal :=
  finish s (withSlot s (fun s =>
    let v := ((here s).readS a).toNat
    let y := (here s).readS b
    if d ≠ 0 ∧ 16 ≤ (here s).resultCount then .trap 0x03 (some 0)
    else if kindOf s s.cur v = none then .trap 0x0C none
    else if v % (if w32 then 4 else 8) ≠ 0 then .trap 0x16 none
    else
      let hit := monitorHit s s.cur v y cc w32
      let deadline := if timeout = 0 then none else some (s.gcc + 1024 * timeout.toNat)
      .ok (nextFresh (startWait (postMonitor s v (if w32 then 4 else 8)) (.waitm d v y cc w32 deadline (if hit then some true else none))) 1)))

/-- CSYNC (R33, R177). -/
def execCsync (s : State) : Host.Outcome State Fault Refusal :=
  finish s (withSlot s (fun s => userOnly s 0x3A00_0000 (fun s => .ok (startWait s (.csync s.gcc)))))

/-- A barrier name: home core and index (R178). -/
def barrierName (x : W64) : Nat := fieldOf x.toNat 8 9 * 64 + fieldOf x.toNat 0 6

/-- Is the home core of a barrier name inside the context's tenant? (R179) -/
def barrierOk (s : State) (x : W64) : Bool :=
  match (here s).task with
  | none => decide (fieldOf x.toNat 8 9 < Config.cores)
  | some t => (tenantOf s t.tenant).cores.contains (fieldOf x.toNat 8 9)

/-- BARINIT of a barrier of the issuing core, performing at +1 (R179). -/
def execBarinit (a b : SReg) (s : State) : Host.Outcome State Fault Refusal :=
  finish s (withSlot s (fun s =>
    .ok (fly s 1 (.barInit (fieldOf ((here s).readS a).toNat 0 6) (((here s).readS b).setWidth 16)))))
/-- BARARR: the arrival counts after everything issued before it has performed (R110, R179). -/
def execBararr (a : SReg) (s : State) : Host.Outcome State Fault Refusal :=
  finish s (withSlot s (fun s =>
    let x := (here s).readS a
    if barrierOk s x then issueUntimed s (.arrive (barrierName x)) none false [] [] else .trap 0x16 none))
/-- BARWAIT (R179). -/
def execBarwait (a b : SReg) (s : State) : Host.Outcome State Fault Refusal :=
  finish s (withSlot s (fun s =>
    let x := (here s).readS a
    if barrierOk s x then .ok (startWait s (.barwait (barrierName x) (((here s).readS b).setWidth 16)))
    else .trap 0x16 none))
/-- FENCE: an entry in the untimed order that later accesses stay behind (R112, R181). -/
def execFence (sc : Scope) (s : State) : Host.Outcome State Fault Refusal :=
  finish s (withSlot s (fun s => issueUntimed s (.fence sc) none false [] []))
/-- PBAR (R93, R180). -/
def execPbar (s : State) : Host.Outcome State Fault Refusal := finish s (withSlot s (fun s => .ok (startWait s .pbar)))
/-- PCOMMIT: the record is read from DM at +1 and written as one durable line (R93, R180). -/
def execPcommit (a b : SReg) (s : State) : Host.Outcome State Fault Refusal :=
  finish s (withSlot s (fun s =>
    let v := ((here s).readS a).toNat
    let off := ((here s).readS b).toNat
    let reads := off % 8 == 0 && inPartition (here s) .dm off 64
    (((if reads then checkPort s off 64 else .ok s).unless (kindOf s s.cur v != some (.dur, true)) 0x0C none).unless
      (v % 64 != 0 || !reads) 0x16 none).andThen
        (fun s => .ok (fly (startWait s .pcommit) 1 (.pcommitRead v off)))))

/-! ### Control registers (R150, R182) -/

/-- HELDCNT, OVF and COUNT of 0x180 (R339). -/
def faultStatus (d : DieState) : W64 :=
  BitVec.ofNat 64 ((if d.ovf then 2 ^ 63 else 0) + d.held.length % 2 ^ 16 * 2 ^ 32 + d.faults.length % 2 ^ 13)

/-- Registers of system cores; a compute core reads 0 (R339, R349). -/
def readSystemCR (s : State) (k i : Nat) : W64 :=
  if coreIx k < Config.firstSystemCore then 0
  else
    let d := dieOf s (dieIx k)
    let c := coreOf s (coreIx k)
    match i with
    | 0x180 => faultStatus d
    | 0x184 => (d.faults.head?.map (fun e => e.w0)).getD 0
    | 0x185 => (d.faults.head?.map (fun e => e.w1)).getD 0
    | 0x186 => (d.faults.head?.map (fun e => e.w2)).getD 0
    | 0x187 => (d.faults.head?.map (fun e => e.w3)).getD 0
    | 0x190 => c.ptsel.setWidth 64
    | 0x191 => (tenantOf s c.ptsel.toNat).ptroot
    | 0x192 => c.pgreq
    | 0x193 => match c.pgres with
      | none => 0
      | some r => (r.setWidth 64) ||| (1 <<< 63)
    | _ => 0

/-- ALLOW (R129). -/
def readAllow (c : CoreState) : W64 := BitVec.ofNat 64 (c.target % 2 ^ 13 * 2 ^ 32 + c.value % 2 ^ 13)

/-- The value of a control register at issue (R17, R129, R150, R182). -/
def readCR (s : State) (k i : Nat) : W64 :=
  let c := ctxOf s k
  let core := coreOf s (coreIx k)
  if i < 8 then
    match i with
    | 0 => BitVec.ofNat 64 c.ttc
    | 1 => BitVec.ofNat 64 s.gcc
    | 2 => BitVec.ofNat 64 (k % 4)
    | 3 => BitVec.ofNat 64 (coreIx k)
    | 4 => BitVec.ofNat 64 (clusIx k)
    | 5 => BitVec.ofNat 64 (dieIx k)
    | 6 => BitVec.ofNat 64 s.pkgId
    | _ => BitVec.ofNat 64 (nodeIds c).2
  else if 0x10 ≤ i ∧ i ≤ 0x14 then BitVec.ofNat 64 ((c.task.bind (fun t => t.tid[i - 0x10]?)).getD 0)
  else if 0x18 ≤ i ∧ i ≤ 0x1C then BitVec.ofNat 64 ((c.task.bind (fun t => t.text[i - 0x18]?)).getD 1)
  else if 0x20 ≤ i ∧ i ≤ 0x23 then (c.prec.toList.getD (i - 0x20) 0).setWidth 64
  else if 0x76 ≤ i ∧ i ≤ 0x7D then (c.winlog.toList.getD (i - 0x76) 0).setWidth 64
  else if 0x80 ≤ i ∧ i ≤ 0x83 then c.lc.toList.getD (i - 0x80) 0
  else if 0x110 ≤ i ∧ i ≤ 0x112 then core.ecnt.toList.getD (i - 0x110) 0
  else match i with
    | 0x30 => readAllow core
    | 0x31 => BitVec.ofNat 64 (min (windowSum core s.gcc core.weight core.resv) 0xFFFF)
    | 0x32 => boolWord core.strict
    | 0x40 => c.heapBase
    | 0x41 => c.heapLim
    | 0x42 => c.heapOff
    | 0x50 => c.vmode.setWidth 64
    | 0x51 => c.flagsSeen.setWidth 64
    | 0x60 => c.padm
    | 0x70 => c.tvec
    | 0x71 => c.tcause.setWidth 64
    | 0x72 => c.tpc
    | 0x73 => c.tval
    | 0x74 => c.tframe
    | 0x75 => c.tstate.setWidth 64
    | 0x88 => c.readSP.setWidth 64
    | 0x90 => BitVec.ofNat 64 c.mask.length
    | 0xA0 => c.hstat
    | 0x100 => c.trtgt
    | 0x101 => c.trttc
    | _ => readSystemCR s k i

/-- Is the index a supervisor register, which user mode may not touch? (R4, R150) -/
def isSupervisorCR (i : Nat) : Bool := decide (0x100 ≤ i)

/-- Does a SETC write the register in this mode? (R150) -/
def writableCR (m : Mode) (i : Nat) : Bool :=
  (0x20 ≤ i && i ≤ 0x23) || i == 0x50 || i == 0x51 || i == 0x60 || (0x80 ≤ i && i ≤ 0x83) || i == 0x88 || i == 0xA0 ||
  (m == .supervisor && ((0x70 ≤ i && i ≤ 0x75) || (0x100 ≤ i && i ≠ 0x192)))

/-- GETC (R182). -/
def execGetc (d : SReg) (i : BitVec 13) (s : State) : Host.Outcome State Fault Refusal :=
  finish s (withSlot s (fun s =>
    if isSupervisorCR i.toNat ∧ (here s).mode = .user then .trap 0x14 none
    else result s 1 (.s d (readCR s s.cur i.toNat))))

/-- SETC: takes effect at +2; one of PGREQ is an untimed request too (R182, R349, R350). -/
def execSetc (a : SReg) (i : BitVec 13) (s : State) : Host.Outcome State Fault Refusal :=
  finish s (withSlot s (fun s =>
    let x := (here s).readS a
    if isSupervisorCR i.toNat ∧ (here s).mode = .user then .trap 0x14 none
    else if i.toNat = 0x192 then
      if coreIx s.cur < Config.firstSystemCore then .ok s
      else (issueUntimed s (.pgreq x) none false [] []).andThen (fun s => result s 2 (.cr 0x192 x))
    else if writableCR (here s).mode i.toNat then result s 2 (.cr i.toNat x)
    else .ok s))

/-! ### Code hints, TRAP, RTE -/

/-- Bytes pinned so far: each block once, whoever pins it. -/
def pinnedBytes (pins : List (Nat × Nat × Nat)) : Nat := 64 * ((pins.map (fun p => p.1)).eraseDups).length

/-- Pin blocks for a node, in order and as far as the limit allows (R91). -/
def pinBlocks (limit : Nat) (ids : Nat × Nat) (pins : List (Nat × Nat × Nat)) (blocks : List Nat) : List (Nat × Nat × Nat) :=
  blocks.foldl (fun pins b =>
    if pins.contains (b, ids) then pins
    else if pins.any (fun p => p.1 == b) || decide (pinnedBytes pins + 64 ≤ limit) then pins ++ [(b, ids)]
    else pins) pins

/-- Unpin blocks for a node. -/
def unpinBlocks (ids : Nat × Nat) (pins : List (Nat × Nat × Nat)) (blocks : List Nat) : List (Nat × Nat × Nat) :=
  pins.filter (fun p => !(p.2 == ids && blocks.contains p.1))

/-- Change the pins of the acting context's level: L1 of its core or L2 of its cluster (R91, R183). -/
def modPins (s : State) (l2 : Bool) (f : List (Nat × Nat × Nat) → List (Nat × Nat × Nat)) : State :=
  if l2 then modCluster s (clusIx s.cur) (fun c => { c with pins := f c.pins })
  else modHereCore s (fun c => { c with pins := f c.pins })

/-- IPF: a hint (R183). -/
def execIpf (_a _b : SReg) (_l : CacheLevel) (s : State) : Host.Outcome State Fault Refusal := finish s (withSlot s .ok)
/-- IPIN: pins the range at L1 or L2 within the limits of R91, outside the code segment nothing (R183). -/
def execIpin (a b : SReg) (l2 : Bool) (s : State) : Host.Outcome State Fault Refusal :=
  finish s (withSlot s (fun s =>
    let c := here s
    .ok (modPins s l2 (fun pins => pinBlocks (if l2 then 0x10_0000 else 0x2_0000) (nodeIds c) pins
      (codeBlocks c (c.readS a) (c.readS b))))))
/-- IUNPIN (R183). -/
def execIunpin (a b : SReg) (l2 : Bool) (s : State) : Host.Outcome State Fault Refusal :=
  finish s (withSlot s (fun s =>
    let c := here s
    .ok (modPins s l2 (fun pins => unpinBlocks (nodeIds c) pins (codeBlocks c (c.readS a) (c.readS b))))))

/-- TRAP: the cause is taken at the boundary after the bundle (R184). -/
def execTrap (imm : BitVec 19) (s : State) : Host.Outcome State Fault Refusal :=
  finish s (withSlot s (fun s => .ok (postCause s s.cur 0x13 (zext64 imm))))

/-- RTE: waits for the handler's own operations, then resumes at r (R192). -/
def execRte (s : State) : Host.Outcome State Fault Refusal :=
  finish s (withSlot s (fun s => supervisorOnly s (fun s => .ok (startWait s .rte))))

end Sys2Proof.Machine
end

