-- ==== Sys2Proof/Machine/Engine.lean ====
section
/-! DEFINITION. The EC slot at issue: copies and copy maps, gathers, XSEND and XRECV, fabric, durable, walker and queue
commands, LAUNCH and SIGNAL (R264–R283). -/

namespace Sys2Proof.Machine

/-! ### Distances and stacks (R5, R81, R109) -/

/-- Hops between two dies of the 2×2 grid (R5). -/
def dieHops (a b : Nat) : Nat := (a ^^^ b) % 2 + (a ^^^ b) / 2 % 2

/-- Half-latency of a stack seen from a die (R81). -/
def halfLatency (die stack : Nat) : Nat := 300 + 40 * dieHops die (stack / 2)

/-- X of R109 between two contexts. -/
def sendDelay (k j : Nat) : Nat :=
  if clusIx k = clusIx j then 8
  else if dieIx k = dieIx j then 24
  else if dieHops (dieIx k) (dieIx j) = 1 then 64 else 104

/-- HBM stack of a physical address (R88). -/
def stackOf (paddr : Nat) : Nat := paddr / Config.hbmStack

/-! ### Copy maps (R268, R269) -/

def mapFmt (m : GWord) : Option Fmt :=
  match Fmt.ofCode (fieldOf m.toNat 0 5) with
  | some .e8m0 => none
  | f => f
def mapLayout (m : GWord) : Nat := fieldOf m.toNat 5 2
def mapM (m : GWord) : Nat := fieldOf m.toNat 8 8 + 1
def mapK (m : GWord) : Nat := fieldOf m.toNat 16 8 + 1
def mapME0 (m : GWord) : Nat := fieldOf m.toNat 24 8 + 1
def mapKE0 (m : GWord) : Nat := fieldOf m.toNat 32 8 + 1
def mapKE1 (m : GWord) : Nat := fieldOf m.toNat 40 8 + 1
def mapSY (m : GWord) : Nat := fieldOf m.toNat 48 8
def mapSX (m : GWord) : Nat := fieldOf m.toNat 56 8
def mapOY (m : GWord) : Int := (m.extractLsb' 64 8).toInt
def mapOX (m : GWord) : Int := (m.extractLsb' 72 8).toInt
def mapHY (m : GWord) : Int := (fieldOf m.toNat 80 16 : Nat)
def mapHX (m : GWord) : Int := (fieldOf m.toNat 96 16 : Nat)
def mapPY (m : GWord) : Int := (m.extractLsb' 128 32).toInt
def mapPX (m : GWord) : Int := (m.extractLsb' 160 32).toInt
def mapPC (m : GWord) : Int := (m.extractLsb' 192 32).toInt
def mapFollow (m : GWord) : W64 := m.extractLsb' 256 64

/-- The map fields that must be as R268 says. -/
def mapOk (m : GWord) : Bool :=
  (mapFmt m).isSome && mapLayout m != 3 && mapM m ≤ 128 && !m.getLsbD 7 && fieldOf m.toNat 112 16 == 0 &&
  fieldOf m.toNat 224 32 == 0 && fieldOf m.toNat 320 192 == 0

/-- The source element of destination element (m, k); none for a pad or a zero fill (R269). -/
def mapSource (g : GWord) (m k : Nat) : Option Int :=
  if mapM g ≤ m ∨ mapK g ≤ k then none
  else
    let m0 := m % mapME0 g
    let m1 := m / mapME0 g
    let k0 := k % mapKE0 g
    let k1 := k / mapKE0 g % mapKE1 g
    let k2 := k / (mapKE0 g * mapKE1 g)
    let y : Int := (m1 * mapSY g + k2 : Nat) + mapOY g
    let x : Int := (m0 * mapSX g + k1 : Nat) + mapOX g
    if y < 0 ∨ mapHY g ≤ y ∨ x < 0 ∨ mapHX g ≤ x then none
    else some (y * mapPY g + x * mapPX g + (k0 : Nat) * mapPC g)

/-- Width of the elements of a map. -/
def mapBits (g : GWord) : Nat := ((mapFmt g).map Fmt.bits).getD 8

/-- Index of destination element (m, k) in the run of its layout (R79, R269). -/
def mapIndex (g : GWord) (m k : Nat) : Nat :=
  if mapLayout g = 2 then m * mapK g + k else (k / 32 * 128 + m) * 32 + k % 32

/-- Destination lines nd (R269). -/
def mapLines (g : GWord) : Nat :=
  if mapLayout g = 2 then (mapM g * mapK g * mapBits g + 2047) / 2048 else 2 * mapBits g * ((mapK g + 31) / 32)

/-- First byte and byte count of element e of a run, e signed (R49). -/
def elementBytes (b : Nat) (e : Int) : Int × Nat :=
  match b with
  | 1 => (e / 8, 1)
  | 2 => (e / 4, 1)
  | 4 => (e / 2, 1)
  | 6 => (3 * (e / 4) + (if e % 4 = 0 then 0 else e % 4 - 1), if e % 4 = 0 ∨ e % 4 = 3 then 1 else 2)
  | _ => (e * (b / 8 : Nat), b / 8)

/-- The elements a map takes from its source: destination index and source element. -/
def mapElements (g : GWord) : List (Nat × Int) :=
  (List.range (mapM g)).flatMap (fun m => (List.range (mapK g)).filterMap (fun k =>
    (mapSource g m k).map (fun e => (mapIndex g m k, e))))

/-- Device address of a byte at a signed offset from sA. -/
def byteAddr (base : Nat) (off : Int) : Nat := ((base + off) % (2 ^ 64 : Nat)).toNat

/-- Insert into a rising list without repetition. -/
def insertRising (x : Nat) : List Nat → List Nat
  | [] => [x]
  | y :: r => if x = y then y :: r else if x < y then x :: y :: r else y :: insertRising x r

/-- The source lines of a map, rising (R269). -/
def mapSourceLines (g : GWord) (base : Nat) : List Nat :=
  (mapElements g).foldl (fun acc p =>
    let (o, n) := elementBytes (mapBits g) p.2
    insertRising (byteAddr base (o + (n : Nat) - 1) / 256) (insertRising (byteAddr base o / 256) acc)) []

/-- Bits of source element e from held lines; `held` keeps line i of the source list at byte 256 i. -/
def heldByte (src : List Nat) (held : Memory) (addr : Nat) : Nat :=
  (memRead held (256 * src.idxOf (addr / 256) + addr % 256)).toNat

/-- The value of source element e. -/
def heldElement (b base : Nat) (src : List Nat) (held : Memory) (e : Int) : Nat :=
  match b with
  | 1 => fieldOf (heldByte src held (byteAddr base (e / 8))) (e % 8).toNat 1
  | 2 => fieldOf (heldByte src held (byteAddr base (e / 4))) (2 * (e % 4).toNat) 2
  | 4 => fieldOf (heldByte src held (byteAddr base (e / 2))) (4 * (e % 2).toNat) 4
  | 6 =>
    let first := byteAddr base (3 * (e / 4))
    fieldOf (heldByte src held first + 256 * heldByte src held (first + 1) + 65536 * heldByte src held (first + 2))
      (6 * (e % 4).toNat) 6
  | _ =>
    let first := byteAddr base (e * (b / 8 : Nat))
    natOfBytes ((List.range (b / 8)).map (fun i => BitVec.ofNat 8 (heldByte src held (first + i))))

/-- The destination tile of a map copy (R269). -/
def mapTile (g : GWord) (base : Nat) (src : List Nat) (held : Memory) : Memory :=
  (mapElements g).foldl (fun m p => setElement m (mapBits g) p.1 (heldElement (mapBits g) base src held p.2)) []

/-! ### Checks of copies (R82, R264, R267, R272) -/

/-- Does a line of a copy break the segment rules? (R84, R267) A page that is not mapped yet has no stack to check, but its
segment's RO stands. -/
def copyLineBad (s : State) (engine : Nat) (out : Bool) (v : Nat) : Bool :=
  let c := here s
  match c.task with
  | none => true
  | some t =>
    match translate s s.cur v with
    | .noSegment => true
    | .unmapped => out && (kindOf s s.cur v).any (fun x => !x.2)
    | .hit p =>
      !(p.kind == .plain || p.kind == .pg) || (out && !p.write) ||
      !(decide (halfLatency (dieIx s.cur) (stackOf p.paddr) = t.half) &&
        (tenantOf s t.tenant).grants.contains (coreIx s.cur, engine, stackOf p.paddr, t.grant))

/-- TTCs of the buffer reads (left) and buffer writes (right) still ahead of a copy-engine flight (R81, R270, R273). -/
def copyCycles (f : Flight) : List Nat × List Nat :=
  let rest (from_ n : Nat) (first : Int) (step : Nat) : List Nat :=
    (List.range (n - from_)).map (fun i : Nat => (first + ((from_ + i) * step : Nat)).toNat)
  match f.act with
  | .copySource r j => (rest j r.lines r.start r.stride, [])
  | .copySample r j => ([], rest j r.lines (r.start + r.stride - 1 + 2 * r.half) r.stride)
  | .copyLand .. => ([], [f.due])
  | .mapGather r .. => ([], rest 0 r.dest (r.start + r.lines * r.stride + 2 * r.half) 1)
  | .mapLand r d _ _ => ([], rest d r.dest (r.start + r.lines * r.stride + 2 * r.half) 1)
  | .fill r _ j => ([], rest j r.lines r.start 1)
  | _ => ([], [])

/-- The engine of a copy-engine flight. -/
def copyEngine : Act → Option Nat
  | .copySource r _ | .copySample r _ | .copyLand r .. | .mapGather r .. | .mapLand r .. | .fill r .. => some r.engine
  | _ => none

/-- Does a new command's first flight meet a scheduled cycle of its engine? (R272) -/
def engineBusy (s : State) (engine : Nat) (f : Flight) : Bool :=
  let new := copyCycles f
  (here s).flights.any (fun g => copyEngine g.act == some engine &&
    ((copyCycles g).1.any new.1.contains || (copyCycles g).2.any new.2.contains))

/-- Slot windows of a copy's lines: start and stack (R82). -/
def copyWindows (s : State) (k : Nat) (r : CopyRun) : List (Int × Nat) :=
  (List.range r.lines).filterMap (fun j =>
    let v := match r.map with
      | some _ => (r.src.getD j 0) * 256
      | none => r.vaddr + 256 * j
    match translate s k v with
    | .hit p => some (r.start + j * r.stride, stackOf p.paddr)
    | _ => none)

/-- The run of a copy still in flight that uses slots. -/
def slotRun : Act → Option CopyRun
  | .copySource r _ | .copySample r _ | .copyLand r .. | .copyPerform r .. | .mapGather r .. | .mapLand r .. => some r
  | _ => none

/-- Do the slot windows overlap those of a copy in flight? (R82) -/
def windowsMeet (s : State) (r : CopyRun) : Bool :=
  let mine := copyWindows s s.cur r
  (here s).flights.any (fun f => match slotRun f.act with
    | some q => q.engine == r.engine && (copyWindows s s.cur q).any (fun x => mine.any (fun y =>
        x.2 == y.2 && decide (x.1 < y.1 + r.stride ∧ y.1 < x.1 + q.stride)))
    | none => false)

/-- TTC of the last line of a copy-engine command, for its reservation (R125, R270, R273). -/
def copyLast (r : CopyRun) : Nat :=
  if r.map.isSome then r.start.toNat + r.lines * r.stride + 2 * r.half + r.dest - 1
  else r.start.toNat + r.lines * r.stride - 1 + (if r.out then r.half else 2 * r.half)

/-- The first flight of a copy. -/
def copyFirst (r : CopyRun) : Act × Nat :=
  if r.map.isSome then (.mapGather r 0 [] false, r.start.toNat + r.stride - 1 + r.half)
  else if r.out then (.copySource r 0, r.start.toNat)
  else (.copySample r 0, r.start.toNat + r.stride - 1 + r.half)

/-- Build the run of a copy: `map` is the descriptor when MAP = 1. -/
def copyRun (s : State) (engine : Nat) (b : Buf) (out : Bool) (off vaddr n start : Nat) (map : Option GWord) : CopyRun :=
  let t := (here s).task
  {
    engine := engine, place := ⟨b, off⟩, out := out, vaddr := vaddr, lines := n, start := start,
    stride := (t.map (fun t => t.grant)).getD 1, half := (t.map (fun t => t.half)).getD 300, map := map,
    src := (map.map (fun g => mapSourceLines g vaddr)).getD [],
    dest := (map.map mapLines).getD n, missed := false }

/-- The source lines a copy touches, as device addresses. -/
def copyAddrs (r : CopyRun) : List Nat :=
  if r.map.isSome then r.src.map (· * 256) else (List.range r.lines).map (fun j => r.vaddr + 256 * j)

/-- Start a copy with all its checks at issue (R264, R267, R269, R272). -/
def copyStart (s : State) (r : CopyRun) : Issue :=
  let c := here s
  let first := copyFirst r
  let f : Flight := ⟨c.seq, first.2, first.1, []⟩
  let go : Issue := .ok (fly (reserve s [span s r.start.toNat (copyLast r) 24]) (first.2 - c.ttc) first.1)
  let mapBad := r.map.any (fun g => !mapOk g || decide (r.src.length ≠ r.lines) || decide (256 < r.lines))
  ((go.unless (engineBusy s r.engine f || windowsMeet s r) 0x03 (some 11)).unless
    ((copyAddrs r).any (copyLineBad s r.engine r.out)) 0x0C none).unless
    (mapBad || (r.out && r.place.buf == .wb) || r.place.off % 256 != 0 || (r.map.isNone && r.vaddr % 256 != 0) ||
      !inPartition c r.place.buf r.place.off (256 * r.dest)) 0x16 none

/-- COPY (R266–R270). -/
def execCopy (d a b : SReg) (e : Bool) (buf : Buf) (out map : Bool) (at_ n : BitVec 16) (s : State) :
    Host.Outcome State Fault Refusal :=
  finish s (withSlot s (fun s => timedAt s at_ (fun s =>
    let c := here s
    let run := copyRun s (if e then 1 else 0) buf out (c.readS b).toNat (c.readS a).toNat n.toNat at_.toNat
    if map then
      commandRead s (c.readS d).toNat 64 64 (fun m =>
        let g : GWord := BitVec.ofNat 512 (memReadNat m 0 64)
        (copyStart s (run (some g))).unless (mapFollow g != 0) 0x16 none)
    else copyStart s (run none))))

/-- Is a FOLLOW word legal? (R271) -/
def followOk (w : W64) : Bool :=
  fieldOf w.toNat 32 32 == 0 && fieldOf w.toNat 16 16 != 0 && fieldOf w.toNat 12 4 == 0 && !w.getLsbD 3 &&
  fieldOf w.toNat 8 4 != fieldOf w.toNat 4 4

/-- The follow-on of a COPYM, started one cycle after the copy's last line performs (R271). -/
def followStart (s : State) (w : W64) (r : CopyRun) : Issue :=
  mmaStart s (Fin.ofNat 4 (fieldOf w.toNat 0 2)) (Fin.ofNat 16 (fieldOf w.toNat 4 4)) (Fin.ofNat 16 (fieldOf w.toNat 8 4))
    (fieldOf w.toNat 16 16) (copyLast r + 1) (w.getLsbD 2) 11

/-- COPYM: its descriptor is always read. With MAP = 0 the spec does not say whether reserved bits of the words of the map are refused,
and only those of FOLLOW are (R268, R271; DESIGN CHOICE, log 124). -/
def execCopym (d a b : SReg) (e : Bool) (buf : Buf) (map : Bool) (at_ n : BitVec 16) (s : State) :
    Host.Outcome State Fault Refusal :=
  finish s (withSlot s (fun s => timedAt s at_ (fun s =>
    let c := here s
    commandRead s (c.readS d).toNat 64 64 (fun m =>
      let g : GWord := BitVec.ofNat 512 (memReadNat m 0 64)
      let r := copyRun s (if e then 1 else 0) buf false (c.readS b).toNat (c.readS a).toNat n.toNat at_.toNat
        (if map then some g else none)
      -- of the two parts' faults the lowest code is raised, as for one operation
      let follow := followStart s (mapFollow g) r
      let code : Option (Nat × Option W64) := match follow with
        | .trap x v => some (x, v)
        | .ok _ => none
      (((copyStart s r).andThen (fun s => followStart s (mapFollow g) r)).unless
        code.isSome ((code.map (fun x => x.1)).getD 0) (code.bind (fun x => x.2))).unless
          (!followOk (mapFollow g)) 0x16 none))))

/-- FILL (R273). -/
def execFill (a b : SReg) (e : Bool) (buf : Buf) (at_ n : BitVec 16) (s : State) : Host.Outcome State Fault Refusal :=
  finish s (withSlot s (fun s => timedAt s at_ (fun s =>
    let c := here s
    let r : CopyRun := {
      engine := if e then 1 else 0, place := ⟨buf, (c.readS b).toNat⟩, out := false, vaddr := 0, lines := n.toNat, start := at_.toNat, stride := 1, half := 0, map := none, src := [], dest := n.toNat, missed := false }
    let act : Act := .fill r (c.readS a) 0
    let go : Issue := .ok (fly (reserve s [span s at_.toNat (at_.toNat + r.lines - 1) 24]) (at_.toNat - c.ttc) act)
    (go.unless (engineBusy s r.engine ⟨c.seq, at_.toNat, act, []⟩) 0x03 (some 11)).unless
      (r.place.off % 256 != 0 || !inPartition c buf r.place.off (256 * r.lines)) 0x16 none)))

/-! ### GATHER and SCATTER (R274) -/

/-- The pending places of a buffer range. -/
def placesOf (b : Buf) (off len : Nat) : List Place := (linesOf off len).map (fun l => ⟨b, l * 256⟩)

/-- Issue an untimed transfer between a buffer range and device memory (R264, R265). `addrs` are the addresses of the 64-byte
lines touched, for held pages and ordering; `sub` is the fault detail of R338, none for a SCATTER, whose elements find their
pages as they perform (R89); `unit` is the agent that meets a pending line, which it writes if `write` says so. -/
def transfer (s : State) (b : Buf) (off len align : Nat) (bufOk segBad : Bool) (vAlign : Bool) (draw : Nat)
    (addrs : List Nat) (sub : Option Nat) (unit : Nat) (write : Bool) (job : Job) : Issue :=
  let held := sub.bind (fun n => (addrs.find? (fun a => (heldPage s a).isSome)).map (fun a => (a, n)))
  let s' := match held with
    | some (a, n) => postHeld s job a n
    | none => s
  let go := (issueUntimed (reserve s' [openSpan s draw]) job none false (addrs.map (· / 64)) (placesOf b off len)).andThen
    (fun t => .ok (markHeld t (held.map (fun x => x.1 / 65536))))
  let reach := bufOk && off % align == 0 && inPartition (here s) b off len
  let go := match (if reach then firstPending s s.cur b off len else none) with
    | some l => Issue.trap 0x08 (some (pendingVal l (bufCode b) write unit))
    | none => go
  (go.unless segBad 0x0C none).unless (!reach || !vAlign) 0x16 none

/-- Bytes of a run of lines, as the addresses of its 64-byte lines. -/
def runAddrs (v n : Nat) : List Nat := (List.range n).map (fun i => v + 64 * i)

/-- The index list of a GATHER or SCATTER. -/
def indexList (m : Memory) (n w : Nat) : List Nat := (List.range n).map (fun i => memReadNat m (w * i) w)

/-- Address of entry i of a GATHER or SCATTER (R274). -/
def entryAddr (v size i : Nat) : Nat := (v + i * size) % 2 ^ 64

/-- The addresses of the 64-byte lines of an element: one, or those of its 128 or 256 bytes (R111, R118). -/
def elementAddrs (size a : Nat) : List Nat := if size ≤ 64 then [a] else runAddrs a (size / 64)

/-- GATHER and SCATTER at issue (R274). -/
def gatherOp (scatter : Bool) (d a b : SReg) (lsz : Fin 9) (buf : Buf) (iw : Bool) (n : BitVec 16) (s : State) :
    Host.Outcome State Fault Refusal :=
  finish s (withSlot s (fun s =>
    let c := here s
    let size := 2 ^ lsz.val
    let base := (c.readS a).toNat
    let off := (c.readS b).toNat
    let w := if iw then 2 else 4
    let segBad := match kindOf s s.cur base with
      | some (k, _) => !(k == .plain || k == .pg)
      | none => true
    commandRead s (c.readS d).toNat (w * n.toNat) w (fun m =>
      let idx := indexList m n.toNat w
      let addrs := idx.flatMap (fun i => elementAddrs size (entryAddr base size i))
      let ok := if scatter then buf != .wb else buf == .wb || buf == .ab
      transfer s buf off (n.toNat * size) 256 ok segBad (base % size == 0) 8 addrs (if scatter then none else some 1) 1
        (!scatter) (if scatter then .scatter base size idx ⟨buf, off⟩ else .gather base size idx ⟨buf, off⟩))))

def execGather (d a b : SReg) (lsz : Fin 9) (buf : Buf) (iw : Bool) (n : BitVec 16) (s : State) :
    Host.Outcome State Fault Refusal := gatherOp false d a b lsz buf iw n s
def execScatter (d a b : SReg) (lsz : Fin 9) (buf : Buf) (iw : Bool) (n : BitVec 16) (s : State) :
    Host.Outcome State Fault Refusal := gatherOp true d a b lsz buf iw n s

/-! ### XSEND and XRECV (R109, R275) -/

/-- The context key in a receiver or sender operand. -/
def peerKey (x : W64) : Nat := fieldOf x.toNat 0 11

/-- XSEND: line j read at AT + j, landing X later (R109). -/
def execXsend (a b : SReg) (buf : Buf) (at_ n : BitVec 16) (s : State) : Host.Outcome State Fault Refusal :=
  finish s (withSlot s (fun s => timedAt s at_ (fun s =>
    let c := here s
    let k := peerKey (c.readS a)
    let off := (c.readS b).toNat
    let x := sendDelay s.cur k
    (Issue.ok (fly (reserve s [span s at_.toNat (at_.toNat + n.toNat - 1 + x) 16]) (at_.toNat - c.ttc)
      (.sendRead k ⟨buf, off⟩ n.toNat 0 x false))).unless
      (!c.group.contains k || coreIx k == coreIx s.cur || !(buf == .ab || buf == .cb) || off % 256 != 0 ||
        !inPartition c buf off (256 * n.toNat)) 0x16 none)))

/-- Do the expected landing cycles meet those of another XRECV of the context? (R275) -/
def recvBusy (c : Ctx) (start n : Nat) : Bool :=
  c.flights.any (fun f => match f.act with
    | .recv _ _ m st => decide (st < start + n ∧ start < st + m)
    | _ => false)

/-- XRECV: accepts line j landing at AT + j (R109). -/
def execXrecv (a b : SReg) (buf : Buf) (at_ n : BitVec 16) (s : State) : Host.Outcome State Fault Refusal :=
  finish s (withSlot s (fun s => timedAt s at_ (fun s =>
    let c := here s
    let core := coreIx (peerKey (c.readS a))
    let off := (c.readS b).toNat
    ((Issue.ok (fly s (at_.toNat + n.toNat - 1 - c.ttc) (.recv core ⟨buf, off⟩ n.toNat at_.toNat))).unless
      (recvBusy c at_.toNat n.toNat) 0x03 (some 11)).unless
      (!(c.group.any (fun k => coreIx k == core)) || core == coreIx s.cur || buf == .dm || off % 256 != 0 ||
        !inPartition c buf off (256 * n.toNat)) 0x16 none)))

/-! ### Fabric and durable commands (R276–R278) -/

/-- Does a run leave segments of a kind, or lie in one it may not write? -/
def runBad (s : State) (kind : MemKind) (write : Bool) (addrs : List Nat) : Bool :=
  addrs.any (fun v => match kindOf s s.cur v with
    | some (k, w) => k != kind || (write && !w)
    | none => true)

/-- FPUT (R276). -/
def execFput (a b : SReg) (buf : Buf) (n : BitVec 16) (s : State) : Host.Outcome State Fault Refusal :=
  finish s (withSlot s (fun s =>
    let c := here s
    let v := (c.readS a).toNat
    let off := (c.readS b).toNat
    let addrs := runAddrs v (4 * n.toNat)
    transfer s buf off (256 * n.toNat) 256 (buf != .wb) (runBad s .rem true addrs) (v % 256 == 0) 8 addrs (some 2) 2 false
      (.fput v ⟨buf, off⟩ n.toNat)))
/-- FGET (R276). -/
def execFget (a b : SReg) (buf : Buf) (n : BitVec 16) (s : State) : Host.Outcome State Fault Refusal :=
  finish s (withSlot s (fun s =>
    let c := here s
    let v := (c.readS a).toNat
    let off := (c.readS b).toNat
    let addrs := runAddrs v (4 * n.toNat)
    transfer s buf off (256 * n.toNat) 256 true (runBad s .rem false addrs) (v % 256 == 0) 8 addrs (some 1) 2 true
      (.fget v ⟨buf, off⟩ n.toNat)))
/-- FATOM: the global atomic of the same operation at a remote home (R277). -/
def execFatom (d a b : SReg) (op : AmoOp) (sz64 sx sys : Bool) (s : State) : Host.Outcome State Fault Refusal :=
  finish s (withSlot s (fun s =>
    let c := here s
    let v := (c.readS a).toNat
    let n := if sz64 then 8 else 4
    globalAccess (reserve s [openSpan s 8]) v n (fun k => k == .rem && atomicAllowed c k) true
      (.atomic op v n sx (c.readS b) (c.readS d) (if sys then .sys else .dom)) (resultFor d) true))
/-- DPUT (R278). -/
def execDput (a b : SReg) (buf : Buf) (n : BitVec 16) (s : State) : Host.Outcome State Fault Refusal :=
  finish s (withSlot s (fun s =>
    let c := here s
    let v := (c.readS a).toNat
    let off := (c.readS b).toNat
    let addrs := runAddrs v n.toNat
    transfer s buf off (64 * n.toNat) 64 (buf != .wb) (runBad s .dur true addrs) (v % 64 == 0) 16 addrs (some 2) 2 false
      (.dput v ⟨buf, off⟩ n.toNat)))
/-- DGET (R278). -/
def execDget (a b : SReg) (n : BitVec 16) (s : State) : Host.Outcome State Fault Refusal :=
  finish s (withSlot s (fun s =>
    let c := here s
    let v := (c.readS a).toNat
    let off := (c.readS b).toNat
    let addrs := runAddrs v n.toNat
    transfer s .wb off (64 * n.toNat) 64 true (runBad s .dur false addrs) (v % 64 == 0) 16 addrs (some 1) 2 true
      (.dget v ⟨.wb, off⟩ n.toNat)))

/-! ### Walker and queue commands (R279–R281) -/

/-- Has the context a walk that has not reached its draining wait? (R279) -/
def walkHeld (c : Ctx) : Bool :=
  c.allUntimed.any (fun u => match u.job with
    | .walk => true
    | _ => false)

/-- A walk at its start: w1 holds sB, WPF 4, every other register 0 (R285, R287). -/
def newWalk (k seq queue pc : Nat) (w1 : W64) : Walk where
  ctx := k
  seq := seq
  queue := queue
  pc := pc
  w := (Vector.replicate 16 0).set 1 w1
  wtok := 0
  wpfc := 0
  wpf := 4
  tile := none
  waitTile := none
  ebuf := []
  pend := none
  held := none
  late := none
  stop := false
  begun := false
  busy := []

/-- The walks that stand in the start queue, in their order of arrival: one for each core. A later walk of a core waits outside,
and arrives when its core's place is free (R279, log 99). -/
def queuedWalks (l : List Walk) : List Walk :=
  l.foldl (fun acc w => if acc.any (fun x => coreIx x.ctx == coreIx w.ctx) then acc else acc ++ [w]) []

/-- A walk leaves the start queue; the next one of its core arrives (R279). -/
def leaveQueue (w : Walk) (l : List Walk) : List Walk :=
  let rest := l.filter (fun x => x != w)
  if (queuedWalks l).contains w then
    rest.filter (fun x => coreIx x.ctx != coreIx w.ctx) ++ rest.filter (fun x => coreIx x.ctx == coreIx w.ctx)
  else rest

/-- WSTART: the walk enters the start queue of the cluster (R279, R286). -/
def execWstart (a b : SReg) (q : QueueIx) (s : State) : Host.Outcome State Fault Refusal :=
  finish s (withSlot s (fun s =>
    let c := here s
    if walkHeld c then .trap 0x03 (some 11)
    else (issueUntimed (reserve s [openSpan s 30]) .walk none false [] []).andThen (fun s =>
      .ok (modCluster s (clusIx s.cur) (fun cl =>
        { cl with startQ := cl.startQ ++ [newWalk s.cur c.seq q.val (c.readS a).toNat (c.readS b)] })))))

/-- Change the operation numbered `seq` of a context. -/
def modUntimed (s : State) (k seq : Nat) (f : Untimed → Untimed) : State :=
  let g (u : Untimed) : Untimed := if u.seq = seq then f u else u
  modCtx s k (fun c => { c with untimed := c.untimed.map g, snapU := c.snapU.map g })

/-- An untimed operation has performed, with its register value and the fault to report at its wait (R30, R187). -/
def finishJob (s : State) (k seq : Nat) (x : Option W64) (fault : Option (Nat × W64)) : State :=
  modUntimed s k seq (fun u => { u with
    done := true
    at_ := s.gcc
    held := none
    result := u.result.map (fun r => { r with x := x.or r.x })
    fault := u.fault.or fault })

/-- Is a queue of a cluster full? (R280) -/
def queueFull (s : State) (clus q : Nat) : Bool := decide (64 ≤ ((clusterOf s clus).queues.get q []).length)

/-- Append an entry to a cluster queue. -/
def enqueue (s : State) (clus q : Nat) (e : QEntry) : State :=
  modCluster s clus (fun c => { c with queues := c.queues.put q (c.queues.get q [] ++ [e]) })

/-- Hand an entry to a queue for the operation numbered `seq`, which has performed when the entry is in; a full queue holds it
until it has room (R280, R281). -/
def sendEntry (s : State) (clus k seq q : Nat) (e : QEntry) : State :=
  if queueFull s clus q || (clusterOf s clus).full.get q [] != [] then
    modUntimed (modCluster s clus (fun c => { c with full := c.full.put q (c.full.get q [] ++ [(k, seq, e)]) })) k seq
      (fun u => { u with sent := true })
  else finishJob (enqueue s clus q e) k seq none none

/-- An EOS payload (R297). -/
def eosPayload (w : Walk) (status reason offset : Nat) : W64 :=
  BitVec.ofNat 64 ((w.w[1]).toNat % 2 ^ 32 * 2 ^ 32 + status % 256 * 2 ^ 24 + reason % 256 * 2 ^ 16 + offset % 2 ^ 16)

/-- A walk that a WSTOP finds before it has begun leaves the start queue, and its EOS goes to the queue (R297). A walk that a
restore put there has begun: it stops like a running one. -/
def stopQueued (s : State) (w : Walk) : State :=
  sendEntry (modCluster s (clusIx w.ctx) (fun cl => { cl with startQ := leaveQueue w cl.startQ }))
    (clusIx w.ctx) w.ctx w.seq w.queue ⟨true, w.ctx, eosPayload w 1 0 0, some w.seq⟩

/-- WSTOP: marks the issuing context's running walk, and ends one still in the start queue at once (R279, R297). -/
def execWstop (s : State) : Host.Outcome State Fault Refusal :=
  finish s (withSlot s (fun s =>
    let mark (w : Walk) : Walk := if w.ctx = s.cur then { w with stop := true } else w
    let cl := clusterOf s (clusIx s.cur)
    let fresh := cl.startQ.filter (fun w => w.ctx == s.cur && !w.begun)
    .ok (fresh.foldl stopQueued (modCluster s (clusIx s.cur) (fun cl => { cl with
      walk := cl.walk.map mark
      startQ := cl.startQ.map (fun w => if w.begun then mark w else w) })))))

/-- QSEND to a context of the issuer's cluster (R281). -/
def execQsend (a b : SReg) (q : QueueIx) (eos : Bool) (s : State) : Host.Outcome State Fault Refusal :=
  finish s (withSlot s (fun s =>
    let c := here s
    issueUntimed s (.qsend q.val eos (clusIx s.cur * 16 + fieldOf (c.readS b).toNat 0 4) (c.readS a)) none false [] []))
/-- QRECV (R281). -/
def execQrecv (d : SReg) (q : QueueIx) (s : State) : Host.Outcome State Fault Refusal :=
  finish s (withSlot s (fun s => issueUntimed s (.qrecv q.val) (resultFor d) false [] []))

/-! ### LAUNCH and SIGNAL (R282, R283) -/

/-- Is the flight a LAUNCH whose record is still to be read? -/
def isLaunchRead (f : Flight) : Bool := match f.act with
  | .launchRead _ => true
  | _ => false

/-- Launch records of a context that are still to be read; a twin's launches are discarded and count for nothing (R282, R354). -/
def unreadLaunches (ids : Nat × Nat) (c : Ctx) : Nat :=
  if c.task.any (fun t => !t.twin) && nodeIds c == ids then
    (c.flights.filter isLaunchRead).length + (c.snap.filter (fun e => isLaunchRead e.flight)).length
  else 0

/-- Launches the node has staged, with those of its contexts, saved ones among them, whose records are still to be read (R282, R343). -/
def stagedLaunches (s : State) : Nat :=
  let ids := nodeIds (here s)
  ((nodeOf s ids.1 ids.2).staged.filter (fun x => match x with
    | .launch .. => true
    | _ => false)).length +
  (s.ctxs.map (fun p => unreadLaunches ids p.2)).sum + (s.saved.map (fun x => unreadLaunches ids x.ctx)).sum

/-- LAUNCH: the record is read at +1; the limit is the node's, to which a twin adds nothing (R282, R354). -/
def execLaunch (a : SReg) (s : State) : Host.Outcome State Fault Refusal :=
  finish s (withSlot s (fun s =>
    let off := ((here s).readS a).toNat
    let reads := off % 64 == 0 && inPartition (here s) .dm off 64
    ((if reads then checkPort s off 64 else .ok s).andThen (fun s => .ok (fly s 1 (.launchRead off)))).unless
      (!reads || ((here s).task.any (fun t => !t.twin) && decide (256 ≤ stagedLaunches s))) 0x16 none))

/-- SIGNAL (R283). -/
def execSignal (a b : SReg) (msi : Bool) (vec : BitVec 11) (s : State) : Host.Outcome State Fault Refusal :=
  finish s (withSlot s (fun s =>
    let c := here s
    let v := (c.readS a).toNat
    let limit := (tenantOf s (nodeIds c).1).msix
    let segBad := match kindOf s s.cur v with
      | some (k, w) => !(k == .plain || k == .pg || k == .host) || !w
      | none => true
    (((issueUntimed (postHeld s (.signal v [] none) v 2)
      (.signal v (bytesOfNat 8 (c.readS b).toNat) (if msi then some vec.toNat else none)) none false (lines64 v 8) []).andThen
      (fun t => .ok (markHeld t (heldPage s v)))).unless segBad 0x0C none).unless
      (v % 8 != 0 || (msi && decide (limit ≤ vec.toNat))) 0x16 none))

end Sys2Proof.Machine
end

