-- ==== Sys2Proof/Machine/Draws.lean ====
section
/-! DEFINITION. The reservations that the operations of a bundle make, as step 6 of R161 counts them before any of them
runs (R125–R127, R161). -/

namespace Sys2Proof.Machine

/-- The lines of a copy map as the window rule counts them: 512, the largest, where the map would be refused, for whatever field
(DESIGN CHOICE, log 140: R161 does not say which values a refused field leaves determined; R268). -/
def countedMapLines (g : Option GWord) : Nat :=
  match g with
  | some m => if mapOk m then mapLines m else 512
  | none => 512

/-- The 64-byte map or FOLLOW block of a command as its command-port read would give it; none where the read is refused. -/
def drawnMap (s : State) (off : Nat) : Option GWord :=
  if off % 64 != 0 || !inPartition (here s) .dm off 64 || badBytes s s.cur .dm off 64 != [] ||
      (firstPending s s.cur .dm off 64).isSome then none
  else some (BitVec.ofNat 512 (memReadNat (bufPrior s s.cur .dm off 64) 0 64))

/-- The last TTC of a copy as the window rule counts it (R125, R161). -/
def countedLast (s : State) (out map : Bool) (m : Option GWord) (n start : Nat) : Nat :=
  let r := copyRun s 0 .ab out 0 0 n start none
  if map then start + n * r.stride + 2 * r.half + countedMapLines m - 1 else copyLast r

/-- The copy interval (R125). -/
def copyDraw (s : State) (out map : Bool) (m : Option GWord) (n start : Nat) : Interval :=
  span s start (countedLast s out map m n start) 24

/-- The follow-on interval of a COPYM (R125, R271). A FOLLOW word that would be refused counts with its NK as it stands (DESIGN CHOICE,
log 140). -/
def followDraw (s : State) (m : Option GWord) (last : Nat) : Interval :=
  let w := (m.map mapFollow).getD 0
  let nk := if m.isSome && fieldOf w.toNat 16 16 != 0 then fieldOf w.toNat 16 16 else 65535
  let t : TileIx := Fin.ofNat 4 (fieldOf w.toNat 0 2)
  let cycles := if m.isSome then countedCycles (precOf (here s).prec[t]) else 256
  span s (last + 1) (last + nk * cycles) 720

/-- The intervals an operation reserves at issue, whether or not it would fault (R125, R161). -/
def drawsOf (s : State) : Instr → List Interval
  | .mma t _ _ at_ nk => [mmaDraw s t nk.toNat at_.toNat]
  | .mmaz t _ _ at_ nk => [mmaDraw s t nk.toNat at_.toNat]
  | .mmag _ _ _ g => if g = 0 then [] else [openSpan s 720]
  | .mmas .. => [openSpan s 720]
  | .vnest x => [span s (here s).ttc ((here s).ttc + 1 + x.steps + nestLat x.fop x.t) 40]
  | .copy d _ _ _ _ out map at_ n =>
    let m := if map then drawnMap s ((here s).readS d).toNat else none
    [copyDraw s out map m n.toNat at_.toNat]
  | .copym d _ _ _ _ map at_ n =>
    let m := drawnMap s ((here s).readS d).toNat
    [copyDraw s false map m n.toNat at_.toNat, followDraw s m (countedLast s false map m n.toNat at_.toNat)]
  | .fill _ _ _ _ at_ n => [span s at_.toNat (at_.toNat + n.toNat - 1) 24]
  | .xsend a _ _ at_ n =>
    let k := peerKey ((here s).readS a)
    let x := if (here s).group.contains k && coreIx k != coreIx s.cur then sendDelay s.cur k else 104
    [span s at_.toNat (at_.toNat + n.toNat - 1 + x) 16]
  | .dput .. => [openSpan s 16]
  | .dget .. => [openSpan s 16]
  | .gather .. => [openSpan s 8]
  | .scatter .. => [openSpan s 8]
  | .fput .. => [openSpan s 8]
  | .fget .. => [openSpan s 8]
  | .fatom .. => [openSpan s 8]
  | .wstart .. => [openSpan s 30]
  | _ => []

end Sys2Proof.Machine
end

