-- ==== Sys2Proof/Machine/Digest.lean ====
section
/-! DEFINITION. SHA3-256 (FIPS 202), the digest of R354, R369 and R370. -/

namespace Sys2Proof.Machine

/-- Rotate a 64-bit lane left. -/
def rotLane (x n : Nat) : Nat := x * 2 ^ n % 2 ^ 64 + x / 2 ^ (64 - n)

/-- Lane (x, y) of the Keccak state, at index x + 5 y. -/
def keccakLane (a : List Nat) (x y : Nat) : Nat := a.getD (x % 5 + 5 * (y % 5)) 0

/-- The lanes of a state from a function of (x, y). -/
def keccakLanes (f : Nat → Nat → Nat) : List Nat := (List.range 25).map (fun i => f (i % 5) (i / 5))

/-- Rotations of step ρ. -/
def rhoOffsets : List Nat := [0, 1, 62, 28, 27, 36, 44, 6, 55, 20, 3, 10, 43, 25, 39, 41, 45, 15, 21, 8, 18, 2, 61, 56, 14]

/-- Round constants of step ι. -/
def roundConstants : List Nat := [0x1, 0x8082, 0x800000000000808a, 0x8000000080008000, 0x808b, 0x80000001, 0x8000000080008081,
  0x8000000000008009, 0x8a, 0x88, 0x80008009, 0x8000000a, 0x8000808b, 0x800000000000008b, 0x8000000000008089, 0x8000000000008003,
  0x8000000000008002, 0x8000000000000080, 0x800a, 0x800000008000000a, 0x8000000080008081, 0x8000000000008080, 0x80000001,
  0x8000000080008008]

/-- Step θ. -/
def keccakTheta (a : List Nat) : List Nat :=
  let c := (List.range 5).map (fun x => (List.range 5).foldl (fun p y => p ^^^ keccakLane a x y) 0)
  keccakLanes (fun x y => keccakLane a x y ^^^ c.getD ((x + 4) % 5) 0 ^^^ rotLane (c.getD ((x + 1) % 5) 0) 1)

/-- Steps ρ and π: lane (x, y) of the result is lane (x + 3 y, x), rotated. -/
def keccakRhoPi (a : List Nat) : List Nat :=
  keccakLanes (fun x y => rotLane (keccakLane a (x + 3 * y) x) (rhoOffsets.getD ((x + 3 * y) % 5 + 5 * x) 0))

/-- Steps χ and ι. -/
def keccakChiIota (a : List Nat) (rc : Nat) : List Nat :=
  keccakLanes (fun x y => keccakLane a x y ^^^ ((2 ^ 64 - 1 - keccakLane a (x + 1) y) &&& keccakLane a (x + 2) y) ^^^ (if x + y = 0 then rc else 0))

/-- The permutation Keccak-f[1600]. -/
def keccakF (a : List Nat) : List Nat :=
  roundConstants.foldl (fun a rc => keccakChiIota (keccakRhoPi (keccakTheta a)) rc) a

/-- The message with its padding, a multiple of 136 bytes. -/
def sha3Pad (m : List Byte) : List Byte :=
  let n := 136 - m.length % 136
  m ++ (if n = 1 then [0x86] else 0x06 :: (List.replicate (n - 2) 0 ++ [0x80]))

/-- Absorb `n` blocks of 136 bytes. -/
def sha3Absorb : Nat → List Byte → List Nat → List Nat
  | 0, _, a => a
  | n + 1, m, a => sha3Absorb n (m.drop 136)
      (keccakF (keccakLanes (fun x y => keccakLane a x y ^^^ (if x + 5 * y < 17 then natOfBytes ((m.drop (8 * (x + 5 * y))).take 8) else 0))))

/-- SHA3-256 of a message; byte i of the digest is bits 8 i and up. -/
def sha3 (m : List Byte) : BitVec 256 :=
  let a := sha3Absorb (m.length / 136 + 1) (sha3Pad m) (List.replicate 25 0)
  BitVec.ofNat 256 ((List.range 4).foldl (fun x i => x + a.getD i 0 * 2 ^ (64 * i)) 0)

end Sys2Proof.Machine
end

