-- ==== Sys2Proof/Machine/System.lean ====
section
/-! DEFINITION. The supervisor instructions (R136, R195). -/

namespace Sys2Proof.Machine

/-- SETALLOW and SETALLOW.MODE post to a core; the post applies 16 cycles later (R136). -/
def postAllow (isMode : Bool) (a b : SReg) (n : Bool) (s : State) : Host.Outcome State Fault Refusal :=
  finish s (withSlot s (fun s => supervisorOnly s (fun s =>
    let core := if n then fieldOf ((here s).readS a).toNat 0 9 else coreIx s.cur
    if n && decide (Config.cores ≤ core) then .trap 0x16 none
    else .ok { s with posts := s.posts ++ [⟨core, s.gcc, isMode, (here s).readS b⟩] })))

def execSetallow (a b : SReg) (n : Bool) (s : State) : Host.Outcome State Fault Refusal := postAllow false a b n s
def execSetallowMode (a b : SReg) (n : Bool) (s : State) : Host.Outcome State Fault Refusal := postAllow true a b n s

/-- The context named by sA, inside the package and the issuer's tenant (R195). -/
def namedCtx (s : State) (x : W64) : Option Nat :=
  let k := fieldOf x.toNat 0 11
  if Config.cores * 4 ≤ k then none
  else match (here s).task with
    | none => some k
    | some t => if (tenantOf s t.tenant).cores.contains (coreIx k) then some k else none

/-- A supervisor instruction on a named context. -/
def onCtx (a : SReg) (s : State) (f : State → Nat → Issue) : Host.Outcome State Fault Refusal :=
  finish s (withSlot s (fun s => supervisorOnly s (fun s =>
    match namedCtx s ((here s).readS a) with
    | none => .trap 0x16 none
    | some k => f s k)))

/-- CTXSAVE: untimed, status in sD at the next wait (R195, R343). -/
def execCtxsave (d a b : SReg) (s : State) : Host.Outcome State Fault Refusal :=
  onCtx a s (fun s k => issueUntimed s (.ctxsave k ((here s).readS b).toNat) (resultFor d) false [] [])
/-- CTXLOAD (R195, R347). -/
def execCtxload (d a b : SReg) (s : State) : Host.Outcome State Fault Refusal :=
  onCtx a s (fun s k => issueUntimed s (.ctxload k ((here s).readS b).toNat) (resultFor d) false [] [])
/-- SEGLOAD (R195). -/
def execSegload (d a b : SReg) (s : State) : Host.Outcome State Fault Refusal :=
  onCtx a s (fun s k => issueUntimed s (.segload k ((here s).readS b).toNat) (resultFor d) false [] [])

/-- Post a pre-emption: the boundary lies 512 cycles after the posting; a frozen group takes PRE at once (R341). -/
def postPre (s : State) (k : Nat) : State :=
  (groupOf s k).foldl (fun s j =>
    if (ctxOf s j).freeze.isSome then freezeCtx s j .pre
    else modCtx s j (fun c => { c with preAt := some ((c.preAt.map (fun p => min p (s.gcc + 512))).getD (s.gcc + 512)) })) s

/-- GFREEZE: freezes the group within 2.0 µs; sD receives the freeze GCC (R195, R341). -/
def execGfreeze (d a : SReg) (s : State) : Host.Outcome State Fault Refusal :=
  onCtx a s (fun s k =>
    let f := ((ctxOf s k).freeze.map (fun z => z.f)).getD (s.gcc + 512)
    (issueUntimed s (.gfreeze k f) (resultFor d) false [] []).andThen (fun s => .ok (postPre s k)))

/-- A halted context goes on as a frozen one with no reason left does (R195, R342). Its freeze GCC is the one in which HALT issued
(DESIGN CHOICE, log 142: R341 does not list HALT). -/
def thawHalted (s : State) (k from_ : Nat) : State :=
  match (ctxOf s k).halted with
  | some h => modCtx s k (fun c => { c with halted := none, freeze := some ⟨h, [], max from_ (s.gcc + 1)⟩ })
  | none => s

/-- GTHAW: clears PRE and PF of a frozen group, or resumes a halted context. A halted one goes on as a frozen one with no reason left
does, at a GCC congruent to that of its HALT at which its core's width is free (R195, R342). -/
def execGthaw (a b : SReg) (s : State) : Host.Outcome State Fault Refusal :=
  onCtx a s (fun s k =>
    let from_ := ((here s).readS b).toNat
    let soon := max from_ (s.gcc + 64)
    match (ctxOf s k).freeze, (ctxOf s k).halted with
    | some f, _ =>
      if f.marks.contains .pre || f.marks.contains .pf then
        .ok (clearGroup (clearGroup s k .pre soon) k .pf soon)
      else .ok s
    | none, _ => .ok (thawHalted s k from_))

/-- TLBINV: complete at the issuer's next wait (R195, R350). -/
def execTlbinv (a b : SReg) (k : TlbKind) (s : State) : Host.Outcome State Fault Refusal :=
  finish s (withSlot s (fun s => supervisorOnly s (fun s =>
    issueUntimed s (.tlbinv k ((here s).readS a) (((here s).readS b).toNat % 2 ^ 16)) none false [] [])))

/-- MSGSEND: 64 bytes of DM, read at issue through the command port, to system core sA[2:0] (R77, R195). -/
def execMsgsend (a b : SReg) (s : State) : Host.Outcome State Fault Refusal :=
  finish s (withSlot s (fun s => supervisorOnly s (fun s =>
    let off := ((here s).readS b).toNat
    commandRead s off 64 1 (fun m =>
      issueUntimed s (.message (fieldOf ((here s).readS a).toNat 0 3) (memReadList m 0 64)) none false [] []))))

/-- The handler of a TRAP instruction halts after cause 0x26 is posted with TVAL (R336, R338; DEDUCED, log 65). -/
def postTrapHalt (s : State) (k : Nat) : State :=
  let c := ctxOf s k
  if c.tcause = 0x13 ∧ c.task.isSome then postCtxFault s k 0 0x26 c.tval 0 c.tpc.toNat else s

/-- HALT: stops issuing with the trap state intact (R195). -/
def execHalt (s : State) : Host.Outcome State Fault Refusal :=
  finish s (withSlot s (fun s => supervisorOnly s (fun s =>
    .ok (postTrapHalt (modHere s (fun c => { c with halted := some s.gcc })) s.cur))))

end Sys2Proof.Machine
end

