-- ==== Sys2Proof/Decode.lean ====
section
/-! DEFINITION. The decoder: the operation that the words of a slot hold, or the REASON of R162 with which they are refused;
bundles (R144–R146, R161 steps 1 to 3); walker syllables (R160). After it the encoder, from the same encodings. -/

namespace Sys2Proof

/-- A decoded operation, or the syllable of the operation that offends and its REASON (R161, R162). -/
abbrev Decoded := Except (Nat × Nat) Instr

/-- Go on if the condition holds, else refuse syllable `ix` with a REASON. -/
def need (ok : Bool) (ix reason : Nat) (k : Decoded) : Decoded := if ok then k else .error (ix, reason)

/-! ### Fields (R147) -/

def fOp (w : Nat) : Nat := fieldOf w 25 7
def fD (w : Nat) : Nat := fieldOf w 19 6
def fA (w : Nat) : Nat := fieldOf w 13 6
def fB (w : Nat) : Nat := fieldOf w 7 6
def fFn (w : Nat) : Nat := fieldOf w 0 7
def fI13 (w : Nat) : BitVec 13 := BitVec.ofNat 13 w
def fP (w : Nat) : PReg := Fin.ofNat 16 (fieldOf w 3 4)
def fT (w : Nat) : Nat := fieldOf w 0 3
def fAt (x : Nat) : BitVec 16 := BitVec.ofNat 16 (x / 2 ^ 16)
def fImm (x : Nat) : BitVec 16 := BitVec.ofNat 16 x
def sReg (x : Nat) : SReg := Fin.ofNat 64 x
def vReg (x : Nat) : VReg := Fin.ofNat 32 x
def pReg (x : Nat) : PReg := Fin.ofNat 16 x
def gReg (x : Nat) : GReg := Fin.ofNat 16 x
def tReg (x : Nat) : TileIx := Fin.ofNat 4 x
def low5 (x : Nat) : Fin 32 := Fin.ofNat 32 x
/-- A vector source: bit 5 set names a scalar (R149). -/
def vSrc (x : Nat) : VSrc := if x < 32 then .vec (vReg x) else .scal (low5 (x - 32))

/-! ### Codes -/

/-- Codes of T (R147). -/
def Ty.ofCode : Nat → Option Ty
  | 0 => some .f32 | 1 => some .f16 | 2 => some .bf16 | 3 => some .i32 | 4 => some .i16 | 5 => some .n32 | 6 => some .n16
  | _ => none
def Ty.code : Ty → Nat
  | .f32 => 0 | .f16 => 1 | .bf16 => 2 | .i32 => 3 | .i16 => 4 | .n32 => 5 | .n16 => 6
/-- Codes of a rounding field (R219). -/
def RmSel.ofCode : Nat → Option RmSel
  | 0 => some .vmode | 1 => some .rne | 2 => some .rtz | 3 => some .rdn | 4 => some .rup | _ => none
def RmSel.code : RmSel → Nat
  | .vmode => 0 | .rne => 1 | .rtz => 2 | .rdn => 3 | .rup => 4
def ovOf (x : Nat) : Ovf := if x % 2 = 0 then .sat else .ieee
def Ovf.code : Ovf → Nat
  | .sat => 0 | .ieee => 1
/-- Codes of the buffers (R73). -/
def bufOf (x : Nat) : Buf :=
  match x % 4 with
  | 0 => .wb | 1 => .ab | 2 => .cb | _ => .dm
def Buf.code : Buf → Nat
  | .wb => 0 | .ab => 1 | .cb => 2 | .dm => 3
def szOf (x : Nat) : Sz :=
  match x % 4 with
  | 0 => .b1 | 1 => .b2 | 2 => .b4 | _ => .b8
def Sz.code : Sz → Nat
  | .b1 => 0 | .b2 => 1 | .b4 => 2 | .b8 => 3
/-- Codes of the scopes (R181, R204). -/
def Scope.ofCode : Nat → Option Scope
  | 0 => some .core | 1 => some .clus | 2 => some .pkg | 3 => some .dom | 4 => some .sys | 5 => some .dur | _ => none
def Scope.code : Scope → Nat
  | .core => 0 | .clus => 1 | .pkg => 2 | .dom => 3 | .sys => 4 | .dur => 5
def Cmp.ofCode : Nat → Option Cmp
  | 0 => some .eq | 1 => some .ne | 2 => some .lt | 3 => some .ge | 4 => some .ltn | 5 => some .gen | _ => none
def Cmp.code : Cmp → Nat
  | .eq => 0 | .ne => 1 | .lt => 2 | .ge => 3 | .ltn => 4 | .gen => 5
/-- Codes of a reduction (R221). -/
def RedOp.ofCode : Nat → Option RedOp
  | 0 => some .add | 1 => some .max | 2 => some .min | 3 => some .and | 4 => some .or | 5 => some .xor | _ => none
def RedOp.code : RedOp → Nat
  | .add => 0 | .max => 1 | .min => 2 | .and => 3 | .or => 4 | .xor => 5
def HaccOp.ofCode : Nat → Option HaccOp
  | 0 => some .add | 1 => some .max | 2 => some .cnt | _ => none
def HaccOp.code : HaccOp → Nat
  | .add => 0 | .max => 1 | .cnt => 2
/-- Codes of FATOM's operation (R277). -/
def AmoOp.ofCode : Nat → Option AmoOp
  | 0 => some .add | 1 => some .min | 2 => some .max | 3 => some .minn | 4 => some .maxn | 5 => some .and | 6 => some .or
  | 7 => some .xor | 8 => some .swap | 9 => some .cas | _ => none
def AmoOp.code : AmoOp → Nat
  | .add => 0 | .min => 1 | .max => 2 | .minn => 3 | .maxn => 4 | .and => 5 | .or => 6 | .xor => 7 | .swap => 8 | .cas => 9
def CacheLevel.ofCode : Nat → Option CacheLevel
  | 0 => some .l0 | 1 => some .l1 | 2 => some .l2 | _ => none
def CacheLevel.code : CacheLevel → Nat
  | .l0 => 0 | .l1 => 1 | .l2 => 2
def TlbKind.ofCode : Nat → Option TlbKind
  | 0 => some .page | 1 => some .tenant | 2 => some .all | _ => none
def TlbKind.code : TlbKind → Nat
  | .page => 0 | .tenant => 1 | .all => 2
/-- FOP of VNEST: the V-table op (R155, R229). -/
def NestOp.ofCode : Nat → Option NestOp
  | 0x00 => some .vadd | 0x01 => some .vsub | 0x02 => some .vmul | 0x03 => some .vfma | 0x06 => some .vmin | 0x07 => some .vmax
  | 0x0A => some .vand | 0x0B => some .vor | 0x0C => some .vxor | 0x1A => some .vmov | _ => none
def NestOp.code : NestOp → Nat
  | .vadd => 0x00 | .vsub => 0x01 | .vmul => 0x02 | .vfma => 0x03 | .vmin => 0x06 | .vmax => 0x07 | .vand => 0x0A
  | .vor => 0x0B | .vxor => 0x0C | .vmov => 0x1A
def grpOf (x : Nat) : Fin 3 := Fin.ofNat 3 x
def bitOf (w i : Nat) : Bool := w.testBit i
def boolNat (b : Bool) : Nat := if b then 1 else 0

/-- A condition of step 3 that depends on T, where T is assigned: reserved fields come before register fields and T (R161). -/
def tyAll (w : Nat) (f : Ty → Bool) : Bool := (Ty.ofCode (fT w)).all f

/-- Refuse when a code names nothing. -/
def needSome {α : Type} (x : Option α) (ix reason : Nat) (k : α → Decoded) : Decoded :=
  match x with
  | some a => k a
  | none => .error (ix, reason)

/-! ### Shapes of F-A, F-I, F-L, F-B (R147) -/

/-- sD, sA, sB with FN = 0. -/
def shapeDAB (w : Nat) (mk : SReg → SReg → SReg → Instr) : Decoded :=
  need (fFn w == 0) 0 5 (.ok (mk (sReg (fD w)) (sReg (fA w)) (sReg (fB w))))
/-- sD, sA with B = FN = 0. -/
def shapeDA (w : Nat) (mk : SReg → SReg → Instr) : Decoded :=
  need (fB w == 0 && fFn w == 0) 0 5 (.ok (mk (sReg (fD w)) (sReg (fA w))))
/-- sA, sB with D = FN = 0. -/
def shapeAB (w : Nat) (mk : SReg → SReg → Instr) : Decoded :=
  need (fD w == 0 && fFn w == 0) 0 5 (.ok (mk (sReg (fA w)) (sReg (fB w))))
/-- sA with D = B = FN = 0. -/
def shapeA (w : Nat) (mk : SReg → Instr) : Decoded :=
  need (fD w == 0 && fB w == 0 && fFn w == 0) 0 5 (.ok (mk (sReg (fA w))))
/-- All fields 0. -/
def shape0 (w : Nat) (i : Instr) : Decoded := need (fieldOf w 0 25 == 0) 0 5 (.ok i)
/-- sD, sA and IMM13 (F-I). -/
def shapeI (w : Nat) (mk : SReg → SReg → BitVec 13 → Instr) : Decoded := .ok (mk (sReg (fD w)) (sReg (fA w)) (fI13 w))
/-- sD, sA and a shift of six bits. -/
def shapeK (w : Nat) (mk : SReg → SReg → Fin 64 → Instr) : Decoded :=
  need (fieldOf w 6 7 == 0) 0 5 (.ok (mk (sReg (fD w)) (sReg (fA w)) (sReg (fieldOf w 0 6))))
/-- sD, sA, position and length minus 1 (R201). -/
def shapeX (w : Nat) (mk : SReg → SReg → Fin 64 → Fin 64 → Instr) : Decoded :=
  need (fieldOf w 12 1 == 0 && decide (fieldOf w 0 6 + fieldOf w 6 6 + 1 ≤ 64)) 0 5
    (.ok (mk (sReg (fD w)) (sReg (fA w)) (sReg (fieldOf w 0 6)) (sReg (fieldOf w 6 6))))
/-- A conditional branch on two scalars (F-B): A in [24:19], B in [18:13]. -/
def shapeB2 (w : Nat) (mk : SReg → SReg → BitVec 13 → Instr) : Decoded := .ok (mk (sReg (fD w)) (sReg (fA w)) (fI13 w))
/-- A conditional branch on one scalar: B = 0. -/
def shapeB1 (w : Nat) (mk : SReg → BitVec 13 → Instr) : Decoded := need (fA w == 0) 0 5 (.ok (mk (sReg (fD w)) (fI13 w)))
/-- A branch on a predicate: B = 0. -/
def shapeBp (w : Nat) (mk : PReg → BitVec 13 → Instr) : Decoded :=
  need (fA w == 0) 0 5 (need (decide (fD w < 16)) 0 6 (.ok (mk (pReg (fD w)) (fI13 w))))
/-- pD, pA, pB with FN = 0. -/
def shapeP3 (w : Nat) (mk : PReg → PReg → PReg → Instr) : Decoded :=
  need (fFn w == 0) 0 5 (need (decide (fD w < 16 ∧ fA w < 16 ∧ fB w < 16)) 0 6 (.ok (mk (pReg (fD w)) (pReg (fA w)) (pReg (fB w)))))

/-! ### Shapes of F-V (R147, R149) -/

/-- vD, vA, vB, predicate and an accepted T; `vecA` and `vecB` demand vectors. -/
def shapeV (w : Nat) (vecA vecB : Bool) (ok : Ty → Bool) (mk : VReg → VSrc → VSrc → PReg → Ty → Decoded) : Decoded :=
  need (decide (fD w < 32) && !(vecA && decide (32 ≤ fA w)) && !(vecB && decide (32 ≤ fB w))) 0 6
    (needSome (Ty.ofCode (fT w)) 0 6 (fun t => need (ok t) 0 6 (mk (vReg (fD w)) (vSrc (fA w)) (vSrc (fB w)) (fP w) t)))
/-- The two-operand elementwise operations. -/
def shapeV2 (w : Nat) (ok : Ty → Bool) (mk : VReg → VSrc → VSrc → PReg → Ty → Instr) : Decoded :=
  shapeV w false false ok (fun d a b p t => .ok (mk d a b p t))
/-- The one-operand operations: VB = 0. -/
def shapeV1 (w : Nat) (ok : Ty → Bool) (mk : VReg → VSrc → PReg → Ty → Instr) : Decoded :=
  need (fB w == 0) 0 5 (shapeV w false false ok (fun d a _ p t => .ok (mk d a p t)))
/-- The compares: VD names a predicate. -/
def shapeVc (w : Nat) (mk : PReg → VSrc → VSrc → PReg → Ty → Instr) : Decoded :=
  need (decide (fD w < 16)) 0 6 (shapeV w false false (fun _ => true) (fun _ a b p t => .ok (mk (pReg (fD w)) a b p t)))
/-- Two vectors. -/
def shapeVv (w : Nat) (even : Bool) (mk : VReg → VReg → VReg → PReg → Ty → Instr) : Decoded :=
  need (!(even && fD w % 2 == 1)) 0 6 (shapeV w true true (fun _ => true) (fun d _ _ p t => .ok (mk d (vReg (fA w)) (vReg (fB w)) p t)))
/-- A vector and a scalar in VB. -/
def shapeVs (w : Nat) (mk : VReg → VReg → Fin 32 → PReg → Ty → Instr) : Decoded :=
  need (decide (32 ≤ fB w)) 0 6 (shapeV w true false (fun _ => true) (fun d _ _ p t => .ok (mk d (vReg (fA w)) (low5 (fB w - 32)) p t)))
/-- Scalars in VA and VB. -/
def shapeVss (w : Nat) (ok : Ty → Bool) (mk : VReg → Fin 32 → Fin 32 → PReg → Ty → Instr) : Decoded :=
  need (decide (32 ≤ fA w ∧ 32 ≤ fB w)) 0 6
    (shapeV w false false ok (fun d _ _ p t => .ok (mk d (low5 (fA w - 32)) (low5 (fB w - 32)) p t)))
def anyTy (_ : Ty) : Bool := true
def floatTy (t : Ty) : Bool := t.isFloat
def intTy (t : Ty) : Bool := !t.isFloat
def signedTy (t : Ty) : Bool := t.isFloat || t.isSigned

/-! ### The slots (R151–R158) -/

/-- Loops: the displacement is positive (R167). -/
def shapeLoop (w : Nat) (mk : SReg → Fin 4 → BitVec 13 → Decoded) : Decoded :=
  need (fieldOf w 15 4 == 0 && loopDispOk (fI13 w)) 0 5 (mk (sReg (fD w)) (Fin.ofNat 4 (fieldOf w 13 2)) (fI13 w))

/-- The BR slot (R151). SLOOP with B = 0 and a queue number above 31 in SLOOP or WAITQ are REASON 5: R170 and R175 name none
(DESIGN CHOICE, log 93). -/
def decodeBr (w x : Nat) : Decoded :=
  match fOp w with
  | 0x01 => .ok (.b (BitVec.ofNat 25 w))
  | 0x02 => shapeB1 w .bz
  | 0x03 => shapeB1 w .bnz
  | 0x04 => shapeB2 w .beq
  | 0x05 => shapeB2 w .bne
  | 0x06 => shapeB2 w .blt
  | 0x07 => shapeB2 w .bge
  | 0x08 => shapeB2 w .bltn
  | 0x09 => shapeB2 w .bgen
  | 0x0A => shapeBp w .bany
  | 0x0B => shapeBp w .bnone
  | 0x0C => .ok (.bmz (BitVec.ofNat 25 w))
  | 0x0D => .ok (.call (BitVec.ofNat 25 w))
  | 0x0E => shapeDA w .calli
  | 0x0F => shapeA w .jmpi
  | 0x10 => shapeLoop w (fun a n d => .ok (.loop a n d))
  | 0x11 => shapeLoop w (fun a n d => need (x / 8 == 0) 1 5 (.ok (.loopp a n d (Fin.ofNat 8 x))))
  | 0x12 =>
    need (decide (fD w < 32) && fA w != 0 && loopDispOk (fI13 w)) 0 5
      (need (decide (fA w < 16)) 0 6 (.ok (.sloop (low5 (fD w)) (pReg (fA w)) (fI13 w))))
  | 0x13 => shapeAB w .bsel
  | 0x14 => need (fD w == 0 && fB w == 0 && fFn w == 0) 0 5 (need (decide (fA w < 16)) 0 6 (.ok (.mpush (pReg (fA w)))))
  | 0x15 => shape0 w .minv
  | 0x16 => shape0 w .mpop
  | 0x17 => need (fD w == 0 && fFn w == 0) 0 5 (.ok (.idle (BitVec.ofNat 12 (w / 2 ^ 7))))
  | 0x18 => shape0 w .endTask
  | 0x19 => shape0 w .yield
  | 0x1A => shape0 w .waite
  | 0x1B => need (fD w == 0 && fB w == 0 && fFn w == 0 && decide (fA w < 32)) 0 5 (.ok (.waitq (low5 (fA w))))
  | 0x1C =>
    need (fieldOf w 4 3 == 0) 0 5 (needSome (Cmp.ofCode (fieldOf w 0 3)) 0 5 (fun c =>
      need (x / 2 ^ 16 == 0) 1 5 (.ok (.waitm (sReg (fD w)) (sReg (fA w)) (sReg (fB w)) c (bitOf w 3) (BitVec.ofNat 16 x)))))
  | 0x1D => shape0 w .csync
  | 0x1E => shapeAB w .barinit
  | 0x1F => shapeA w .bararr
  | 0x20 => shapeAB w .barwait
  | 0x21 => need (fieldOf w 3 22 == 0) 0 5 (needSome (Scope.ofCode (fieldOf w 0 3)) 0 5 (fun s => .ok (.fence s)))
  | 0x22 => shape0 w .pbar
  | 0x23 => shapeAB w .pcommit
  | 0x24 => need (fA w == 0) 0 5 (need (controlIndexOk (fieldOf w 0 13)) 0 9 (.ok (.getc (sReg (fD w)) (fI13 w))))
  | 0x25 => need (fD w == 0) 0 5 (need (controlIndexOk (fieldOf w 0 13)) 0 9 (.ok (.setc (sReg (fA w)) (fI13 w))))
  | 0x26 => need (fieldOf w 18 7 == 0) 0 5 (.ok (.trap (BitVec.ofNat 19 w)))
  | 0x27 => shape0 w .rte
  | 0x28 => need (fD w == 0 && fieldOf w 2 5 == 0) 0 5 (needSome (CacheLevel.ofCode (fieldOf w 0 2)) 0 5 (fun l =>
      .ok (.ipf (sReg (fA w)) (sReg (fB w)) l)))
  | 0x29 => need (fD w == 0 && fieldOf w 1 6 == 0) 0 5 (.ok (.ipin (sReg (fA w)) (sReg (fB w)) (bitOf w 0)))
  | 0x2A => need (fD w == 0 && fieldOf w 1 6 == 0) 0 5 (.ok (.iunpin (sReg (fA w)) (sReg (fB w)) (bitOf w 0)))
  | 0x40 =>
    need (fD w == 0 && fieldOf w 2 5 == 0 && (bitOf w 0 || fA w == 0)) 0 5
      (.ok (if bitOf w 1 then .setallowMode (sReg (fA w)) (sReg (fB w)) (bitOf w 0)
        else .setallow (sReg (fA w)) (sReg (fB w)) (bitOf w 0)))
  | 0x41 => shapeDAB w .ctxsave
  | 0x42 => shapeDAB w .ctxload
  | 0x43 => shapeDA w .gfreeze
  | 0x44 => shapeAB w .gthaw
  | 0x45 => need (fD w == 0 && fieldOf w 2 5 == 0) 0 5 (needSome (TlbKind.ofCode (fieldOf w 0 2)) 0 5 (fun k =>
      .ok (.tlbinv (sReg (fA w)) (sReg (fB w)) k)))
  | 0x46 => shapeDAB w .segload
  | 0x47 => shapeAB w .msgsend
  | 0x48 => shape0 w .halt
  | _ => .error (0, 4)

/-- S0 and S1 (R152). -/
def decodeS (w : Nat) : Decoded :=
  match fOp w with
  | 0x00 => shapeDAB w .add
  | 0x01 => shapeDAB w .sub
  | 0x02 => shapeI w .addi
  | 0x03 => shapeDAB w .mul
  | 0x04 => shapeDAB w .mulh
  | 0x05 => shapeDAB w .mulhn
  | 0x06 => shapeDAB w .madd
  | 0x07 => shapeDAB w .div
  | 0x08 => shapeDAB w .divn
  | 0x09 => shapeDAB w .rem
  | 0x0A => shapeDAB w .remn
  | 0x0B => shapeDAB w .and
  | 0x0C => shapeDAB w .or
  | 0x0D => shapeDAB w .xor
  | 0x0E => shapeI w .andi
  | 0x0F => shapeI w .ori
  | 0x10 => shapeI w .xori
  | 0x11 => shapeDAB w .shl
  | 0x12 => shapeDAB w .shr
  | 0x13 => shapeDAB w .sar
  | 0x14 => shapeK w .shli
  | 0x15 => shapeK w .shri
  | 0x16 => shapeK w .sari
  | 0x17 => shapeDAB w .slt
  | 0x18 => shapeDAB w .sltn
  | 0x19 => shapeDAB w .seq
  | 0x1A => shapeI w .slti
  | 0x1B => need (fieldOf w 6 1 == 0) 0 5 (.ok (.sel (sReg (fD w)) (sReg (fieldOf w 0 6)) (sReg (fA w)) (sReg (fB w))))
  | 0x1C => shapeDAB w .min
  | 0x1D => shapeDAB w .max
  | 0x1E => shapeDAB w .minn
  | 0x1F => shapeDAB w .maxn
  | 0x20 => .ok (.li (sReg (fD w)) (BitVec.ofNat 19 w))
  | 0x21 => .ok (.lih (sReg (fD w)) (BitVec.ofNat 19 w))
  | 0x22 => shapeDA w .clz
  | 0x23 => shapeDA w .popc
  | 0x24 => shapeX w .exts
  | 0x25 => shapeX w .extz
  | 0x26 => shapeX w .ins
  | 0x27 => shapeDAB w .ceilm
  | 0x28 => shapeDAB w .divc
  | _ => .error (0, 4)

/-- A load: G and SCOPE 0, a legal size and extension (R204). -/
def shapeLd (w : Nat) (mk : SReg → SReg → SReg → Bool → Sz → Instr) : Decoded :=
  need (fieldOf w 3 4 == 0 && loadOk (bitOf w 2) (szOf w)) 0 5
    (.ok (mk (sReg (fD w)) (sReg (fA w)) (sReg (fB w)) (bitOf w 2) (szOf w)))
/-- A store: SX 0 too. -/
def shapeSt (w : Nat) (mk : SReg → SReg → SReg → Sz → Instr) : Decoded :=
  need (fieldOf w 2 5 == 0) 0 5 (.ok (mk (sReg (fD w)) (sReg (fA w)) (sReg (fB w)) (szOf w)))
/-- An atomic in its DM or global form (R204). -/
def shapeAmo (w : Nat) (dm : SReg → SReg → SReg → Bool → Sz → Instr)
    (gl : SReg → SReg → SReg → Scope → Bool → Sz → Instr) : Decoded :=
  need (amoOk (bitOf w 2) (szOf w)) 0 5
    (if bitOf w 6 then
      needSome (Scope.ofCode (fieldOf w 3 3)) 0 5 (fun sc => need (amoScopeOk sc) 0 5
        (.ok (gl (sReg (fD w)) (sReg (fA w)) (sReg (fB w)) sc (bitOf w 2) (szOf w))))
    else need (fieldOf w 3 3 == 0) 0 5 (.ok (dm (sReg (fD w)) (sReg (fA w)) (sReg (fB w)) (bitOf w 2) (szOf w))))

/-- The LS slot (R153, R204). -/
def decodeLs (w : Nat) : Decoded :=
  match fOp w with
  | 0x00 => shapeLd w .ld
  | 0x01 => shapeSt w .st
  | 0x02 => shapeLd w .ldg
  | 0x03 => shapeSt w .stg
  | 0x04 => shapeAmo w .amoaddDm .amoaddGlobal
  | 0x05 => shapeAmo w .amominDm .amominGlobal
  | 0x06 => shapeAmo w .amomaxDm .amomaxGlobal
  | 0x07 => shapeAmo w .amominnDm .amominnGlobal
  | 0x08 => shapeAmo w .amomaxnDm .amomaxnGlobal
  | 0x09 => shapeAmo w .amoandDm .amoandGlobal
  | 0x0A => shapeAmo w .amoorDm .amoorGlobal
  | 0x0B => shapeAmo w .amoxorDm .amoxorGlobal
  | 0x0C => shapeAmo w .amoswapDm .amoswapGlobal
  | 0x0D => shapeAmo w .amocasDm .amocasGlobal
  | _ => .error (0, 4)

/-- The AG slot (R154, R248–R250). -/
def decodeAg (w : Nat) : Decoded :=
  match fOp w with
  | 0x00 => need (fFn w == 0) 0 5 (need (decide (fD w < 16)) 0 6 (.ok (.gset (gReg (fD w)) (sReg (fA w)) (sReg (fB w)))))
  | 0x01 => need (decide (fieldOf w 0 13 < 27)) 0 5 (need (decide (fD w < 16)) 0 6
      (.ok (.gsetf (gReg (fD w)) (sReg (fA w)) (Fin.ofNat 27 (fieldOf w 0 13)))))
  | 0x02 => need (decide (fieldOf w 0 13 < 27)) 0 5 (need (decide (fA w < 16)) 0 6
      (.ok (.gget (sReg (fD w)) (gReg (fA w)) (Fin.ofNat 27 (fieldOf w 0 13)))))
  | 0x03 => need (fB w == 0 && fFn w == 0) 0 5 (need (decide (fD w < 16)) 0 6 (.ok (.gadv (gReg (fD w)) (sReg (fA w)))))
  | 0x04 => need (fA w == 0 && fB w == 0 && fFn w == 0) 0 5 (need (decide (fD w < 16)) 0 6 (.ok (.grst (gReg (fD w)))))
  | 0x05 => need (fFn w == 0) 0 5 (need (decide (fD w < 16)) 0 6 (.ok (.gmask (gReg (fD w)) (sReg (fA w)) (sReg (fB w)))))
  | 0x06 => need (fB w == 0 && fFn w == 0) 0 5 (need (decide (fD w < 16 ∧ fA w < 16)) 0 6
      (.ok (.gcopy (gReg (fD w)) (gReg (fA w)))))
  | _ => .error (0, 4)

/-- Are both types assigned, and of one width? -/
def sameWidth : Option Ty → Option Ty → Bool
  | some t, some u => t.width == u.width
  | _, _ => false

/-- VCVT with its extension syllable: H with equal widths is REASON 5, so it stands before the registers and the types
(R161, R219). -/
def decodeVcvt (w x : Nat) : Decoded :=
  need (fB w == 0) 0 5
    (need (fieldOf x 0 24 == 0 && !(bitOf x 24 && sameWidth (Ty.ofCode (fT w)) (Ty.ofCode (fieldOf x 29 3)))) 1 5
      (needSome (RmSel.ofCode (fieldOf x 26 3)) 1 5 (fun rm =>
        shapeV w true false anyTy (fun d _ _ p t => needSome (Ty.ofCode (fieldOf x 29 3)) 1 6 (fun dt =>
          need (dt != t) 1 6 (.ok (.vcvt d (vReg (fA w)) p t ⟨dt, rm, ovOf (x / 2 ^ 25), bitOf x 24⟩)))))))

/-- A VNEST level from its fields. -/
def nestLevel (x sd sa sb : Nat) : NestLevel := ⟨BitVec.ofNat 10 x, BitVec.ofNat 8 sd, BitVec.ofNat 8 sa, BitVec.ofNat 8 sb⟩

/-- VNEST: every operation of the nest accepts T 0 to 6 (R215, R229). A step count above 65,536 is reported with syllable 2,
where X0 lies: the fields span syllables 2 to 4 and the spec names none (DESIGN CHOICE, log 93). -/
def decodeVnest (ws : List Nat) : Decoded :=
  let y (i : Nat) : Nat := ws.getD i 0
  let w := y 0
  needSome (NestOp.ofCode (fA w)) 0 5 (fun fop => needSome (Ty.ofCode (fT w)) 0 5 (fun t =>
    let b (i : Nat) : Nat := fieldOf w (7 + 2 * i) 2
    let a : NestArgs := {
      fop := fop, t := t, p := fP w, bufD := bufOf (b 2), bufA := bufOf (b 0), bufB := bufOf (b 1),
      baseD := BitVec.ofNat 13 (fieldOf (y 2) 19 13), baseA := BitVec.ofNat 13 (fieldOf (y 1) 19 13),
      baseB := BitVec.ofNat 13 (fieldOf (y 1) 6 13),
      l0 := nestLevel (fieldOf (y 2) 9 10) (fieldOf (y 4) 6 8) (fieldOf (y 2) 1 8) (fieldOf (y 4) 14 8),
      l1 := nestLevel (fieldOf (y 3) 22 10) (fieldOf (y 5) 8 8) (fieldOf (y 5) 24 8) (fieldOf (y 5) 16 8),
      l2 := nestLevel (fieldOf (y 3) 12 10) (fieldOf (y 6) 8 8) (fieldOf (y 6) 24 8) (fieldOf (y 6) 16 8),
      l3 := nestLevel (fieldOf (y 3) 2 10) (fieldOf (y 7) 8 8) (fieldOf (y 7) 24 8) (fieldOf (y 7) 16 8),
      l4 := nestLevel (fieldOf (y 4) 22 10) (fieldOf (y 7) 0 8) (fieldOf (y 5) 0 8) (fieldOf (y 6) 0 8) }
    need (fD w == 0 && a.bufD != .wb && decide (b 2 < 3 ∧ b 0 < 3 ∧ b 1 < 3)) 0 5
      (need (fieldOf (y 1) 0 6 == 0) 1 5 (need (fieldOf (y 2) 0 1 == 0) 2 5 (need (fieldOf (y 3) 0 2 == 0) 3 5
        (need (fieldOf (y 4) 0 6 == 0) 4 5 (need (decide (a.steps ≤ 65536)) 2 5 (.ok (.vnest a)))))))))

/-- VB of a reduction: operation and, for VSCAN, EXC (R221, R222). AND, OR and XOR of a floating T, which the spec only calls not
accepted, are REASON 5 (DESIGN CHOICE, log 93). -/
def shapeRed (w : Nat) (high : Nat) (mk : VReg → VReg → RedOp → PReg → Ty → Instr) : Decoded :=
  need (fieldOf w high (13 - high) == 0) 0 5 (needSome (RedOp.ofCode (fieldOf w 7 3)) 0 5 (fun op =>
    need (tyAll w (fun t => !t.isFloat || op == .add || op == .max || op == .min)) 0 5
      (shapeV w true false anyTy (fun d _ _ p t => .ok (mk d (vReg (fA w)) op p t)))))

/-- V0 and V1 (R155). VHACC with OPV = CNT and T = 0 is REASON 5 at the extension syllable, where OPV lies: R225 names neither (DESIGN
CHOICE, log 93). -/
def decodeV (ws : List Nat) : Decoded :=
  let w := ws.getD 0 0
  let x := ws.getD 1 0
  match fOp w with
  | 0x00 => shapeV2 w anyTy .vadd
  | 0x01 => shapeV2 w anyTy .vsub
  | 0x02 => shapeV2 w anyTy .vmul
  | 0x03 => shapeV2 w anyTy .vfma
  | 0x04 => shapeV2 w anyTy .vfms
  | 0x05 => shapeV2 w anyTy .vfnma
  | 0x06 => shapeV2 w anyTy .vmin
  | 0x07 => shapeV2 w anyTy .vmax
  | 0x08 => shapeV1 w signedTy .vabs
  | 0x09 => shapeV1 w signedTy .vneg
  | 0x0A => shapeV2 w anyTy .vand
  | 0x0B => shapeV2 w anyTy .vor
  | 0x0C => shapeV2 w anyTy .vxor
  | 0x0D => shapeV1 w anyTy .vnot
  | 0x0E => shapeV2 w intTy .vshl
  | 0x0F => shapeV2 w intTy .vshr
  | 0x10 => shapeV2 w intTy .vsar
  | 0x11 => shapeV2 w intTy .vmulh
  | 0x12 => need (fieldOf x 0 26 == 0) 1 5 (shapeV w false false anyTy (fun d a b p t => .ok (.vclamp d a b (vSrc (fieldOf x 26 6)) p t)))
  | 0x13 => shapeV2 w floatTy .vscale
  | 0x14 => shapeVc w .vcmpeq
  | 0x15 => shapeVc w .vcmpne
  | 0x16 => shapeVc w .vcmplt
  | 0x17 => shapeVc w .vcmple
  | 0x18 => need (decide (fD w < 16)) 0 6 (shapeV w false false floatTy (fun _ a _ p t =>
      .ok (.vclass (pReg (fD w)) a (BitVec.ofNat 6 (fB w)) p t)))
  | 0x19 => shapeV2 w anyTy .vsel
  | 0x1A => shapeV1 w anyTy .vmov
  | 0x1B => shapeVs w .vbcast
  | 0x1C => shapeVss w anyTy .vins
  | 0x1D => shapeVs w (fun d a b p t => .vext d a b p t)
  | 0x1E => shapeVss w intTy .viota
  | 0x1F => decodeVcvt w x
  | 0x20 => shapeV1 w floatTy .vrcp
  | 0x21 => shapeV1 w floatTy .vrsq
  | 0x22 => shapeV1 w floatTy .vsqrt
  | 0x23 => shapeV1 w floatTy .vexp2
  | 0x24 => shapeV1 w floatTy .vlog2
  | 0x25 => shapeV1 w floatTy .vtanh
  | 0x26 => shapeV1 w floatTy .vsin
  | 0x27 => shapeRed w 10 (fun d a op p t => .vred d a op p t)
  | 0x28 => shapeRed w 11 (fun d a op p t => .vscan d a op (bitOf w 10) p t)
  | 0x29 => shapeVv w false .vperm
  | 0x2A => shapeVs w .vrot
  | 0x2B => shapeVv w true .vzip
  | 0x2C => shapeVv w true .vunzip
  | 0x2D =>
    need (fB w == 0) 0 5 (need (fieldOf x 0 23 == 0 && decide (1 ≤ fieldOf x 24 8 ∧ fieldOf x 24 8 ≤ 128) &&
        tyAll w (fun t => decide (fieldOf x 24 8 ≤ t.lanes))) 1 5
      (need (fD w % 2 == 0) 0 6 (shapeV w true false anyTy (fun d _ _ p t =>
        .ok (.vtopk d (vReg (fA w)) (BitVec.ofNat 8 (fieldOf x 24 8)) (bitOf x 23) p t)))))
  | 0x2E =>
    need (fD w == 0) 0 5 (need (fieldOf x 0 19 == 0 && decide (4 ≤ fieldOf x 21 4)) 1 5
      (needSome (HaccOp.ofCode (fieldOf x 19 2)) 1 5 (fun op => need (!(op == .cnt && fT w == 0)) 1 5
        (shapeV w true false (fun t => t == .f32 || t == .i32) (fun _ _ b p t =>
          .ok (.vhacc (vReg (fA w)) b p t ⟨sReg (fieldOf x 26 6), bitOf x 25, Fin.ofNat 16 (fieldOf x 21 4), op⟩))))))
  | 0x2F => decodeVnest ws
  | _ => .error (0, 4)

/-- The extension syllable of an unpack or pack, with its unassigned values refused (R233, R235). -/
def packExt (x : Nat) (k : PackArgs → Decoded) : Decoded :=
  need (fieldOf x 0 17 == 0 && decide (fieldOf x 17 2 < 3)) 1 5
    (needSome (RmSel.ofCode (fieldOf x 20 3)) 1 5 (fun rm => needSome (Fmt.ofCode (fieldOf x 27 5)) 1 5 (fun f =>
      need f.packAny 1 5 (k ⟨f, Fin.ofNat 16 (fieldOf x 23 4), rm, ovOf (x / 2 ^ 19), grpOf (fieldOf x 17 2)⟩))))

/-- Does PART name a part of the stream, for an assigned T? (R231) -/
def partFits (w : Nat) (a : PackArgs) : Bool := tyAll w (fun t => partOk a.fmt a.part t)

/-- The VX slot (R156, R233). VUNPKZ's SF is looked at with the rules of the extension, before its vector registers (DESIGN CHOICE,
log 145). -/
def decodeVx (w x : Nat) : Decoded :=
  match fOp w with
  | 0x00 =>
    need (fB w == 0) 0 5 (packExt x (fun a =>
      need (a.rm == .vmode && a.ov == .sat && !(a.fmt.packFloat && a.grp != 0) && partFits w a) 1 5
        (shapeV w true false (fun t => unpkTypeOk a.fmt t) (fun d _ _ p t => .ok (.vunpk d (vReg (fA w)) p t a)))))
  | 0x01 =>
    packExt x (fun a => need (!(a.fmt.packFloat && a.grp != 0) && partFits w a) 1 5
      (shapeV w true false floatTy (fun d _ b p t => .ok (.vunpks d (vReg (fA w)) b p t a))))
  | 0x02 =>
    packExt x (fun a => need (!(a.fmt.packFloat && a.grp != 0) && partFits w a) 1 5 (need (a.fmt == .n8 || a.fmt == .n4) 1 6
      (shapeV w true false floatTy (fun d _ b p t => .ok (.vunpkz d (vReg (fA w)) b p t a)))))
  | _ => .error (0, 4)

/-- PSET by its FN (R240). -/
def decodePset (w : Nat) : Decoded :=
  need (fB w == 0 && (fFn w == 0 || fFn w == 1 || fFn w == 2 || fFn w == 4)) 0 5 (need (decide (fD w < 16)) 0 6
    (.ok (match fFn w with
      | 0 => .psetHalf (pReg (fD w)) (sReg (fA w)) .lo
      | 1 => .psetHalf (pReg (fD w)) (sReg (fA w)) .hi
      | 2 => .psetL16 (pReg (fD w)) (sReg (fA w))
      | _ => .psetL32 (pReg (fD w)) (sReg (fA w)))))

/-- The VP slot (R156, R235, R239, R240). -/
def decodeVp (w x : Nat) : Decoded :=
  match fOp w with
  | 0x00 =>
    need (fB w == 0) 0 5 (packExt x (fun a => need (a.grp == 0 && partFits w a) 1 5
      (shapeV w true false (fun t => packTypeOk a.fmt t) (fun d _ _ p t => .ok (.vpack d (vReg (fA w)) p t a)))))
  | 0x01 =>
    need (fB w == 0) 0 5 (packExt x (fun a => need (a.grp == 0 && a.fmt.packFloat && partFits w a) 1 5 (need (fD w % 2 == 0) 0 6
      (shapeV w true false floatTy (fun d _ _ p t => .ok (.vpacksc d (vReg (fA w)) p t a))))))
  | 0x02 =>
    need (fB w == 0) 0 5 (packExt x (fun a =>
      need ((a.fmt == .n8 || a.fmt == .n4) && partFits w a && tyAll w (fun t => decide (groupSize a.grp ≤ t.lanes))) 1 5
        (need (fD w % 2 == 0) 0 6 (shapeV w true false floatTy (fun d _ _ p t => .ok (.vpackz d (vReg (fA w)) p t a))))))
  | 0x03 => shapeP3 w .pand
  | 0x04 => shapeP3 w .por
  | 0x05 => shapeP3 w .pxor
  | 0x06 => need (fB w == 0 && fFn w == 0) 0 5 (need (decide (fD w < 16 ∧ fA w < 16)) 0 6 (.ok (.pnot (pReg (fD w)) (pReg (fA w)))))
  | 0x07 => decodePset w
  | 0x08 =>
    need (fB w == 0 && decide (fFn w < 2)) 0 5 (need (decide (fA w < 16)) 0 6
      (.ok (.pget (sReg (fD w)) (pReg (fA w)) (if bitOf w 0 then .hi else .lo))))
  | 0x09 =>
    need (fB w == 0 && decide (fFn w < 2)) 0 5 (need (decide (fA w < 16)) 0 6 (.ok (.pcnt (sReg (fD w)) (pReg (fA w)) (bitOf w 0))))
  | _ => .error (0, 4)

/-- The extension syllable of a VM operation (R241). -/
def vmExt (x : Nat) (k : VmArgs → Decoded) : Decoded :=
  need (fieldOf x 0 8 == 0) 1 5 (k ⟨bufOf (x / 2 ^ 30), sReg (fieldOf x 24 6), BitVec.ofNat 16 (fieldOf x 8 16)⟩)
/-- VA and VB both 0. -/
def shapeVm (w x : Nat) (mk : VReg → PReg → Ty → VmArgs → Instr) : Decoded :=
  need (fA w == 0 && fB w == 0) 0 5 (vmExt x (fun a => shapeV w false false anyTy (fun d _ _ p t => .ok (mk d p t a))))
/-- A scalar stride in VB. -/
def shapeVmS (w x : Nat) (mk : VReg → Fin 32 → PReg → Ty → VmArgs → Instr) : Decoded :=
  need (fA w == 0) 0 5 (vmExt x (fun a => need (decide (32 ≤ fB w)) 0 6
    (shapeV w false false anyTy (fun d _ _ p t => .ok (mk d (low5 (fB w - 32)) p t a)))))
/-- An index vector in VA. -/
def shapeVmX (w x : Nat) (mk : VReg → VReg → PReg → Ty → VmArgs → Instr) : Decoded :=
  need (fB w == 0) 0 5 (vmExt x (fun a => shapeV w true false anyTy (fun d _ _ p t => .ok (mk d (vReg (fA w)) p t a))))

/-- The VM slot (R156, R241). -/
def decodeVm (w x : Nat) : Decoded :=
  match fOp w with
  | 0x00 => shapeVm w x .vld
  | 0x01 => shapeVm w x .vst
  | 0x02 => shapeVmS w x .vlds
  | 0x03 => shapeVmS w x .vsts
  | 0x04 => shapeVmX w x .vldx
  | 0x05 => shapeVmX w x .vstx
  | 0x06 => shapeVm w x .vldb
  | _ => .error (0, 4)

/-- MMA and MMAZ (R251). -/
def shapeMma (w x : Nat) (mk : TileIx → GReg → GReg → BitVec 16 → BitVec 16 → Instr) : Decoded :=
  need (fieldOf w 21 4 == 0 && fFn w == 0 && fA w != fB w) 0 5 (need (countOk (fImm x)) 1 5
    (need (decide (fA w < 16 ∧ fB w < 16)) 0 6 (.ok (mk (tReg (fD w)) (gReg (fA w)) (gReg (fB w)) (fAt x) (fImm x)))))

/-- The MX slot (R157, R251–R263). -/
def decodeMx (w x : Nat) : Decoded :=
  match fOp w with
  | 0x00 => shapeMma w x .mma
  | 0x01 => shapeMma w x .mmaz
  | 0x02 =>
    need (fFn w == 0) 0 5 (need (fieldOf x 12 4 == 0) 1 5 (need (decide (fA w < 16 ∧ fB w < 16)) 0 6 (need (fAt x == 0) 1 8
      (.ok (.mmag (sReg (fD w)) (gReg (fA w)) (gReg (fB w)) (BitVec.ofNat 12 x))))))
  | 0x03 =>
    need (fieldOf w 24 1 == 0 && fFn w == 0) 0 5 (need (fImm x == 0) 1 5 (need (decide (fA w < 16 ∧ fB w < 16)) 0 6
      (need (fAt x == 0) 1 8 (.ok (.mmas (low5 (fD w)) (gReg (fA w)) (gReg (fB w)))))))
  | 0x04 =>
    need (fieldOf w 21 4 == 0 && fieldOf w 16 3 == 0 && !bitOf w 6) 0 5 (needSome (RmSel.ofCode (fieldOf w 13 3)) 0 5 (fun rm =>
      needSome (Fmt.ofCode (fieldOf w 0 5)) 0 5 (fun f => need (drainOk f 0) 0 5 (need (fieldOf x 8 8 == 0) 1 5
        (need (drainOk f (BitVec.ofNat 8 x)) 1 5
          (.ok (.tdrain (tReg (fD w)) rm (sReg (fB w)) f (ovOf (w / 2 ^ 5)) (fAt x) (BitVec.ofNat 8 x))))))))
  | 0x05 =>
    need (fieldOf w 21 4 == 0 && fA w == 0 && fieldOf w 5 2 == 0) 0 5 (needSome (Fmt.ofCode (fieldOf w 0 5)) 0 5 (fun f =>
      need (drainOk f 0) 0 5 (need (fieldOf x 8 8 == 0) 1 5 (need (drainOk f (BitVec.ofNat 8 x)) 1 5
        (.ok (.tload (tReg (fD w)) (sReg (fB w)) f (fAt x) (BitVec.ofNat 8 x)))))))
  | 0x06 => need (fieldOf w 21 4 == 0 && fieldOf w 0 19 == 0) 0 5 (.ok (.tclr (tReg (fD w))))
  | 0x07 => need (fieldOf w 21 4 == 0 && fFn w == 0) 0 5 (.ok (.tmask (tReg (fD w)) (sReg (fA w)) (sReg (fB w))))
  | 0x08 =>
    need (fieldOf w 0 1 == 0) 0 5 (.ok (.precset
      ⟨tReg (fieldOf w 23 2), Fin.ofNat 4 (fieldOf w 21 2), BitVec.ofNat 5 (fieldOf w 16 5), BitVec.ofNat 5 (fieldOf w 11 5),
        Fin.ofNat 16 (fieldOf w 7 4), Fin.ofNat 16 (fieldOf w 3 4), bitOf w 2, bitOf w 1⟩))
  | 0x09 => need (fieldOf w 15 4 == 0 && fB w == 0 && fieldOf w 1 6 == 0) 0 5 (.ok (.tstat (sReg (fD w)) (tReg (fA w)) (bitOf w 0)))
  | _ => .error (0, 4)

/-- GATHER and SCATTER (R274). -/
def shapeGather (w x : Nat) (mk : SReg → SReg → SReg → Fin 9 → Buf → Bool → BitVec 16 → Instr) : Decoded :=
  need (decide (fieldOf w 0 4 < 9)) 0 5 (need (countOk (fImm x)) 1 5 (need (fAt x == 0) 1 8
    (.ok (mk (sReg (fD w)) (sReg (fA w)) (sReg (fB w)) (Fin.ofNat 9 (fieldOf w 0 4)) (bufOf (w / 2 ^ 4)) (bitOf w 6) (fImm x)))))
/-- XSEND and XRECV (R275). -/
def shapeSend (w x : Nat) (mk : SReg → SReg → Buf → BitVec 16 → BitVec 16 → Instr) : Decoded :=
  need (fD w == 0 && fieldOf w 2 5 == 0) 0 5 (need (countOk (fImm x)) 1 5
    (.ok (mk (sReg (fA w)) (sReg (fB w)) (bufOf w) (fAt x) (fImm x))))
/-- FPUT, FGET and DPUT (R276, R278). -/
def shapePut (w x : Nat) (mk : SReg → SReg → Buf → BitVec 16 → Instr) : Decoded :=
  need (fD w == 0 && fieldOf w 2 5 == 0) 0 5 (need (countOk (fImm x)) 1 5 (need (fAt x == 0) 1 8
    (.ok (mk (sReg (fA w)) (sReg (fB w)) (bufOf w) (fImm x)))))
/-- An untimed command without IMM16. -/
def bare (x : Nat) (k : Decoded) : Decoded := need (fImm x == 0) 1 5 (need (fAt x == 0) 1 8 k)

/-- The EC slot (R158, R264–R283). -/
def decodeEc (w x : Nat) : Decoded :=
  match fOp w with
  | 0x00 =>
    need (fieldOf w 5 2 == 0 && !(bitOf w 4 && bitOf w 3) && (bitOf w 4 || fD w == 0)) 0 5 (need (countOk (fImm x)) 1 5
      (.ok (.copy (sReg (fD w)) (sReg (fA w)) (sReg (fB w)) (bitOf w 0) (bufOf (w / 2)) (bitOf w 3) (bitOf w 4) (fAt x) (fImm x))))
  | 0x01 =>
    need (fieldOf w 5 2 == 0 && !bitOf w 3) 0 5 (need (countOk (fImm x)) 1 5
      (.ok (.copym (sReg (fD w)) (sReg (fA w)) (sReg (fB w)) (bitOf w 0) (bufOf (w / 2)) (bitOf w 4) (fAt x) (fImm x))))
  | 0x02 => shapeGather w x .gather
  | 0x03 => shapeGather w x .scatter
  | 0x04 => shapeSend w x .xsend
  | 0x05 => shapeSend w x .xrecv
  | 0x06 => shapePut w x .fput
  | 0x07 => shapePut w x .fget
  | 0x08 =>
    needSome (AmoOp.ofCode (fieldOf w 0 4)) 0 5 (fun op => need (!(bitOf w 4 && bitOf w 5)) 0 5
      (bare x (.ok (.fatom (sReg (fD w)) (sReg (fA w)) (sReg (fB w)) op (bitOf w 4) (bitOf w 5) (bitOf w 6)))))
  | 0x09 => shapePut w x .dput
  | 0x0A => need (fD w == 0 && fFn w == 0) 0 5 (need (countOk (fImm x)) 1 5 (need (fAt x == 0) 1 8
      (.ok (.dget (sReg (fA w)) (sReg (fB w)) (fImm x)))))
  | 0x0B => need (fD w == 0 && fieldOf w 5 2 == 0) 0 5 (bare x (.ok (.wstart (sReg (fA w)) (sReg (fB w)) (low5 (fieldOf w 0 5)))))
  | 0x0C => need (fieldOf w 0 25 == 0) 0 5 (bare x (.ok .wstop))
  | 0x0D => need (fD w == 0 && !bitOf w 6) 0 5 (bare x (.ok (.qsend (sReg (fA w)) (sReg (fB w)) (low5 (fieldOf w 0 5)) (bitOf w 5))))
  | 0x0E => need (fA w == 0 && fB w == 0 && fieldOf w 5 2 == 0) 0 5 (bare x (.ok (.qrecv (sReg (fD w)) (low5 (fieldOf w 0 5)))))
  | 0x0F => need (fD w == 0 && fB w == 0 && fFn w == 0) 0 5 (bare x (.ok (.launch (sReg (fA w)))))
  | 0x10 =>
    need (fD w == 0 && fieldOf w 1 6 == 0) 0 5 (need (fieldOf x 11 5 == 0 && (bitOf w 0 || fieldOf x 0 11 == 0)) 1 5
      (need (fAt x == 0) 1 8 (.ok (.signal (sReg (fA w)) (sReg (fB w)) (bitOf w 0) (BitVec.ofNat 11 x)))))
  | 0x11 =>
    need (fD w == 0 && fieldOf w 3 4 == 0) 0 5 (need (countOk (fImm x)) 1 5
      (.ok (.fill (sReg (fA w)) (sReg (fB w)) (bitOf w 0) (bufOf (w / 2)) (fAt x) (fImm x))))
  | _ => .error (0, 4)

/-- Decode the syllables of an operation in its slot. -/
def decodeOp (slot : Slot) (ws : List Nat) : Decoded :=
  let w := ws.getD 0 0
  let x := ws.getD 1 0
  match slot with
  | .br => decodeBr w x
  | .s0 | .s1 => decodeS w
  | .ls => decodeLs w
  | .ag => decodeAg w
  | .v0 | .v1 => decodeV ws
  | .vx => decodeVx w x
  | .vp => decodeVp w x
  | .vm => decodeVm w x
  | .mx => decodeMx w x
  | .ec => decodeEc w x

/-- Syllables of an operation by slot and OP; none for an unassigned OP (R151–R159). -/
def opLength (slot : Slot) (op : Nat) : Option Nat :=
  match slot with
  | .br =>
    if op = 0x11 ∨ op = 0x1C then some 2
    else if (1 ≤ op ∧ op ≤ 0x2A) ∨ (0x40 ≤ op ∧ op ≤ 0x48) then some 1 else none
  | .s0 | .s1 => if op ≤ 0x28 then some 1 else none
  | .ls => if op ≤ 0x0D then some 1 else none
  | .ag => if op ≤ 0x06 then some 1 else none
  | .v0 | .v1 =>
    if op = 0x2F then some 8
    else if op = 0x12 ∨ op = 0x1F ∨ op = 0x2D ∨ op = 0x2E then some 2
    else if op ≤ 0x2C then some 1 else none
  | .vx => if op ≤ 0x02 then some 2 else none
  | .vp => if op ≤ 0x02 then some 2 else if op ≤ 0x09 then some 1 else none
  | .vm => if op ≤ 0x06 then some 2 else none
  | .mx => if op ≤ 0x05 then some 2 else if op ≤ 0x09 then some 1 else none
  | .ec => if op ≤ 0x11 then some 2 else none

/-! ### Walker syllables (R160, R288–R297) -/

def wReg (x : Nat) : WReg := Fin.ofNat 16 x

/-- The fields of a W-R or W-I syllable that an entry does not use must be 0 (R160). -/
def walkNeed (ok : Bool) (i : Instr) : Option Instr := if ok then some i else none

/-- Decode a walker syllable; none is a walker fault (R160). -/
def decodeWalker (w : Nat) : Option Instr :=
  let d := wReg (fieldOf w 22 4)
  let a := wReg (fieldOf w 18 4)
  let b := wReg (fieldOf w 14 4)
  let i18 := BitVec.ofNat 18 w
  let i14 := BitVec.ofNat 14 w
  let noD := fieldOf w 22 4 == 0
  let noA := fieldOf w 18 4 == 0
  let noB := fieldOf w 14 4 == 0
  let noI := fieldOf w 0 14 == 0
  match fieldOf w 26 6 with
  | 0x01 => some (.wld d a i18)
  | 0x02 => some (.wldp d a i18)
  | 0x03 => walkNeed noI (.wadd d a b)
  | 0x04 => some (.waddi d a i18)
  | 0x05 => walkNeed noI (.wsub d a b)
  | 0x06 => walkNeed (fieldOf w 6 12 == 0) (.wshli d a (sReg (fieldOf w 0 6)))
  | 0x07 => walkNeed (fieldOf w 6 12 == 0) (.wshri d a (sReg (fieldOf w 0 6)))
  | 0x08 => walkNeed noI (.wand d a b)
  | 0x09 => walkNeed noA (.wli d i18)
  | 0x0A => walkNeed noD (.wbeq a b i14)
  | 0x0B => walkNeed noD (.wbne a b i14)
  | 0x0C => walkNeed noD (.wblt a b i14)
  | 0x0D => walkNeed (noD && noA) (.wj i18)
  | 0x0E => walkNeed noA (.wloop d i18)
  | 0x0F => walkNeed (noD && noI) (.wemit a b)
  | 0x10 => walkNeed (fieldOf w 2 24 == 0) (.wemitz (tReg w))
  | 0x11 => walkNeed (noD && fieldOf w 8 6 == 0) (.wtile a b (BitVec.ofNat 5 (fieldOf w 3 5)) (bitOf w 2) (tReg w))
  | 0x12 => walkNeed (fieldOf w 0 26 == 0) .wflush
  | 0x13 => walkNeed (fieldOf w 0 26 == 0) .weos
  | 0x14 => walkNeed (noA && noB) (.wgetc d i14)
  | 0x15 => walkNeed (noD && noB) (.wsetc a i14)
  | 0x16 => walkNeed (fieldOf w 0 26 == 0) .whalt
  | 0x17 => walkNeed noI (.wgath d a b)
  | _ => none

/-! ### Encoding (R147, R151–R160): the words of a well-formed instruction, from the same tables -/

/-- F-A: OP, D, A, B, FN. -/
def eA (op d a b fn : Nat) : Nat := op * 0x200_0000 + d * 0x8_0000 + a * 0x2000 + b * 0x80 + fn
/-- F-I and F-B: OP, D, A and thirteen bits. -/
def eI (op d a : Nat) (i : BitVec 13) : Nat := op * 0x200_0000 + d * 0x8_0000 + a * 0x2000 + i.toNat
/-- F-L. -/
def eL (op d : Nat) (i : BitVec 19) : Nat := op * 0x200_0000 + d * 0x8_0000 + i.toNat
/-- F-J. -/
def eJ (op : Nat) (x : BitVec 25) : Nat := op * 0x200_0000 + x.toNat
/-- F-V: OP, VD, VA, VB, P, T. -/
def eV (op d a b : Nat) (p : PReg) (t : Ty) : Nat := op * 0x200_0000 + d * 0x8_0000 + a * 0x2000 + b * 0x80 + p * 8 + t.code
/-- The second syllable of F-E. -/
def eX (at_ : BitVec 16) (imm : Nat) : Nat := at_.toNat * 0x1_0000 + imm
/-- W-R. -/
def eWR (op d a b i : Nat) : Nat := op * 0x400_0000 + d * 0x40_0000 + a * 0x4_0000 + b * 0x4000 + i
/-- W-I. -/
def eWI (op d a i : Nat) : Nat := op * 0x400_0000 + d * 0x40_0000 + a * 0x4_0000 + i
/-- VA or VB of a source. -/
def VSrc.code : VSrc → Nat
  | .vec r => r
  | .scal r => 32 + r
def Half.code : Half → Nat
  | .lo => 0 | .hi => 1
/-- The extension syllable of an unpack or pack (R233). -/
def PackArgs.word (x : PackArgs) : Nat :=
  x.fmt.code * 0x800_0000 + x.part * 0x80_0000 + x.rm.code * 0x10_0000 + x.ov.code * 0x8_0000 + x.grp * 0x2_0000
/-- The extension syllable of a VM operation (R241). -/
def VmArgs.word (x : VmArgs) : Nat := x.buf.code * 0x4000_0000 + x.sb * 0x100_0000 + x.off.toNat * 0x100
/-- The eight syllables of VNEST (R229). -/
def encodeNest (x : NestArgs) : List Nat :=
  [eV 0x2F 0 x.fop.code (x.bufA.code + 4 * x.bufB.code + 16 * x.bufD.code) x.p x.t,
    x.baseA.toNat * 0x8_0000 + x.baseB.toNat * 0x40,
    x.baseD.toNat * 0x8_0000 + x.l0.x.toNat * 0x200 + x.l0.sa.toNat * 2,
    x.l1.x.toNat * 0x40_0000 + x.l2.x.toNat * 0x1000 + x.l3.x.toNat * 4,
    x.l4.x.toNat * 0x40_0000 + x.l0.sb.toNat * 0x4000 + x.l0.sd.toNat * 0x40,
    x.l1.sa.toNat * 0x100_0000 + x.l1.sb.toNat * 0x1_0000 + x.l1.sd.toNat * 0x100 + x.l4.sa.toNat,
    x.l2.sa.toNat * 0x100_0000 + x.l2.sb.toNat * 0x1_0000 + x.l2.sd.toNat * 0x100 + x.l4.sb.toNat,
    x.l3.sa.toNat * 0x100_0000 + x.l3.sb.toNat * 0x1_0000 + x.l3.sd.toNat * 0x100 + x.l4.sd.toNat]

/-- The words of an instruction; an event has none. -/
def encode : Instr → List Nat
  | .b x => [eJ 0x01 x]
  | .bz a x => [eI 0x02 a 0 x]
  | .bnz a x => [eI 0x03 a 0 x]
  | .beq a b x => [eI 0x04 a b x]
  | .bne a b x => [eI 0x05 a b x]
  | .blt a b x => [eI 0x06 a b x]
  | .bge a b x => [eI 0x07 a b x]
  | .bltn a b x => [eI 0x08 a b x]
  | .bgen a b x => [eI 0x09 a b x]
  | .bany a x => [eI 0x0A a 0 x]
  | .bnone a x => [eI 0x0B a 0 x]
  | .bmz x => [eJ 0x0C x]
  | .call x => [eJ 0x0D x]
  | .calli d a => [eA 0x0E d a 0 0]
  | .jmpi a => [eA 0x0F 0 a 0 0]
  | .loop a n x => [eI 0x10 a n x]
  | .loopp a n x st => [eI 0x11 a n x, st]
  | .sloop q p x => [eI 0x12 q p x]
  | .bsel a b => [eA 0x13 0 a b 0]
  | .mpush a => [eA 0x14 0 a 0 0]
  | .minv => [eA 0x15 0 0 0 0]
  | .mpop => [eA 0x16 0 0 0 0]
  | .idle n => [0x17 * 0x200_0000 + n.toNat * 0x80]
  | .endTask => [eA 0x18 0 0 0 0]
  | .yield => [eA 0x19 0 0 0 0]
  | .waite => [eA 0x1A 0 0 0 0]
  | .waitq q => [eA 0x1B 0 q 0 0]
  | .waitm d a b cc w tmo => [eA 0x1C d a b (cc.code + 8 * boolNat w), tmo.toNat]
  | .csync => [eA 0x1D 0 0 0 0]
  | .barinit a b => [eA 0x1E 0 a b 0]
  | .bararr a => [eA 0x1F 0 a 0 0]
  | .barwait a b => [eA 0x20 0 a b 0]
  | .fence sc => [eA 0x21 0 0 0 sc.code]
  | .pbar => [eA 0x22 0 0 0 0]
  | .pcommit a b => [eA 0x23 0 a b 0]
  | .getc d i => [eI 0x24 d 0 i]
  | .setc a i => [eI 0x25 0 a i]
  | .trap imm => [eL 0x26 0 imm]
  | .rte => [eA 0x27 0 0 0 0]
  | .ipf a b l => [eA 0x28 0 a b l.code]
  | .ipin a b l => [eA 0x29 0 a b (boolNat l)]
  | .iunpin a b l => [eA 0x2A 0 a b (boolNat l)]
  | .setallow a b n => [eA 0x40 0 a b (boolNat n)]
  | .setallowMode a b n => [eA 0x40 0 a b (2 + boolNat n)]
  | .ctxsave d a b => [eA 0x41 d a b 0]
  | .ctxload d a b => [eA 0x42 d a b 0]
  | .gfreeze d a => [eA 0x43 d a 0 0]
  | .gthaw a b => [eA 0x44 0 a b 0]
  | .tlbinv a b k => [eA 0x45 0 a b k.code]
  | .segload d a b => [eA 0x46 d a b 0]
  | .msgsend a b => [eA 0x47 0 a b 0]
  | .halt => [eA 0x48 0 0 0 0]
  | .add d a b => [eA 0x00 d a b 0]
  | .sub d a b => [eA 0x01 d a b 0]
  | .addi d a i => [eI 0x02 d a i]
  | .mul d a b => [eA 0x03 d a b 0]
  | .mulh d a b => [eA 0x04 d a b 0]
  | .mulhn d a b => [eA 0x05 d a b 0]
  | .madd d a b => [eA 0x06 d a b 0]
  | .div d a b => [eA 0x07 d a b 0]
  | .divn d a b => [eA 0x08 d a b 0]
  | .rem d a b => [eA 0x09 d a b 0]
  | .remn d a b => [eA 0x0A d a b 0]
  | .and d a b => [eA 0x0B d a b 0]
  | .or d a b => [eA 0x0C d a b 0]
  | .xor d a b => [eA 0x0D d a b 0]
  | .andi d a i => [eI 0x0E d a i]
  | .ori d a i => [eI 0x0F d a i]
  | .xori d a i => [eI 0x10 d a i]
  | .shl d a b => [eA 0x11 d a b 0]
  | .shr d a b => [eA 0x12 d a b 0]
  | .sar d a b => [eA 0x13 d a b 0]
  | .shli d a k => [eA 0x14 d a 0 k]
  | .shri d a k => [eA 0x15 d a 0 k]
  | .sari d a k => [eA 0x16 d a 0 k]
  | .slt d a b => [eA 0x17 d a b 0]
  | .sltn d a b => [eA 0x18 d a b 0]
  | .seq d a b => [eA 0x19 d a b 0]
  | .slti d a i => [eI 0x1A d a i]
  | .sel d c a b => [eA 0x1B d a b c]
  | .min d a b => [eA 0x1C d a b 0]
  | .max d a b => [eA 0x1D d a b 0]
  | .minn d a b => [eA 0x1E d a b 0]
  | .maxn d a b => [eA 0x1F d a b 0]
  | .li d i => [eL 0x20 d i]
  | .lih d i => [eL 0x21 d i]
  | .clz d a => [eA 0x22 d a 0 0]
  | .popc d a => [eA 0x23 d a 0 0]
  | .exts d a pos len1 => [0x24 * 0x200_0000 + d * 0x8_0000 + a * 0x2000 + len1 * 0x40 + pos]
  | .extz d a pos len1 => [0x25 * 0x200_0000 + d * 0x8_0000 + a * 0x2000 + len1 * 0x40 + pos]
  | .ins d a pos len1 => [0x26 * 0x200_0000 + d * 0x8_0000 + a * 0x2000 + len1 * 0x40 + pos]
  | .ceilm d a b => [eA 0x27 d a b 0]
  | .divc d a b => [eA 0x28 d a b 0]
  | .ld d a b sx sz => [eA 0x00 d a b (sz.code + 4 * boolNat sx)]
  | .st d a b sz => [eA 0x01 d a b sz.code]
  | .ldg d a b sx sz => [eA 0x02 d a b (sz.code + 4 * boolNat sx)]
  | .stg d a b sz => [eA 0x03 d a b sz.code]
  | .amoaddDm d a b sx sz => [eA 0x04 d a b (sz.code + 4 * boolNat sx)]
  | .amoaddGlobal d a b sc sx sz => [eA 0x04 d a b (64 + 8 * sc.code + 4 * boolNat sx + sz.code)]
  | .amominDm d a b sx sz => [eA 0x05 d a b (sz.code + 4 * boolNat sx)]
  | .amominGlobal d a b sc sx sz => [eA 0x05 d a b (64 + 8 * sc.code + 4 * boolNat sx + sz.code)]
  | .amomaxDm d a b sx sz => [eA 0x06 d a b (sz.code + 4 * boolNat sx)]
  | .amomaxGlobal d a b sc sx sz => [eA 0x06 d a b (64 + 8 * sc.code + 4 * boolNat sx + sz.code)]
  | .amominnDm d a b sx sz => [eA 0x07 d a b (sz.code + 4 * boolNat sx)]
  | .amominnGlobal d a b sc sx sz => [eA 0x07 d a b (64 + 8 * sc.code + 4 * boolNat sx + sz.code)]
  | .amomaxnDm d a b sx sz => [eA 0x08 d a b (sz.code + 4 * boolNat sx)]
  | .amomaxnGlobal d a b sc sx sz => [eA 0x08 d a b (64 + 8 * sc.code + 4 * boolNat sx + sz.code)]
  | .amoandDm d a b sx sz => [eA 0x09 d a b (sz.code + 4 * boolNat sx)]
  | .amoandGlobal d a b sc sx sz => [eA 0x09 d a b (64 + 8 * sc.code + 4 * boolNat sx + sz.code)]
  | .amoorDm d a b sx sz => [eA 0x0A d a b (sz.code + 4 * boolNat sx)]
  | .amoorGlobal d a b sc sx sz => [eA 0x0A d a b (64 + 8 * sc.code + 4 * boolNat sx + sz.code)]
  | .amoxorDm d a b sx sz => [eA 0x0B d a b (sz.code + 4 * boolNat sx)]
  | .amoxorGlobal d a b sc sx sz => [eA 0x0B d a b (64 + 8 * sc.code + 4 * boolNat sx + sz.code)]
  | .amoswapDm d a b sx sz => [eA 0x0C d a b (sz.code + 4 * boolNat sx)]
  | .amoswapGlobal d a b sc sx sz => [eA 0x0C d a b (64 + 8 * sc.code + 4 * boolNat sx + sz.code)]
  | .amocasDm d a b sx sz => [eA 0x0D d a b (sz.code + 4 * boolNat sx)]
  | .amocasGlobal d a b sc sx sz => [eA 0x0D d a b (64 + 8 * sc.code + 4 * boolNat sx + sz.code)]
  | .gset d a b => [eA 0x00 d a b 0]
  | .gsetf d a f => [eA 0x01 d a 0 f]
  | .gget d a f => [eA 0x02 d a 0 f]
  | .gadv d a => [eA 0x03 d a 0 0]
  | .grst d => [eA 0x04 d 0 0 0]
  | .gmask d a b => [eA 0x05 d a b 0]
  | .gcopy d a => [eA 0x06 d a 0 0]
  | .vadd d a b p t => [eV 0x00 d a.code b.code p t]
  | .vsub d a b p t => [eV 0x01 d a.code b.code p t]
  | .vmul d a b p t => [eV 0x02 d a.code b.code p t]
  | .vfma d a b p t => [eV 0x03 d a.code b.code p t]
  | .vfms d a b p t => [eV 0x04 d a.code b.code p t]
  | .vfnma d a b p t => [eV 0x05 d a.code b.code p t]
  | .vmin d a b p t => [eV 0x06 d a.code b.code p t]
  | .vmax d a b p t => [eV 0x07 d a.code b.code p t]
  | .vabs d a p t => [eV 0x08 d a.code 0 p t]
  | .vneg d a p t => [eV 0x09 d a.code 0 p t]
  | .vand d a b p t => [eV 0x0A d a.code b.code p t]
  | .vor d a b p t => [eV 0x0B d a.code b.code p t]
  | .vxor d a b p t => [eV 0x0C d a.code b.code p t]
  | .vnot d a p t => [eV 0x0D d a.code 0 p t]
  | .vshl d a b p t => [eV 0x0E d a.code b.code p t]
  | .vshr d a b p t => [eV 0x0F d a.code b.code p t]
  | .vsar d a b p t => [eV 0x10 d a.code b.code p t]
  | .vmulh d a b p t => [eV 0x11 d a.code b.code p t]
  | .vclamp d a b c p t => [eV 0x12 d a.code b.code p t, c.code * 0x400_0000]
  | .vscale d a b p t => [eV 0x13 d a.code b.code p t]
  | .vcmpeq d a b p t => [eV 0x14 d a.code b.code p t]
  | .vcmpne d a b p t => [eV 0x15 d a.code b.code p t]
  | .vcmplt d a b p t => [eV 0x16 d a.code b.code p t]
  | .vcmple d a b p t => [eV 0x17 d a.code b.code p t]
  | .vclass d a m p t => [eV 0x18 d a.code m.toNat p t]
  | .vsel d a b p t => [eV 0x19 d a.code b.code p t]
  | .vmov d a p t => [eV 0x1A d a.code 0 p t]
  | .vbcast d a b p t => [eV 0x1B d a (32 + b) p t]
  | .vins d a b p t => [eV 0x1C d (32 + a) (32 + b) p t]
  | .vext d a b p t => [eV 0x1D d a (32 + b) p t]
  | .viota d a b p t => [eV 0x1E d (32 + a) (32 + b) p t]
  | .vcvt d a p t x => [eV 0x1F d a 0 p t, x.dt.code * 0x2000_0000 + x.rm.code * 0x400_0000 +
      x.ov.code * 0x200_0000 + boolNat x.hi * 0x100_0000]
  | .vrcp d a p t => [eV 0x20 d a.code 0 p t]
  | .vrsq d a p t => [eV 0x21 d a.code 0 p t]
  | .vsqrt d a p t => [eV 0x22 d a.code 0 p t]
  | .vexp2 d a p t => [eV 0x23 d a.code 0 p t]
  | .vlog2 d a p t => [eV 0x24 d a.code 0 p t]
  | .vtanh d a p t => [eV 0x25 d a.code 0 p t]
  | .vsin d a p t => [eV 0x26 d a.code 0 p t]
  | .vred d a op p t => [eV 0x27 d a op.code p t]
  | .vscan d a op exc p t => [eV 0x28 d a (op.code + 8 * boolNat exc) p t]
  | .vperm d a b p t => [eV 0x29 d a b p t]
  | .vrot d a b p t => [eV 0x2A d a (32 + b) p t]
  | .vzip d a b p t => [eV 0x2B d a b p t]
  | .vunzip d a b p t => [eV 0x2C d a b p t]
  | .vtopk d a k m p t => [eV 0x2D d a 0 p t, k.toNat * 0x100_0000 + boolNat m * 0x80_0000]
  | .vhacc a b p t x => [eV 0x2E 0 a b.code p t, x.sb * 0x400_0000 + boolNat x.cb * 0x200_0000 +
      x.lgn * 0x20_0000 + x.op.code * 0x8_0000]
  | .vnest x => encodeNest x
  | .vunpk d a p t x => [eV 0x00 d a 0 p t, x.word]
  | .vunpks d a b p t x => [eV 0x01 d a b.code p t, x.word]
  | .vunpkz d a b p t x => [eV 0x02 d a b.code p t, x.word]
  | .vpack d a p t x => [eV 0x00 d a 0 p t, x.word]
  | .vpacksc d a p t x => [eV 0x01 d a 0 p t, x.word]
  | .vpackz d a p t x => [eV 0x02 d a 0 p t, x.word]
  | .pand d a b => [eA 0x03 d a b 0]
  | .por d a b => [eA 0x04 d a b 0]
  | .pxor d a b => [eA 0x05 d a b 0]
  | .pnot d a => [eA 0x06 d a 0 0]
  | .psetHalf d a h => [eA 0x07 d a 0 h.code]
  | .psetL16 d a => [eA 0x07 d a 0 2]
  | .psetL32 d a => [eA 0x07 d a 0 4]
  | .pget d a h => [eA 0x08 d a 0 h.code]
  | .pcnt d a w => [eA 0x09 d a 0 (boolNat w)]
  | .vld d p t x => [eV 0x00 d 0 0 p t, x.word]
  | .vst d p t x => [eV 0x01 d 0 0 p t, x.word]
  | .vldb d p t x => [eV 0x06 d 0 0 p t, x.word]
  | .vlds d st p t x => [eV 0x02 d 0 (32 + st) p t, x.word]
  | .vsts d st p t x => [eV 0x03 d 0 (32 + st) p t, x.word]
  | .vldx d a p t x => [eV 0x04 d a 0 p t, x.word]
  | .vstx d a p t x => [eV 0x05 d a 0 p t, x.word]
  | .mma t ga gb at_ nk => [eA 0x00 t ga gb 0, eX at_ nk.toNat]
  | .mmaz t ga gb at_ nk => [eA 0x01 t ga gb 0, eX at_ nk.toNat]
  | .mmag d ga gb g => [eA 0x02 d ga gb 0, g.toNat]
  | .mmas q ga gb => [eA 0x03 q ga gb 0, 0]
  | .tdrain t rm b f ov at_ rows => [eA 0x04 t rm.code b (f.code + 32 * ov.code), eX at_ rows.toNat]
  | .tload t b f at_ rows => [eA 0x05 t 0 b f.code, eX at_ rows.toNat]
  | .tclr t => [eA 0x06 t 0 0 0]
  | .tmask t a b => [eA 0x07 t a b 0]
  | .precset x => [0x08 * 0x200_0000 + x.tile * 0x80_0000 + x.accf * 0x20_0000 + x.fmtA.toNat * 0x1_0000 +
      x.fmtB.toNat * 0x800 + x.wa * 0x80 + x.wb * 8 + boolNat x.rnda * 4 + boolNat x.rndb * 2]
  | .tstat d t c => [eA 0x09 d t 0 (boolNat c)]
  | .copy d a b e buf out map at_ n => [eA 0x00 d a b (boolNat e + 2 * buf.code + 8 * boolNat out +
      16 * boolNat map), eX at_ n.toNat]
  | .copym d a b e buf map at_ n => [eA 0x01 d a b (boolNat e + 2 * buf.code + 16 * boolNat map), eX at_ n.toNat]
  | .gather d a b lsz buf iw n => [eA 0x02 d a b (lsz + 16 * buf.code + 64 * boolNat iw), n.toNat]
  | .scatter d a b lsz buf iw n => [eA 0x03 d a b (lsz + 16 * buf.code + 64 * boolNat iw), n.toNat]
  | .xsend a b buf at_ n => [eA 0x04 0 a b buf.code, eX at_ n.toNat]
  | .xrecv a b buf at_ n => [eA 0x05 0 a b buf.code, eX at_ n.toNat]
  | .fput a b buf n => [eA 0x06 0 a b buf.code, n.toNat]
  | .fget a b buf n => [eA 0x07 0 a b buf.code, n.toNat]
  | .fatom d a b op sz64 sx sys => [eA 0x08 d a b (op.code + 16 * boolNat sz64 + 32 * boolNat sx +
      64 * boolNat sys), 0]
  | .dput a b buf n => [eA 0x09 0 a b buf.code, n.toNat]
  | .dget a b n => [eA 0x0A 0 a b 0, n.toNat]
  | .wstart a b q => [eA 0x0B 0 a b q, 0]
  | .wstop => [eA 0x0C 0 0 0 0, 0]
  | .qsend a b q eos => [eA 0x0D 0 a b (q + 32 * boolNat eos), 0]
  | .qrecv d q => [eA 0x0E d 0 0 q, 0]
  | .launch a => [eA 0x0F 0 a 0 0, 0]
  | .signal a b msi vec => [eA 0x10 0 a b (boolNat msi), vec.toNat]
  | .fill a b e buf at_ n => [eA 0x11 0 a b (boolNat e + 2 * buf.code), eX at_ n.toNat]
  | .wld d a i => [eWI 0x01 d a i.toNat]
  | .wldp d a i => [eWI 0x02 d a i.toNat]
  | .waddi d a i => [eWI 0x04 d a i.toNat]
  | .wadd d a b => [eWR 0x03 d a b 0]
  | .wsub d a b => [eWR 0x05 d a b 0]
  | .wand d a b => [eWR 0x08 d a b 0]
  | .wgath d a b => [eWR 0x17 d a b 0]
  | .wshli d a k => [eWI 0x06 d a k]
  | .wshri d a k => [eWI 0x07 d a k]
  | .wli d i => [eWI 0x09 d 0 i.toNat]
  | .wbeq a b i => [eWR 0x0A 0 a b i.toNat]
  | .wbne a b i => [eWR 0x0B 0 a b i.toNat]
  | .wblt a b i => [eWR 0x0C 0 a b i.toNat]
  | .wj i => [eWI 0x0D 0 0 i.toNat]
  | .wloop d i => [eWI 0x0E d 0 i.toNat]
  | .wemit a b => [eWR 0x0F 0 a b 0]
  | .wemitz t => [eWI 0x10 0 0 t]
  | .wtile a b f first t => [eWR 0x11 0 a b (f.toNat * 8 + boolNat first * 4 + t)]
  | .wflush => [eWI 0x12 0 0 0]
  | .weos => [eWI 0x13 0 0 0]
  | .wgetc d n => [eWR 0x14 d 0 0 n.toNat]
  | .wsetc a n => [eWR 0x15 0 a 0 n.toNat]
  | .whalt => [eWI 0x16 0 0 0]
  | _ => []

/-- The slot of an operation, S0 and V0 for those of two slots (R151–R158); none for walker syllables and events. -/
def slotOf : Instr → Option Slot
  | .b .. | .bz .. | .bnz .. | .beq .. | .bne .. | .blt .. | .bge .. | .bltn .. | .bgen .. | .bany .. | .bnone ..
  | .bmz .. | .call .. | .calli .. | .jmpi .. | .loop .. | .loopp .. | .sloop .. | .bsel .. | .mpush .. | .minv ..
  | .mpop .. | .idle .. | .endTask .. | .yield .. | .waite .. | .waitq .. | .waitm .. | .csync .. | .barinit ..
  | .bararr .. | .barwait .. | .fence .. | .pbar .. | .pcommit .. | .getc .. | .setc .. | .trap .. | .rte .. | .ipf ..
  | .ipin .. | .iunpin .. | .setallow .. | .setallowMode .. | .ctxsave .. | .ctxload .. | .gfreeze .. | .gthaw ..
  | .tlbinv .. | .segload .. | .msgsend .. | .halt .. => some .br
  | .add .. | .sub .. | .addi .. | .mul .. | .mulh .. | .mulhn .. | .madd .. | .div .. | .divn .. | .rem .. | .remn ..
  | .and .. | .or .. | .xor .. | .andi .. | .ori .. | .xori .. | .shl .. | .shr .. | .sar .. | .shli .. | .shri ..
  | .sari .. | .slt .. | .sltn .. | .seq .. | .slti .. | .sel .. | .min .. | .max .. | .minn .. | .maxn .. | .li ..
  | .lih .. | .clz .. | .popc .. | .exts .. | .extz .. | .ins .. | .ceilm .. | .divc .. => some .s0
  | .ld .. | .st .. | .ldg .. | .stg .. | .amoaddDm .. | .amoaddGlobal .. | .amominDm .. | .amominGlobal ..
  | .amomaxDm .. | .amomaxGlobal .. | .amominnDm .. | .amominnGlobal .. | .amomaxnDm .. | .amomaxnGlobal ..
  | .amoandDm .. | .amoandGlobal .. | .amoorDm .. | .amoorGlobal .. | .amoxorDm .. | .amoxorGlobal .. | .amoswapDm ..
  | .amoswapGlobal .. | .amocasDm .. | .amocasGlobal .. => some .ls
  | .gset .. | .gsetf .. | .gget .. | .gadv .. | .grst .. | .gmask .. | .gcopy .. => some .ag
  | .vadd .. | .vsub .. | .vmul .. | .vfma .. | .vfms .. | .vfnma .. | .vmin .. | .vmax .. | .vabs .. | .vneg ..
  | .vand .. | .vor .. | .vxor .. | .vnot .. | .vshl .. | .vshr .. | .vsar .. | .vmulh .. | .vclamp .. | .vscale ..
  | .vcmpeq .. | .vcmpne .. | .vcmplt .. | .vcmple .. | .vclass .. | .vsel .. | .vmov .. | .vbcast .. | .vins ..
  | .vext .. | .viota .. | .vcvt .. | .vrcp .. | .vrsq .. | .vsqrt .. | .vexp2 .. | .vlog2 .. | .vtanh .. | .vsin ..
  | .vred .. | .vscan .. | .vperm .. | .vrot .. | .vzip .. | .vunzip .. | .vtopk .. | .vhacc .. | .vnest .. => some .v0
  | .vunpk .. | .vunpks .. | .vunpkz .. => some .vx
  | .vpack .. | .vpacksc .. | .vpackz .. | .pand .. | .por .. | .pxor .. | .pnot .. | .psetHalf .. | .psetL16 ..
  | .psetL32 .. | .pget .. | .pcnt .. => some .vp
  | .vld .. | .vst .. | .vldb .. | .vlds .. | .vsts .. | .vldx .. | .vstx .. => some .vm
  | .mma .. | .mmaz .. | .mmag .. | .mmas .. | .tdrain .. | .tload .. | .tclr .. | .tmask .. | .precset .. | .tstat .. => some .mx
  | .copy .. | .copym .. | .gather .. | .scatter .. | .xsend .. | .xrecv .. | .fput .. | .fget .. | .fatom ..
  | .dput .. | .dget .. | .wstart .. | .wstop .. | .qsend .. | .qrecv .. | .launch .. | .signal .. | .fill .. => some .ec
  | _ => none

/-- A walker syllable? (R160) -/
def isWalker (i : Instr) : Bool := encode i != [] && (slotOf i).isNone

/-! ### One row of the opcode table

A word of the table carries no slot, and one word can be an operation in several slots or a walker syllable. Of those
it can be, the operation with most fixed bits is taken, then the first in MASK order, walker syllables last (log 20). -/

/-- How many bits of the single syllable of a row are fixed. -/
def fixedBits : Instr → Nat
  | .wld .. | .wldp .. | .waddi .. => 6
  | .b .. | .beq .. | .bne .. | .blt .. | .bge .. | .bltn .. | .bgen .. | .bmz .. | .call .. | .sloop .. | .addi ..
  | .andi .. | .ori .. | .xori .. | .slti .. | .li .. | .lih .. | .gsetf .. | .gget .. => 7
  | .sel .. | .exts .. | .extz .. | .ins .. | .amoaddGlobal .. | .amominGlobal .. | .amomaxGlobal ..
  | .amominnGlobal .. | .amomaxnGlobal .. | .amoandGlobal .. | .amoorGlobal .. | .amoxorGlobal .. | .amoswapGlobal ..
  | .amocasGlobal .. | .vadd .. | .vsub .. | .vmul .. | .vfma .. | .vfms .. | .vfnma .. | .vmin .. | .vmax ..
  | .vand .. | .vor .. | .vxor .. | .vshl .. | .vshr .. | .vsar .. | .vmulh .. | .vscale .. | .vcmpeq .. | .vcmpne ..
  | .vcmplt .. | .vcmple .. | .vclass .. | .vsel .. | .vbcast .. | .vins .. | .vext .. | .viota .. | .vperm ..
  | .vrot .. | .vzip .. | .vunzip .. | .precset .. => 8
  | .vscan .. | .wli .. | .wbeq .. | .wbne .. | .wblt .. | .wloop .. => 10
  | .loop .. | .ld .. | .ldg .. | .amoaddDm .. | .amominDm .. | .amomaxDm .. | .amominnDm .. | .amomaxnDm ..
  | .amoandDm .. | .amoorDm .. | .amoxorDm .. | .amoswapDm .. | .amocasDm .. | .vred .. => 11
  | .st .. | .stg .. => 12
  | .bz .. | .bnz .. | .bany .. | .bnone .. | .getc .. | .setc .. | .trap .. => 13
  | .ctxsave .. | .ctxload .. | .segload .. | .add .. | .sub .. | .mul .. | .mulh .. | .mulhn .. | .madd .. | .div ..
  | .divn .. | .rem .. | .remn .. | .and .. | .or .. | .xor .. | .shl .. | .shr .. | .sar .. | .shli .. | .shri ..
  | .sari .. | .slt .. | .sltn .. | .seq .. | .min .. | .max .. | .minn .. | .maxn .. | .ceilm .. | .divc ..
  | .gset .. | .gmask .. | .vabs .. | .vneg .. | .vnot .. | .vmov .. | .vrcp .. | .vrsq .. | .vsqrt .. | .vexp2 ..
  | .vlog2 .. | .vtanh .. | .vsin .. | .pand .. | .por .. | .pxor .. | .wj .. | .wgetc .. | .wsetc .. => 14
  | .wtile .. => 16
  | .ipf .. | .tlbinv .. | .tmask .. | .wshli .. | .wshri .. => 18
  | .ipin .. | .iunpin .. | .setallow .. | .setallowMode .. | .psetHalf .. | .pget .. | .pcnt .. => 19
  | .calli .. | .bsel .. | .idle .. | .barinit .. | .barwait .. | .pcommit .. | .gfreeze .. | .gthaw .. | .msgsend ..
  | .clz .. | .popc .. | .gadv .. | .gcopy .. | .pnot .. | .psetL16 .. | .psetL32 .. | .wadd .. | .wsub .. | .wand ..
  | .wgath .. => 20
  | .tstat .. => 23
  | .wemit .. => 24
  | .jmpi .. | .mpush .. | .waitq .. | .bararr .. | .grst .. => 26
  | .fence .. => 29
  | .tclr .. | .wemitz .. => 30
  | .minv .. | .mpop .. | .endTask .. | .yield .. | .waite .. | .csync .. | .pbar .. | .rte .. | .halt .. | .wflush ..
  | .weos .. | .whalt .. => 32
  | _ => 0

/-- The instruction a word list is in one slot, if its length there is `n`. -/
def candidateIn (ws : List Nat) (n : Nat) (slot : Slot) : Option Instr :=
  if opLength slot (fOp (ws.getD 0 0)) = some n then (decodeOp slot (ws.take n)).toOption else none

/-- The slots a word is tried in: S1 and V1 decode as S0 and V0. -/
def tableSlots : List Slot := [.br, .s0, .ls, .ag, .v0, .vx, .vp, .vm, .mx, .ec]

/-- The candidate with most fixed bits; of equals the earlier. -/
def mostFixed : List Instr → Option Instr
  | [] => none
  | i :: r => match mostFixed r with
    | none => some i
    | some j => if fixedBits i < fixedBits j then some j else some i

/-- The candidates of a word list that are `n` syllables long. -/
def candidates (ws : List Nat) (n : Nat) : List Instr :=
  tableSlots.filterMap (candidateIn ws n) ++ (if n = 1 then (decodeWalker (ws.getD 0 0)).toList else [])

/-- The eight words of a row's bits, bit 0 the least significant of the first syllable; above the row's bits they are 0. -/
def tableWords (nbits w : Nat) : List Nat :=
  (List.range 8).map (fun i => if 32 * i < nbits then w / 2 ^ (32 * i) % 2 ^ 32 else 0)

/-- The instruction read from a row's bits; an operation longer than the row has zeros above. -/
def decodeTableWord (nbits w : Nat) : Option Instr :=
  let ws := tableWords nbits w
  let n := (nbits + 31) / 32
  (mostFixed (candidates ws n)).or (mostFixed ((List.range 8).flatMap (fun i => if n < i + 1 then candidates ws (i + 1) else [])))

/-! ### Bundles (R144–R146, R161) -/

/-- An operation of a bundle: its slot, the index of its base syllable, and the stage that guards it (R146). -/
structure BundleOp where
  slot  : Slot
  index : Nat
  instr : Instr
  stage : Option (Fin 8)
deriving DecidableEq, Repr

/-- A decoded bundle: declared weight, syllables after the header, and operations in MASK order. -/
structure Bundle where
  weight : Nat
  count  : Nat
  ops    : List BundleOp
deriving DecidableEq, Repr

/-- What is wrong with a bundle: word index, slot code, REASON (R162). -/
abbrev Illegal := Nat × Nat × Nat

/-- The slots in MASK order (R144). -/
def allSlots : List Slot := [.br, .s0, .s1, .ls, .ag, .v0, .v1, .vx, .vp, .vm, .mx, .ec]

/-- N of a header. -/
def headerCount (h : Nat) : Nat := fieldOf h 16 4

/-- The slots a header names. -/
def presentSlots (h : Nat) : List Slot := allSlots.filter (fun s => h.testBit (20 + s.code))

/-- Operations besides BR: k of R146. -/
def guardedCount (h : Nat) : Nat := ((presentSlots h).filter (fun s => s != .br)).length

/-- Guard syllables of a bundle (R146). -/
def guardSyllables (h : Nat) : Nat := if h.testBit 7 then (guardedCount h + 7) / 8 else 0

/-- Step 1 of R161: REASON 1 or 3 of a header at code address `addr`. -/
def headerFault (h addr : Nat) : Option Illegal :=
  if fieldOf h 0 7 ≠ 0 ∨ (fieldOf h 20 12 = 0 ∧ (headerCount h ≠ 0 ∨ h.testBit 7)) then some (0, 0, 1)
  else if 64 < addr % 64 + 4 * (headerCount h + 1) then some (0, 0, 3)
  else none

/-- Walk the operations: base syllable and length of each, from word `pos` (R161 step 2). REASON 2 is reported with the header
and SLOT 0 also where an operation's base syllable lies beyond N: the spec does not list the header reasons (DESIGN CHOICE,
log 93). -/
def locateOps (ws : List Nat) (n : Nat) : List Slot → Nat → Except Illegal (List (Slot × Nat × Nat))
  | [], pos => if pos = n + 1 then .ok [] else .error (0, 0, 2)
  | s :: r, pos =>
    if n < pos then .error (0, 0, 2)
    else match opLength s (fOp (ws.getD pos 0)) with
      | none => .error (pos, s.code, 4)
      | some l => match locateOps ws n r (pos + l) with
        | .ok x => .ok ((s, pos, l) :: x)
        | .error e => .error e

/-- Entry i of the guard syllables (R146). -/
def guardEntry (ws : List Nat) (i : Nat) : Nat := fieldOf (ws.getD (1 + i / 8) 0) (4 * (i % 8)) 4

/-- The first guard entry that is not as R146 has it; REASON 7 is reported with SLOT 0 (DESIGN CHOICE, log 93). -/
def guardFault (h : Nat) (ws : List Nat) : Option Illegal :=
  if !h.testBit 7 then none
  else if guardedCount h = 0 then some (0, 0, 7)
  else (List.range (8 * guardSyllables h)).findSome? (fun i =>
    let e := guardEntry ws i
    if (guardedCount h ≤ i ∧ e ≠ 0) ∨ (e < 8 ∧ e ≠ 0) then some (1 + i / 8, 0, 7) else none)

/-- The stage that guards the i-th operation besides BR. -/
def guardStage (h : Nat) (ws : List Nat) (i : Nat) : Option (Fin 8) :=
  if h.testBit 7 && (guardEntry ws i).testBit 3 then some (Fin.ofNat 8 (guardEntry ws i)) else none

/-- Operations that supervisor mode refuses as illegal encodings (R174, R177). -/
def isUserOnly : Instr → Bool
  | .endTask | .yield | .csync => true
  | _ => false

/-- Step 3 of R161 on the located operations; `i` counts those besides BR. RTE stands alone in its bundle (R192). The REASON 5
of END, YIELD and CSYNC in supervisor mode (`sup`) counts among the conditions of step 3 of the BR operation: R161 does not
list it (DESIGN CHOICE, log 93). -/
def decodeOps (h : Nat) (ws : List Nat) (alone sup : Bool) : List (Slot × Nat × Nat) → Nat → Except Illegal (List BundleOp)
  | [], _ => .ok []
  | (s, pos, l) :: r, i =>
    match decodeOp s ((ws.drop pos).take l) with
    | .error (o, reason) => .error (pos + o, s.code, reason)
    | .ok ins =>
      if ins = .rte ∧ !alone ∨ isUserOnly ins ∧ sup then .error (pos, s.code, 5)
      else match decodeOps h ws alone sup r (if s = .br then i else i + 1) with
        | .error e => .error e
        | .ok x => .ok (⟨s, pos, ins, if s = .br then none else guardStage h ws i⟩ :: x)

/-- Decode the bundle whose words are `ws`, header first, at code address `addr`, in supervisor mode or not (R161 steps 1 to 3). -/
def decodeBundle (ws : List Nat) (addr : Nat) (sup : Bool) : Except Illegal Bundle :=
  let h := ws.getD 0 0
  match headerFault h addr with
  | some e => .error e
  | none => match locateOps ws (headerCount h) (presentSlots h) (1 + guardSyllables h) with
    | .error e => .error e
    | .ok l => match guardFault h ws with
      | some e => .error e
      | none => match decodeOps h ws (l.length == 1) sup l 0 with
        | .error e => .error e
        | .ok ops => .ok ⟨fieldOf h 8 8, headerCount h, ops⟩

/-- The header of an unguarded bundle of the given slots (R144). -/
def encodeHeader (slots : List Slot) (n weight : Nat) : Nat :=
  (slots.map (fun s => 2 ^ (20 + s.code))).sum + n * 0x1_0000 + weight * 0x100

end Sys2Proof
end

