-- ==== Sys2Proof/Machine/Pack.lean ====
section
/-! DEFINITION. The VX and VP slots: unpack, pack, predicate logic and transfers (R231–R240). -/

namespace Sys2Proof.Machine

/-- Stream element k of a packed register (R231). -/
def streamElement (m : Memory) (f : Fmt) (k : Nat) : Nat := elementAt m f.bits k

/-- Group of element k: 32 elements of an MX block, or GRP (R232). -/
def groupOfElement (f : Fmt) (grp : Fin 3) (k : Nat) : Nat := if f.packFloat then k / 32 else k / groupSize grp

/-- Parameter lane g of VB: a scalar fills every 32-bit lane (R149, R232). -/
def paramLane (c : Ctx) (b : VSrc) (g : Nat) : Nat := laneOf (readSrc c .n32 b) 32 g

/-- An unpack: lane i of vD from stream element PART·N + i, at +2 (R234). -/
def unpackOp (d a : VReg) (p : PReg) (t : Ty) (x : PackArgs) (f : Ctx → Nat → Nat → Nat × Flags) (s : State) :
    Host.Outcome State Fault Refusal :=
  finish s (withSlot s (fun s =>
    let c := here s
    let m := memOfVec (c.readV a)
    let r := lanesWrite d t (activity c p) (fun i =>
      let k := x.part.val * t.lanes + i
      f c (streamElement m x.fmt k) k)
    resultF s 2 r.1 r.2 none))

/-- VUNPK: exact (R234). -/
def execVunpk (d a : VReg) (p : PReg) (t : Ty) (x : PackArgs) (s : State) : Host.Outcome State Fault Refusal :=
  unpackOp d a p t x (fun _ e _ => convertTy (decodeAny e x.fmt) t 0 .ieee) s

/-- value(x) · s of VUNPKS (R234). Under an E8M0 scale of 0xFF no element raises a flag, a signalling NaN of E5M2 neither (DESIGN CHOICE,
log 143). -/
def scaledElement (f : Fmt) (e par : Nat) (t : Ty) (rm : Nat) (ov : Ovf) : Nat × Flags :=
  if f.packFloat && par % 256 == 255 then (canonNaN t.fmt, 0)
  else
    let sc := if f.packFloat then decodeScale par else decodeFloat (par % 2 ^ 16) .f16
    let y := mulExact (decodeAny e f) sc
    let r := convertTy y.1 t rm ov
    (r.1, y.2 ||| r.2)

/-- VUNPKS (R234). -/
def execVunpks (d a : VReg) (b : VSrc) (p : PReg) (t : Ty) (x : PackArgs) (s : State) :
    Host.Outcome State Fault Refusal :=
  unpackOp d a p t x (fun c e k =>
    scaledElement x.fmt e (paramLane c b (groupOfElement x.fmt x.grp k)) t (rmOf c x.rm) x.ov) s

/-- (x − z) · c of VUNPKZ (R234). -/
def zeroElement (f : Fmt) (e par : Nat) (t : Ty) (rm : Nat) (ov : Ovf) : Nat × Flags :=
  let z := fieldOf par 16 f.bits
  let y := mulExact (.ofInt ((e : Int) - z)) (decodeFloat (par % 2 ^ 16) .f16)
  let r := convertTy y.1 t rm ov
  (r.1, y.2 ||| r.2)

/-- VUNPKZ (R234). -/
def execVunpkz (d a : VReg) (b : VSrc) (p : PReg) (t : Ty) (x : PackArgs) (s : State) :
    Host.Outcome State Fault Refusal :=
  unpackOp d a p t x (fun c e k =>
    zeroElement x.fmt e (paramLane c b (groupOfElement x.fmt x.grp k)) t (rmOf c x.rm) x.ov) s

/-! ### Packs (R235–R238) -/

/-- The elements a pack writes: (k, value), merged into vD as read at issue (R235). -/
def mergeElements (old : VWord) (f : Fmt) (es : List (Nat × Nat)) : VWord :=
  vecOfMem (es.foldl (fun m e => setElement m f.bits e.1 e.2) (memOfVec old))

/-- Active lanes of a source, in order. -/
def actives (t : Ty) (act : PWord) : List Nat := (List.range t.lanes).filter (fun i => laneBit act t i)

/-- Write a whole register at +3. -/
def packResult (s : State) (d : VReg) (x : VWord) (fl : Flags) : Issue :=
  resultF s 3 (.v d (BitVec.allOnes 2048) x) fl none

/-- VPACK (R236). -/
def execVpack (d a : VReg) (p : PReg) (t : Ty) (x : PackArgs) (s : State) : Host.Outcome State Fault Refusal :=
  finish s (withSlot s (fun s =>
    let c := here s
    let r (i : Nat) : Nat × Flags := convert (laneValue t (regLane c t a i)) x.fmt (rmOf c x.rm) x.ov
    let ls := actives t (activity c p)
    packResult s d (mergeElements (c.readV d) x.fmt (ls.map (fun i => (x.part.val * t.lanes + i, (r i).1))))
      (ls.foldl (fun fl i => fl ||| (r i).2) 0)))

/-- emax of a packed floating format (R237). -/
def packEmax : Fmt → Int
  | .e4m3 => 8 | .e5m2 => 15 | .e3m2 => 4 | _ => 2

/-- Is the value a NaN or an infinity? -/
def Num.isSpecial : Num → Bool
  | .fin .. => false
  | _ => true

/-- floor(log2 |x|) of a non-zero finite value. -/
def Num.log2? : Num → Option Int
  | .fin _ m e => if m = 0 then none else some (e + Nat.log2 m)
  | _ => none

/-- The E8M0 scale of a block of finite values (R237). -/
def blockScale (f : Fmt) (xs : List Num) : Nat :=
  match xs.filterMap Num.log2? with
  | [] => 127
  | l :: ls => (satInt (ls.foldl max l - packEmax f + 127) 0 254).toNat

/-- x · 2^n of a finite value. -/
def Num.scale (x : Num) (n : Int) : Num :=
  match x with
  | .fin neg m e => .fin neg m (e + n)
  | y => y

/-- A block of VPACKSC: its parameter and its elements with their flags (R237). -/
def packBlock (f : Fmt) (rm : Nat) (ov : Ovf) (xs : List Num) : Nat × List (Nat × Flags) :=
  if xs.any Num.isSpecial then (0xFF, xs.map (fun x => (0, sigFlag x)))
  else
    let e := blockScale f xs
    (e, xs.map (fun x => convertFloat (x.scale (127 - (e : Int))) f rm ov))

/-- Exact order of finite values: the smaller. -/
def numMin (x y : Num) : Num := if numLess y x then y else x
def numMax (x y : Num) : Num := if numLess x y then y else x

/-- A non-negative integer mantissa and exponent of |x|, 0 for a non-finite value. -/
def Num.mant : Num → Nat × Int
  | .fin _ m e => (m, e)
  | _ => (0, 0)

/-- RoundInt(x / c) for finite x and positive finite c (R238). -/
def divideRound (x : Num) (c : Nat × Int) (rm : Nat) : Int :=
  match x with
  | .fin neg m e => roundRatio neg (m * 2 ^ (e - c.2).toNat) (c.1 * 2 ^ (c.2 - e).toNat) rm
  | _ => 0

/-- The FP16 scale of a VPACKZ group from its range (R238). -/
def groupScale (k : Nat) (lo hi : Num) : Nat :=
  let l := lo.mant
  let h := hi.mant
  let d := exactAdd false h.1 h.2 false l.1 l.2
  if d.1 = 0 then 0x3C00
  else
    let n := d.1.toNat * 2 ^ 80
    let q := 2 ^ k - 1
    let c := (roundFmt false (n / q) (d.2 - 80) (decide (n % q ≠ 0)) .f16 0 .sat).1
    if c = 0 then 1 else c

/-- A group of VPACKZ: its parameter and its elements (R238). lo is at most 0, so −lo = |lo|. -/
def packGroup (f : Fmt) (rm : Nat) (xs : List Num) : Nat × List (Nat × Flags) :=
  if xs.any Num.isSpecial then (0x7E00, xs.map (fun x => (0, sigFlag x)))
  else
    let lo := xs.foldl numMin (.fin false 0 0)
    let hi := xs.foldl numMax (.fin false 0 0)
    let c := groupScale f.bits lo hi
    let cv := (decodeFloat c .f16).mant
    let top : Int := 2 ^ f.bits - 1
    let z := satInt (divideRound lo.neg cv rm) 0 top
    (c + z.toNat * 2 ^ 16, xs.map (fun x => ((satInt (divideRound x cv rm + z) 0 top).toNat, 0)))

/-- A pack with parameters: vD merged, and the parameter lanes of the groups with an active lane in vD+1 (R235). -/
def packPair (d a : VReg) (p : PReg) (t : Ty) (x : PackArgs) (size : Nat)
    (f : Ctx → List Num → Nat × List (Nat × Flags)) (s : State) : Host.Outcome State Fault Refusal :=
  finish s (withSlot s (fun s =>
    let c := here s
    let ls := actives t (activity c p)
    let base := x.part.val * t.lanes
    let groups := ((List.range (t.lanes / size)).map (fun j =>
      (base / size + j, ls.filter (fun i => i / size == j)))).filter (fun g => g.2 != [])
    let res := groups.map (fun g => (g, f c (g.2.map (fun i => laneValue t (regLane c t a i)))))
    let es := res.flatMap (fun r => (r.1.2.zip r.2.2).map (fun u => (base + u.1, u.2.1)))
    let fl := res.foldl (fun acc r => r.2.2.foldl (fun acc u => acc ||| u.2) acc) 0
    let par := ofLanes 32 64 (fun g => ((res.find? (fun r => r.1.1 == g)).map (fun r => r.2.1)).getD
      (laneOf (c.readV (pairReg d)) 32 g))
    (packResult s d (mergeElements (c.readV d) x.fmt es) fl).andThen (fun s => packResult s (pairReg d) par 0)))

/-- VPACKSC (R237). -/
def execVpacksc (d a : VReg) (p : PReg) (t : Ty) (x : PackArgs) (s : State) : Host.Outcome State Fault Refusal :=
  packPair d a p t x 32 (fun c => packBlock x.fmt (rmOf c x.rm) x.ov) s

/-- VPACKZ (R238). -/
def execVpackz (d a : VReg) (p : PReg) (t : Ty) (x : PackArgs) (s : State) : Host.Outcome State Fault Refusal :=
  packPair d a p t x (groupSize x.grp) (fun c => packGroup x.fmt (rmOf c x.rm)) s

/-! ### Predicates (R239, R240) -/

/-- A predicate result at +1, whatever MT and the predicates hold (R239). -/
def predResult (d : PReg) (f : Ctx → PWord) (s : State) : Host.Outcome State Fault Refusal :=
  finish s (withSlot s (fun s => result s 1 (.p d (f (here s)))))

def execPand (d a b : PReg) (s : State) : Host.Outcome State Fault Refusal := predResult d (fun c => c.readP a &&& c.readP b) s
def execPor (d a b : PReg) (s : State) : Host.Outcome State Fault Refusal := predResult d (fun c => c.readP a ||| c.readP b) s
def execPxor (d a b : PReg) (s : State) : Host.Outcome State Fault Refusal := predResult d (fun c => c.readP a ^^^ c.readP b) s
def execPnot (d a : PReg) (s : State) : Host.Outcome State Fault Refusal := predResult d (fun c => ~~~ c.readP a) s

/-- PSET.H0 and PSET.H1: one half from sA, the other as read at issue (R240). -/
def execPsetHalf (d : PReg) (a : SReg) (h : Half) (s : State) : Host.Outcome State Fault Refusal :=
  predResult d (fun c =>
    let x : PWord := (c.readS a).setWidth 128
    let old := c.readP d
    match h with
    | .lo => (old &&& (BitVec.allOnes 128 <<< 64)) ||| x
    | .hi => ((old.setWidth 64).setWidth 128) ||| (x <<< 64)) s
def execPsetL16 (d : PReg) (a : SReg) (s : State) : Host.Outcome State Fault Refusal :=
  predResult d (fun c => BitVec.ofNat 128 (2 ^ min (c.readS a).toNat 128 - 1)) s
def execPsetL32 (d : PReg) (a : SReg) (s : State) : Host.Outcome State Fault Refusal :=
  predResult d (fun c => BitVec.ofNat 128 (2 ^ (2 * min (c.readS a).toNat 64) - 1)) s
def execPget (d : SReg) (a : PReg) (h : Half) (s : State) : Host.Outcome State Fault Refusal :=
  finish s (withSlot s (fun s =>
    result s 1 (.s d (((here s).readP a).extractLsb' (if h = .lo then 0 else 64) 64))))
/-- PCNT.L16 and PCNT.L32 (R240). -/
def execPcnt (d : SReg) (a : PReg) (w32 : Bool) (s : State) : Host.Outcome State Fault Refusal :=
  finish s (withSlot s (fun s =>
    result s 1 (.s d (BitVec.ofNat 64
      ((List.range 128).filter (fun i => (!w32 || i % 2 == 0) && ((here s).readP a).getLsbD i)).length))))

end Sys2Proof.Machine
end

