-- ==== Sys2Proof/Machine/VecMem.lean ====
section
/-! DEFINITION. The VM slot: vector loads and stores (R241–R243). -/

namespace Sys2Proof.Machine

/-- The bytes of a lane. -/
def laneBytes (t : Ty) : Nat := t.width / 8

/-- Base offset of a VM operation (R241). It and the offsets from it are taken modulo 2^64 (DESIGN CHOICE, log 146). -/
def vmBase (c : Ctx) (x : VmArgs) : W64 := c.readS x.sb + 32 * sext64 x.off

/-- Cells of the active lanes: (register byte, buffer offset). -/
def laneCells (t : Ty) (act : PWord) (off : Nat → Nat) : List (Nat × Nat) :=
  ((List.range t.lanes).filter (fun i => laneBit act t i)).flatMap (fun i =>
    (List.range (laneBytes t)).map (fun b => (i * laneBytes t + b, off i + b)))

/-- The agents that may read and write a buffer through VM (R71, R243). -/
def vmAllowed (b : Buf) (write : Bool) : Bool := if write then b == .ab || b == .cb else b != .dm

/-- The first pending line of an access. -/
def cellsPending (s : State) (b : Buf) (cells : List (Nat × Nat)) : Option Nat :=
  (cells.find? (fun c => pendingLine s s.cur b (c.2 / 256))).map (fun c => c.2 / 256)

/-- A VM access at issue: permission, alignment and bounds of the active lanes, pending lines; the access two cycles
later (R242, R243). -/
def vmAccess (s : State) (d : VReg) (b : Buf) (write aligned : Bool) (cells : List (Nat × Nat)) : Issue :=
  let c := here s
  let r : Issue := match cellsPending s b cells with
    | some l => .trap 0x08 (some (bufVal l (bufCode b) write 0 0))
    | none =>
      if write then .ok (fly s 2 (.vmWrite b (cells.map (fun x => (x.2, byteOf (c.readV d) x.1)))))
      else flyTo s (some (1, d.val)) 2 4 (.vmRead d b cells)
  r.unless (!vmAllowed b write || (cells != [] && !aligned) || !cells.all (fun x => inPartition c b x.2 1)) 0x16 none

/-- Plain accesses: 256 bytes at an address that is a multiple of 256 (R242). -/
def vmPlain (write : Bool) (d : VReg) (p : PReg) (t : Ty) (x : VmArgs) (s : State) : Host.Outcome State Fault Refusal :=
  finish s (withSlot s (fun s =>
    let c := here s
    let a := (vmBase c x).toNat
    vmAccess s d x.buf write (a % 256 == 0) (laneCells t (activity c p) (fun i => a + i * laneBytes t))))

def execVld (d : VReg) (p : PReg) (t : Ty) (x : VmArgs) (s : State) : Host.Outcome State Fault Refusal := vmPlain false d p t x s
def execVst (d : VReg) (p : PReg) (t : Ty) (x : VmArgs) (s : State) : Host.Outcome State Fault Refusal := vmPlain true d p t x s

/-- Strided accesses: chunk j at a + j·st, only chunks with an active lane (R242). -/
def vmStrided (write : Bool) (d : VReg) (st : Fin 32) (p : PReg) (t : Ty) (x : VmArgs) (s : State) :
    Host.Outcome State Fault Refusal :=
  finish s (withSlot s (fun s =>
    let c := here s
    let a := vmBase c x
    let stride := readLow c st
    let per := 32 / laneBytes t
    let off (i : Nat) : Nat := (a + BitVec.ofNat 64 (i / per) * stride).toNat + i % per * laneBytes t
    vmAccess s d x.buf write (a.toNat % 32 == 0 && stride.toNat % 32 == 0) (laneCells t (activity c p) off)))

def execVlds (d : VReg) (st : Fin 32) (p : PReg) (t : Ty) (x : VmArgs) (s : State) : Host.Outcome State Fault Refusal := vmStrided false d st p t x s
def execVsts (d : VReg) (st : Fin 32) (p : PReg) (t : Ty) (x : VmArgs) (s : State) : Host.Outcome State Fault Refusal := vmStrided true d st p t x s

/-- Indexed accesses: lane i at a + (w/8)·x_i (R242). -/
def vmIndexed (write : Bool) (d a : VReg) (p : PReg) (t : Ty) (x : VmArgs) (s : State) : Host.Outcome State Fault Refusal :=
  finish s (withSlot s (fun s =>
    let c := here s
    let base := vmBase c x
    let off (i : Nat) : Nat := (base + BitVec.ofNat 64 (laneBytes t * regLane c t a i)).toNat
    vmAccess s d x.buf write (base.toNat % laneBytes t == 0) (laneCells t (activity c p) off)))

def execVldx (d a : VReg) (p : PReg) (t : Ty) (x : VmArgs) (s : State) : Host.Outcome State Fault Refusal := vmIndexed false d a p t x s
def execVstx (d a : VReg) (p : PReg) (t : Ty) (x : VmArgs) (s : State) : Host.Outcome State Fault Refusal := vmIndexed true d a p t x s

/-- VLDB: one element into every active lane (R242). -/
def execVldb (d : VReg) (p : PReg) (t : Ty) (x : VmArgs) (s : State) : Host.Outcome State Fault Refusal :=
  finish s (withSlot s (fun s =>
    let c := here s
    let a := (vmBase c x).toNat
    vmAccess s d x.buf false (a % laneBytes t == 0) (laneCells t (activity c p) (fun _ => a))))

end Sys2Proof.Machine
end

