-- ==== Sys2Proof/Machine/Walker.lean ====
section
/-! DEFINITION. The Woad walker: one syllable of the walk of cluster `s.walker` (R284–R300). -/

namespace Sys2Proof.Machine

/-! ### The walk -/

/-- The walk of the acting cluster. -/
def walkOf (s : State) : Option Walk := (clusterOf s s.walker).walk

/-- Replace the walk of the acting cluster. -/
def setWalk (s : State) (w : Option Walk) : State := modCluster s s.walker (fun c => { c with walk := w })

/-- A walker register; w0 reads zero (R285). -/
def Walk.read (w : Walk) (r : WReg) : W64 := if r = 0 then 0 else w.w[r]

/-- Write a walker register; writes to w0 are discarded (R285). -/
def Walk.write (w : Walk) (r : WReg) (x : W64) : Walk := if r = 0 then w else { w with w := w.w.set r x }

/-- Go on with the next syllable. -/
def Walk.next (w : Walk) : Walk := { w with pc := w.pc + 4 }

/-- The task whose image the walk runs. -/
def walkTask (s : State) (w : Walk) : Option Task := (ctxOf s w.ctx).task

/-- The syllable at a byte offset of the image; none outside it (R284, R288). -/
def walkFetch (s : State) (w : Walk) (off : Nat) : Option Nat :=
  match walkTask s w with
  | none => none
  | some t => if off + 4 ≤ t.woadLen then some (memReadNat (clusterOf s s.walker).program (t.woad + off) 4) else none

/-- The addressee fields of a context in its cluster (R280). -/
def walkAddressee (w : Walk) : Nat := w.ctx % 16

/-- A walk that ends with an EOS token; its open tile is discarded (R297, R299). -/
def Walk.finish (w : Walk) (status reason : Nat) : Walk :=
  { w with
    tile := none
    waitTile := none
    pend := some (⟨true, w.ctx, eosPayload w status reason (w.pc / 4), some w.seq⟩, true) }

/-- Report a walker fault (R299, R338). -/
def postWalkFault (s : State) (w : Walk) (reason addr : Nat) : State :=
  postCtxFault s w.ctx reason 0x11 (BitVec.ofNat 64 addr) ((walkFetch s w w.pc).getD 0) w.pc

/-- A walk ends by a fault; Lemelo then ends its node with WALKER_FAULT, or, for reason 10, rolls it back (R299, R327). -/
def endFaulted (s : State) (w : Walk) (reason : Nat) : State :=
  let s := match walkTask s w with
    | some t => modNode s t.tenant t.node (fun n => if reason = 10 then { n with mustRoll := true } else { n with fate := 4 })
    | none => s
  setWalk s (some { w.finish 2 reason with late := none })

/-- A walker fault: reason 1 holds the walk at its syllable, every other ends it, once the fault buffer has room for its entry: until
then it leaves the walk held at its syllable (R299, R340). -/
def walkFault (s : State) (w : Walk) (reason addr : Nat) : State :=
  let t := postWalkFault s w reason addr
  if reason = 1 then setWalk t (some { w with held := some (addr / 65536), wpfc := w.wpfc + 1 })
  else if 4096 ≤ (dieOf s (dieIx w.ctx)).faults.length then setWalk t (some { w with late := some reason })
  else endFaulted t w reason

/-- The walk whose fault found the buffer full ends once its entry is posted (R340). -/
def releaseFaulted (s : State) (w : Walk) (reason : Nat) : State :=
  if (dieOf s (dieIx w.ctx)).held.any (fun e => fieldOf e.w0.toNat 0 8 == 0x11 && fieldOf e.w0.toNat 40 9 == coreIx w.ctx &&
      fieldOf e.w0.toNat 38 2 == w.ctx % 4 && fieldOf e.w0.toNat 8 8 == reason) then s
  else endFaulted s w reason

/-- Run one syllable; without a walk nothing happens. -/
def walkOp (s : State) (f : Walk → State) : Host.Outcome State Fault Refusal :=
  match walkOf s with
  | none => .next s
  | some w => .next (f w)

/-- A syllable that writes one register (R289). -/
def walkReg (d : WReg) (f : Walk → W64) (s : State) : Host.Outcome State Fault Refusal :=
  walkOp s (fun w => setWalk s (some (w.write d (f w)).next))

/-- The offset o + 4·disp of a taken branch, modulo 2^32, the width in which faults report offsets (R291, R299, R338). -/
def Walk.target {n : Nat} (w : Walk) (i : BitVec n) : Nat := (((w.pc : Int) + 4 * i.toInt) % 2 ^ 32).toNat

/-- The walk at the end of a syllable of this kind, for a branch (R291). -/
def walkBranch {n : Nat} (taken : Walk → Bool) (i : BitVec n) (s : State) : Host.Outcome State Fault Refusal :=
  walkOp s (fun w => setWalk s (some (if taken w then { w with pc := w.target i } else w.next)))

/-! ### Registers and branches (R289, R291) -/

def execWadd (d a b : WReg) (s : State) : Host.Outcome State Fault Refusal := walkReg d (fun w => w.read a + w.read b) s
def execWsub (d a b : WReg) (s : State) : Host.Outcome State Fault Refusal := walkReg d (fun w => w.read a - w.read b) s
def execWand (d a b : WReg) (s : State) : Host.Outcome State Fault Refusal := walkReg d (fun w => w.read a &&& w.read b) s
def execWaddi (d a : WReg) (i : BitVec 18) (s : State) : Host.Outcome State Fault Refusal := walkReg d (fun w => w.read a + sext64 i) s
def execWshli (d a : WReg) (k : Fin 64) (s : State) : Host.Outcome State Fault Refusal := walkReg d (fun w => w.read a <<< k.val) s
def execWshri (d a : WReg) (k : Fin 64) (s : State) : Host.Outcome State Fault Refusal := walkReg d (fun w => w.read a >>> k.val) s
def execWli (d : WReg) (i : BitVec 18) (s : State) : Host.Outcome State Fault Refusal := walkReg d (fun _ => sext64 i) s
def execWbeq (a b : WReg) (i : BitVec 14) (s : State) : Host.Outcome State Fault Refusal := walkBranch (fun w => w.read a == w.read b) i s
def execWbne (a b : WReg) (i : BitVec 14) (s : State) : Host.Outcome State Fault Refusal := walkBranch (fun w => w.read a != w.read b) i s
def execWblt (a b : WReg) (i : BitVec 14) (s : State) : Host.Outcome State Fault Refusal := walkBranch (fun w => (w.read a).slt (w.read b)) i s
def execWj (i : BitVec 18) (s : State) : Host.Outcome State Fault Refusal := walkBranch (fun _ => true) i s
/-- WLOOP: decrement, then branch while not 0 (R291). -/
def execWloop (d : WReg) (i : BitVec 18) (s : State) : Host.Outcome State Fault Refusal :=
  walkOp s (fun w =>
    let w' := w.write d (w.read d - 1)
    setWalk s (some (if w'.read d ≠ 0 then { w' with pc := w.target i } else w'.next)))

/-- A control register of the walker (R287). -/
def walkCR (w : Walk) (n : Nat) : W64 :=
  match n with
  | 0 => BitVec.ofNat 64 w.queue
  | 1 => BitVec.ofNat 64 (walkAddressee w)
  | 2 => w.wtok
  | 3 => w.wpfc
  | 4 => w.wpf
  | _ => BitVec.ofNat 64 w.pc

/-- WGETC (R287, R289). -/
def execWgetc (d : WReg) (n : BitVec 14) (s : State) : Host.Outcome State Fault Refusal :=
  walkOp s (fun w =>
    if 5 < n.toNat then walkFault s w 9 0 else setWalk s (some (w.write d (walkCR w n.toNat)).next))
/-- WSETC: WPF alone is writable (R287). -/
def execWsetc (a : WReg) (n : BitVec 14) (s : State) : Host.Outcome State Fault Refusal :=
  walkOp s (fun w =>
    if 5 < n.toNat then walkFault s w 9 0
    else
      let x := w.read a
      setWalk s (some (if n.toNat = 4 then { w with wpf := if 16 < x.toNat then 16 else x } else w).next))

/-! ### Reads of memory (R290) -/

/-- What a walker read of a range answers: its addresses' home, or a fault reason and address. -/
inductive WalkRead where
  | ok (bytes : Memory)
  | bad (reason addr : Nat)

/-- One byte of a walker read: a prefetched line may serve it as it stood when it was fetched (R290, log 3). -/
def walkByte (s : State) (w : Walk) (v paddr : Nat) : Byte :=
  let ids := nodeIds (ctxOf s w.ctx)
  match w.ebuf.find? (fun e => e.1 == v / 256) with
  | some e => if Config.freeBool s.fresh then memRead e.2 (v % 256) else physRead s ids.1 ids.2 paddr
  | none => physRead s ids.1 ids.2 paddr

/-- The first fault of a walker read of `n` bytes at `v` (R290, R299). -/
def walkReadFault (s : State) (w : Walk) (v n : Nat) (dur : Bool) : Option (Nat × Nat) :=
  (lines64 v n).findSome? (fun l =>
    let a := max v (l * 64)
    match translate s w.ctx a with
    | .noSegment => some (5, a)
    | .unmapped => some (1, a)
    | .hit p =>
      if !(p.kind == .plain || p.kind == .pg || (dur && p.kind == .dur)) then some (5, a)
      else if isMarked s p.paddr then some (10, a)
      else none)

/-- Read `n` bytes at `v` for a walk. -/
def walkRead (s : State) (w : Walk) (v n : Nat) (dur : Bool) : WalkRead :=
  match walkReadFault s w v n dur with
  | some (r, a) => .bad r a
  | none => .ok (memWriteList [] 0 ((List.range n).map (fun i =>
      match translate s w.ctx (v + i) with
      | .hit p => walkByte s w (v + i) p.paddr
      | _ => 0)))

/-- Lines that a read has taken from memory leave the entry buffer, so that a later read is never older; a read that the buffer
served leaves them there (R290). -/
def Walk.dropLine (w : Walk) (s : State) (v n : Nat) : Walk :=
  if Config.freeBool s.fresh then w
  else { w with ebuf := w.ebuf.filter (fun e => !decide (v / 256 ≤ e.1 ∧ e.1 ≤ (v + n - 1) / 256)) }

/-- Fetch a 256-byte line into the entry buffer of 16 lines; a failed translation drops it (R290). -/
def prefetchLine (s : State) (w : Walk) (l : Nat) : Walk :=
  match translate s w.ctx (l * 256) with
  | .hit p =>
    let ids := nodeIds (ctxOf s w.ctx)
    let line := memWriteList [] 0 (physReadList s ids.1 ids.2 p.paddr 256)
    { w with ebuf := ((l, line) :: w.ebuf.filter (fun e => e.1 != l)).take 16 }
  | _ => w

/-- WLD and WLDP (R290). -/
def walkLoad (prefetch : Bool) (d a : WReg) (i : BitVec 18) (s : State) : Host.Outcome State Fault Refusal :=
  walkOp s (fun w =>
    let v := (w.read a + sext64 i).toNat
    if v % 8 ≠ 0 then walkFault s w 4 v
    else match walkRead s w v 8 true with
      | .bad r x => walkFault s w r x
      | .ok m =>
        let w := (w.dropLine s v 8).write d (BitVec.ofNat 64 (memReadNat m 0 8))
        let w := if prefetch then (List.range w.wpf.toNat).foldl (fun w j => prefetchLine s w (v / 256 + 1 + j)) w else w
        nextFresh (setWalk s (some w.next)) 1)

def execWld (d a : WReg) (i : BitVec 18) (s : State) : Host.Outcome State Fault Refusal := walkLoad false d a i s
def execWldp (d a : WReg) (i : BitVec 18) (s : State) : Host.Outcome State Fault Refusal := walkLoad true d a i s

/-! ### Tiles and tokens (R292–R297) -/

/-- Width of the open tile's format. -/
def tileBits (t : OpenTile) : Nat := ((Fmt.ofCode t.fmt).map Fmt.bits).getD 8

/-- The formats a tile may have: those MMAS takes for A, 2 to 16 bits wide (R292). -/
def tileFmtOk (code : Nat) : Bool :=
  match Fmt.ofCode code with
  | some f => (minWidth f).isSome && decide (2 ≤ f.bits ∧ f.bits ≤ 16)
  | none => false

/-- Write AB bytes of the context of walk `w`; the lines are pending from now on (R298). -/
def walkWrite (s : State) (w : Walk) (off len : Nat) (m : Memory) : State :=
  let s := bufWrite s w.ctx .ab off len m []
  modCluster s s.walker (fun c => { c with
    walkLines := (linesOf off len).foldl (fun acc l =>
      if acc.contains (w.ctx, w.seq, l) then acc else (w.ctx, w.seq, l) :: acc) c.walkLines })

/-- Does a tile of `n` lines at `line` overlap lines whose token MMAS has not read? (R292) -/
def tileOverlaps (w : Walk) (line n : Nat) : Bool :=
  w.busy.any (fun b => decide (b.1 < line + n ∧ line < b.1 + b.2))

/-- WTILE: the checks of R292; the tile opens at once, or waits for earlier tokens (R292). -/
def execWtile (a b : WReg) (fmt : BitVec 5) (first : Bool) (t : TileIx) (s : State) :
    Host.Outcome State Fault Refusal :=
  walkOp s (fun w =>
    let line := (w.read a).toNat
    let open_ : OpenTile := ⟨line, fmt.toNat, first, t.val, (w.read b).setWidth 32, []⟩
    if w.tile.isSome then walkFault s w 7 0
    else if !tileFmtOk fmt.toNat then walkFault s w 8 0
    else
      let n := 16 * tileBits open_
      if !inPartition (ctxOf s w.ctx) .ab (line * 256) (n * 256) then walkFault s w 6 0
      else if tileOverlaps w line n then setWalk s (some { w with waitTile := some open_ })
      else setWalk s (some { w with tile := some open_ }.next))

/-- WEMIT: one 32 × 32 block (R293). -/
def execWemit (a b : WReg) (s : State) : Host.Outcome State Fault Refusal :=
  walkOp s (fun w =>
    let v := (w.read a).toNat
    let y := (w.read b).toNat
    match w.tile with
    | none => walkFault s w 7 0
    | some t =>
      if v % 64 ≠ 0 then walkFault s w 4 v
      else if 32 ≤ y then walkFault s w 8 0
      else
        let bits := tileBits t
        match walkRead s w v (128 * bits) true with
        | .bad r x => walkFault s w r x
        | .ok m =>
          let mb := y % 4
          let kb := y / 4
          let off := t.line * 256 + (kb * 128 + 32 * mb) * 4 * bits
          let runs := (List.range 32).map (fun i => kb * 128 + 32 * mb + i)
          nextFresh (walkWrite (setWalk s (some ({ w.dropLine s v (128 * bits) with tile := some { t with runs := t.runs ++ runs } }).next))
            w off (128 * bits) m) 1)

/-- WGATH: one sub-block run by an index list (R294). -/
def execWgath (d a b : WReg) (s : State) : Host.Outcome State Fault Refusal :=
  walkOp s (fun w =>
    let v := (w.read d).toNat
    let base := (w.read a).toNat
    let y := (w.read b).toNat
    match w.tile with
    | none => walkFault s w 7 0
    | some t =>
      if v % 4 ≠ 0 then walkFault s w 4 v
      else if 1024 ≤ y then walkFault s w 8 0
      else match walkRead s w v 128 true with
        | .bad r x => walkFault s w r x
        | .ok ixs =>
          let bits := tileBits t
          let els := (List.range 32).map (fun j => memReadNat ixs (4 * j) 4)
          let reads := els.map (fun e => walkRead s w (base + (elementSpan bits e).1) (elementSpan bits e).2 false)
          match reads.findSome? (fun r => match r with
            | .bad x y => some (x, y)
            | .ok _ => none) with
          | some (x, y) => walkFault s w x y
          | none =>
            -- element e of a run lies at place e mod 8 of its bytes (R49): re-read it there
            let values := (els.zip reads).map (fun p => match p.2 with
              | .ok m => elementAt m bits (if bits = 1 then p.1 % 8 else if bits = 2 then p.1 % 4 else if bits = 4 then p.1 % 2
                  else if bits = 6 then p.1 % 4 else 0)
              | .bad .. => 0)
            let run := (values.zipIdx).foldl (fun m p => setElement m bits p.2 p.1) ([] : Memory)
            let w := els.foldl (fun w e => w.dropLine s (base + (elementSpan bits e).1) (elementSpan bits e).2) (w.dropLine s v 128)
            nextFresh (walkWrite (setWalk s (some ({ w with tile := some { t with runs := t.runs ++ [y] } }).next))
              w (t.line * 256 + y * 4 * bits) (4 * bits) run) 1)

/-- The token of a tile (R296). -/
def tilePayload (t : OpenTile) : W64 :=
  BitVec.ofNat 64 ((if t.first then 2 ^ 62 else 0) + t.tile % 4 * 2 ^ 60 + t.line % 2 ^ 13 * 2 ^ 32 + t.kidx.toNat)

/-- Zero the runs of a tile that nothing covered (R295). -/
def zeroRuns (s : State) (w : Walk) (t : OpenTile) : State :=
  let bits := tileBits t
  let s := (List.range 1024).foldl (fun s r =>
    if t.runs.contains r then s else walkWrite s w (t.line * 256 + r * 4 * bits) (4 * bits) []) s
  s

/-- WFLUSH: the tile closes, and its token waits to enter the queue (R295). -/
def execWflush (s : State) : Host.Outcome State Fault Refusal :=
  walkOp s (fun w =>
    match w.tile with
    | none => walkFault s w 7 0
    | some t =>
      setWalk (zeroRuns s w t) (some { w with
        tile := none
        busy := w.busy ++ [(t.line, 16 * tileBits t)]
        pend := some (⟨false, w.ctx, tilePayload t, some w.seq⟩, false) }))

/-- WEMITZ: a zero-row token (R295). -/
def execWemitz (t : TileIx) (s : State) : Host.Outcome State Fault Refusal :=
  walkOp s (fun w => setWalk s (some { w with
    pend := some (⟨false, w.ctx, BitVec.ofNat 64 (2 ^ 63 + t.val * 2 ^ 60), some w.seq⟩, false) }))

/-- WEOS (R297). -/
def execWeos (s : State) : Host.Outcome State Fault Refusal :=
  walkOp s (fun w => if w.tile.isSome then walkFault s w 7 0 else setWalk s (some (w.finish 0 0)))

/-- The walk is over: its UNTIMED operation has performed (R286). -/
def endWalk (s : State) (w : Walk) : State := finishJob (setWalk s none) w.ctx w.seq none none

/-- WHALT: no token (R297). -/
def execWhalt (s : State) : Host.Outcome State Fault Refusal := walkOp s (endWalk s)

/-! ### Events of the walker -/

/-- Is a page mapped for a context now? -/
def pageMapped (s : State) (k page : Nat) : Bool := translate s k (page * 65536) != .unmapped

/-- Is a timed effect in flight an access of memory or buffers? -/
def isAccessAct : Act → Bool
  | .result .. | .occupy _ | .tmask .. | .tclr _ | .clampClear _ | .barInit .. => false
  | _ => true

/-- WALK_RESUME: a held walk goes on once its page is mapped (R299, R307). -/
def execWalkResume (clus : Nat) (s : State) : Host.Outcome State Fault Refusal :=
  let s := { s with walker := clus }
  walkOp s (fun w => match w.held with
    | some p => if pageMapped s w.ctx p then setWalk s (some { w with held := none }) else s
    | none => s)

/-- WTILE_OPEN: the lines a WTILE waited for have been read (R292). -/
def execWtileOpen (clus : Nat) (s : State) : Host.Outcome State Fault Refusal :=
  let s := { s with walker := clus }
  walkOp s (fun w =>
    match w.waitTile with
    | none => s
    | some t =>
      if tileOverlaps w t.line (16 * tileBits t) then s
      else setWalk s (some ({ w with tile := some t, waitTile := none }).next))

/-- WALKER_TOKEN_ENQUEUE: the token enters when the queue has room; an EOS ends the walk (R286, R295, R297). -/
def execWalkerTokenEnqueue (clus : Nat) (s : State) : Host.Outcome State Fault Refusal :=
  let s := { s with walker := clus }
  walkOp s (fun w =>
    match w.pend with
    | none => s
    | some (e, last) =>
      if queueFull s clus w.queue then s
      else
        let s := enqueue s clus w.queue e
        if last then endWalk s w
        else setWalk s (some ({ w with pend := none, wtok := w.wtok + 1 }).next))

/-- The stop of a walk at a syllable boundary: an instruction that waits is abandoned (R297). -/
def stopWalk (s : State) (w : Walk) : State := setWalk s (some { w.finish 1 0 with held := none, stop := false })

end Sys2Proof.Machine
end

