-- ==== Sys2Proof/Machine/Timed.lean ====
section
/-! DEFINITION. What a timed effect in flight does in its cycle (R29, R73, R78, R81, R99–R109, R230, R252–R260). Each
function takes the context key `k` and the flight `f`, which its caller has already taken out of the context. -/

namespace Sys2Proof.Machine

/-! ### Flights of a context -/

/-- Insert a flight behind those issued no later. -/
def insertFlight (f : Flight) : List Flight → List Flight
  | [] => [f]
  | g :: r => if g.seq ≤ f.seq then g :: insertFlight f r else f :: g :: r

/-- Go on with a flight: its next effect, at TTC `due`. -/
def again (s : State) (k : Nat) (f : Flight) (due : Nat) (act : Act) : State :=
  modCtx s k (fun c => { c with flights := insertFlight { f with due := due, act := act } c.flights })

/-- Go on with a flight only while `more` holds. -/
def againIf (more : Bool) (s : State) (k : Nat) (f : Flight) (due : Nat) (act : Act) : State :=
  if more then again s k f due act else s

/-- Post a cause whose TVAL the spec does not state (log 3). -/
def postFree (s : State) (k cause : Nat) : State := nextFresh (postCause s k cause (Config.freeWord s.fresh)) 1

/-! ### Reading and writing lines -/

/-- Is an access of a bank group refused in this cycle? (R73) -/
def isRefused (s : State) (k : Nat) (b : Buf) (off : Nat) (write : Bool) : Bool :=
  s.refused.contains (.bank (coreIx k) (bufCode b) (bankGroup off) write)

/-- Is a COPY line of DM refused? (R73) -/
def copyRefused (s : State) (k : Nat) (p : Place) (seq : Nat) (write : Bool) : Bool :=
  if p.buf = .dm then
    s.refused.contains (.bank (coreIx k) 3 1 false) || (write && s.refused.contains (.flight k seq))
  else isRefused s k p.buf p.off write

/-- Is the LS access of this cycle refused? (R73, R248) -/
def lsRefused (s : State) (k : Nat) : Bool := s.refused.contains (.bank (coreIx k) 3 0 false)

/-- The timed landings a command has still ahead in a buffer, as lines (R104). -/
def landingLines (s : State) (k : Nat) (b : Buf) (f : Flight) : List Nat :=
  let run (p : Place) (from_ n : Nat) : List Nat :=
    if p.buf = b then (List.range (n - from_)).map (fun i => p.off / 256 + from_ + i) else []
  match f.act with
  | .copySample r j => run r.place j r.lines
  | .copyLand r j _ _ => run r.place j (j + 1)
  | .mapGather r _ _ _ => run r.place 0 r.dest
  | .mapLand r d _ _ => run r.place d r.dest
  | .fill r _ j => run r.place j r.lines
  | .drain _ fm _ _ _ base rows line _ => run ⟨.cb, base⟩ line (drainLines fm rows)
  | .drainWrite _ off _ => run ⟨.cb, off⟩ 0 1
  | .recv _ p n st => run p ((ctxOf s k).ttc - st).toNat n
  | _ => []

/-- Is a landing on the line still ahead, fixed by a command issued before this cycle? (R29, R104) -/
def landingAhead (s : State) (k : Nat) (b : Buf) (line : Nat) : Bool :=
  (ctxOf s k).flights.any (fun f => decide (f.seq < (ctxOf s k).seqMark) && (landingLines s k b f).contains line)

/-- The outcome of a stream's read of one line. -/
structure LineRead where
  s : State
  data : Memory
  bad : List Nat
  refused : Bool
  missed : Bool

/-- A stream reads a line: pending and refused lines deliver free data (log 17), a landing still ahead raises missed
operand once per command (R30, R73, R99, R104). -/
def streamRead (s : State) (k agent : Nat) (b : Buf) (line : Nat) (refused missed : Bool) : LineRead :=
  let v := bufVal line (bufCode b) false agent agent
  if pendingLine s k b line then
    ⟨nextFresh (postCause s k 0x08 v) 256, freeSlice s.fresh 256, [], false, missed⟩
  else
    let late := landingAhead s k b line
    let t := if late && !missed then postCause s k 0x06 v else s
    if refused then ⟨nextFresh t 256, freeSlice s.fresh 256, [], true, missed || late⟩
    else ⟨t, bufPrior s k b (line * 256) 256, badBytes s k b (line * 256) 256, false, missed || late⟩

/-- A stream or engine writes `len` bytes of one line: a pending line is left unchanged (R30), a refused write too. -/
def streamWrite (s : State) (k agent : Nat) (b : Buf) (off len : Nat) (refused : Bool) (data : Memory) (bad : List Nat) :
    State :=
  if pendingLine s k b (off / 256) then postCause s k 0x08 (bufVal (off / 256) (bufCode b) true agent agent)
  else if refused then s
  else bufWrite s k b off len data bad

/-- Every byte of a line, for a line delivered uncorrectable (R353). -/
def allBad (bad : Bool) (len : Nat) : List Nat := if bad then List.range len else []

/-! ### Register results (R29, R54, R70, R182) -/

/-- SETC of a register that a system core or the core holds (R137, R339, R349). -/
def writeSharedCR (s : State) (k i : Nat) (x : W64) : State :=
  let sys := decide (Config.firstSystemCore ≤ coreIx k)
  let core := coreIx k
  match i with
  | 0x110 => modCore s core (fun c => { c with ecnt := c.ecnt.set 0 x })
  | 0x111 => modCore s core (fun c => { c with ecnt := c.ecnt.set 1 x })
  | 0x112 => modCore s core (fun c => { c with ecnt := c.ecnt.set 2 x })
  | 0x180 =>
    if sys && x.getLsbD 63 then modDie s (dieIx k) (fun d => if d.held = [] then { d with ovf := false } else d) else s
  | 0x190 => if sys then modCore s core (fun c => { c with ptsel := x.setWidth 4 }) else s
  | 0x191 =>
    if sys then modTenant s (coreOf s core).ptsel.toNat (fun t => { t with ptroot := x &&& 0x1FFF_FFFF_E001 }) else s
  | 0x192 => if sys then modCore s core (fun c => { c with pgreq := x &&& 0xFFFF_FFFF_FFFF_0000 }) else s
  | _ => s

/-- The order in which held events are posted again (R340). -/
def heldBefore (a b : FaultEntry) : Bool :=
  let key (e : FaultEntry) : Nat := e.w1.toNat * 2 ^ 11 + fieldOf e.w0.toNat 40 9 * 4 + fieldOf e.w0.toNat 38 2
  decide (key a < key b)

/-- Insert a held event in that order. -/
def insertHeld (e : FaultEntry) : List FaultEntry → List FaultEntry
  | [] => [e]
  | x :: r => if heldBefore e x then e :: x :: r else x :: insertHeld e r

/-- A run overrun that is posted late brings the pre-emption request that was left pending, if its task still runs there (R340). -/
def requestLate (s : State) (e : FaultEntry) : State :=
  let k := fieldOf e.w0.toNat 40 9 * 4 + fieldOf e.w0.toNat 38 2
  if fieldOf e.w0.toNat 0 8 = 0x20 ∧
      (ctxOf s k).task.any (fun t => t.tenant == fieldOf e.w0.toNat 60 4 && t.node == fieldOf e.w0.toNat 50 10) then postPre s k
  else s

/-- An entry has left a die's buffer: the first held event is posted, with HELD set (R340). -/
def postWaiting (s : State) (die : Nat) : State :=
  match (dieOf s die).held.foldl (fun acc e => insertHeld e acc) [] with
  | [] => s
  | e :: h => requestLate (modDie s die (fun d => { d with
      faults := d.faults ++ [{ e with w0 := e.w0 ||| (1 <<< 49) }]
      held := h
      scrubPaused := if fieldOf e.w0.toNat 0 8 = 0x25 then d.scrubPaused.filter (· != fieldOf e.w0.toNat 8 8) else d.scrubPaused })) e

/-- Retire the head entry of a die's buffer (R339, R340). -/
def popFault (s : State) (die : Nat) : State :=
  match (dieOf s die).faults with
  | [] => s
  | _ :: r => postWaiting (modDie s die (fun d => { d with faults := r })) die

/-- The lanes of a masked write with their results. -/
def writtenLanes (t : Ty) (mask x : VWord) : List (Nat × Nat) :=
  ((List.range t.lanes).filter (fun i => mask.getLsbD (t.width * i))).map (fun i => (i, laneOf x t.width i))

/-- The lowest of the lanes, each with its result, whose shadow diverges from it (R70). -/
def divergingLane (n : Nat) (f : Fmt) (l : List (Nat × Nat)) : Option Nat :=
  (l.find? (fun r => diverges f r.2 (shadowValue f (n + r.1) r.2))).map (fun r => r.1)

/-- The shadow check of the lanes `l` that a floating result wrote, lowest first: a divergence is counted, logged, and posted with slot
and lowest lane (R70, R382). -/
def shadowCheck (s : State) (k slot : Nat) (ty : Ty) (l : List (Nat × Nat)) : State :=
  let t := nextFresh s ty.lanes
  match divergingLane s.fresh ty.fmt l with
  | none => t
  | some i =>
    let t := postHealth { t with divLog := (now t :: t.divLog).take 256 } 6 (clusIx k) []
    postCause (modCore t (coreIx k) (fun c => { c with divergences := now t :: c.divergences })) k 0x10
      (BitVec.ofNat 64 (slot % 256 + 256 * i))

/-- Perform a register result with its flags and its shadow check. -/
def performResult (s : State) (k : Nat) (w : RegWrite) (fl : Flags) (shadow : Option (Nat × Ty)) : State :=
  let s := match w with
    | .cr i x =>
      if i = 0x181 then
        if Config.firstSystemCore ≤ coreIx k then popFault s (dieIx k) else s
      else writeSharedCR s k i x
    | _ => s
  let s := modCtx s k (fun c => (c.writeReg w).orFlags fl)
  match w, shadow with
  | .v _ mask x, some (slot, t) => shadowCheck s k slot t (writtenLanes t mask x)
  | _, _ => s

/-! ### DM accesses by LS, AG and the command port (R77, R78, R101) -/

/-- A load of `n` DM bytes: the value, free when refused or of failed parity (R73, R78). -/
def lsLoad (s : State) (k addr n : Nat) : State × Memory :=
  let bad := badBytes s k .dm addr n != []
  let t := if bad then postFree s k 0x0F else s
  if bad || lsRefused s k then (nextFresh t 64, freeSlice t.fresh n) else (t, bufPrior s k .dm addr n)

/-- The register result of a load, two cycles behind its read. Where parity fails the trap comes at the boundary behind the read, and
the register has been written by then (R78, R101; DEDUCED, log 116). -/
def loadResult (s : State) (k : Nat) (f : Flight) (bad : Bool) (w : RegWrite) : State :=
  if bad then modCtx s k (fun c => c.writeReg w) else again s k f (f.due + 2) (.result w 0 none)

/-- A DM load reads at +1 and writes its register at +3. -/
def performDmRead (s : State) (k : Nat) (f : Flight) (d : SReg) (addr n : Nat) (sx : Bool) : State :=
  let r := lsLoad s k addr n
  loadResult r.1 k f (badBytes s k .dm addr n != []) (.s d (extend sx n (memReadNat r.2 0 n)))

/-- A DM atomic reads now and writes in the same cycle; only the write is lost when it collides, and a parity failure
writes nothing (R101, R106, R210). -/
def performDmAtomic (s : State) (k : Nat) (f : Flight) (d : SReg) (op : AmoOp) (addr n : Nat) (sx : Bool) (v c : W64) : State :=
  let r := lsLoad s k addr n
  let old := memReadNat r.2 0 n
  let m := 2 ^ (8 * n)
  let bad := badBytes s k .dm addr n != []
  let t := loadResult r.1 k f bad (.s d (extend sx n old))
  if bad then t
  else match amoNew op n old (v.toNat % m) (c.toNat % m) with
  | none => t
  | some x => again t k { f with res := [] } f.due (.dmWrite addr (bytesOfNat n x))

def performDmWrite (s : State) (k : Nat) (f : Flight) (addr : Nat) (bytes : List Byte) : State :=
  if lsRefused s k || s.refused.contains (.flight k f.seq) then s
  else bufWrite s k .dm addr bytes.length (memWriteList [] 0 bytes) []

def performGRead (s : State) (k : Nat) (f : Flight) (d : GReg) (addr : Nat) : State :=
  let r := lsLoad s k addr 64
  loadResult r.1 k f (badBytes s k .dm addr 64 != []) (.g d (BitVec.allOnes 512) (BitVec.ofNat 512 (memReadNat r.2 0 64)))

/-- A command-port read after issue: data poison at the boundary where parity fails (R77). -/
def portRead (s : State) (k addr n : Nat) (go : List Byte → State) : State :=
  if badBytes s k .dm addr n != [] then postFree s k 0x0F else go (memReadList (bufPrior s k .dm addr n) 0 n)

/-! ### Vector memory (R78, R101, R243) -/

/-- The register bits that a vector load writes. -/
def cellMask (cells : List (Nat × Nat)) : VWord := cells.foldl (fun m c => m ||| (0xFF <<< (8 * c.1))) 0

/-- A vector load reads at +2 and writes its register at +4 (R78, R101). -/
def performVmRead (s : State) (k : Nat) (f : Flight) (d : VReg) (b : Buf) (cells : List (Nat × Nat)) : State :=
  let bad := cells.any (fun c => badBytes s k b c.2 1 != [])
  let lost := cells.any (fun c => isRefused s k b c.2 false)
  let s := if bad then postFree s k 0x0F else s
  let x : VWord :=
    if bad || lost then Config.freeVector s.fresh
    else vecOfMem (cells.foldl (fun m c => memWrite m c.1 (memRead (bufPrior s k b c.2 1) 0)) [])
  loadResult (nextFresh s 1) k f bad (.v d (cellMask cells) x)

def performVmWrite (s : State) (k : Nat) (b : Buf) (cells : List (Nat × Byte)) : State :=
  cells.foldl (fun t c => if isRefused s k b c.1 true then t else bufWrite t k b c.1 1 (memWrite [] 0 c.2) []) s

/-! ### The matrix array (R252–R254, R69) -/

/-- Marks a line that delivered free data: the k-group is poisoned whatever elements are present (R73). -/
def lostLine : Nat := 0x2_0000

/-- Read the lines of one cycle of one operand stream. -/
def readSide (s : State) (k agent : Nat) (m : Memory) (bad : List Nat) (missed : Bool) :
    List StreamLine → State × Memory × List Nat × Bool
  | [] => (s, m, bad, missed)
  | x :: r =>
    let line := x.line.toNat
    let at_ := partBase x.part + 256 * x.ix
    let g := streamRead s k agent x.buf line (isRefused s k x.buf (line * 256) false) missed
    readSide g.s k agent (memPlace m at_ 256 g.data)
      (bad ++ g.bad.map (· + at_) ++ (if g.refused then [lostLine] else [])) g.missed r

/-- The operands of a run. -/
def runSides (r : MmaRun) : Side × Side :=
  let p := precOf r.prec
  (sideA p r.ga r.padm, sideB p r.gb r.padm)

def performMmaRead (s : State) (k : Nat) (f : Flight) (r : MmaRun) (j kk : Nat) (ma mb : Memory) (ba bb : List Nat) : State :=
  let d := runSides r
  let P := precCycles (precOf r.prec)
  let na := gField r.ga 17 + j
  let nb := gField r.gb 17 + j
  let a := readSide s k 1 ma ba r.missed (streamLines d.1 (descTile d.1 na) na P kk)
  let b := readSide a.1 k 2 mb bb a.2.2.2 (streamLines d.2 (descTile d.2 nb) nb P kk)
  let r' := { r with missed := b.2.2.2 }
  if kk + 1 < P then again b.1 k f (f.due + 1) (.mmaRead r' j (kk + 1) a.2.1 b.2.1 a.2.2.1 b.2.2.1)
  else
    againIf (decide (j + 1 < r.nk))
      (again b.1 k f (r.start + 12 + (j + 1) * P).toNat (.mmaUpdate r' j a.2.1 b.2.1 a.2.2.1 b.2.2.1))
      k f (f.due + 1) (.mmaRead r' (j + 1) 0 [] [] [] [])

/-- The elements (row or column, k) that a byte of a collected operand bears on. -/
def byteElements (d : Side) (i : Nat) : List (Nat × Nat) :=
  if i < partBase .scale then
    let bits := d.fmt.bits
    let js := if bits = 6 then (List.range 4).map (fun q => 4 * (i / 3) + q)
      else if bits < 8 then (List.range (8 / bits)).map (fun q => i * 8 / bits + q) else [i / (bits / 8)]
    js.map (fun j => (j / 32 % 128, j / 4096 * 32 + j % 32))
  else
    let ix := if i < partBase .zero then (if d.fmt.isFloat then i - partBase .scale else (i - partBase .scale) / 2)
      else i - partBase .zero
    [(ix % 128, ix / 128 * sideGroup d)]

/-- Does failed parity reach an element that takes part? (R69, R246) -/
def isPoisoned (d : Side) (final : Bool) (bad : List Nat) : Bool :=
  bad.any (fun i => i == lostLine || (byteElements d i).any (fun e => isPresent d final e.1 e.2))

/-- Did rounding clamp a magnitude of one of the first `n` rows or columns? (R62) -/
def sideClamps (d : Side) (m : Memory) (final : Bool) (n : Nat) : Bool :=
  (List.range n).any (fun r => (List.range 8).any (fun b => (planeForm d m final r b).clamp))

/-- Is a tile element refused to this write? (R106) -/
def tileRefused (s : State) (k seq r c : Nat) : Bool :=
  s.refused.any (fun x => match x with
    | .tile k' q r0 r1 c0 c1 => k' == k && q == seq && decide (r0 ≤ r ∧ r < r1 ∧ c0 ≤ c ∧ c < c1)
    | _ => false)

/-- The update of one k-group: every element of the window in one cycle; poison makes them free (R69, R254). -/
def groupUpdate (s : State) (k seq : Nat) (tile : TileIx) (p : Prec) (d : Side × Side) (rows cols : Nat) (final zero : Bool)
    (ma mb : Memory) (ba bb : List Nat) : State :=
  let bad := isPoisoned d.1 final ba || isPoisoned d.2 final bb
  let t := tileOf s (coreIx k) tile
  let ps := (rect 0 rows 0 cols).filter (fun e => !tileRefused s k seq e.1 e.2)
  let next (r c : Nat) : Nat × Bool := accumulate p d.1 d.2 ma mb final r c (if zero then 0 else tileGet t r c)
  let value (r c : Nat) : Nat := if bad then (Config.freeElement (s.fresh + 128 * r + c)).toNat else (next r c).1
  let clamp := sideClamps d.1 ma final rows || sideClamps d.2 mb final cols || ps.any (fun e => (next e.1 e.2).2)
  nextFresh (modTile s (coreIx k) tile (fun _ =>
    let u := tileFill t ps (fun _ _ => false) value
    { u with poison := t.poison || bad, clamp := t.clamp || clamp })) 16384

def performMmaUpdate (s : State) (k : Nat) (f : Flight) (r : MmaRun) (j : Nat) (ma mb : Memory) (ba bb : List Nat) : State :=
  groupUpdate s k f.seq r.tile (precOf r.prec) (runSides r) r.rows r.cols (j + 1 == r.nk) (r.zero && j == 0) ma mb ba bb

/-! ### TDRAIN and TLOAD (R259, R260) -/

/-- Elements on one line of a drain or load. -/
def elementsPerLine (f : Fmt) : Nat := 2048 / f.bits

/-- The tile rows of line L. -/
def lineRows (f : Fmt) (line : Nat) : List Nat :=
  let e := elementsPerLine f
  (List.range ((line * e + e - 1) / 128 - line * e / 128 + 1)).map (fun i => line * e / 128 + i)

/-- Will a flight still write tile element (row, col)? (R104) -/
def updatesElement (tile : TileIx) (row col : Nat) : Act → Bool
  | .mmaRead r .. => r.tile == tile && decide (row < r.rows ∧ col < r.cols)
  | .mmaUpdate r .. => r.tile == tile && decide (row < r.rows ∧ col < r.cols)
  | .tloadRead t fm _ rows line _ => t == tile && decide (line * elementsPerLine fm ≤ row * 128 + col ∧ row < rows)
  | .tloadWrite t fm _ line _ _ => t == tile && (row * 128 + col) / elementsPerLine fm == line
  | _ => false

/-- The first row of a line of elements with an update ahead, from a command issued earlier (R104). -/
def updateAhead (s : State) (k : Nat) (tile : TileIx) (fm : Fmt) (line : Nat) : Option Nat :=
  let n := elementsPerLine fm
  let c := ctxOf s k
  let ahead := c.flights.filter (fun f => decide (f.seq < c.seqMark))
  ((List.range n).find? (fun i => ahead.any (fun f =>
    updatesElement tile ((line * n + i) / 128) ((line * n + i) % 128) f.act))).map (fun i => (line * n + i) / 128)

/-- A tile element as TDRAIN converts it (R259, R55). -/
def drainElement (isInt : Bool) (fm : Fmt) (rm : Nat) (ov : Ovf) (x : Nat) : Nat × Flags :=
  if isInt then convert (.ofInt (intValue x .i32)) fm rm ov
  else match fm with
    | .f32 => (if (decodeFloat x .f32).isNaN then canonNaN .f32 else x, 0)
    | _ => convertFloat (decodeFloat x .f32) fm rm ov

def performDrain (s : State) (k : Nat) (f : Flight) (tile : TileIx) (fm : Fmt) (rm : Nat) (ov : Ovf) (isInt : Bool)
    (base rows line : Nat) (missed : Bool) : State :=
  let late := updateAhead s k tile fm line
  let s := match late with
    | some r => if missed then s else postCause s k 0x06 (bufVal (tile.val * 128 + r) 4 false 6 6)
    | none => s
  let t := tilePrior s (coreIx k) tile
  let n := elementsPerLine fm
  let els := (List.range n).map (fun i =>
    drainElement isInt fm rm ov (tileGet t ((line * n + i) / 128) ((line * n + i) % 128)))
  let data := (els.zipIdx).foldl (fun m e => setElement m fm.bits e.2 e.1.1) []
  let s := if els.any (fun e => e.2 &&& flagOF != 0) then
      modTile s (coreIx k) tile (fun t => { t with clamp := true }) else s
  againIf (decide (line + 1 < drainLines fm rows))
    (again s k f f.due (.drainWrite tile (base + 256 * line) data))
    k f (f.due + 1) (.drain tile fm rm ov isInt base rows (line + 1) (missed || late.isSome))

def performDrainWrite (s : State) (k off : Nat) (data : Memory) : State :=
  streamWrite s k 6 .cb off 256 (isRefused s k .cb off true) data []

def performTloadRead (s : State) (k : Nat) (f : Flight) (tile : TileIx) (fm : Fmt) (base rows line : Nat)
    (missed : Bool) : State :=
  let off := base + 256 * line
  let g := streamRead s k 7 .cb (off / 256) (isRefused s k .cb off false) missed
  againIf (decide (line + 1 < drainLines fm rows))
    (again g.s k f (f.due + 1) (.tloadWrite tile fm rows line g.data (g.bad != [])))
    k f (f.due + 1) (.tloadRead tile fm base rows (line + 1) g.missed)

/-- An element as TLOAD widens it (R260). -/
def loadElement (fm : Fmt) (x : Nat) : Nat :=
  if fm.isFloat then
    let v := decodeFloat x fm
    if v.isNaN then canonNaN .f32 else (convertFloat v .f32 0 .ieee).1
  else wrapInt 32 (intValue x fm)

def performTloadWrite (s : State) (k : Nat) (f : Flight) (tile : TileIx) (fm : Fmt) (line : Nat) (data : Memory)
    (bad : Bool) : State :=
  let n := elementsPerLine fm
  let at_ (i : Nat) : Nat × Nat := ((line * n + i) / 128, (line * n + i) % 128)
  let put (t : Tile) (i : Nat) : Tile :=
    if tileRefused s k f.seq (at_ i).1 (at_ i).2 then t
    else tileSet t (at_ i).1 (at_ i).2
      (if bad then (Config.freeElement (s.fresh + i)).toNat else loadElement fm (elementAt data fm.bits i))
  nextFresh (modTile s (coreIx k) tile (fun t =>
    let u := (List.range n).foldl put t
    { u with poison := t.poison || bad })) n

def performTclr (s : State) (k seq : Nat) (tile : TileIx) : State :=
  modTile s (coreIx k) tile (fun t =>
    let u := tileFill t (rect 0 128 0 128) (tileRefused s k seq) (fun _ _ => 0)
    { u with poison := false, clamp := false })

/-! ### Copies (R81, R108, R270, R273) -/

/-- The state whose memory reads as it stands now, the writes of this cycle among it. -/
def asWritten (s : State) : State := { s with written := [], uncommitted := s.uncommitted.map (fun e => { e with at_ := 0 }) }

/-- The monitor of a wait compares again, if the write touches its line; one that a trap holds among them (R176, R192). -/
def monitorAgain (s : State) (paddr len k : Nat) : Option Wait → Option Wait
  | some ⟨.waitm d v b cc w dl none, a, pc⟩ =>
    match translate s k v with
    | .hit q =>
      if (q.kind == .plain || q.kind == .pg || q.kind == .dur) && (lines64 paddr len).contains (q.paddr / 64) &&
        monitorHit (asWritten s) k v b cc w then some ⟨.waitm d v b cc w dl (some true), a, pc⟩
      else some ⟨.waitm d v b cc w dl none, a, pc⟩
    | _ => some ⟨.waitm d v b cc w dl none, a, pc⟩
  | w => w

/-- The monitors of a context after a write. -/
def Ctx.monitor (c : Ctx) (s : State) (paddr len k : Nat) : Ctx :=
  { c with wait := monitorAgain s paddr len k c.wait, heldWait := monitorAgain s paddr len k c.heldWait }

/-- A write at the home of a device address wakes the monitors of its line, those of saved contexts too (R176). -/
def noteWrite (s : State) (paddr len : Nat) : State :=
  { s with
    ctxs := s.ctxs.map (fun p => (p.1, p.2.monitor s paddr len p.1))
    saved := s.saved.map (fun x => { x with ctx := x.ctx.monitor (setCtx s x.key x.ctx) paddr len x.key }) }

/-- The key of a task among its node's, with its copy (R354). -/
def taskKey (t : Task) : Nat :=
  2 * ((t.tid.zip t.text).foldl (fun acc p => acc * p.2 + p.1) 0) + (if t.twin then 1 else 0)

/-- Enter a write in the order of issue. -/
def insertWrite (x : Nat × List Byte) : List (Nat × List Byte) → List (Nat × List Byte)
  | [] => [x]
  | y :: r => if y.1 ≤ x.1 then y :: insertWrite x r else x :: y :: r

/-- Note a write that leaves the core of a REDUNDANT task: address, size, data (R354). -/
def logWrite (s : State) (k seq vaddr : Nat) (bytes : List Byte) : State :=
  match (ctxOf s k).task with
  | some t =>
    if t.redundant then
      let entry := (seq, bytesOfNat 8 vaddr ++ bytesOfNat 8 bytes.length ++ bytes)
      modNode s t.tenant t.node (fun n =>
        let log := insertWrite entry (n.digests.get (taskKey t) [])
        { n with digests := n.digests.put (taskKey t) log })
    else s
  | none => s

/-- Stage an effect of a context's node; those of a twin are discarded (R354). -/
def stage (s : State) (k : Nat) (x : Staged) : State :=
  match (ctxOf s k).task with
  | some t => if t.twin then s else modNode s t.tenant t.node (fun n => { n with staged := n.staged ++ [x] })
  | none => s

/-- A timed read of a device line. -/
def sampleLine (s : State) (k v : Nat) : Memory × Bool :=
  match translate s k v with
  | .hit p =>
    let ids := nodeIds (ctxOf s k)
    (memWriteList [] 0 (physReadList s ids.1 ids.2 p.paddr 256), isMarked s p.paddr)
  | _ => (freeSlice s.fresh 256, false)

def performCopySample (s : State) (k : Nat) (f : Flight) (r : CopyRun) (j : Nat) : State :=
  let x := sampleLine s k (copyAddr r j)
  let s := nextFresh (cachePage s k (copyAddr r j)) 256
  againIf (decide (j + 1 < r.lines)) (again s k f (f.due + r.half) (.copyLand r j x.1 x.2))
    k f (f.due + r.stride) (.copySample r (j + 1))

/-- Agent code of a copy engine (R73). -/
def copyAgent (r : CopyRun) : Nat := 3 + r.engine

def performCopyLand (s : State) (k : Nat) (f : Flight) (r : CopyRun) (j : Nat) (data : Memory) (bad : Bool) : State :=
  let off := r.place.off + 256 * j
  streamWrite s k (copyAgent r) r.place.buf off 256 (copyRefused s k ⟨r.place.buf, off⟩ f.seq true) data (allBad bad 256)

def performCopySource (s : State) (k : Nat) (f : Flight) (r : CopyRun) (j : Nat) : State :=
  let off := r.place.off + 256 * j
  let g := streamRead s k (copyAgent r) r.place.buf (off / 256) (copyRefused s k ⟨r.place.buf, off⟩ f.seq false) r.missed
  let r' := { r with missed := g.missed }
  againIf (decide (j + 1 < r.lines)) (again g.s k f (f.due + r.stride - 1 + r.half) (.copyPerform r' j g.data (g.bad != [])))
    k f (f.due + r.stride) (.copySource r' (j + 1))

/-- A line of an HBM-bound copy performs; a page that turned out read-only raises the segment fault (R81, R348). -/
def performCopyPerform (s : State) (k : Nat) (f : Flight) (r : CopyRun) (j : Nat) (data : Memory) (bad : Bool) : State :=
  let v := copyAddr r j
  match translate s k v with
  | .hit p =>
    if !p.write then postFree s k 0x0C
    else
      let ids := nodeIds (ctxOf s k)
      let bytes := memReadList data 0 256
      let s := physWrite (logWrite (cachePage s k v) k f.seq v bytes) ids.1 ids.2 p.paddr bytes
      let s := if bad then addMarks s (linePieces p.paddr) else s
      noteWrite s p.paddr 256
  | _ => s

def performMapGather (s : State) (k : Nat) (f : Flight) (r : CopyRun) (j : Nat) (held : Memory) (bad : Bool) : State :=
  let x := sampleLine s k (copyAddr r j)
  let s := nextFresh (cachePage s k (copyAddr r j)) 256
  let held := memPlace held (256 * j) 256 x.1
  let bad := bad || x.2
  if j + 1 < r.lines then again s k f (f.due + r.stride) (.mapGather r (j + 1) held bad)
  else againIf (decide (0 < r.dest)) s k f (f.due + 1 + r.half) (.mapLand r 0 held bad)

/-- Destination line d of a map copy; where a source line was uncorrectable every line is (R269, R270, log 18). -/
def performMapLand (s : State) (k : Nat) (f : Flight) (r : CopyRun) (d : Nat) (held : Memory) (bad : Bool) : State :=
  let off := r.place.off + 256 * d
  let tile := mapTile (r.map.getD 0) r.vaddr r.src held
  let s := streamWrite s k (copyAgent r) r.place.buf off 256 (copyRefused s k ⟨r.place.buf, off⟩ f.seq true)
    (memSlice tile (256 * d) 256) (allBad bad 256)
  againIf (decide (d + 1 < r.dest)) s k f (f.due + 1) (.mapLand r (d + 1) held bad)

def performFill (s : State) (k : Nat) (f : Flight) (r : CopyRun) (x : W64) (j : Nat) : State :=
  let off := r.place.off + 256 * j
  let line := memWriteList [] 0 ((List.range 256).map (fun i => byteOf x (i % 8)))
  let s := streamWrite s k (copyAgent r) r.place.buf off 256 (copyRefused s k ⟨r.place.buf, off⟩ f.seq true) line []
  againIf (decide (j + 1 < r.lines)) s k f (f.due + 1) (.fill r x (j + 1))

/-! ### XSEND and XRECV (R109, R275) -/

def performSendRead (s : State) (k : Nat) (f : Flight) (dest : Nat) (p : Place) (lines j x : Nat) (missed : Bool) : State :=
  let off := p.off + 256 * j
  let g := streamRead s k 5 p.buf (off / 256) (isRefused s k p.buf off false) missed
  againIf (decide (j + 1 < lines)) (again g.s k f (f.due + x) (.sendLand dest (p.off / 256) g.data g.bad))
    k f (f.due + 1) (.sendRead dest p lines (j + 1) x g.missed)

/-- Where the receiver puts a line that lands now (R109). -/
def recvPlace (s : State) (dest core : Nat) : Option Place :=
  let c := ctxOf s dest
  c.flights.findSome? (fun f => match f.act with
    | .recv src p n st =>
      if src = core ∧ st ≤ c.ttc ∧ c.ttc < st + n then some ⟨p.buf, p.off + 256 * (c.ttc - st).toNat⟩ else none
    | _ => none)

def performSendLand (s : State) (k dest : Nat) (data : Memory) (bad : List Nat) : State :=
  match recvPlace s dest (coreIx k) with
  | none => postCause s dest 0x09 (BitVec.ofNat 64 (coreIx k))
  | some p => streamWrite s dest 5 p.buf p.off 256 (isRefused s dest p.buf p.off true) data bad

/-! ### VNEST (R230) -/

/-- One stream of a step: its data, and whether it was of failed parity or lost. -/
def nestRead (s : State) (k : Nat) (r : Nat × Buf × Nat) : State × VWord × Bool :=
  let off := r.2.2 * 256
  if pendingLine s k r.2.1 r.2.2 then
    (nextFresh (postCause s k 0x08 (bufVal r.2.2 (bufCode r.2.1) false r.1 r.1)) 1, Config.freeVector s.fresh, false)
  else if isRefused s k r.2.1 off false then (nextFresh s 1, Config.freeVector s.fresh, false)
  else (s, vecOfMem (bufPrior s k r.2.1 off 256), badBytes s k r.2.1 off 256 != [])

def performNestStep (s : State) (k : Nat) (f : Flight) (x : NestArgs) (slot : Nat) (mask : PWord) (rm n : Nat) : State :=
  let reads := nestReads x n
  let a := nestRead s k (reads.getD 0 (11, x.bufA, 0))
  let b := nestRead a.1 k (reads.getD 1 (12, x.bufB, 0))
  let d := if x.fop = .vfma then nestRead b.1 k (reads.getD 2 (13, x.bufD, 0)) else (b.1, 0, false)
  let bad := a.2.2 || b.2.2 || d.2.2
  let s := if bad then postFree d.1 k 0x0F else d.1
  let lane (i : Nat) : Nat × Flags :=
    nestLane x.fop x.t rm (laneOf a.2.1 x.t.width i) (laneOf b.2.1 x.t.width i) (laneOf d.2.1 x.t.width i)
  againIf (decide (n + 1 < x.steps))
    (again s k f (f.due + nestLat x.fop x.t) (.nestWrite x slot mask (nestLineD x n).toNat
      (ofLanes x.t.width x.t.lanes (fun i => (lane i).1)) (laneFlags x.t mask (fun i => (lane i).2)) bad))
    k f (f.due + 1) (.nestStep x slot mask rm (n + 1))

/-- Does FOP write floating lanes that the shadow unit checks? (R70, log 16) -/
def nestShadowed (x : NestArgs) : Bool := x.t.isFloat && (match x.fop with
  | .vand | .vor | .vxor | .vmov => false
  | _ => true)

/-- A step's write of the active lanes, with failed parity where a stream failed (R230), and its shadow check (R70). -/
def performNestWrite (s : State) (k : Nat) (x : NestArgs) (slot : Nat) (mask : PWord) (line : Nat) (data : VWord) (fl : Flags) (bad : Bool) :
    State :=
  let off := line * 256
  if pendingLine s k x.bufD line then postCause s k 0x08 (bufVal line (bufCode x.bufD) true 13 13)
  else if isRefused s k x.bufD off true then s
  else
    let cells := laneCells x.t mask (fun i => off + i * laneBytes x.t)
    let s := modCtx s k (fun c => c.orFlags fl)
    let s := cells.foldl (fun s c => bufWrite s k x.bufD c.2 1 (memWrite [] 0 (byteOf data c.1)) (allBad bad 1)) s
    if nestShadowed x then shadowCheck s k (if slot = Slot.v1.code then 1 else 0) x.t (writtenLanes x.t (laneMask x.t mask) data) else s

/-! ### One effect -/

/-- Issue an untimed operation on behalf of an effect already under way (PCOMMIT's record, R180). -/
def addUntimed (s : State) (k : Nat) (job : Job) (lines : List Nat) : State :=
  modCtx s k (fun c => { c with
    seq := c.seq + 1
    untimed := c.untimed ++ [newUntimed c.seq job none false lines []] })

/-- The arrivals at a barrier issued in earlier cycles of a context, not yet counted, never count (R179). -/
def Ctx.loseArrivals (bar : Nat) (c : Ctx) : Ctx :=
  let lose (u : Untimed) : Untimed := match u.job with
    | .arrive b => if b = bar ∧ u.seq < c.seqMark then { u with done := true, held := none } else u
    | _ => u
  { c with untimed := c.untimed.map lose, snapU := c.snapU.map lose }

/-- BARINIT performs: the barrier starts afresh, and arrivals at it that have not counted yet are lost (R178, R179). -/
def performBarInit (s : State) (core i : Nat) (n : BitVec 16) : State :=
  let bar := core * 64 + i
  let s := modCore s core (fun c => { c with barriers := c.barriers.put i ⟨n, 0, 0⟩ })
  { s with
    ctxs := s.ctxs.map (fun p => (p.1, p.2.loseArrivals bar))
    saved := s.saved.map (fun x => { x with ctx := x.ctx.loseArrivals bar }) }

/-- The effect of flight `f` of context `k`, which has left the context's list (R29). -/
def performFlight (s : State) (k : Nat) (f : Flight) : State :=
  match f.act with
  | .result w fl sh => performResult s k w fl sh
  | .occupy _ => s
  | .dmRead d a n sx => performDmRead s k f d a n sx
  | .dmWrite a b => performDmWrite s k f a b
  | .dmAtomic d op a n sx v c => performDmAtomic s k f d op a n sx v c
  | .vmRead d b cells => performVmRead s k f d b cells
  | .vmWrite b cells => performVmWrite s k b cells
  | .gRead d a => performGRead s k f d a
  | .bselRead v a => bselRead s k v a
  | .pcommitRead v a => portRead s k a 64 (fun b => addUntimed s k (.record v b) (lines64 v 64))
  | .launchRead a => portRead s k a 64 (fun b =>
      stage (logWrite s k f.seq 0 b) k (.launch k f.seq (BitVec.ofNat 512 (natOfBytes b))))
  | .barInit i n => performBarInit s (coreIx k) i n
  | .mmaRead r j kk ma mb ba bb => performMmaRead s k f r j kk ma mb ba bb
  | .mmaUpdate r j ma mb ba bb => performMmaUpdate s k f r j ma mb ba bb
  | .drain t fm rm ov i base rows line m => performDrain s k f t fm rm ov i base rows line m
  | .drainWrite _ off data => performDrainWrite s k off data
  | .tloadRead t fm base rows line m => performTloadRead s k f t fm base rows line m
  | .tloadWrite t fm _ line data bad => performTloadWrite s k f t fm line data bad
  | .tclr t => performTclr s k f.seq t
  | .tmask t r c => modTile s (coreIx k) t (fun x => { x with rows := r, cols := c })
  | .clampClear t => modTile s (coreIx k) t (fun x => { x with clamp := false })
  | .copySample r j => performCopySample s k f r j
  | .copySource r j => performCopySource s k f r j
  | .copyLand r j data bad => performCopyLand s k f r j data bad
  | .copyPerform r j data bad => performCopyPerform s k f r j data bad
  | .mapGather r j held bad => performMapGather s k f r j held bad
  | .mapLand r d held bad => performMapLand s k f r d held bad
  | .fill r x j => performFill s k f r x j
  | .sendRead dest p n j x m => performSendRead s k f dest p n j x m
  | .sendLand dest _ data bad => performSendLand s k dest data bad
  | .recv .. => s
  | .nestStep x slot mask rm n => performNestStep s k f x slot mask rm n
  | .nestWrite x slot mask line data fl bad => performNestWrite s k x slot mask line data fl bad

/-- Is the context's time running: not frozen, and past the cycle in which it may issue again? (R26, R35) -/
def isRunning (s : State) (k : Nat) : Bool :=
  let c := ctxOf s k
  c.freeze.isNone && decide (c.resume ≤ s.gcc)

/-- Flight `i` of context `k` performs, if this is its cycle. -/
def performAt (s : State) (k i : Nat) : State :=
  let c := ctxOf s k
  match c.flights[i]? with
  | none => s
  | some f =>
    if isRunning s k && f.due == c.ttc then
      performFlight (setCtx s k { c with flights := c.flights.eraseIdx i }) k f
    else s

/-! ### Bank arbitration (R73, R106) -/

/-- A timed access of this cycle: whose partition it falls in, which flight makes it, where, and as which agent. -/
structure Access where
  owner : Nat
  ctx   : Nat
  seq   : Nat
  buf   : Buf
  line  : Nat
  write : Bool
  agent : Nat
deriving DecidableEq, Repr

/-- The buffer accesses a flight makes in its cycle. -/
def accessesOf (s : State) (k : Nat) (f : Flight) : List Access :=
  let a (b : Buf) (line : Nat) (write : Bool) (agent : Nat) : Access := ⟨k, k, f.seq, b, line, write, agent⟩
  match f.act with
  | .vmRead _ b cells => ((cells.map (fun c => c.2 / 256)).eraseDups).map (fun l => a b l false 0)
  | .vmWrite b cells => ((cells.map (fun c => c.1 / 256)).eraseDups).map (fun l => a b l true 0)
  | .dmRead _ ad _ _ => [a .dm (ad / 256) false 8]
  | .dmAtomic _ _ ad _ _ _ _ => [a .dm (ad / 256) true 8]
  | .dmWrite ad _ => [a .dm (ad / 256) true 8]
  | .gRead _ ad => [a .dm (ad / 256) false 14]
  | .mmaRead r j kk .. =>
    let d := runSides r
    let P := precCycles (precOf r.prec)
    let na := gField r.ga 17 + j
    let nb := gField r.gb 17 + j
    (streamLines d.1 (descTile d.1 na) na P kk).map (fun x => a x.buf x.line.toNat false 1) ++
    (streamLines d.2 (descTile d.2 nb) nb P kk).map (fun x => a x.buf x.line.toNat false 2)
  | .drain _ _ _ _ _ base _ line _ => [a .cb (base / 256 + line) true 6]
  | .tloadRead _ _ base _ line _ => [a .cb (base / 256 + line) false 7]
  | .copySource r j => [a r.place.buf (r.place.off / 256 + j) false (copyAgent r)]
  | .copyLand r j _ _ => [a r.place.buf (r.place.off / 256 + j) true (copyAgent r)]
  | .mapLand r d _ _ => [a r.place.buf (r.place.off / 256 + d) true (copyAgent r)]
  | .fill r _ j => [a r.place.buf (r.place.off / 256 + j) true (copyAgent r)]
  | .sendRead _ p _ j _ _ => [a p.buf (p.off / 256 + j) false 5]
  | .sendLand dest _ _ _ =>
    match recvPlace s dest (coreIx k) with
    | some p => [⟨dest, k, f.seq, p.buf, p.off / 256, true, 5⟩]
    | none => []
  | .nestStep x _ _ _ n => (nestReads x n).map (fun r => a r.2.1 r.2.2 false r.1)
  | .nestWrite x _ _ line _ _ _ => [a x.bufD line true 13]
  | _ => []

/-- Every buffer access of this cycle. -/
def allAccesses (s : State) : List Access :=
  s.ctxs.flatMap (fun p =>
    if isRunning s p.1 then (p.2.flights.filter (fun f => f.due == p.2.ttc)).flatMap (accessesOf s p.1) else [])

/-- Has a buffer of a core a write in this cycle, performed or due? Untimed lines keep out of its way (R75). -/
def writtenNow (s : State) (core : Nat) (b : Buf) : Bool :=
  (coreOf s core).written.any (fun w => w.1 == bufCode b) ||
  (allAccesses s).any (fun x => coreIx x.owner == core && x.buf == b && x.write)

/-- What two accesses contend for: a bank group's reads or writes, or a DM port. -/
def Access.lane (x : Access) : Nat × Nat × Nat × Bool :=
  if x.buf = .dm then (coreIx x.owner, 3, if x.agent = 8 ∨ x.agent = 14 then 0 else 1, false)
  else (coreIx x.owner, bufCode x.buf, bankGroup (x.line * 256), x.write)

/-- The stream or write an access belongs to. -/
def Access.stream (x : Access) : Nat × Nat × Nat := (x.ctx, x.seq, x.agent)

/-- Is an access refused: another stream contends for its lane? (R73) -/
def Access.loses (all : List Access) (x : Access) : Bool :=
  all.any (fun y => y.lane == x.lane && y.stream != x.stream)

/-- The lowest of a list by a key. -/
def leastBy (key : Access → Nat) : List Access → Option Access
  | [] => none
  | x :: r => some (r.foldl (fun m y => if key y < key m then y else m) x)

/-- The report of the refused accesses of one bank group (R73). -/
def conflictReport (xs : List Access) : Option (Nat × W64) :=
  (leastBy (fun x => x.agent * 2 ^ 20 + x.line) xs).map (fun a =>
    let b := ((leastBy (fun x => x.agent) (xs.filter (fun x => x.agent != a.agent))).map (fun x => x.agent)).getD a.agent
    (a.owner, bufVal a.line (bufCode a.buf) a.write b a.agent))

/-- The refused accesses of a context that R73 describes: lowest BUF code, then lower bank group. -/
def reported (xs : List Access) : List Access :=
  let key (x : Access) : Nat := 2 * bufCode x.buf + (if x.buf = .dm then x.lane.2.2.1 else bankGroup (x.line * 256))
  match leastBy key xs with
  | none => []
  | some a => xs.filter (fun x => key x == key a)

/-- Refuse the accesses that lose, and post a bank conflict on each context that owns some (R73). -/
def arbitrateBanks (s : State) : State :=
  let all := allAccesses s
  let lost := all.filter (fun x => x.loses all)
  let s := { s with refused := s.refused ++ (lost.map (fun x =>
    Refused.bank x.lane.1 x.lane.2.1 x.lane.2.2.1 x.lane.2.2.2)).eraseDups }
  ((lost.map (fun x => x.owner)).eraseDups).foldl (fun s k =>
    match conflictReport (reported (lost.filter (fun x => x.owner == k))) with
    | some (o, v) => postCause s o 0x07 v
    | none => s) s

/-- The DM bytes an LS write or a COPY line writes in this cycle, with its agent (R106). -/
def dmWrites (s : State) (k : Nat) : List (Nat × Nat × Nat × Nat) :=
  let c := ctxOf s k
  if !isRunning s k then [] else
  (c.flights.filter (fun f => f.due == c.ttc)).filterMap (fun f => match f.act with
    | .dmWrite a b => some (f.seq, 8, a, b.length)
    | .dmAtomic _ _ a n _ _ _ => some (f.seq, 8, a, n)
    | .copyLand r j _ _ => if r.place.buf = .dm then some (f.seq, copyAgent r, r.place.off + 256 * j, 256) else none
    | .mapLand r d _ _ => if r.place.buf = .dm then some (f.seq, copyAgent r, r.place.off + 256 * d, 256) else none
    | .fill r _ j => if r.place.buf = .dm then some (f.seq, copyAgent r, r.place.off + 256 * j, 256) else none
    | _ => none)

/-- An LS write and a COPY line to one DM byte: neither performs (R106). -/
def arbitrateDm (s : State) (k : Nat) : State :=
  let ws := dmWrites s k
  match ws.find? (fun x => x.2.1 == 8), ws.filter (fun x => x.2.1 != 8) with
  | some l, copies =>
    match copies.filter (fun x => decide (x.2.2.1 < l.2.2.1 + l.2.2.2 ∧ l.2.2.1 < x.2.2.1 + x.2.2.2)) with
    | [] => s
    | x :: r =>
      let s := { s with refused := s.refused ++ (l :: x :: r).map (fun y => Refused.flight k y.1) }
      postCause s k 0x0A (bufVal (x.2.2.1 / 256) 3 true 8 x.2.1)
  | none, _ => s

/-- The tile elements a flight writes in this cycle: tile, agent, row and column bounds (R106). -/
def tileWrites (s : State) (k : Nat) : List (Nat × TileIx × Nat × Nat × Nat × Nat × Nat) :=
  let c := ctxOf s k
  if !isRunning s k then [] else
  (c.flights.filter (fun f => f.due == c.ttc)).flatMap (fun f => match f.act with
    | .mmaUpdate r .. => [(f.seq, r.tile, 9, 0, r.rows, 0, r.cols)]
    | .tclr t => [(f.seq, t, 10, 0, 128, 0, 128)]
    | .tloadWrite t fm _ line _ _ =>
      let n := elementsPerLine fm
      if n ≤ 128 then [(f.seq, t, 7, line * n / 128, line * n / 128 + 1, line * n % 128, line * n % 128 + n)]
      else [(f.seq, t, 7, line * n / 128, line * n / 128 + n / 128, 0, 128)]
    | _ => [])

/-- The common rectangle of two tile writes. -/
def tileMeet (x y : Nat × TileIx × Nat × Nat × Nat × Nat × Nat) : Option (Nat × Nat × Nat × Nat) :=
  let (_, t, _, r0, r1, c0, c1) := x
  let (_, u, _, q0, q1, d0, d1) := y
  let a := max r0 q0
  let b := min r1 q1
  let c := max c0 d0
  let d := min c1 d1
  if t = u ∧ a < b ∧ c < d then some (a, b, c, d) else none

/-- The report of the colliding writes of the lowest tile: the two lowest agent codes, and the lowest colliding row of the first
(R73, R106). A colliding write is given as (tile, agent, first row). -/
def tileReport (ws : List (Nat × Nat × Nat)) : Option W64 :=
  let low (f : Nat × Nat × Nat → Nat) (l : List (Nat × Nat × Nat)) : Option Nat := (l.map f).min?
  (low (·.1) ws).bind (fun t =>
    let ws := ws.filter (fun w => w.1 == t)
    (low (·.2.1) ws).bind (fun a =>
      let b := (low (·.2.1) (ws.filter (fun w => w.2.1 != a))).getD a
      (low (·.2.2) (ws.filter (fun w => w.2.1 == a))).map (fun row => bufVal (t * 128 + row) 4 true b a)))

/-- Two writes of one tile element: the colliding elements are refused to both (R106). -/
def arbitrateTiles (s : State) (k : Nat) : State :=
  let ws := tileWrites s k
  let pairs := ws.flatMap (fun x => ws.filterMap (fun y =>
    if x.1 < y.1 then (tileMeet x y).map (fun m => (x, y, m)) else none))
  let s := { s with refused := s.refused ++ pairs.flatMap (fun p =>
    let (x, y, a, b, c, d) := p
    [Refused.tile k x.1 a b c d, Refused.tile k y.1 a b c d]) }
  match tileReport (pairs.flatMap (fun p =>
    [(p.1.2.1.val, p.1.2.2.1, p.2.2.1), (p.2.1.2.1.val, p.2.1.2.2.1, p.2.2.1)])) with
  | some v => postCause s k 0x0A v
  | none => s

/-- Arbitration of the whole machine. -/
def arbitrate (s : State) : State :=
  let s := arbitrateBanks { s with refused := [] }
  (s.ctxs.map (fun p => p.1)).foldl (fun s k => arbitrateTiles (arbitrateDm s k) k) s

end Sys2Proof.Machine
end

