-- ==== Sys2Proof/Machine/Bundle.lean ====
section
/-! DEFINITION. A bundle before it issues: the register results of its cycle, fetch and the checks of R161 (R91, R100, R144–R146,
R161, R165), and the units and side logs that may hold its operations back (R89, R351). -/

namespace Sys2Proof.Machine

/-! ### Register results of a cycle (R100, R182) -/

/-- Does the effect write registers only, before anything issues in its cycle? (R100) -/
def isRegAct : Act → Bool
  | .result .. | .occupy _ | .bselRead .. | .tmask .. | .clampClear _ => true
  | _ => false

/-- The rank of a register effect in its cycle: hardware updates of control registers, then SETC, then results with their
flags (R54, R182). -/
def regRank (f : Flight) : Nat :=
  match f.act with
  | .result (.cr _ _) _ _ => if f.res = [] then 0 else 1
  | _ => 2

/-- The next register effect of a context in this cycle. -/
def nextReg (s : State) (k : Nat) : Option Nat :=
  let c := ctxOf s k
  if !isRunning s k then none
  else
    let at_ (r : Nat) : Option Nat := c.flights.findIdx? (fun f => isRegAct f.act && f.due == c.ttc && regRank f == r)
    ((at_ 0).or (at_ 1)).or (at_ 2)

/-- Perform at most `n` register effects of a context. -/
def settleRegs : Nat → Nat → State → State
  | 0, _, s => s
  | n + 1, k, s =>
    match nextReg s k with
    | none => s
    | some i => settleRegs n k (performAt s k i)

/-- A context with the register effects of this cycle performed. -/
def settled (s : State) (k : Nat) : State := settleRegs (ctxOf s k).flights.length k s

/-! ### Fetch and the checks before issue (R91, R144–R146, R161, R165) -/

/-- The words of the bundle at a context's pc, header first. -/
def bundleWords (s : State) (c : Ctx) : List Nat :=
  (List.range (headerCount (codeWord s c c.pc) + 1)).map (fun i => codeWord s c (c.pc + BitVec.ofNat 64 (4 * i)))

/-- Does every word of the bundle lie in code? (R165) -/
def isCode (s : State) (c : Ctx) : Bool :=
  (List.range (headerCount (codeWord s c c.pc) + 1)).all (fun i => (codeAddr c (c.pc + BitVec.ofNat 64 (4 * i))).isSome)

/-- TVAL of an illegal encoding (R162). -/
def illegalOf (ws : List Nat) (e : Illegal) : W64 := illegalVal (ws.getD e.1 0) e.1 e.2.1 e.2.2

/-- Operations that user mode refuses as privileged: ops 0x40–0x48 of BR (R161 step 5). -/
def isSupervisorOnly : Instr → Bool
  | .setallow .. | .setallowMode .. | .ctxsave .. | .ctxload .. | .gfreeze .. | .gthaw .. | .tlbinv .. | .segload ..
  | .msgsend .. | .halt => true
  | _ => false

/-- The architected sum of a bundle (R123). -/
def archWeight (b : Bundle) : Nat := (b.ops.map (fun o => opWeight o.instr)).sum

/-- TVAL of a weight below the architected sum (R123). -/
def weightVal (b : Bundle) : W64 := BitVec.ofNat 64 (b.weight % 256 * 256 + archWeight b % 256)

/-- Steps 4 and 5 of R161 on a decoded bundle. -/
def checkMode (m : Mode) (b : Bundle) : Except (Nat × Option W64) Bundle :=
  if b.weight < archWeight b then .error (0x01, some (weightVal b))
  else if m = .user ∧ b.ops.any (fun o => isSupervisorOnly o.instr) then .error (0x14, none)
  else .ok b

/-- Fetch and steps 1 to 5 of R161: the bundle, or the cause it raises. A word outside code raises the segment fault (R165). -/
def checkBundle (s : State) (k : Nat) : Except (Nat × Option W64) Bundle :=
  let c := ctxOf s k
  let ws := bundleWords s c
  match codeAddr c c.pc with
  | none => .error (0x0C, none)
  | some a =>
    if (headerFault (ws.getD 0 0) a).isNone && !isCode s c then .error (0x0C, none)
    else match decodeBundle ws a (c.mode == .supervisor) with
      | .error e => .error (0x01, some (illegalOf ws e))
      | .ok b => checkMode c.mode b

/-- The operations of a bundle that no stage predicate suppresses (R37, R146). -/
def activeOps (c : Ctx) (b : Bundle) : List BundleOp :=
  b.ops.filter (fun o => o.stage.all (fun st => c.readSP.getLsbD st.val))

/-! ### Held units and side logs (R89, R341, R351) -/

/-- The unit of an operation at issue: the global access unit, the gather unit, the scatter path (R89). -/
def unitOf : Instr → Option Nat
  | .ldg .. | .stg .. | .amoaddGlobal .. | .amominGlobal .. | .amomaxGlobal .. | .amominnGlobal .. | .amomaxnGlobal ..
  | .amoandGlobal .. | .amoorGlobal .. | .amoxorGlobal .. | .amoswapGlobal .. | .amocasGlobal .. => some 0
  | .gather .. => some 1
  | .scatter .. => some 2
  | _ => none

/-- Entries of the side log that an operation takes. -/
def logEntries (u : Untimed) : Nat := match u.job with
  | .replay l _ => l.length
  | _ => 1

/-- Entries in the side log of a unit of a core. -/
def logCount (s : State) (core unit : Nat) : Nat :=
  ((List.range 4).map (fun i =>
    let k := core * 4 + i
    (((ctxOf s k).allUntimed.filter (fun u => (jobUnit u.job).any (·.1 == unit) && isLogged s k u)).map logEntries).sum)).sum

/-- Does a read hold its unit: of an unmapped page, or of a line that a side log holds? (R89) -/
def holdsUnit (s : State) (k : Nat) (u : Untimed) : Bool :=
  u.held.isSome || (ctxOf s k).allUntimed.any (fun v => decide (v.seq < u.seq) && isLogged s k v && meetLines s k v.lines u.lines)

/-- Is a unit of a core held? A full side log of 256 entries holds it too (R89). -/
def unitHeld (s : State) (core unit : Nat) : Bool :=
  (List.range 4).any (fun i =>
    let k := core * 4 + i
    (ctxOf s k).allUntimed.any (fun u => !u.done && jobUnit u.job == some (unit, false) && holdsUnit s k u)) ||
  decide (256 ≤ logCount s core unit)

/-- Would the bundle of context `k` issue an operation to a held unit? -/
def meetsHeldUnit (s : State) (k : Nat) : Bool :=
  match checkBundle s k with
  | .error _ => false
  | .ok b => (activeOps (ctxOf s k) b).any (fun o => (unitOf o.instr).any (unitHeld s (coreIx k)))

/-- A context with the register results of its cycle, as if it were not frozen. -/
def thawedView (s : State) (k : Nat) : State :=
  settled (modCtx s k (fun c => { c with freeze := none, resume := min c.resume s.gcc })) k

end Sys2Proof.Machine
end

