-- ==== Sys2Proof/Machine/Untimed.lean ====
section
/-! DEFINITION. What an untimed operation does when it performs, and when it may (R28, R30, R83, R89, R110–R119, R207,
R208, R211, R226, R256–R258, R274–R283). -/

namespace Sys2Proof.Machine

/-! ### The descriptors of a snapshot -/

/-- The descriptor that the operation `seq` of a snapshot has now (R190). -/
def descriptorOf (c : Ctx) (seq : Nat) : Option (W64 × W64) :=
  ((frameEntries c.snap c.snapU).find? (fun e => e.seq == seq)).map (fun e => e.words)

/-- Rewrite the descriptor of an operation in the frame that its context's trap wrote, in the place where the frame holds it (R190,
R191, R304). -/
def rewriteDescriptor (s : State) (k seq : Nat) : State :=
  let c := ctxOf s k
  match c.frameOrder.findIdx? (· == seq), descriptorOf c seq with
  | some i, some d => bufWrite s k .dm (c.frameAt + 0x100 + 16 * i) 16 (memWriteList [] 0 (bytesOfNat 8 d.1.toNat ++ bytesOfNat 8 d.2.toNat)) []
  | _, _ => s

/-- A fault of an untimed operation of an interrupted program is shown by its descriptor (R191). -/
def showFault (s : State) (k seq : Nat) : State :=
  if (ctxOf s k).snapU.any (fun u => u.seq == seq && (u.fault.isSome || u.late != [])) then rewriteDescriptor s k seq else s

/-! ### Entries -/

/-- The operation holds its unit, or stands in a side log, until the page is mapped (R89); the page is posted (R338). -/
def holdJob (s : State) (k : Nat) (u : Untimed) (v sub : Nat) : State :=
  modUntimed (postPage s k u.job v sub) k u.seq (fun u => { u with held := some (v / 65536), loggedAt := u.loggedAt.or (some s.gcc) })

/-- Does the operation write the durable tier? -/
def isDurableWrite (s : State) (k : Nat) : Job → Bool
  | .dput .. => true
  | .record .. => true
  | .store v _ => match translate s k v with
    | .hit p => p.kind == .dur
    | _ => false
  | _ => false

/-- Does the operation go through the fabric unit? (R115) -/
def isFabric (s : State) (k : Nat) : Job → Bool
  | .fput .. | .fget .. => true
  | .load v .. | .store v _ | .atomic _ v .. => kindOf s k v == some (.rem, true) || kindOf s k v == some (.rem, false)
  | _ => false

/-- Does `u` wait for every earlier access? -/
def waitsForAll (u : Untimed) : Bool :=
  match u.job with
  | .fence .dur => false
  | .fence _ => true
  | .arrive _ => true
  | .record .. => true
  | _ => u.ordered

/-- Does the operation write memory of its own accord, of whatever kind? (R118) -/
def writesMemory : Job → Bool
  | .store .. | .atomic .. | .scatter .. | .replay .. | .fput .. | .dput .. | .record .. | .signal .. => true
  | _ => false

/-- Is the earlier operation `v` still to perform, as one that performs in this cycle is to a read of it? (R99) -/
def isAhead (s : State) (v : Untimed) : Bool := !v.done || v.at_ == s.gcc

/-- Must the earlier operation `v` perform before `u`? (R92, R93, R111–R113, R115, R118, R228, R281) A SCATTER need not wait for a line
of a side log: its element follows into the log (R89). The lines of a walk are not known before it has read them, so that every later
write waits for its end (R118, R286, log 135). -/
def mustPrecede (s : State) (k : Nat) (v u : Untimed) : Bool :=
  decide (v.seq < u.seq) && isAhead s v &&
  ((waitsForAll u && (isAccess v.job || (match v.job with | .fence _ => true | _ => false))) ||
   (match v.job with
    | .fence .dur => isDurableWrite s k u.job || (match u.job with | .fence .dur => true | _ => false)
    | .fence _ => true
    | _ => v.ordered) ||
   (!v.done && !v.sent && isFabric s k v.job && isFabric s k u.job) ||
   (!(isScatter u.job && isLogged s k v) && meetLines s k v.lines u.lines) ||
   (match v.job, u.job with
    | .vhacc .., .vhacc .. => true
    | .qsend p _ _ _, .qsend q _ _ _ => p == q
    | .qrecv p, .qrecv q => p == q
    | .mmas p _ _ _ _ _, .qrecv q => p == q
    | .mmas .., .mmas .. => true
    | .mmag .., .mmag .. => true
    | .mmag .., .mmas .. => true
    | .mmas .., .mmag .. => true
    | .walk, j => writesMemory j
    | j, .fence .dur => isDurableWrite s k j
    | _, _ => false))

/-- Is an operation one of the code that runs now, and not of a program that a trap interrupted? -/
def Ctx.isOwn (c : Ctx) (seq : Nat) : Bool := c.untimed.any (fun v => v.seq == seq)

/-- Operations of an interrupted program that cannot perform before RTE: they wait for timed effects that its trap paused, or for one
that does. -/
def stuckOps (s : State) (k : Nat) : List Nat :=
  let c := ctxOf s k
  c.snapU.foldl (fun stuck u =>
    if !u.done && ((waitsForAll u && c.snap.any (fun e => decide (e.flight.seq < u.seq))) ||
        c.snapU.any (fun v => stuck.contains v.seq && mustPrecede s k v u)) then u.seq :: stuck else stuck) []

/-- Need operation `u` of a handler not wait for operation `v` of the program it interrupts, which cannot perform before RTE? The wait
of a handler drains only what the handler issued (R175), and the spec does not say how its operations stand to those (DESIGN CHOICE,
log 114). -/
def isExempt (s : State) (k v u : Nat) : Bool := (ctxOf s k).isOwn u && (stuckOps s k).contains v

/-- May the operation perform now? One of a handler does not wait for the timed effects that the trap paused (R175, log 114). -/
def mayPerform (s : State) (k : Nat) (u : Untimed) : Bool :=
  let c := ctxOf s k
  !u.done && !u.sent && u.held.isNone && !c.allUntimed.any (fun v => mustPrecede s k v u && !isExempt s k v.seq u.seq) &&
  !(waitsForAll u && (c.flights.any (fun f => decide (f.seq < u.seq)) ||
    (!c.isOwn u.seq && c.snap.any (fun e => decide (e.flight.seq < u.seq)))))

/-! ### The fabric at the source and at the home (R115, R117, R363, R367) -/

/-- The hash lane of a line (R115). -/
def hashLane (a : Nat) : Nat := fieldOf a 6 4 ^^^ fieldOf a 10 4 ^^^ fieldOf a 14 4 ^^^ fieldOf a 18 4

/-- Serial of the node of a context, 0 without one. -/
def serialOf (s : State) (k : Nat) : Nat :=
  match (ctxOf s k).task with
  | some t => t.serial
  | none => 0

/-- The data of a transaction: 0, 8, 16 or 64 bytes, those behind the data's own zero (R363). -/
def padData (data : List Byte) : List Byte :=
  let n := data.length
  data ++ List.replicate ((if n = 0 then 0 else if n ≤ 8 then 8 else if n ≤ 16 then 16 else 64) - n) 0

/-- Header fields of a transaction of a context: serial in DETAIL [31:0], the operation's detail in [39:32] (R363,
log 19). -/
def makeTrans (s : State) (k op addr detail : Nat) (data : List Byte) : Transaction where
  op := Fin.ofNat 16 op
  src := Fin.ofNat 128 s.pkgId
  tenant := Fin.ofNat 16 (nodeIds (ctxOf s k)).1
  lane := Fin.ofNat 16 (hashLane addr)
  tag := 0
  addr := BitVec.ofNat 45 addr
  detail := BitVec.ofNat 40 (serialOf s k + detail * 2 ^ 32)
  data := padData data

/-- Operation detail of a line write: how many of its data bytes it writes, and bit 7 for poisoned data (log 19). -/
def writeDetail (bytes : List Byte) (bad : Bool) : Nat := bytes.length + if bad then 0x80 else 0

/-- Enter a transaction of this package in the fabric unit, with the next tag of its destination and lane (R115, R366; DESIGN CHOICE,
log 71). -/
def enter (s : State) (o : Outbound) : State :=
  let lane := o.dest * 16 + o.tr.lane.val
  let tag := s.tags.get lane 0
  { s with
    outbound := s.outbound ++ [{ o with tr := { o.tr with tag := BitVec.ofNat 12 tag } }]
    tags := s.tags.put lane ((tag + 1) % 4096) }

/-- Enter a transaction of a context (R115). -/
def sendTrans (s : State) (k seq ix dest op addr detail : Nat) (data : List Byte) : State :=
  enter s ⟨dest, k, seq, ix, makeTrans s k op addr detail data⟩

/-- Has the operation transactions on their way, unacknowledged or unanswered? -/
def isOutstanding (s : State) (k seq : Nat) : Bool :=
  let mine (o : Outbound) : Bool := o.ctx == k && o.seq == seq
  s.outbound.any mine || s.awaiting.any mine ||
  s.ports.any (fun p => p.2.waiting.any mine || p.2.replay.any (fun f => f.2.any mine))

/-- The tenant to which this package's domain record maps a source tenant (R367). -/
def mappedTenant (s : State) (src tenant : Nat) : Option Nat :=
  (s.domain.find? (fun d => d.1 == src && d.2.1 == tenant)).map (fun d => d.2.2)

/-- Do the bytes lie in the tenant's grants? (R311, R367) -/
def inGrants (s : State) (t a n : Nat) : Bool :=
  let x := tenantOf s t
  x.live && (x.regions.any (fun r => decide (r.2.paddr ≤ a ∧ a + n ≤ r.2.paddr + r.2.size * 65536)) ||
    x.durable.any (fun d => decide (d.1 ≤ a ∧ a + n ≤ d.1 + d.2)))

/-- Does the home accept a transaction? (R367) -/
def homeAccepts (s : State) (src tenant a n : Nat) : Bool := (mappedTenant s src tenant).any (fun t => inGrants s t a n)

/-- A write of poisoned buffer data leaves its line marked uncorrectable (R353). -/
def markPoison (s : State) (a : Nat) (bad : Bool) : State := if bad then addMarks s [a / 64] else s

/-- A fabric write applied at its home, open until the source node commits or rolls back; one of serial 0, which no node has
(R319), is final. A refused write is dropped (R117, R367, R385). -/
def applyWrite (s : State) (src tenant serial a : Nat) (bytes : List Byte) (bad : Bool) : State :=
  if homeAccepts s src tenant a bytes.length then
    let s := if serial = 0 then openWrite s none a bytes
      else noteOwn (openWrite s (some ⟨true, src, tenant, serial⟩) a bytes) ⟨true, src, tenant, serial⟩ a bytes.length
    noteWrite (markPoison s a bad) a bytes.length
  else s

/-- A commit: the writes of the source node are final (R117). -/
def applyCommit (s : State) (src tenant serial : Nat) : State := closeWrites s ⟨true, src, tenant, serial⟩

/-- A rollback: the bytes hold their previous contents again (R117, R121). -/
def applyRollback (s : State) (src tenant serial : Nat) : State := takeBack s ⟨true, src, tenant, serial⟩

/-- Codes of the atomics (R209, R277). -/
def amoCode : AmoOp → Nat
  | .add => 0 | .min => 1 | .max => 2 | .minn => 3 | .maxn => 4 | .and => 5 | .or => 6 | .xor => 7 | .swap => 8 | .cas => 9

/-- The atomic of a code. -/
def amoOf : Nat → AmoOp
  | 0 => .add | 1 => .min | 2 => .max | 3 => .minn | 4 => .maxn | 5 => .and | 6 => .or | 7 => .xor | 8 => .swap | _ => .cas

/-- Perform the update of an atomic: no rollback undoes it (R211). -/
def putAtomic (s : State) (a : Nat) (bytes : List Byte) : State :=
  let t := openWrite s none a bytes
  noteWrite { t with atomic := (bytes.zipIdx).foldl (fun l b => if l.contains (a + b.2) then l else (a + b.2) :: l) t.atomic } a bytes.length

/-- What the atomic unit of a home stack answers: the old value, that of the atomics before it in this cycle too, and whether it
was uncorrectable (R113, R208). `by_` is whose atomic it is (R207); a swapped value is defined for every node (R359). -/
def homeAtomic (s : State) (by_ : Writer) (op : AmoOp) (a n : Nat) (v c : W64) : State × Nat × Bool :=
  let old := memReadNat s.mem a n
  if isMarked s a then (s, old, true)
  else match amoNew op n old (v.toNat % 2 ^ (8 * n)) (c.toNat % 2 ^ (8 * n)) with
    | none => (s, old, false)
    | some x =>
      let s := if op = .swap then liftClouds s (fun _ b => decide (a ≤ b ∧ b < a + n)) else s
      (noteOwn (putAtomic s a (bytesOfNat n x)) by_ a n, old, false)

/-- Write bytes to a remote package: a SPEC node's are held at the source, a twin's discarded (R117, R354); a write to
this very package is applied at once. -/
def putRemote (s : State) (k seq ix pkg a : Nat) (bytes : List Byte) (bad : Bool) : State :=
  match (ctxOf s k).task with
  | none => s
  | some t =>
    if t.twin then s
    else if t.spec then stage s k (.fabric k seq pkg a bytes bad)
    else if pkg = s.pkgId then applyWrite s s.pkgId t.tenant t.serial a bytes bad
    else sendTrans s k seq ix pkg 0 a (writeDetail bytes bad) bytes

/-! ### Accesses of device memory -/

/-- Bytes of the home of an access, and whether memory delivers them as uncorrectable (R353). -/
def homeRead (s : State) (k a n : Nat) : List Byte × Bool :=
  let ids := nodeIds (ctxOf s k)
  (physReadList s ids.1 ids.2 a n, isMarked s a)

/-- The bytes of a read with a context's own staged writes over them, in their order (R207). -/
def overStaged (s : State) (k a : Nat) (pick : Staged → Option (Nat × Nat × List Byte)) (bytes : List Byte) : List Byte :=
  let ids := nodeIds (ctxOf s k)
  let own := (nodeOf s ids.1 ids.2).staged.filterMap (fun x => (pick x).bind (fun w => if w.1 = k then some w.2 else none))
  (bytes.zipIdx).map (fun b => own.foldl (fun x w => if w.1 ≤ a + b.2 ∧ a + b.2 < w.1 + w.2.length then w.2.getD (a + b.2 - w.1) x else x) b.1)

/-- The staged host bytes of a context over host memory, which the host may change at any time (R207, log 3). -/
def hostRead (s : State) (k a n : Nat) : List Byte :=
  overStaged s k a (fun x => match x with
    | .hostWrite c _ p b _ => some (c, p, b)
    | _ => none) (memReadList (freeSlice s.fresh n) 0 n)

/-- A read of a remote package with the fabric writes that a SPEC node holds back over it (R117, R207). -/
def heldFabric (s : State) (k pkg a : Nat) (bytes : List Byte) : List Byte :=
  overStaged s k a (fun x => match x with
    | .fabric c _ g p b _ => if g = pkg then some (c, p, b) else none
    | _ => none) bytes

/-- Write bytes of a context at a translated address (R87, R92, R94, R207), poisoned ones with their mark (R353). A write to host
memory, which is staged, counts for what waits for it as performed with this (R211; DESIGN CHOICE, log 117). -/
def storeAt (s : State) (k seq ix v : Nat) (p : Spot) (bytes : List Byte) (bad : Bool) : State :=
  let ids := nodeIds (ctxOf s k)
  let twin := (ctxOf s k).task.any (fun t => t.twin)
  let s := logWrite s k seq v bytes
  match p.kind with
  | .plain | .pg => noteWrite (markPoison (physWrite (cachePage s k v) ids.1 ids.2 p.paddr bytes) p.paddr bad) p.paddr bytes.length
  | .dur => if twin then s else
      noteWrite (markPoison (physWrite s ids.1 ids.2 p.paddr bytes) p.paddr bad) p.paddr bytes.length
  | .host => stage s k (.hostWrite k seq p.paddr bytes none)
  | .rem => putRemote s k seq ix p.pkg p.paddr bytes bad

/-- Go on with an operation at a translated address: an unmapped page holds it, a missing or read-only one reports a
segment fault at the wait (R84, R89, R187). -/
def atHome (s : State) (k : Nat) (u : Untimed) (v sub : Nat) (write : Bool) (f : Spot → State) : State :=
  match translate s k v with
  | .unmapped => holdJob s k u v sub
  | .noSegment => finishJob s k u.seq none (some (0x0C, BitVec.ofNat 64 v))
  | .hit p =>
    if write && !p.write then finishJob s k u.seq none (some (0x0C, BitVec.ofNat 64 v)) else f p

/-- The operation is done unless transactions of it are still out; then it is under way. -/
def settle (s : State) (k seq : Nat) : State :=
  if isOutstanding s k seq then modUntimed s k seq (fun u => { u with sent := true }) else finishJob s k seq none none

/-- The value of a load at home, free and poisoned where memory delivers it uncorrectable (R208). -/
def finishLoad (s : State) (k : Nat) (u : Untimed) (v n : Nat) (sx : Bool) (r : List Byte × Bool) : State :=
  if r.2 then nextFresh (finishJob s k u.seq (some (Config.freeWord s.fresh)) (some (0x0F, BitVec.ofNat 64 v))) 1
  else nextFresh (finishJob s k u.seq (some (extend sx n (natOfBytes r.1))) none) 1

/-- LDG (R207, R208). -/
def performLoad (s : State) (k : Nat) (u : Untimed) (v n : Nat) (sx : Bool) : State :=
  atHome s k u v 1 false (fun p =>
    match p.kind with
    | .host => nextFresh (finishJob s k u.seq (some (extend sx n (natOfBytes (hostRead s k p.paddr n)))) none) n
    | .rem =>
      if p.pkg = s.pkgId then
        if homeAccepts s s.pkgId (nodeIds (ctxOf s k)).1 p.paddr n then
          let r := homeRead s k p.paddr n
          finishLoad s k u v n sx (heldFabric s k p.pkg p.paddr r.1, r.2)
        else finishJob s k u.seq none (some (0x0C, BitVec.ofNat 64 v))
      else settle (sendTrans s k u.seq 0 p.pkg 1 p.paddr n []) k u.seq
    | _ => finishLoad (cachePage s k v) k u v n sx (homeRead s k p.paddr n))

/-- STG (R207). -/
def performStore (s : State) (k : Nat) (u : Untimed) (v : Nat) (bytes : List Byte) : State :=
  atHome s k u v 2 true (fun p => settle (storeAt s k u.seq 0 v p bytes false) k u.seq)

/-- The old value that an atomic returns to node (tenant, node): bytes that the host wrote over are undefined for it (R359). -/
def atomicSeen (s : State) (tenant node a n old : Nat) : Nat :=
  natOfBytes ((List.range n).map (fun i =>
    if isClouded s tenant node (a + i) then physRead s tenant node (a + i) else BitVec.ofNat 8 (old / 2 ^ (8 * i))))

/-- A global atomic at its home (R113, R208, R211). -/
def performAtomic (s : State) (k : Nat) (u : Untimed) (op : AmoOp) (v n : Nat) (sx : Bool) (x c : W64) : State :=
  atHome s k u v 2 true (fun p =>
    if p.kind = .rem ∧ p.pkg ≠ s.pkgId then
      settle (sendTrans s k u.seq 0 p.pkg 3 p.paddr (amoCode op + (if n = 8 then 16 else 0) + (if sx then 32 else 0))
        (bytesOfNat 8 x.toNat ++ bytesOfNat 8 c.toNat)) k u.seq
    else if p.kind = .rem ∧ !homeAccepts s s.pkgId (nodeIds (ctxOf s k)).1 p.paddr n then
      finishJob s k u.seq none (some (0x0C, BitVec.ofNat 64 v))
    else
      let ids := nodeIds (ctxOf s k)
      let r := homeAtomic (cachePage s k v) ⟨false, 0, ids.1, ids.2⟩ op p.paddr n x c
      if r.2.2 then
        nextFresh (finishJob r.1 k u.seq (some (Config.freeWord s.fresh)) (some (0x0F, BitVec.ofNat 64 v))) 1
      else
        finishJob r.1 k u.seq (some (extend sx n (atomicSeen s ids.1 ids.2 p.paddr n r.2.1))) none)

/-! ### GATHER and SCATTER (R83, R274) -/

/-- The first entry whose page is unmapped. -/
def firstHeld (s : State) (k : Nat) (l : List Nat) : Option Nat :=
  l.find? (fun a => translate s k a == .unmapped)

/-- The first entry that fails: no segment, one of a kind that Madder does not reach, or one that may not be written
(R264, R274). -/
def firstFailed (s : State) (k : Nat) (write : Bool) (l : List Nat) : Option Nat :=
  l.find? (fun a => match kindOf s k a with
    | some (kd, w) => !(kd == .plain || kd == .pg) || (write && !w)
    | none => true)

/-- MADDER_GATHER_RETURN: the elements return packed, in list order (R83, R274). -/
def performGather (s : State) (k : Nat) (u : Untimed) (v size : Nat) (idx : List Nat) (place : Place) : State :=
  let addrs := idx.map (entryAddr v size)
  let len := (idx.length * size + 255) / 256 * 256
  match firstHeld s k addrs, firstFailed s k false addrs with
  | some a, _ => holdJob s k u a 1
  | none, some a =>
    nextFresh (finishJob (bufWrite s k place.buf place.off len (freeSlice s.fresh len) []) k u.seq none
      (some (0x0C, BitVec.ofNat 64 a))) len
  | none, none =>
    let els := addrs.map (fun a => match translate s k a with
      | .hit p => homeRead s k p.paddr size
      | _ => ([], false))
    let data := memWriteList [] 0 (els.flatMap (fun e => e.1))
    let bad := (els.zipIdx).flatMap (fun e => if e.1.2 then (List.range size).map (fun b => e.2 * size + b) else [])
    let s := addrs.foldl (fun s a => cachePage s k a) s
    finishJob (bufWrite s k place.buf place.off len data bad) k u.seq none none

/-- Does an element of a SCATTER enter the side log: for its unmapped page, or behind an earlier write of the log to one of its
lines? `lines` are those of the log's entries ahead of it (R89). -/
def entersLog (s : State) (k : Nat) (lines : List Nat) (e : Nat × List Byte) : Bool :=
  translate s k e.1 == .unmapped || meetLines s k lines (lines64 e.1 e.2.length)

/-- The elements of a SCATTER in list order: those that perform do so, the others enter the side log while it has `room`, their lines
added to those of the log. A full log holds the unit, so that no further element goes on (R83, R89, R274). What is left: the entries,
and the elements behind a full log. -/
def scatterElements (k seq : Nat) : List (Nat × List Byte) → List Nat → Nat → State →
    State × List (Nat × List Byte) × List (Nat × List Byte)
  | [], _, _, s => (s, [], [])
  | e :: r, lines, room, s =>
    if room = 0 then (s, [], e :: r)
    else if entersLog s k lines e then
      let t := scatterElements k seq r (lines ++ lines64 e.1 e.2.length) (room - 1) s
      (t.1, e :: t.2.1, t.2.2)
    else
      let s := match translate s k e.1 with
        | .hit p => if p.write && (p.kind == .plain || p.kind == .pg) then storeAt s k seq 0 e.1 p e.2 false else s
        | _ => s
      scatterElements k seq r lines room s

/-- The unmapped pages of entries of a side log, each with the first address in it. -/
def logPages (s : State) (k : Nat) (els : List (Nat × List Byte)) : List Nat :=
  els.foldl (fun acc e =>
    if translate s k e.1 == .unmapped && !acc.any (fun a => a / 65536 == e.1 / 65536) then acc ++ [e.1] else acc) []

/-- Perform elements of a SCATTER; those left stand in the side log, each of their pages posted, or wait for room in it (R89, R338). -/
def scatterOn (s : State) (k : Nat) (u : Untimed) (els : List (Nat × List Byte)) : State :=
  let ahead := (ctxOf s k).allUntimed.filter (fun v => decide (v.seq < u.seq) && isLogged s k v)
  let own := if isLogged s k u then logEntries u else 0
  let r := scatterElements k u.seq els (ahead.flatMap (fun v => v.lines)) (256 - (logCount s (coreIx k) 2 - own)) s
  if r.2.1 = [] ∧ r.2.2 = [] then finishJob r.1 k u.seq none none
  else
    let t := (logPages r.1 k r.2.1).foldl (fun t a => postPage t k (.replay r.2.1 r.2.2) a 2) r.1
    modUntimed t k u.seq (fun u => { u with
      job := .replay r.2.1 r.2.2
      lines := (r.2.1 ++ r.2.2).flatMap (fun e => lines64 e.1 e.2.length)
      held := (firstHeld t k (r.2.1.map (fun e => e.1))).map (· / 65536)
      loggedAt := u.loggedAt.or (some s.gcc) })

/-- SCATTER: elements reach their addresses in list order; where one fails, all its locations are undefined (R274). -/
def performScatter (s : State) (k : Nat) (u : Untimed) (v size : Nat) (idx : List Nat) (place : Place) : State :=
  let addrs := idx.map (entryAddr v size)
  let failed := firstFailed s k true addrs
  let data := memReadList (bufPrior s k place.buf place.off (idx.length * size)) 0 (idx.length * size)
  let bytes (i : Nat) : List Byte :=
    if failed.isSome then (List.range size).map (fun b => Config.freeByte (s.fresh + i * size + b))
    else (data.drop (i * size)).take size
  let s := modUntimed s k u.seq (fun u => { u with fault := failed.map (fun a => (0x0C, BitVec.ofNat 64 a)) })
  nextFresh (scatterOn s k u ((addrs.zipIdx).map (fun a => (a.1, bytes a.2)))) (idx.length * size)

/-- The elements of a SCATTER in the side log whose pages are mapped by now, in log order, then those that waited for room (R351). -/
def performReplay (s : State) (k : Nat) (u : Untimed) (els rest : List (Nat × List Byte)) : State := scatterOn s k u (els ++ rest)

/-! ### Fabric and durable transfers (R276, R278) -/

/-- The `n` pieces of 64 bytes of a run, four to each line of an FPUT or FGET (R276): index, device address, buffer offset. -/
def pieces (v off n : Nat) : List (Nat × Nat × Nat) := (List.range n).map (fun i => (i, v + 64 * i, off + 64 * i))

/-- The pages of a run must be mapped before any of it performs. -/
def whenMapped (s : State) (k : Nat) (u : Untimed) (sub : Nat) (addrs : List Nat) (go : State) : State :=
  match firstHeld s k addrs with
  | some a => holdJob s k u a sub
  | none => go

/-- FPUT and DPUT: each piece is one write, in any order among themselves (R92, R115, R276, R278). -/
def performPut (s : State) (k : Nat) (u : Untimed) (v : Nat) (place : Place) (n : Nat) : State :=
  let ps := pieces v place.off n
  whenMapped s k u 2 (ps.map (fun p => p.2.1)) (
    let put (t : State) (p : Nat × Nat × Nat) : State := match translate s k p.2.1 with
      | .hit q =>
        let bad := badBytes s k place.buf p.2.2 64 != []
        storeAt t k u.seq p.1 p.2.1 q (memReadList (bufPrior s k place.buf p.2.2 64) 0 64) bad
      | _ => t
    settle (ps.foldl put s) k u.seq)

/-- Deliver one piece of an FGET or DGET into the buffer. R78 names neither among the writes that carry failed parity, so one that
memory delivers uncorrectable lands clean, with bytes that the spec does not state, free values (log 45). -/
def landPiece (s : State) (k : Nat) (place : Place) (ix : Nat) (bytes : List Byte) (bad : Bool) : State :=
  let data := if bad then (List.range 64).map (fun i => Config.freeByte (s.fresh + i)) else bytes
  nextFresh (bufWrite s k place.buf (place.off + 64 * ix) 64 (memWriteList [] 0 data) []) (if bad then 64 else 0)

/-- FGET: a read request for each piece; this package's own are served at once (R276, R363). -/
def performFget (s : State) (k : Nat) (u : Untimed) (v : Nat) (place : Place) (n : Nat) : State :=
  let get (t : State) (p : Nat × Nat × Nat) : State := match translate s k p.2.1 with
    | .hit q =>
      if q.pkg = s.pkgId then
        if homeAccepts s s.pkgId (nodeIds (ctxOf s k)).1 q.paddr 64 then
          landPiece t k place p.1 (heldFabric s k q.pkg q.paddr (homeRead s k q.paddr 64).1) (isMarked s q.paddr)
        else modUntimed t k u.seq (fun u => { u with fault := u.fault.or (some (0x0C, BitVec.ofNat 64 p.2.1)) })
      else sendTrans t k u.seq p.1 q.pkg 1 q.paddr 64 []
    | _ => t
  settle ((pieces v place.off n).foldl get s) k u.seq

/-- DGET (R94, R118, R278). -/
def performDget (s : State) (k : Nat) (u : Untimed) (v : Nat) (place : Place) (n : Nat) : State :=
  let get (t : State) (p : Nat × Nat × Nat) : State := match translate s k p.2.1 with
    | .hit q =>
      let r := homeRead s k q.paddr 64
      landPiece t k place p.1 r.1 r.2
    | _ => t
  finishJob ((pieces v place.off n).foldl get s) k u.seq none none

/-- PCOMMIT's record becomes durable (R93). -/
def performRecord (s : State) (k : Nat) (u : Untimed) (v : Nat) (bytes : List Byte) : State :=
  atHome s k u v 2 true (fun p => settle (storeAt s k u.seq 0 v p bytes false) k u.seq)

/-! ### Queues (R280, R281) -/

/-- Is an MMAS of the context consuming the tokens of the queue? (R258) -/
def mmasHolds (c : Ctx) (q : Nat) : Bool :=
  c.allUntimed.any (fun u => match u.job with
    | .mmas p _ _ _ _ _ => p == q
    | _ => false)

/-- The oldest entry of a queue addressed to a context: what comes before it, it, and the rest. -/
def splitQueue (k : Nat) : List QEntry → Option (List QEntry × QEntry × List QEntry)
  | [] => none
  | e :: r => if e.dest = k then some ([], e, r) else (splitQueue k r).map (fun x => (e :: x.1, x.2))

/-- Remove the oldest entry of queue q addressed to context k. -/
def takeToken (s : State) (k q : Nat) : Option (QEntry × State) :=
  let cl := clusIx k
  (splitQueue k ((clusterOf s cl).queues.get q [])).map (fun x =>
    (x.2.1, modCluster s cl (fun c => { c with queues := c.queues.put q (x.1 ++ x.2.2) })))

/-- The end-of-stream token of queue q reaches the context: the exit predicates of its SLOOPs become all ones (R38, R170). -/
def deliverEos (s : State) (k q : Nat) : State :=
  modCtx s k (fun c => c.loops.foldl (fun c e =>
    if e.kind = .sloop ∧ e.queue = q then c.writeReg (.p e.pred (BitVec.allOnes 128)) else c) c)

/-- QSEND: the entry enters, or is held until the queue has room (R281). -/
def performQsend (s : State) (k : Nat) (u : Untimed) (q : Nat) (eos : Bool) (dest : Nat) (x : W64) : State :=
  sendEntry s (clusIx k) k u.seq q ⟨eos, dest, x, none⟩

/-- QRECV: nothing happens while the queue holds nothing for the context (R281). -/
def performQrecv (s : State) (k : Nat) (u : Untimed) (q : Nat) : State :=
  match takeToken s k q with
  | none => s
  | some (e, t) =>
    let t := if e.eos then deliverEos t k q else t
    finishJob t k u.seq (some e.x) none

/-- QUEUE_ENTRY_ENTER: a held entry enters when its queue has room (R280, R281). -/
def execQueueEntryEnter (clus q : Nat) (s : State) : Host.Outcome State Fault Refusal :=
  match (clusterOf s clus).full.get q [] with
  | [] => .next s
  | (k, seq, e) :: r =>
    if queueFull s clus q then .next s
    else .next (finishJob (enqueue (modCluster s clus (fun c => { c with full := c.full.put q r })) clus q e) k seq none none)

/-! ### The matrix array, untimed (R256–R258) -/

/-- All the lines of an operand of one k-group, read now; `missed` says whether the command has raised missed operand (R104). -/
def readGroup (s : State) (k agent : Nat) (d : Side) (tile : Buf × Int) (n : Nat) (missed : Bool) :
    State × Memory × List Nat × Bool :=
  let r := readSide { s with refused := [] } k agent [] [] missed (streamLines d tile n 1 0)
  ({ r.1 with refused := s.refused }, r.2)

/-- Zero the elements inside a tile's window. -/
def zeroWindow (s : State) (core : Nat) (t : TileIx) : State :=
  modTile s core t (fun x => tileFill x (rect 0 x.rows 0 x.cols) (fun _ _ => false) (fun _ _ => 0))

/-- One k-group of an untimed array operation, and whether the command has raised missed operand by now. -/
def untimedGroup (s : State) (k : Nat) (t : TileIx) (p : Prec) (d : Side × Side) (ta tb : Buf × Int) (na nb : Nat)
    (final zero missed : Bool) : State × Bool :=
  let a := readGroup s k 1 d.1 ta na missed
  let b := readGroup a.1 k 2 d.2 tb nb a.2.2.2
  let x := tileOf s (coreIx k) t
  (groupUpdate { b.1 with refused := [] } k 0 t p d x.rows x.cols final zero a.2.1 b.2.1 a.2.2.1 b.2.2.1, b.2.2.2)

/-- One group of an MMAG table: NK k-groups, or a zeroed window (R257). -/
def runGroup (s : State × Bool) (k : Nat) (ga gb : GWord) (padm : W64) (e : GroupEntry) : State × Bool :=
  if e.nk = 0 then (if e.z then (zeroWindow s.1 (coreIx k) e.tile, s.2) else s)
  else
    let d := groupSides (ctxOf s.1 k) e ga gb padm
    let p := precOf (ctxOf s.1 k).prec[e.tile]
    (List.range e.nk).foldl (fun s j =>
      let na := gField ga 17 + j
      let nb := gField gb 17 + j
      untimedGroup s.1 k e.tile p d (descTile d.1 na) (descTile d.2 nb) na nb (j + 1 == e.nk) (e.z && j == 0) s.2) s

/-- Is a flight a group of a timed array operation, still to be read or to update its tile? -/
def isMmaAct : Act → Bool
  | .mmaRead .. | .mmaUpdate .. => true
  | _ => false

/-- Has the core's array timed work still to do before an untimed operation of context `k`: spans to run, updates to perform, those
that a trap paused among them? (R255, R257) A handler's operation does not wait for those of the program it interrupts (log 114). -/
def arrayScheduled (s : State) (k seq : Nat) : Bool :=
  (List.range 4).any (fun i =>
    let j := coreIx k * 4 + i
    let c := ctxOf s j
    c.flights.any (fun f => isMmaAct f.act) || (!(j == k && c.isOwn seq) && c.snap.any (fun e => isMmaAct e.flight.act)))

/-- MMAG runs its groups in table order (R257). -/
def performMmag (s : State) (k : Nat) (u : Untimed) (ga gb : GWord) (padm : W64) (table : List W64) : State :=
  finishJob ((table.map groupEntry).foldl (fun s e => runGroup s k ga gb padm e) (keepTiles s (coreIx k), false)).1 k u.seq none none

/-- Clear a field of a descriptor. -/
def clearField (g : GWord) (f : Nat) : GWord :=
  match fieldWrite 0 f 0 with
  | .g _ mask _ => g &&& ~~~mask
  | _ => g

/-- A descriptor as MMAS uses it: KVAL, PADK and PADR ignored (R258). -/
def tokenDesc (g : GWord) : GWord := clearField (clearField (clearField g 4) 5) 6

/-- The fault of a token, lowest code first (R60, R247, R258, R384). -/
def tokenFault (c : Ctx) (t : TileIx) (p : Prec) (da db : Side) (abase nb : Nat) : Option (Nat × W64) :=
  if !precOk p || !descFormatOk da || !descFormatOk db then some (0x0D, 0)
  else if !ownsTile c t || !linesInside c .ab abase (tileLines da.fmt) || !descBuffersOk da || !descBuffersOk db ||
    !linesInside c (bufOf (gField da.g 19)) (gField da.g 18 + blockOffset da.g (gField da.g 17)) (scaleLines da) ||
    !linesInside c (bufOf (gField da.g 21)) (gField da.g 20 + blockOffset da.g (gField da.g 17)) (zeroLines da) ||
    !tileInside c db nb then some (0x16, 0)
  else none

/-- The A tile of a token of walk `seq` has been read: its lines are free for that walk again (R292). -/
def releaseLines (s : State) (k seq line : Nat) : State :=
  let free (w : Walk) : Walk := if w.ctx = k ∧ w.seq = seq then { w with busy := w.busy.filter (fun b => b.1 != line) } else w
  modCluster s (clusIx k) (fun c => { c with walk := c.walk.map free, startQ := c.startQ.map free })

/-- Run `f` on the cluster's state in which the lines of the A tile of a token of walk `w` are not pending: the MMAS that consumes the
token reads them (R298). The lines of a token that no walk sent stay pending (R30). -/
def readingToken {α : Type} (s : State) (k : Nat) (w : Option Nat) (line n : Nat) (f : State → State × α) : State × α :=
  let mine (l : Nat × Nat × Nat) : Bool := l.1 == k && w == some l.2.1 && decide (line ≤ l.2.2 ∧ l.2.2 < line + n)
  let held := (clusterOf s (clusIx k)).walkLines
  let r := f (modCluster s (clusIx k) (fun c => { c with walkLines := held.filter (fun l => !mine l) }))
  (modCluster r.1 (clusIx k) (fun c => { c with walkLines := held }), r.2)

/-- The first fault of an MMAS, reported at its wait (R258). TVAL of a token fault is not stated. -/
def mmasFault (s : State) (k : Nat) (u : Untimed) (code : Nat) : State :=
  nextFresh (modUntimed s k u.seq (fun u => { u with fault := some (code, Config.freeWord s.fresh) })) 1

/-- Has a byte of the A tile of a token been written in this very cycle? Its read belongs to a later one (R99). -/
def tokenFresh (s : State) (k : Nat) (ga : GWord) (e : QEntry) : Bool :=
  let c := ctxOf s k
  let t : TileIx := Fin.ofNat 4 (fieldOf e.x.toNat 60 2)
  let lo := c.base .ab + 256 * fieldOf e.x.toNat 32 13
  let n := 256 * tileLines (sideA (precOf c.prec[t]) (tokenDesc ga) 0).fmt
  !e.eos && (coreOf s (coreIx k)).written.any (fun w => w.1 == bufCode .ab && decide (lo ≤ w.2.1 ∧ w.2.1 < lo + n))

/-- One token of an MMAS (R258). A zero-row token uses no stream: of the checks only R60 and R384 concern its tile (log 43). -/
def takeMmasToken (s : State) (k : Nat) (u : Untimed) (q : Nat) (ga gb : GWord) (padm : W64) (tiles : List Nat) (missed : Bool)
    (e : QEntry) : State :=
  if e.eos then finishJob s k u.seq none none
  else
    let c := ctxOf s k
    let x := e.x.toNat
    let t : TileIx := Fin.ofNat 4 (fieldOf x 60 2)
    let job (missed : Bool) (s : State) : State :=
      modUntimed s k u.seq (fun u => { u with job := .mmas q ga gb padm (insertRising t.val tiles) missed })
    let s := keepTiles (job missed s) (coreIx k)
    let zero := e.x.getLsbD 63
    let line := fieldOf x 32 13
    let p := precOf c.prec[t]
    let da := sideA p (tokenDesc ga) padm
    let db := sideB p (tokenDesc gb) padm
    let nb := gField gb 17 + fieldOf x 0 32
    let s := match zero, e.walk with
      | false, some w => releaseLines s k w line
      | _, _ => s
    if u.fault.isSome then s
    else if zero then
      if !precOk p then mmasFault s k u 0x0D
      else if ownsTile c t then zeroWindow s (coreIx k) t
      else mmasFault s k u 0x16
    else match tokenFault c t p da db line nb with
      | some (code, _) => mmasFault s k u code
      | none =>
        let r := readingToken s k e.walk line (tileLines da.fmt) (fun s =>
          untimedGroup s k t p (da, db) (.ab, line) (descTile db nb) (gField ga 17) nb false (e.x.getLsbD 62) missed)
        job r.2 r.1

/-! ### VHACC (R226–R228) -/

/-- The progress of a VHACC as its result: OVF, NEXT, skipped, flags. -/
def haccResult (ovf : Bool) (next : Nat) (skipped : Bool) (fl : Flags) : W64 :=
  BitVec.ofNat 64 ((if ovf then 1 else 0) + next % 256 * 2 ^ 8 + (if skipped then 2 ^ 16 else 0) + fl.toNat * 2 ^ 32)

/-- Has an earlier VHACC of the same wait interval stopped? A handler's waits drain its own (R175, R228). -/
def haccStopped (c : Ctx) (seq : Nat) : Bool :=
  (if c.untimed.any (fun v => v.seq == seq) then c.untimed else c.snapU).any (fun v =>
    isHacc v && decide (v.seq < seq) && v.result.any (fun r => (r.x.getD 0).getLsbD 0))

/-- VHACC: the bytes it writes lose their failed parity, the others of its table keep it (R78, R226), and the shadow unit checks the
lanes it adds (R70). -/
def performVhacc (s : State) (k : Nat) (u : Untimed) (t : Ty) (x : HaccArgs) (base : Nat) (keys vals : VWord) (act : PWord)
    (rm slot : Nat) : State :=
  if haccStopped (ctxOf s k) u.seq then finishJob s k u.seq (some (haccResult false 64 true 0)) none
  else
    let b := haccBuf x
    let len := haccBytes x
    let r := haccRun t x keys vals act rm 64 (bufPrior s k b base len)
    let bad := (badBytes s k b base len).filter (fun i => !r.wrote.contains i)
    let s := bufWrite s k b base len r.mem bad
    let s := if t.isFloat && r.added != [] then
        shadowCheck s k slot t r.added
      else s
    finishJob s k u.seq (some (haccResult r.stop.isSome (r.stop.getD 64) false r.flags)) none

/-- HSTAT after a wait whose drain included VHACCs (R227). -/
def haccStatus (us : List Untimed) : W64 :=
  let xs := (us.filter isHacc).map (fun u => ((u.result.bind (fun r => r.x)).getD 0))
  let skip := (xs.filter (fun x => x.getLsbD 16)).length
  match xs.find? (fun x => x.getLsbD 0) with
  | some x => (x &&& 0xFF01) ||| BitVec.ofNat 64 (min skip 255 * 2 ^ 16)
  | none => BitVec.ofNat 64 (64 * 2 ^ 8)

/-! ### Barriers, SIGNAL, messages, system operations -/

/-- An arrival counts at its barrier; one at an uninitialised barrier is discarded with an access fault (R178, R179). -/
def performArrive (s : State) (k : Nat) (u : Untimed) (bar : Nat) : State :=
  let home := bar / 64
  let b := (coreOf s home).barriers.get (bar % 64) ⟨0, 0, 0⟩
  let s := finishJob s k u.seq none none
  if b.count = 0 then postCause s k 0x16 (BitVec.ofNat 64 (home * 256 + bar % 64))
  else
    let b' : Barrier := if b.arr + 1 = b.count then ⟨b.count, 0, b.phase + 1⟩ else ⟨b.count, b.arr + 1, b.phase⟩
    modCore s home (fun c => { c with barriers := c.barriers.put (bar % 64) b' })

/-- SIGNAL stages its write, and its vector behind it (R283). -/
def performSignal (s : State) (k : Nat) (u : Untimed) (v : Nat) (bytes : List Byte) (msi : Option Nat) : State :=
  atHome s k u v 2 true (fun p =>
    let page := if p.kind = .pg then some (v / 65536) else none
    let s := stage (logWrite s k u.seq v bytes) k (.hostWrite k u.seq p.paddr bytes page)
    let s := match msi with
      | some vec => stage s k (.msi k u.seq vec)
      | none => s
    finishJob s k u.seq none none)

/-- The context of a system core that takes its interrupts (log 6). -/
def systemCtx (i : Nat) : Nat := (Config.firstSystemCore + i) * 4

/-- MSGSEND: the payload reaches the system core, with interrupt source 1 (R194, R195). -/
def performMessage (s : State) (k : Nat) (u : Untimed) (dest : Nat) (bytes : List Byte) : State :=
  let s := modCore s (Config.firstSystemCore + dest) (fun c => { c with messages := c.messages ++ [bytes] })
  finishJob (modCtx s (systemCtx dest) (fun c => { c with irq := c.irq ||| 2 })) k u.seq none none

/-- TLBINV removes translations from every cluster's cache (R195, R350). -/
def performTlbinv (s : State) (k : Nat) (u : Untimed) (kind : TlbKind) (v : W64) (tenant : Nat) : State :=
  let goes (e : Nat × Nat × W64) : Bool := match kind with
    | .page => e.1 == tenant && e.2.1 == v.toNat / 65536
    | .tenant => e.1 == tenant
    | .all => true
  let s := { s with clusters := s.clusters.map (fun c => (c.1, { c.2 with tlb := c.2.tlb.filter (fun e => !goes e) })) }
  finishJob s k u.seq none none

/-- GFREEZE's result is the freeze GCC, once the group stands (R195, R341). -/
def performGfreeze (s : State) (k : Nat) (u : Untimed) (target f : Nat) : State :=
  match (ctxOf s target).freeze with
  | some z => finishJob s k u.seq (some (BitVec.ofNat 64 z.f)) none
  | none => if s.gcc < f then s else finishJob s k u.seq (some (BitVec.ofNat 64 f)) none

/-! ### The start of a walk (R286, R299, R300) -/

/-- Does an earlier operation of its context hold a walk back: an access, an MMAS on whatever queue among them, or a fence behind which
the walk's accesses stand? (R112, R286, log 100) -/
def holdsWalk (j : Job) : Bool :=
  isAccess j || (match j with
    | .fence .dur => false
    | .fence _ => true
    | _ => false)

/-- Have the accesses that the context of a walk issued before its WSTART performed? (R286) A walk that a restore put back has begun
already (R300). -/
def mayStart (s : State) (w : Walk) : Bool :=
  let c := ctxOf s w.ctx
  let free (f : Flight) : Bool := !decide (f.seq < w.seq) || !isAccessAct f.act
  w.begun || (c.allUntimed.all (fun u => !decide (u.seq < w.seq) || u.done || isExempt s w.ctx u.seq w.seq || !holdsWalk u.job) &&
    c.flights.all free && (c.isOwn w.seq || c.snap.all (fun e => free e.flight)))

/-- The queue a walk sends to and its first start: reasons 4 and 2 concern the WSTART offset (R286, R299). -/
def startFault (s : State) (w : Walk) : Option Nat :=
  if w.pc % 4 ≠ 0 then some 4 else if (walkFetch s w w.pc).isNone then some 2 else none

/-- WALK_START: the head of the start queue becomes the walk, once it may start (R286); one that a restore put there goes on where
it stood (R300). -/
def execWalkStart (clus : Nat) (s : State) : Host.Outcome State Fault Refusal :=
  let s := { s with walker := clus }
  match (clusterOf s clus).walk, (clusterOf s clus).startQ with
  | none, w :: _ =>
    if !mayStart s w then .next s
    else
      let s := modCluster s clus (fun c => { c with startQ := leaveQueue w c.startQ, walk := some { w with begun := true } })
      let w' : Walk := { w with begun := true }
      match (if w.begun then none else startFault s w) with
      | some 4 => .next (walkFault s w' 4 w.pc)
      | some r => .next (walkFault s w' r 0)
      | none => .next s
  | _, _ => .next s

/-! ### Held units and side logs (R351) -/

/-- May a member of a frozen group issue its bundle in this cycle, but for the freeze? -/
def wouldIssue (s : State) (k : Nat) : Bool :=
  let c := ctxOf s k
  c.wait.isNone && c.halted.isNone && c.idle == 0 && decide (c.resume ≤ s.gcc)

/-- A unit is released for a group: HU clears unless a bundle of the group still meets a held unit (R341, R351). -/
def releaseUnit (s : State) (k : Nat) : State :=
  let ms := groupOf s k
  if (ctxOf s k).freeze.any (fun f => f.marks.contains .hu) &&
      !ms.any (fun j => wouldIssue s j && meetsHeldUnit (thawedView s j) j) then clearGroup s k .hu 0
  else s

/-- Is a side-log entry ready to be replayed: its page mapped by now, or those of all entries that it followed into the log? (R351) -/
def isReplayable (s : State) (k : Nat) (u : Untimed) : Bool :=
  let ready (v : Untimed) : Bool := (heldPages v).any (pageMapped s k)
  if isLogHead u then ready u else isLogged s k u && (logHeads s k u).all ready

/-- The cycle in which an operation entered its side log: its own, or that of the entries that it follows. -/
def logTime (s : State) (k : Nat) (u : Untimed) : Nat :=
  u.loggedAt.getD ((logHeads s k u).foldl (fun m v => max m (v.loggedAt.getD 0)) 0)

/-- An entry of a side log: when it entered, its context and its operation. -/
structure LogEntry where
  at_ : Nat
  ctx : Nat
  seq : Nat
deriving DecidableEq, Repr

/-- Insert an entry in log order: by the cycle of entry, then by context and operation (R351). -/
def insertLog (e : LogEntry) : List LogEntry → List LogEntry
  | [] => [e]
  | x :: r =>
    if x.at_ < e.at_ ∨ (x.at_ = e.at_ ∧ (x.ctx < e.ctx ∨ (x.ctx = e.ctx ∧ x.seq ≤ e.seq))) then x :: insertLog e r else e :: x :: r

/-- The entries of the side log of a unit, of some contexts, that are ready, in log order (R351). -/
def replayOrder (s : State) (ks : List Nat) (unit : Nat) : List LogEntry :=
  (ks.flatMap (fun k => ((ctxOf s k).allUntimed.filter (fun u => (jobUnit u.job).any (·.1 == unit) && isReplayable s k u)).map
    (fun u => ⟨logTime s k u, k, u.seq⟩))).foldl (fun acc e => insertLog e acc) []

/-- Replay an entry of a side log; none where something before it in its context holds it back (R351). -/
def replayEntry (s : State) (e : LogEntry) : Option State :=
  let s := modUntimed s e.ctx e.seq (fun u => { u with held := none })
  ((ctxOf s e.ctx).allUntimed.find? (fun u => u.seq == e.seq)).bind (fun u =>
    if !mayPerform s e.ctx u then none
    else match u.job with
      | .store v b => some (performStore s e.ctx u v b)
      | .atomic op v n sx x c _ => some (showFault (performAtomic s e.ctx u op v n sx x c) e.ctx e.seq)
      | .replay els rest => some (performReplay s e.ctx u els rest)
      | _ => none)

/-- Replay at most `n` entries of a side log, in log order. One that stands behind an earlier operation of its context, which entered
the log later, comes after that one; where another operation holds it back, the replay stops, and the entries left stand in the log
until the next retry (R351, log 137). -/
def replayLog : Nat → List LogEntry → State → State
  | 0, _, s => s
  | _, [], s => s
  | n + 1, e :: r, s =>
    match replayEntry s e with
    | some t => replayLog n r t
    | none =>
      match r.findSome? (fun x => if x.ctx = e.ctx ∧ x.seq < e.seq then (replayEntry s x).map (fun t => (x, t)) else none) with
      | some (x, t) => replayLog n (e :: r.erase x) t
      | none => s

/-- The monitors of a context compare again where the page of their word is mapped by now (R176, R351). -/
def retryMonitors (s : State) (k : Nat) : State :=
  modCtx s k (fun c => { c with wait := c.wait.map (lookMapped s k), heldWait := c.heldWait.map (lookMapped s k) })

/-- SIDE_LOG_RETRY: the held reads of a core whose page is mapped are released, the log of each unit is replayed in its order, and HU
of the contexts whose units are free clears (R351). -/
def execSideLogRetry (core : Nat) (s : State) : Host.Outcome State Fault Refusal :=
  let ks := (List.range 4).map (fun i => core * 4 + i)
  let free (k : Nat) (u : Untimed) : Untimed :=
    if !isLogHead u && (heldPages u).any (pageMapped s k) then { u with held := none } else u
  let t := ks.foldl (fun s k => modCtx s k (fun c => { c with
    untimed := c.untimed.map (free k), snapU := c.snapU.map (free k) })) s
  let t := [0, 2].foldl (fun t unit => let l := replayOrder s ks unit; replayLog l.length l t) t
  .next (ks.foldl releaseUnit (ks.foldl retryMonitors t))

end Sys2Proof.Machine
end

