-- ==== Sys2Proof/Machine/Launch.lean ====
section
/-! DEFINITION. The launch unit: records, descriptors, admission, placement, commit, rollback, teardown and the queue
registers (R13–R20, R117, R120, R121, R311–R335, R354, R384, R385). -/

namespace Sys2Proof.Machine

/-! ### Launch records (R316) -/

/-- Fields of a record. -/
def recKdesc (r : GWord) : Nat := fieldOf (recWord r 0) 0 45
def recArgs (r : GWord) : Nat := fieldOf (recWord r 1) 0 45
def recArgLen (r : GWord) : Nat := fieldOf (recWord r 1) 48 16
def recVec (r : GWord) : Nat := fieldOf (recWord r 2) 21 11
def recMsi (r : GWord) : Bool := (recWord r 2).testBit 20
def recNpred (r : GWord) : Nat := fieldOf (recWord r 2) 16 3
def recRedundant (r : GWord) : Bool := (recWord r 2).testBit 6
def recKillable (r : GWord) : Bool := (recWord r 2).testBit 5
def recSpec (r : GWord) : Bool := (recWord r 2).testBit 4
def recPrio (r : GWord) : Nat := fieldOf (recWord r 2) 0 2
def recSigAddr (r : GWord) : Nat := fieldOf (recWord r 5) 0 45
def recSigVal (r : GWord) : Nat := recWord r 6

/-- The predecessor serials a record names. -/
def recPreds (r : GWord) : List Nat :=
  ([fieldOf (recWord r 3) 0 32, fieldOf (recWord r 3) 32 32, fieldOf (recWord r 4) 0 32, fieldOf (recWord r 4) 32 32]).take (recNpred r)

/-- Reserved fields zero, alignments kept (R316, R319 step 2). -/
def recReservedOk (r : GWord) : Bool :=
  fieldOf (recWord r 0) 45 19 == 0 && recKdesc r % 64 == 0 && fieldOf (recWord r 1) 45 3 == 0 && recArgLen r % 8 == 0 &&
  recArgs r % 8 == 0 && !(recWord r 2).testBit 19 && fieldOf (recWord r 2) 7 9 == 0 && fieldOf (recWord r 2) 2 2 == 0 &&
  fieldOf (recWord r 5) 45 19 == 0 && recWord r 7 == 0

/-! ### Kernel descriptors (R312), as memory from offset 0 -/

def kEntry (d : Memory) : Nat := memReadNat d 0x04 4
def kCodeReg (d : Memory) : Nat := memReadNat d 0x00 4
def kCodeLen (d : Memory) : Nat := memReadNat d 0x08 4
def kWoadOff (d : Memory) : Nat := memReadNat d 0x0C 2
def kWoadLen (d : Memory) : Nat := memReadNat d 0x0E 2
def kRunlen (d : Memory) : Nat := memReadNat d 0x10 4
def kAclass (d : Memory) : Nat := memReadNat d 0x14 1
def kLclass (d : Memory) : Nat := memReadNat d 0x15 1
def kGrant (d : Memory) : Nat := memReadNat d 0x16 2
def kCarry (d : Memory) : Nat := memReadNat d 0x18 2
def kFlags (d : Memory) : Nat := memReadNat d 0x1A 2
def kSync (d : Memory) : Bool := (kFlags d).testBit 0
def kTiles (d : Memory) : BitVec 4 := BitVec.ofNat 4 (fieldOf (kFlags d) 1 4)
def kLoaded (d : Memory) : Bool := (kFlags d).testBit 15
/-- Size of a partition: a multiple of 4 KiB (R72), a declared size that is none being rounded up (DESIGN CHOICE, log 107). -/
def kPart (d : Memory) (off : Nat) : Nat := (1024 * memReadNat d off 2 + 4095) / 4096 * 4096
def kSize (d : Memory) : Quad := ⟨kPart d 0x1C, kPart d 0x1E, kPart d 0x20, kPart d 0x22⟩
def kHeapSize (d : Memory) : Nat := memReadNat d 0x24 4
def kHeapVbase (d : Memory) : Nat := memReadNat d 0x28 8
def kHeapArg (d : Memory) : Nat := memReadNat d 0x30 2
def kNseg (d : Memory) : Nat := memReadNat d 0x32 1
def kNind (d : Memory) : Nat := memReadNat d 0x33 1
def kIndOff (d : Memory) : Nat := memReadNat d 0x34 4
def kArgMin (d : Memory) : Nat := memReadNat d 0x38 4
def kFrameOff (d : Memory) : Nat := memReadNat d 0x3C 4
def kNdata (d : Memory) : Nat := memReadNat d 0x900 4
/-- Segment entry i as the kernel supplies it. -/
def kSeg (d : Memory) (i : Nat) : Segment :=
  let w (j : Nat) : W64 := BitVec.ofNat 64 (memReadNat d (0x80 + 32 * i + 8 * j) 8)
  ⟨w 0, w 1, w 2, w 3⟩
def kSegArg (d : Memory) (i : Nat) : Nat := memReadNat d (0x880 + 2 * i) 2
def kSegs (d : Memory) : List Segment := (List.range (kNseg d)).map (kSeg d)

/-- Bytes of a descriptor that admission reads. -/
def kBytes (s : State) (a : Nat) : Nat := 0x908 + 16 * memReadNat s.mem (a + 0x900) 4

/-- Half-latency of a kernel's class (R81, R312). -/
def kHalf (d : Memory) : Nat := 300 + 40 * kLclass d

/-! ### The loop table (R13–R19) -/

/-- Raw entries up to the first end mark. -/
def loopEntries (d : Memory) : List Nat :=
  ((List.range 8).map (fun i => memReadNat d (0x40 + 8 * i) 8)).takeWhile (fun w => fieldOf w 0 3 != 0)

/-- Kinds and extents of the spatial levels; none where an ARG offset lies outside the argument block (R14), or is no multiple of
4, for which the spec names no refusal (DESIGN CHOICE, log 102). -/
def spatialLevels (d args : Memory) (arglen : Nat) : Option (List (Nat × Nat)) :=
  let extent (w : Nat) : Option (Nat × Nat) :=
    let v := fieldOf w 32 32
    if w.testBit 8 then (if v % 4 = 0 ∧ v + 4 ≤ arglen then some (fieldOf w 0 3, memReadNat args v 4) else none)
    else some (fieldOf w 0 3, v)
  ((loopEntries d).mapM extent).map (fun l => l.filter (fun e => decide (2 ≤ e.1 ∧ e.1 ≤ 4)))

/-- Product of the extents of the levels of a kind. -/
def kindProduct (levels : List (Nat × Nat)) (kind : Nat) : Nat := ((levels.filter (fun e => e.1 == kind)).map (fun e => e.2)).prod

/-- Coordinates of member `m` of gang `g`: the last level varies fastest, C levels count the gang, K and D the member
(R18, R19). -/
def taskCoords (g m : Nat) : List (Nat × Nat) → List Nat × Nat × Nat
  | [] => ([], g, m)
  | (kind, e) :: r =>
    let (t, g', m') := taskCoords g m r
    if kind = 2 then (g' % e :: t, g' / e, m') else (m' % e :: t, g', m' / e)

/-- The linear coordinate of a task in the levels of one kind. -/
def kindCoord (levels : List (Nat × Nat)) (tid : List Nat) (kind : Nat) : Nat :=
  ((levels.zip tid).filter (fun p => p.1.1 == kind)).foldl (fun acc p => acc * p.1.2 + p.2) 0

/-- Levels of a node, as admitted. -/
def nodeLevels (n : Node) : List (Nat × Nat) := (spatialLevels n.desc n.args (recArgLen n.record)).getD []

def gangCount (levels : List (Nat × Nat)) : Nat := if levels.any (fun e => e.2 == 0) then 0 else kindProduct levels 2
def gangSize (levels : List (Nat × Nat)) : Nat := kindProduct levels 3 * kindProduct levels 4

/-! ### Completion signals (R326) -/

/-- Word 1 of the completion signal. -/
def signalWord (n : Node) (ix status : Nat) : Nat :=
  recSerial n.record * 2 ^ 32 + ix % 1024 * 2 ^ 16 + min n.rolls 255 * 2 ^ 8 + status % 256

/-- Do `n` bytes at `a` lie in a region of the tenant? -/
def inRegions (t : Tenant) (a n : Nat) : Bool :=
  t.regions.any (fun r => decide (r.2.paddr ≤ a ∧ a + n ≤ r.2.paddr + r.2.size * 65536))

/-- Do `n` bytes lie in the tenant's host window? -/
def inHost (t : Tenant) (a n : Nat) : Bool := t.host.any (fun h => decide (h.1 ≤ a ∧ a + n ≤ h.1 + h.2))

/-- May the completion signal be written? (R319 step 1) -/
def signalOk (t : Tenant) (r : GWord) : Bool :=
  recSigAddr r == 0 || (recSigAddr r % 16 == 0 && (inRegions t (recSigAddr r) 16 || inHost t (recSigAddr r) 16))

/-- Write bytes for the device itself: no node's commit or rollback concerns them. -/
def putFinal (s : State) (a : Nat) (bytes : List Byte) : State := noteWrite (openWrite s none a bytes) a bytes.length

/-- Does the function's MSI-X table mask the vector? Vector control is at byte 12 of its entry, its mask bit 0 (R356; PRESUMED, log 120). -/
def isMasked (t : Tenant) (vec : Nat) : Bool := memReadNat t.msixTable (16 * vec + 12) 4 % 2 == 1

/-- Send MSI-X vector `vec` of a function; one that is masked stays pending (R356). -/
def sendMsix (s : State) (fn vec : Nat) : State :=
  if isMasked (tenantOf s fn) vec then
    modTenant s fn (fun t => { t with msixPending := if t.msixPending.contains vec then t.msixPending else t.msixPending ++ [vec] })
  else { s with msixSent := s.msixSent ++ [(fn, vec)] }

/-- Write the signal, word 1 then word 0, and send the vector, if it lies in the function's table (R319, R326). -/
def sendSignal (s : State) (fn ix : Nat) (n : Node) (status : Nat) : State :=
  let a := recSigAddr n.record
  let s := if a = 0 then s else
    putFinal (putFinal s (a + 8) (bytesOfNat 8 (signalWord n ix status))) a (bytesOfNat 8 (recSigVal n.record))
  if recMsi n.record && decide (recVec n.record < (tenantOf s fn).msix) then
    sendMsix s fn (recVec n.record)
  else s

/-- A record retires CANCELLED without an entry; where no signal can be written BAD rises (R319, R330, R333). -/
def cancelRecord (s : State) (fn : Nat) (r : GWord) : State :=
  if signalOk (tenantOf s fn) r then sendSignal s fn 0 { Node.reset with record := r } 1
  else modTenant s fn (fun t => { t with bad := min (t.bad + 1) 0xFFFF })

/-! ### Leaving a context (R16, R121, R135, R300) -/

/-- The context number of transactions that no context issued, or whose task has ended. -/
def noCtx : Nat := 4096

/-- Context `k` is of no sync group any more. -/
def dropMember (s : State) (k : Nat) : State :=
  (ctxOf s k).group.foldl (fun s j => modCtx s j (fun x => { x with group := x.group.filter (· != k) })) s

/-- Take context `k` out of the machine: its reservations, walks, queue entries held for it, and the task itself. Its
sequence numbers go on, so that nothing still under way meets a later operation. -/
def vacate (s : State) (k : Nat) : State :=
  let c := ctxOf s k
  let s := setCtx s k { Ctx.reset with seq := c.seq }
  let s := modCore s (coreIx k) (fun x => { x with
    resv := x.resv.filter (fun i => i.ctx != k)
    width := if x.width = some (ctxIx k) then none else x.width
    last := if x.width = some (ctxIx k) then ctxIx k else x.last })
  let s := modCluster s (clusIx k) (fun x => { x with
    walk := if x.walk.any (fun w => w.ctx == k) then none else x.walk
    startQ := x.startQ.filter (fun w => w.ctx != k)
    walkLines := x.walkLines.filter (fun l => l.1 != k)
    full := x.full.map (fun q => (q.1, q.2.filter (fun e => e.1 != k))) })
  stretchValue s (coreIx k)

/-- A staged write of context `old`, from now on under the key `new` (R207). -/
def Staged.moveTo (old new : Nat) : Staged → Staged
  | .hostWrite c q p b g => .hostWrite (if c = old then new else c) q p b g
  | .fabric c q g p b bad => .fabric (if c = old then new else c) q g p b bad
  | x => x

/-- Rename the issuer of staged writes of the node whose task `c` holds. -/
def renameStaged (s : State) (c : Ctx) (old new : Nat) : State :=
  let ids := nodeIds c
  modNode s ids.1 ids.2 (fun n => { n with staged := n.staged.map (Staged.moveTo old new) })

/-- The key of the staged writes of a task that waits saved: that of no context, as is `noCtx` for one that has ended. -/
def savedKey (handle : Nat) : Nat := noCtx + 1 + handle

/-- A task is over: its context leaves its sync group and is free, and no later task reads its staged writes as its own (R207). -/
def freeCtx (s : State) (k : Nat) : State := vacate (dropMember (renameStaged s (ctxOf s k) k noCtx) k) k

/-- The contexts that hold tasks of a node. -/
def nodeCtxs (s : State) (fn n : Nat) : List Nat :=
  (s.ctxs.filter (fun p => p.2.task.any (fun t => t.tenant == fn && t.node == n))).map (fun p => p.1)

/-- Pins of code that a node made are gone with its commit or rollback (R91). -/
def dropPins (s : State) (fn n : Nat) : State :=
  let keep (p : Nat × Nat × Nat) : Bool := p.2 != (fn, n)
  { s with
    cores := s.cores.map (fun c => (c.1, { c.2 with pins := c.2.pins.filter keep }))
    clusters := s.clusters.map (fun c => (c.1, { c.2 with pins := c.2.pins.filter keep })) }

/-- The packages other than this one that a node's REM segments name. -/
def remotePackages (s : State) (n : Node) : List Nat :=
  ((n.segs.filter (fun g => g.valid && g.kind == .rem && g.pkg != s.pkgId)).map (fun g => g.pkg)).eraseDups

/-- A commit or rollback transaction of a node (R117, R363). -/
def sendDecision (s : State) (fn : Nat) (n : Node) (op pkg : Nat) : State :=
  let tr : Transaction := {
    op := Fin.ofNat 16 op, src := Fin.ofNat 128 s.pkgId, tenant := Fin.ofNat 16 fn, lane := 0,
    tag := 0, addr := 0, detail := BitVec.ofNat 40 (recSerial n.record), data := [] }
  enter s ⟨pkg, noCtx, 0, 0, tr⟩

/-- Are writes or decisions of a node still on their way? -/
def effectsOut (s : State) (fn serial : Nat) : Bool :=
  let mine (o : Outbound) : Bool :=
    [0, 5, 6].contains o.tr.op.val && o.tr.src.val == s.pkgId && o.tr.tenant.val == fn && o.tr.detail.toNat % 2 ^ 32 == serial
  s.outbound.any mine || s.ports.any (fun p => p.2.waiting.any mine || p.2.replay.any (fun f => f.2.any mine))

/-! ### Rollback (R94, R117, R121, R327, R328) -/

/-- A run of HBM becomes undefined, but for bytes whose last write was a global atomic (R87, R121, R211). -/
def loseBytes (s : State) (a len : Nat) : State :=
  let kept := s.atomic.filter (fun x => decide (a ≤ x ∧ x < a + len))
  nextFresh (putSlice s a len (kept.foldl (fun m x => memWrite m (x - a) (memRead s.mem x)) (freeSlice s.fresh len))) len

/-- Every byte of a node's output segments in HBM becomes undefined (R87, R121). -/
def loseOutputs (s : State) (n : Node) : State :=
  let s := n.segs.foldl (fun s g =>
    if g.valid && g.kind == .plain && !g.readOnly then loseBytes s g.pbase g.bytes else s) s
  if n.heap.2.1 = 0 then s else loseBytes s ((n.heap.1 + n.heap.2.2).toNat) n.heap.2.1.toNat

/-- The pages of a node's writable PG segments that are mapped become undefined (R87, R121). -/
def losePages (s : State) (fn : Nat) (n : Node) : State :=
  let root := (tenantOf s fn).ptroot
  let pages := n.segs.flatMap (fun g =>
    if g.valid && g.kind == .pg && !g.readOnly then (List.range (g.bytes / 65536)).map (fun i => g.vbase + 65536 * i) else [])
  pages.foldl (fun s v =>
    if root.getLsbD 0 then
      match pageWalk s.mem (fieldOf root.toNat 13 32 * 8192) v with
      | some (p, true) => loseBytes s p 65536
      | _ => s
    else s) s

/-- Drop what the fabric unit still holds of a node's writes (R121). -/
def dropFabric (s : State) (fn serial : Nat) : State :=
  { s with outbound := s.outbound.filter (fun o => !(o.tr.op.val == 0 && o.tr.src.val == s.pkgId && o.tr.tenant.val == fn &&
      o.tr.detail.toNat % 2 ^ 32 == serial)) }

/-- The tasks of a node that have started and not ended, with their last persist points (R310). -/
def openTasks (s : State) (fn ix : Nat) : List (Nat × Option Nat) :=
  (nodeCtxs s fn ix).map (fun k => (k, (ctxOf s k).lastPersist)) ++
  (s.saved.filter (fun x => x.ctx.task.any (fun t => t.tenant == fn && t.node == ix))).map (fun x => (x.key, x.ctx.lastPersist))

/-- R121: the tasks of the node are gone, its staged effects discarded, its durable and fabric lines restored. -/
def discardEffects (s : State) (fn ix : Nat) : State :=
  let n := nodeOf s fn ix
  let gone := openTasks s fn ix
  let s := (nodeCtxs s fn ix).foldl freeCtx s
  let s := { s with saved := s.saved.filter (fun x => !x.ctx.task.any (fun t => t.tenant == fn && t.node == ix)) }
  let s := takeBack s ⟨false, 0, fn, ix⟩
  let s := if n.gangs.length < gangCount (nodeLevels n) ∨ n.running ≠ [] then losePages (loseOutputs s n) fn n else s
  let s := dropFabric (applyRollback s s.pkgId fn (recSerial n.record)) fn (recSerial n.record)
  let s := (remotePackages s n).foldl (fun s p => sendDecision s fn n 6 p) s
  dropPins (modNode s fn ix (fun n => { n with
    staged := []
    tentative := []
    digests := []
    running := []
    migrating := []
    dies := []
    asked := none
    unplacedSince := none
    fate := 0
    mustRoll := false
    laid := false
    past := n.past ++ gone
    gangs := List.range (gangCount (nodeLevels n)) })) fn ix

/-- A state before the commit begins, in which a node can be cancelled (R321). -/
def isLive (n : Node) : Bool :=
  match n.state with
  | .free | .retired => false
  | _ => true

/-- Has the commit of the node begun? Its predecessors are retired and only child launches are left to enter. -/
def commitBegun (n : Node) : Bool := n.state == .committing && n.status == 0xFF

/-- The live nodes of a tenant that depend on entry `ix`, in table order. -/
def dependants (s : State) (fn ix : Nat) : List Nat :=
  ((tenantOf s fn).nodes.filter (fun p => isLive p.2 && p.2.preds.contains ix)).map (fun p => p.1)

/-- The node waits for its rollback at the homes, and then retires with a status (R121, R326); 0: it runs again. -/
def awaitDiscard (s : State) (fn ix status : Nat) : State :=
  modNode s fn ix (fun n => { n with state := .rollingBack, fate := status })

/-- Nodes of a tenant are over, and with them what is undefined for them (R359). -/
def forgetClouds (s : State) (fn : Nat) (gone : Nat → Bool) : State :=
  { s with clouded := s.clouded.filter (fun c => !(c.tenant == fn && gone c.node)) }

/-- Retire a node with a status: signal, vector, then its dependants in turn (R320, R326, R329). A dependant of a node
that retired otherwise than OK is discarded and retires CANCELLED after it, once its rollback has reached every home. -/
def retireNode : Nat → State → Nat → Nat → Nat → State
  | 0, s, _, _, _ => s
  | fuel + 1, s, fn, ix, status =>
    let n := nodeOf s fn ix
    let s := sendSignal s fn ix n status
    let s := forgetClouds (modNode s fn ix (fun n => { n with state := .retired, status := status, gangs := [], preds := [] })) fn (· == ix)
    (dependants s fn ix).foldl (fun s j =>
      if status = 0 then modNode s fn j (fun m => { m with preds := m.preds.filter (· != ix) })
      else
        let s := discardEffects s fn j
        if effectsOut s fn (recSerial (nodeOf s fn j).record) then awaitDiscard s fn j 1 else retireNode fuel s fn j 1) s

/-- Retire with fuel for a whole node table. -/
def retire (s : State) (fn ix status : Nat) : State := retireNode 1025 s fn ix status

/-- The end of a rollback: back to WAITING, or retired (R326, R328, R330). It waits for the fabric lines to be restored
(R117). The tasks that a node's earlier run had started count no more for a journal (R96; DESIGN CHOICE, log 127). -/
def finishRollback (s : State) (fn ix : Nat) : State :=
  let n := nodeOf s fn ix
  if n.state ≠ .rollingBack ∨ effectsOut s fn (recSerial n.record) then s
  else if n.fate ≠ 0 then retire s fn ix n.fate
  else if (tenantOf s fn).rollmax.toNat < n.ownRolls then retire s fn ix 5
  else if (tenantOf s fn).tda then retire s fn ix 1
  else modNode s fn ix (fun n => { n with state := .waiting, past := [], ranOn := [] })

/-- Discard a node's effects and retire it (R326: the signal follows the discard). -/
def endNode (s : State) (fn ix status : Nat) : State := finishRollback (awaitDiscard (discardEffects s fn ix) fn ix status) fn ix

/-- Roll a node back (R327); the SPEC nodes that depend on it and have left WAITING follow. -/
def rollNode : Nat → State → Nat → Nat → Bool → State
  | 0, s, _, _, _ => s
  | fuel + 1, s, fn, ix, own =>
    let deps := dependants s fn ix
    let s := discardEffects s fn ix
    let s := modNode s fn ix (fun n => { n with
      state := .rollingBack
      rolls := min (n.rolls + 1) 255
      ownRolls := n.ownRolls + (if own then 1 else 0) })
    let s := deps.foldl (fun s j =>
      match (nodeOf s fn j).state with
      | .ready | .running | .committing => rollNode fuel s fn j false
      | _ => s) s
    finishRollback s fn ix

/-- Is a cause a program error, for which Lemelo ends the node FAULTED? (R336) -/
def isProgramError (c : Nat) : Bool :=
  [0x01, 0x03, 0x04, 0x05, 0x06, 0x07, 0x08, 0x09, 0x0A, 0x0C, 0x0D, 0x0E, 0x14, 0x15, 0x16].contains c

/-- The contexts of a node that stand in a handler for a program error. -/
def programErrors (s : State) (fn n : Nat) : List Nat :=
  (nodeCtxs s fn n).filter (fun k => (ctxOf s k).mode == .supervisor && isProgramError (ctxOf s k).tcause.toNat)

/-- Post cause 0x27 for a context (R336, R338). -/
def postProgramError (s : State) (k : Nat) : State :=
  let c := ctxOf s k
  postCtxFault s k 0 0x27 c.tval c.tcause.toNat c.tpc.toNat

/-- Is an entry of the node held back by a full buffer? Its cause is serviced from the entry, once that is posted (R340). -/
def isEntryHeld (s : State) (fn n : Nat) : Bool :=
  s.diesT.any (fun d => d.2.held.any (fun e => fieldOf e.w0.toNat 60 4 == fn && fieldOf e.w0.toNat 50 10 == n &&
    fieldOf e.w0.toNat 0 8 != 0x20 && fieldOf e.w0.toNat 0 8 != 0x0B))

/-- The service of a node's program errors: they are posted as cause 0x27 and the node ends FAULTED, at once or, where a full buffer holds
an entry at its source, from the entry; till then the context stays frozen with its group (R336, R340). -/
def endPrograms (s : State) (fn n : Nat) (errs : List Nat) : State :=
  let s := errs.foldl postProgramError s
  if isEntryHeld s fn n then modNode (errs.foldl (fun s k => freezeGroup s k .dbl) s) fn n (fun m => { m with fate := 5 })
  else endNode s fn n 5

/-- Does a context of the node wait for a page (R89, R299)? -/
def awaitsPage (s : State) (fn n : Nat) : Bool :=
  (nodeCtxs s fn n).any (fun k =>
    (ctxOf s k).freeze.any (fun f => f.marks.contains .pf) || (ctxOf s k).allUntimed.any (fun u => !u.done && heldPages u != []) ||
    (clusterOf s (clusIx k)).walk.any (fun w => w.ctx == k && w.held.isSome))

/-- Has a predecessor of a SPEC node gone back? (R327) -/
def predecessorRolled (s : State) (fn : Nat) (x : Node) : Bool :=
  recSpec x.record && x.preds.any (fun p => match (nodeOf s fn p).state with
    | .rollingBack | .waiting | .ready => true
    | _ => false)

/-- NODE_ROLLBACK: Lemelo or the launch unit ends a run of the node. With `own`: with the fate that R299 or R337 gives it, FAULTED
for a program error or for a page that the tenant's store does not hold, which the outside world tells by this event (R336), and
by a rollback for an error of R327; without: by a rollback that follows a predecessor's. Without such a cause nothing happens. A
rollback under way completes once its fabric lines are restored. -/
def execNodeRollback (fn n : Nat) (own : Bool) (s : State) : Host.Outcome State Fault Refusal :=
  let x := nodeOf s fn n
  let errs := programErrors s fn n
  match x.state with
  | .running | .committing =>
    .next (if commitBegun x ∨ (own ∧ isEntryHeld s fn n) then s
      else if !own then (if predecessorRolled s fn x then rollNode 1025 s fn n false else s)
      else if x.fate ≠ 0 then endNode s fn n x.fate
      else if errs ≠ [] then endPrograms s fn n errs
      else if x.mustRoll then rollNode 1025 s fn n true
      else if awaitsPage s fn n then endNode s fn n 5
      else s)
  | .rollingBack => .next (finishRollback s fn n)
  | .ready => .next (if own && x.asked.isSome then endNode s fn n 5 else s)
  | _ => .next s

/-! ### Commit (R94, R117, R120, R321) -/

/-- Insert a staged launch by staging context, then issue order (R318). -/
def insertLaunch (x : Nat × Nat × GWord) : List (Nat × Nat × GWord) → List (Nat × Nat × GWord)
  | [] => [x]
  | y :: r => if y.1 < x.1 ∨ (y.1 = x.1 ∧ y.2.1 ≤ x.2.1) then y :: insertLaunch x r else x :: y :: r

/-- The child launches of a node, in the order in which they enter the queue. -/
def childLaunches (n : Node) : List (Nat × Nat × GWord) :=
  (n.staged.filterMap (fun x => match x with
    | .launch c q r => some (c, q, r)
    | _ => none)).foldl (fun acc x => insertLaunch x acc) []

/-- The physical place of a tenant's page as its table has it (R348). -/
def pageHome (s : State) (fn page : Nat) : Option Nat :=
  let r := (tenantOf s fn).ptroot
  if r.getLsbD 0 then (pageWalk s.mem (fieldOf r.toNat 13 32 * 8192) (page * 65536)).map (fun p => p.1) else none

/-- Does a staged write wait for its page, evicted since? (R283, R350; DESIGN CHOICE, log 118) -/
def awaitsHome (s : State) (fn : Nat) : Staged → Bool
  | .hostWrite _ _ _ _ (some page) => (pageHome s fn page).isNone
  | _ => false

/-- One staged effect of steps 2 and 3 of R120 applied; a write of a paged segment finds its page where it lies by now. -/
def applyStaged (fn serial : Nat) (s : State) : Staged → State
  | .fabric k q pkg a bytes bad =>
    if pkg = s.pkgId then applyWrite s s.pkgId fn serial a bytes bad
    else
      let d := writeDetail bytes bad
      let t := makeTrans s k 0 a d bytes
      let tr : Transaction := { t with tenant := Fin.ofNat 16 fn, detail := BitVec.ofNat 40 (serial + d * 2 ^ 32) }
      enter s ⟨pkg, k, q, 0, tr⟩
  | .hostWrite _ _ a bytes none => putFinal s a bytes
  | .hostWrite _ _ a bytes (some page) => match pageHome s fn page with
    | some p => putFinal s (p + a % 65536) bytes
    | none => s
  | .msi _ _ vec => sendMsix s fn vec
  | .launch .. => s

/-- Is it a fabric write that a SPEC node holds back? -/
def isFabricEffect : Staged → Bool
  | .fabric .. => true
  | _ => false

/-- Is it a child launch? -/
def isLaunchEffect : Staged → Bool
  | .launch .. => true
  | _ => false

/-- Steps 1 and 2 of R120; fabric writes and the decision leave for their homes. -/
def applyEffects (s : State) (fn ix : Nat) : State :=
  let n := nodeOf s fn ix
  let serial := recSerial n.record
  let s := closeWrites (liftClouds s (fun no a => n.tentative.any (fun w => w.covers a && decide (no < w.no)))) ⟨false, 0, fn, ix⟩
  let s := (n.staged.filter isFabricEffect).foldl (applyStaged fn serial) s
  let s := applyCommit s s.pkgId fn serial
  let s := (remotePackages s n).foldl (fun s p => sendDecision s fn n 5 p) s
  modNode s fn ix (fun n => { n with tentative := [], staged := n.staged.filter (fun x => !isFabricEffect x) })

/-- Step 3 of R120: the staged writes of host memory, with the vectors of SIGNAL behind them (R283). -/
def applyHostEffects (s : State) (fn ix : Nat) : State :=
  let n := nodeOf s fn ix
  let s := (n.staged.filter (fun x => !isLaunchEffect x)).foldl (applyStaged fn (recSerial n.record)) s
  modNode s fn ix (fun n => { n with staged := n.staged.filter isLaunchEffect })

/-- Step 4 of R120: as many children as have room enter the queue; under teardown each is cancelled at once (R318, R330). -/
def enterChildren (s : State) (fn ix : Nat) : State :=
  let n := nodeOf s fn ix
  let t := tenantOf s fn
  let kids := childLaunches n
  if t.tda then
    let s := kids.foldl (fun s k => cancelRecord s fn k.2.2) s
    modNode s fn ix (fun n => { n with staged := [] })
  else
    let room := 256 - t.queue.length
    let now := kids.take room
    let s := modTenant s fn (fun t => { t with
      queue := t.queue ++ now.map (fun k => k.2.2)
      qserial := (now.getLast?.map (fun k => BitVec.ofNat 32 (recSerial k.2.2))).getD t.qserial })
    modNode s fn ix (fun n => { n with staged := (kids.drop room).map (fun k => Staged.launch k.1 k.2.1 k.2.2) })

/-- Go on with a commit: step 3 follows once the homes have the fabric writes and the decision, steps 5 and 6 once the last child
has found room in the launch queue (R120, R318). -/
def continueCommit (s : State) (fn ix : Nat) : State :=
  if !commitBegun (nodeOf s fn ix) ∨ effectsOut s fn (recSerial (nodeOf s fn ix).record) ∨
      (nodeOf s fn ix).staged.any (awaitsHome s fn) then s
  else
    let s := enterChildren (applyHostEffects s fn ix) fn ix
    if (nodeOf s fn ix).staged = [] then retire (dropPins s fn ix) fn ix 0 else s

/-- NODE_COMMIT (R120, R321, R329, R354). -/
def execNodeCommit (fn n : Nat) (s : State) : Host.Outcome State Fault Refusal :=
  let x := nodeOf s fn n
  if commitBegun x then .next (continueCommit s fn n)
  else if x.state = .committing ∧ x.preds = [] ∧ x.digests = [] ∧ x.fate = 0 ∧ !x.mustRoll then
    .next (continueCommit (modNode (applyEffects s fn n) fn n (fun m => { m with status := 0xFF })) fn n)
  else .next s

/-! ### The launch port (R317) -/

/-- LAUNCH_PORT_WRITE: a write at `off` of the 64-byte port. -/
def execLaunchPortWrite (fn off : Nat) (bytes : List Byte) (s : State) : Host.Outcome State Fault Refusal :=
  let t := tenantOf s fn
  let inside := (bytes.zipIdx).filter (fun b => decide (off + b.2 < 64))
  let stage := inside.foldl (fun m b => memWrite m (off + b.2) b.1) t.stage
  if inside.any (fun b => off + b.2 == 0x3F) then
    let r := BitVec.ofNat 512 (memReadNat stage 0 64)
    if !t.en || t.tda || decide (256 ≤ t.queue.length) then
      .next (modTenant s fn (fun t => { t with stage := [], drop := min (t.drop + 1) 0xFFFF }))
    else
      .next (modTenant s fn (fun t => { t with
        stage := [], queue := t.queue ++ [r], qserial := BitVec.ofNat 32 (recSerial r) }))
  else .next (modTenant s fn (fun t => { t with stage := stage }))

/-! ### Admission (R318–R320) -/

/-- A segment as bound by its argument word; `none` where the binding fails (R86, R314, R319 step 5). Only the region number of a word
that names a region is read (R4). -/
def bindSegment (t : Tenant) (g : Segment) (binding : Option Nat) : Option Segment :=
  if !g.valid then some g
  else match g.kind, binding with
    | .pg, _ => some g
    | _, none => none
    | .plain, some b =>
      match t.regions.find? (fun r => r.1 == b % 65536) with
      | none => none
      | some r =>
        if g.bytes ≤ r.2.size * 65536 then
          some { g with
            w2 := BitVec.ofNat 64 r.2.paddr
            w3 := (g.w3 &&& ~~~0x700) ||| BitVec.ofNat 64 (stackOf r.2.paddr % 8 * 256) }
        else none
    | .dur, some b =>
      if b % 65536 = 0 ∧ t.durable.any (fun d => decide (d.1 ≤ b ∧ b + g.bytes ≤ d.1 + d.2)) then
        some { g with w2 := BitVec.ofNat 64 b } else none
    | .host, some b =>
      if b % 65536 = 0 ∧ inHost t b g.bytes then some { g with w2 := BitVec.ofNat 64 b } else none
    | .rem, some b => some { g with w2 := BitVec.ofNat 64 (b % 2 ^ 52) }

/-- A binding word of the argument block. -/
def bindingAt (args : Memory) (arglen off : Nat) : Option Nat := if off + 8 ≤ arglen then some (memReadNat args off 8) else none

/-- The bound segment table; `none` where a binding fails. -/
def bindSegments (t : Tenant) (d args : Memory) (arglen : Nat) : Option (List Segment) :=
  (List.range (kNseg d)).mapM (fun i => bindSegment t (kSeg d i) (bindingAt args arglen (kSegArg d i)))

/-- The fields of HEAP.BASE, HEAP.LIM and HEAP.OFF; their other bits read zero (R85). -/
def heapMask (x : W64) : W64 := x &&& 0x00FF_FFFF_FFFF_0000
def heapLimMask (x : W64) : W64 := x &&& 0x0000_3FFF_FFFF_0000
def heapOffMask (x : W64) : W64 := x &&& 0xFFFF_FFFF_FFFF_0000

/-- The heap registers BASE, LIM, OFF; `none` where the heap's binding fails (R85, R314). -/
def bindHeap (t : Tenant) (d args : Memory) (arglen : Nat) : Option (W64 × W64 × W64) :=
  if kHeapSize d = 0 then some (0, 0, 0)
  else match bindingAt args arglen (kHeapArg d) with
    | none => none
    | some b => match t.regions.find? (fun r => r.1 == b % 65536) with
      | none => none
      | some r =>
        if kHeapSize d ≤ r.2.size then
          let base := heapMask (BitVec.ofNat 64 (kHeapVbase d))
          some (base, heapLimMask (BitVec.ofNat 64 (kHeapSize d * 65536)), heapOffMask (BitVec.ofNat 64 r.2.paddr - base))
        else none

/-- Add a region's ACCMASK: a region bound twice has one home that serves both masks (R324). -/
def addMask (r : Nat × Nat) : List (Nat × Nat) → List (Nat × Nat)
  | [] => [r]
  | x :: l => if x.1 = r.1 then (x.1, x.2 ||| r.2) :: l else x :: addMask r l

/-- Region numbers a node binds, each once, with its ACCMASK: all ones for the heap (R324). -/
def boundRegions (d args : Memory) (arglen : Nat) : List (Nat × Nat) :=
  (((List.range (kNseg d)).filterMap (fun i =>
    let g := kSeg d i
    if g.valid && g.kind == MemKind.plain then
      (bindingAt args arglen (kSegArg d i)).map (fun b => (b % 65536, fieldOf g.w3.toNat 32 4))
    else none)) ++
  (if kHeapSize d = 0 then [] else ((bindingAt args arglen (kHeapArg d)).map (fun b => (b % 65536, 15))).toList)).foldl
    (fun l r => addMask r l) []

/-- The reserved fields of a segment entry, valid or not, are zero (R4, R86). -/
def segmentReservedOk (g : Segment) : Bool :=
  fieldOf g.w0.toNat 56 8 == 0 && fieldOf g.w1.toNat 46 18 == 0 && fieldOf g.w2.toNat 52 12 == 0 &&
  fieldOf g.w3.toNat 36 28 == 0 && fieldOf g.w3.toNat 11 21 == 0 && fieldOf g.w3.toNat 6 2 == 0

/-- The checks of R86 on the segment entries themselves. A SIZE of 0, and non-zero bits [15:0] of words 0 and 1, which stand in no row of
R86, are refused with them (DESIGN CHOICE, log 128). -/
def segmentsOk (d : Memory) : Bool :=
  let gs := (kSegs d).filter Segment.valid
  let flag (g : Segment) (i : Nat) : Nat := if g.w3.getLsbD i then 1 else 0
  let one (g : Segment) : Bool :=
    decide (flag g 2 + flag g 3 + flag g 4 ≤ 1) && !(g.w3.getLsbD 1 && decide (0 < flag g 2 + flag g 3 + flag g 4)) &&
    fieldOf g.w0.toNat 0 16 == 0 && fieldOf g.w1.toNat 0 16 == 0 && decide (0 < g.bytes)
  let meet (a m b n : Nat) : Bool := decide (a < b + n ∧ b < a + m)
  let pairs := (gs.zipIdx).all (fun x => (gs.zipIdx).all (fun y =>
    decide (y.2 ≤ x.2) || !meet x.1.vbase x.1.bytes y.1.vbase y.1.bytes))
  decide (kNseg d ≤ 64) && (kSegs d).all segmentReservedOk && gs.all one && pairs && gs.all (fun g => kHeapSize d == 0 || !meet g.vbase g.bytes (kHeapVbase d) (kHeapSize d * 65536))

/-- The data table lies inside its segments (R312, R385). -/
def dataTableOk (d : Memory) : Bool :=
  (List.range (kNdata d)).all (fun i =>
    let e := 0x908 + 16 * i
    let g := kSeg d (memReadNat d e 1)
    decide (memReadNat d e 1 < kNseg d) && [1, 2, 4, 8].contains (memReadNat d (e + 1) 1) && g.valid &&
    decide (memReadNat d (e + 4) 4 + memReadNat d (e + 1) 1 ≤ g.bytes))

/-- The launch-time checks of R14. -/
def levelsOk (levels : Option (List (Nat × Nat))) : Bool :=
  match levels with
  | none => false
  | some l => decide (kindProduct l 3 ≤ 4 ∧ kindProduct l 4 ≤ 4 ∧ (l.map (fun e => e.2)).prod ≤ 2 ^ 32 - 1)

/-- Does a stack give a core the kernel's class, and on one of its engines the kernel's interval? A kernel of GRANT 0
copies nothing (R82, R323). -/
def stackFits (t : Tenant) (d : Memory) (core stack : Nat) : Bool :=
  kGrant d == 0 || (halfLatency (dieIx (4 * core)) stack == kHalf d &&
    (t.grants.contains (core, 0, stack, kGrant d) || t.grants.contains (core, 1, stack, kGrant d)))

/-- The `n`-element sublists of a list. -/
def choose : Nat → List Nat → List (List Nat)
  | 0, _ => [[]]
  | _ + 1, [] => []
  | n + 1, x :: r => (choose n r).map (x :: ·) ++ choose (n + 1) r

/-- The sets of `n` cores of the tenant in one cluster of a die. -/
def coreSets (t : Tenant) (die n : Nat) : List (List Nat) :=
  (List.range 24).flatMap (fun i => choose n (t.cores.filter (fun c => c / 4 == die * 24 + i)))

/-- Stacks a region may still have, given cores of D coordinate `dc` (R324). -/
def narrow (t : Tenant) (d : Memory) (dc : Nat) (cores : List Nat) (rs : List (Nat × List Nat)) : List (Nat × List Nat) :=
  rs.map (fun r => (r.1, if r.1.testBit dc then r.2.filter (fun st => cores.all (fun c => stackFits t d c st)) else r.2))

/-- Is there a placement for the D coordinates `dc`, … on distinct dies? (R319 step 6) -/
def placeable (t : Tenant) (d : Memory) (k : Nat) : Nat → Nat → List Nat → List (Nat × List Nat) → Bool
  | 0, _, _, rs => rs.all (fun r => r.2 != [])
  | left + 1, dc, dies, rs => dies.any (fun die => (coreSets t die k).any (fun cores =>
      placeable t d k left (dc + 1) (dies.filter (· != die)) (narrow t d dc cores rs)))

/-- Step 6 of R319. -/
def placementExists (t : Tenant) (d args : Memory) (arglen : Nat) (levels : List (Nat × Nat)) : Bool :=
  gangCount levels == 0 ||
  placeable t d (kindProduct levels 3) (kindProduct levels 4) 0 (List.range 4)
    ((boundRegions d args arglen).map (fun r => (r.2, List.range 8)))

/-- A tenant less the cores of quarantined clusters, four for each (R378). -/
def inService (s : State) (t : Tenant) : Tenant :=
  { t with cores := t.cores.filter (fun c => !(clusterOf s (c / 4)).quarantined) }

/-- Steps 2 to 6 of R319. -/
def admissible (s : State) (fn : Nat) (r : GWord) : Bool :=
  let t := inService s (tenantOf s fn)
  let a := recKdesc r
  let n := kBytes s a
  let d := memSlice s.mem a n
  let args := memSlice s.mem (recArgs r) (recArgLen r)
  let levels := spatialLevels d args (recArgLen r)
  recReservedOk r && decide (recNpred r ≤ 4) && !(recPreds r).contains (recSerial r) &&
  recSerial r != 0 && !t.nodes.any (fun x => isLive x.2 && recSerial x.2.record == recSerial r) &&
  inRegions t a n && kLoaded d && decide (kArgMin d ≤ recArgLen r) &&
  levelsOk levels && segmentsOk d && (bindSegments t d args (recArgLen r)).isSome &&
  (bindHeap t d args (recArgLen r)).isSome && dataTableOk d &&
  t.regions.any (fun x => x.1 == kCodeReg d) &&
  placementExists t d args (recArgLen r) (levels.getD [])

/-- The first free or retired entry from `start` on, round-robin (R318). -/
def freeEntry (t : Tenant) (start : Nat) : Option Nat :=
  ((List.range 1024).map (fun i => (start + i) % 1024)).find? (fun i => !isLive (Table.get t.nodes i Node.reset))

/-- How a named serial resolves (R320): a live entry, failed, or satisfied. -/
inductive Resolved where
  | live (ix : Nat)
  | failed
  | satisfied

/-- Resolve a serial among the live entries, then the retired ones. -/
def resolvePred (t : Tenant) (serial : Nat) : Resolved :=
  match t.nodes.find? (fun x => isLive x.2 && recSerial x.2.record == serial) with
  | some x => .live x.1
  | none => match t.nodes.find? (fun x => x.2.state == .retired && recSerial x.2.record == serial) with
    | some x => if x.2.status = 0 then .satisfied else .failed
    | none => .satisfied

/-- The new entry of an admitted record. -/
def newNode (s : State) (r : GWord) : Node :=
  let d := memSlice s.mem (recKdesc r) (kBytes s (recKdesc r))
  let args := memSlice s.mem (recArgs r) (recArgLen r)
  { Node.reset with
    state := .waiting
    record := r
    desc := d
    args := args
    gangs := List.range (gangCount ((spatialLevels d args (recArgLen r)).getD [])) }

/-- Has a tenant's queue nothing to admit, or a head record that finds no entry? (R318) -/
def queueBlocked (s : State) (fn : Nat) : Bool :=
  (tenantOf s fn).queue == [] || (freeEntry (tenantOf s fn) (tenantOf s fn).alloc).isNone

/-- Is it the turn of a tenant's queue: are those served before it blocked? (R318) -/
def queueTurn (s : State) (fn : Nat) : Bool :=
  (List.range ((fn + 16 - s.admitNext % 16) % 16)).all (fun i => queueBlocked s ((s.admitNext + i) % 16))

/-- NODE_ADMISSION: the head record of a queue enters the node table (R318–R320). -/
def execNodeAdmission (fn : Nat) (s : State) : Host.Outcome State Fault Refusal :=
  let t := tenantOf s fn
  match t.queue, freeEntry t t.alloc with
  | r :: rest, some ix =>
    if !queueTurn s fn then .next s
    else
      let s := modTenant { s with admitNext := (fn + 1) % 16 } fn (fun t => { t with queue := rest, alloc := (ix + 1) % 1024 })
      -- a commit that waits for room goes on first (R318)
      let s := ((tenantOf s fn).nodes.filter (fun x => commitBegun x.2)).foldl (fun s x => continueCommit s fn x.1) s
      let bare : Node := { Node.reset with state := .waiting, record := r }
      if !signalOk t r then
        .next (modNode (modTenant s fn (fun t => { t with bad := min (t.bad + 1) 0xFFFF })) fn ix (fun _ => Node.reset))
      else if !admissible s fn r || (recMsi r && decide (t.msix ≤ recVec r)) then
        .next (retire (modNode s fn ix (fun _ => bare)) fn ix 2)
      else
        let found := (recPreds r).map (resolvePred (tenantOf s fn))
        let live := found.filterMap (fun x => match x with
          | .live i => some i
          | _ => none)
        let failed := found.any (fun x => match x with
          | .failed => true
          | _ => false)
        let s := modNode s fn ix (fun _ => { newNode s r with preds := live.eraseDups })
        .next (if failed then retire s fn ix 1 else s)
  | _, _ => .next s

/-! ### The data table (R385) -/

/-- Write bytes of the data table into the memory of a package: under serial 0, for they are not staged (R385). The sequence number
of the transaction is the node's number. -/
def sendDatum (s : State) (fn ix pkg a : Nat) (bytes : List Byte) : State :=
  if pkg = s.pkgId then applyWrite s s.pkgId fn 0 a bytes false
  else
    let t := makeTrans s noCtx 0 a bytes.length bytes
    let tr : Transaction := { t with tenant := Fin.ofNat 16 fn, detail := BitVec.ofNat 40 (bytes.length * 2 ^ 32) }
    enter s ⟨pkg, noCtx, ix, 0, tr⟩

/-- Are writes of the node's data table still on their way? -/
def datumOut (s : State) (fn ix : Nat) : Bool :=
  let mine (o : Outbound) : Bool := o.tr.op.val == 0 && o.ctx == noCtx && o.seq == ix && o.tr.tenant.val == fn
  s.outbound.any mine || s.ports.any (fun p => p.2.waiting.any mine || p.2.replay.any (fun f => f.2.any mine))

/-- Write one entry of the data table into the storage the node binds. -/
def writeDatum (fn ix : Nat) (segs : List Segment) (d : Memory) (s : State) (i : Nat) : State :=
  let e := 0x908 + 16 * i
  let w := memReadNat d (e + 1) 1
  let off := memReadNat d (e + 4) 4
  let bytes := bytesOfNat w (memReadNat d (e + 8) 8)
  match segs[memReadNat d e 1]? with
  | none => s
  | some g => match g.kind with
    | .plain => physWrite s fn ix (g.pbase + off) bytes
    | .dur => physWrite s fn ix (g.pbase + off) bytes
    | .host => putFinal s (g.pbase + off) bytes
    | .rem => sendDatum s fn ix g.pkg (g.pbase + off) bytes
    | .pg =>
      -- a page that is not mapped is mapped by Lemelo; its place is the outside world's choice
      let root := (tenantOf s fn).ptroot
      (bytes.zipIdx).foldl (fun s b =>
        match (if root.getLsbD 0 then pageWalk s.mem (fieldOf root.toNat 13 32 * 8192) (g.vbase + off + b.2) else none) with
        | some (p, _) => physWrite s fn ix (p + (g.vbase + off + b.2) % 65536) [b.1]
        | none => s) s

/-- The first address of a PG segment that the data table needs and that is not mapped (R385). -/
def dataUnmapped (s : State) (fn : Nat) (segs : List Segment) (d : Memory) : Option Nat :=
  let root := (tenantOf s fn).ptroot
  (List.range (kNdata d)).findSome? (fun i =>
    let e := 0x908 + 16 * i
    match segs[memReadNat d e 1]? with
    | some g =>
      let a := g.vbase + memReadNat d (e + 4) 4
      let last := a + memReadNat d (e + 1) 1 - 1
      if g.kind == .pg then [a, last].find? (fun v =>
        !root.getLsbD 0 || (pageWalk s.mem (fieldOf root.toNat 13 32 * 8192) v).isNone)
      else none
    | none => none)

/-- Ask Lemelo for a page of a node's data table, once while it is missing: a page fault is posted on the die of the tenant's first core
(R336, R385; DESIGN CHOICE, log 54). -/
def askPage (s : State) (fn ix v : Nat) : State :=
  if (nodeOf s fn ix).asked = some (v / 65536) then s
  else
    let core := ((tenantOf s fn).cores.head?).getD 0
    postFault (modNode s fn ix (fun n => { n with asked := some (v / 65536) })) (dieIx (4 * core))
      (faultEntry fn ix core 0 1 0x0B s.gcc (BitVec.ofNat 64 v) 0 0)

/-- Write the whole data table. -/
def writeDataTable (s : State) (fn ix : Nat) (segs : List Segment) (d : Memory) : State :=
  (List.range (kNdata d)).foldl (writeDatum fn ix segs d) s

/-- Write the data table of a node for this run, unless that is done; Lemelo maps the pages first that it needs (R385). -/
def layTable (s : State) (fn ix : Nat) : State :=
  let n := nodeOf s fn ix
  let segs := (bindSegments (tenantOf s fn) n.desc n.args (recArgLen n.record)).getD []
  if n.laid then s
  else match dataUnmapped s fn segs n.desc with
  | some v => askPage s fn ix v
  | none => modNode (writeDataTable s fn ix segs n.desc) fn ix (fun m => { m with laid := true, segs := segs, asked := none })

/-- A node without tile tasks commits once its data table is written (R15, R385). -/
def emptyNode (s : State) (fn ix : Nat) : State :=
  let s := layTable s fn ix
  if !(nodeOf s fn ix).laid || datumOut s fn ix then s else modNode s fn ix (fun m => { m with state := .committing })

/-! ### Readiness (R321) -/

/-- NODE_READY: a WAITING node whose predecessors allow it becomes READY; one without tasks goes to COMMITTING (R15, R321).
-/
def execNodeReady (fn n : Nat) (s : State) : Host.Outcome State Fault Refusal :=
  let x := nodeOf s fn n
  let ok (p : Nat) : Bool := recSpec x.record && (match (nodeOf s fn p).state with
    | .running | .committing => true
    | _ => false)
  if x.state = .waiting ∧ x.preds.all ok then
    let s := modNode { s with turns := s.turns + 1 } fn n (fun m => { m with
      state := .ready, readyAt := s.turns, unplacedSince := some s.gcc })
    .next (if x.gangs = [] then emptyNode s fn n else s)
  else .next s

/-! ### Placement (R18–R24, R72, R134, R284, R322–R325, R384) -/

/-- The resident tasks of a core. -/
def residents (s : State) (core : Nat) : List Task := (List.range 4).filterMap (fun i => (ctxOf s (core * 4 + i)).task)

/-- Lowest free place of `size` bytes in a space of `limit`, beside the ranges in use (R72, R284). -/
def firstFit (used : List (Nat × Nat)) (size limit : Nat) : Option Nat :=
  let fits (b : Nat) : Bool := decide (b + size ≤ limit) && !used.any (fun u => decide (u.1 < b + size ∧ b < u.1 + u.2))
  (0 :: used.map (fun u => u.1 + u.2)).foldl (fun best b =>
    if fits b then some (match best with
      | none => b
      | some x => min x b) else best) none

/-- Bytes of the buffers of a core (R7). -/
def bufBytes : Quad := ⟨0x20_0000, 0x18_0000, 0x8_0000, 0x1_0000⟩

/-- Partition bases for a new task, first fit. -/
def findBases (rs : List Task) (z : Quad) : Option Quad :=
  let used (f : Quad → Nat) : List (Nat × Nat) := (rs.map (fun t => (f t.base, f t.size))).filter (fun u => decide (0 < u.2))
  match firstFit (used Quad.wb) z.wb bufBytes.wb, firstFit (used Quad.ab) z.ab bufBytes.ab,
    firstFit (used Quad.cb) z.cb bufBytes.cb, firstFit (used Quad.dm) z.dm bufBytes.dm with
  | some w, some a, some c, some d => some ⟨w, a, c, d⟩
  | _, _, _, _ => none

/-- The requirement of a core with one more resident (R134). -/
def requirementWith (s : State) (core cls carry : Nat) : Nat :=
  let ks := (cls, carry) :: (residents s core).map (fun t => (t.aclass * 400, t.carry))
  let total := (ks.map (fun x => x.2)).sum
  ks.foldl (fun m x => max m (x.1 + (total - x.2))) 0

/-- May the kernel's next task be placed in free context `k`? (R20, R23, R134, R323, R384) -/
def contextFits (s : State) (fn : Nat) (d : Memory) (k : Nat) : Bool :=
  let rs := residents s (coreIx k)
  let c := ctxOf s k
  (tenantOf s fn).cores.contains (coreIx k) && decide (coreIx k < Config.cores) && c.task.isNone &&
  !(kSync d && rs.any (fun t => t.sync)) &&
  rs.all (fun t => t.tiles &&& kTiles d == 0) &&
  decide (((rs.map (fun t => t.runlen)).sum + kRunlen d) ≤ 2 ^ 20) &&
  decide (requirementWith s (coreIx k) (kAclass d * 400) (kCarry d) ≤ (coreOf s (coreIx k)).target) &&
  (findBases rs (kSize d)).isSome

/-- A seat of a placement: context, D coordinate, and whether it is the twin's (R18, R354). -/
abbrev Seat := Nat × Nat × Bool

/-- R18 over the seats of a gang: K coordinates in distinct cores of one cluster, D coordinates on distinct dies; the twin keeps to
other clusters, and it alone may have a quarantined one (R323, R354). -/
def gangShapeOk (s : State) (seats : List Seat) : Bool :=
  seats.all (fun x => x.2.2 || !(clusterOf s (clusIx x.1)).quarantined) &&
  (seats.zipIdx).all (fun x => (seats.zipIdx).all (fun y =>
    decide (y.2 ≤ x.2) ||
    (if x.1.2.2 != y.1.2.2 then clusIx x.1.1 != clusIx y.1.1
     else if x.1.2.1 = y.1.2.1 then clusIx x.1.1 == clusIx y.1.1 && coreIx x.1.1 != coreIx y.1.1
     else dieIx x.1.1 != dieIx y.1.1)))

/-- Does a seat keep the die that the first gang gave its D coordinate? The twin's is not the node's (R324, R354). -/
def keepsDie (n : Node) (x : Seat) : Bool := x.2.2 || n.dies.all (fun d => d.1 != x.2.1 || d.2 == dieIx x.1)

/-- The dies that seats give D coordinates; a kernel without a D level has none (R324). -/
def seatDies (levels : List (Nat × Nat)) (seats : List Seat) : List (Nat × Nat) :=
  if levels.any (fun l => l.1 == 4) then ((seats.filter (fun x => !x.2.2)).map (fun x => (x.2.1, dieIx x.1))).eraseDups else []

/-- D coordinate of member `m` of gang `g`. -/
def seatDie (levels : List (Nat × Nat)) (g m : Nat) : Nat := kindCoord levels (taskCoords g m levels).1 4

/-- The mapped pages of a tenant's PG segments that a D coordinate accesses, by physical address. -/
def seatPages (s : State) (fn : Nat) (d : Memory) (dc : Nat) : List Nat :=
  let root := (tenantOf s fn).ptroot
  if !root.getLsbD 0 then []
  else (kSegs d).flatMap (fun g =>
    if g.valid && g.kind == .pg && g.w3.getLsbD (32 + dc) then
      (List.range (g.bytes / 65536)).filterMap (fun i =>
        (pageWalk s.mem (fieldOf root.toNat 13 32 * 8192) (g.vbase + 65536 * i)).map (fun p => p.1))
    else [])

/-- May a seat's core reach a stack as the kernel was compiled for? -/
def seatFits (t : Tenant) (d : Memory) (mask stack : Nat) (x : Seat) : Bool :=
  !mask.testBit x.2.1 || stackFits t d (coreIx x.1) stack

/-- Are the mapped pages homed for the seats? (R82, R323) -/
def pagesHomed (s : State) (fn : Nat) (n : Node) (seats : List Seat) : Bool :=
  seats.all (fun x => (seatPages s fn n.desc x.2.1).all (fun p => stackFits (tenantOf s fn) n.desc (coreIx x.1) (stackOf p)))

/-- Are the homes of the regions right for the seats? (R323, R324) -/
def homesOk (s : State) (fn : Nat) (n : Node) (seats : List Seat) : Bool :=
  let t := tenantOf s fn
  (boundRegions n.desc n.args (recArgLen n.record)).all (fun r =>
    match t.regions.find? (fun x => x.1 == r.1) with
    | none => false
    | some x => seats.all (seatFits t n.desc r.2 (stackOf x.2.paddr)))

/-- The stack to which a region must move for this gang: the lowest that fits every seat it concerns. -/
def newHome (t : Tenant) (n : Node) (seats : List Seat) (mask : Nat) : Option Nat :=
  (List.range 8).find? (fun st => seats.all (seatFits t n.desc mask st))

/-- Does a RUNNING or COMMITTING node of the tenant name the region? (R324) -/
def regionHeld (t : Tenant) (region : Nat) : Bool :=
  t.nodes.any (fun x => (x.2.state == .running || x.2.state == .committing) &&
    ((boundRegions x.2.desc x.2.args (recArgLen x.2.record)).any (fun r => r.1 == region) || kCodeReg x.2.desc == region))

/-- Does a live node name the region? (R359, R361) -/
def regionNamed (t : Tenant) (region : Nat) : Bool :=
  t.nodes.any (fun x => isLive x.2 &&
    ((boundRegions x.2.desc x.2.args (recArgLen x.2.record)).any (fun r => r.1 == region) || kCodeReg x.2.desc == region))

/-- The migrations a first gang needs; `none` where one is not possible now (R324). -/
def migrationsFor (t : Tenant) (n : Node) (seats : List Seat) : Option (List (Nat × Nat)) :=
  let one (r : Nat × Nat) : Option (List (Nat × Nat)) :=
    match t.regions.find? (fun x => x.1 == r.1), newHome t n seats r.2 with
    | some x, some st =>
      if seats.all (seatFits t n.desc r.2 (stackOf x.2.paddr)) then some []
      else if regionHeld t r.1 then none else some [(r.1, st)]
    | _, _ => none
  ((boundRegions n.desc n.args (recArgLen n.record)).mapM one).map List.flatten

/-- The source of no walker image: a resident image that a kernel placed from now on must not use (R284). -/
def noKernel : Nat := 2 ^ 64

/-- The walker images read from a run of memory are those of no kernel any more: a kernel placed from now on brings its own (R284). Tasks
that use them go on. -/
def forgetImages (s : State) (a n : Nat) : State :=
  { s with clusters := s.clusters.map (fun c => (c.1, { c.2 with
      images := c.2.images.map (fun i => if a < i.1 + i.2.2 ∧ i.1 < a + n then (noKernel, i.2) else i) })) }

/-- Make a kernel's walker image, `len` bytes at physical address `src`, resident in a cluster; images of kernels with no task there
give way (R284). -/
def loadImage (s : State) (clus : Nat) (src len : Nat) : Option (State × Nat) :=
  let cl := clusterOf s clus
  if len = 0 then some (s, 0)
  else match cl.images.find? (fun i => i.1 == src && i.2.2 == len) with
  | some i => some (s, i.2.1)
  | none =>
    let used (i : Nat × Nat × Nat) : Bool := (List.range 16).any (fun j =>
      (ctxOf s (clus * 16 + j)).task.any (fun t => t.woadLen != 0 && t.woad == i.2.1))
    let kept := cl.images.filter used
    (firstFit (kept.map (fun i => i.2)) len 16384).map (fun b =>
      (modCluster s clus (fun c => { c with
        images := kept ++ [(src, b, len)]
        program := memPlace c.program b len (memSlice s.mem src len) }), b))

/-- What the launch unit sets when member `m` of gang `g` of a node is placed in context `k` (R17, R72, R85, R312). -/
def makeTask (fn ix : Nat) (n : Node) (levels : List (Nat × Nat)) (g m : Nat) (gang : List Nat) (twin : Bool)
    (base : Quad) (code woad : Nat) : Task where
  tenant := fn
  node := ix
  serial := recSerial n.record
  kdesc := recKdesc n.record
  code := code
  codeLen := kCodeLen n.desc
  entry := kEntry n.desc
  woad := woad
  woadLen := 4 * kWoadLen n.desc
  tid := (taskCoords g m levels).1
  text := levels.map (fun e => e.2)
  gang := gang
  prio := recPrio n.record
  spec := recSpec n.record
  redundant := recRedundant n.record
  twin := twin
  runlen := kRunlen n.desc
  aclass := kAclass n.desc
  carry := kCarry n.desc
  half := kHalf n.desc
  grant := kGrant n.desc
  sync := kSync n.desc
  tiles := kTiles n.desc
  base := base
  size := kSize n.desc
  segs := n.segs

/-- The elements of an owned tile are unspecified at task start, its window open, its bits clear (R384). -/
def openTiles (s : State) (core : Nat) (tiles : BitVec 4) : State :=
  (List.range 4).foldl (fun s i =>
    if tiles.getLsbD i then
      nextFresh (modTile s core (Fin.ofNat 4 i) (fun _ => ⟨freeSlice s.fresh 65536, 128, 128, false, false⟩)) 65536
    else s) s

/-- The contents of a new partition are unspecified (R72); bytes whose parity fails keep failing (R78). -/
def openPartitions (s : State) (k : Nat) (z : Quad) : State :=
  [(Buf.wb, z.wb), (Buf.ab, z.ab), (Buf.cb, z.cb), (Buf.dm, z.dm)].foldl (fun s p =>
    nextFresh (bufWrite s k p.1 0 p.2 (freeSlice s.fresh p.2) (badBytes s k p.1 0 p.2)) p.2) s

/-- A task of a node runs on the die of context `k` (R96). -/
def noteDie (s : State) (fn ix k : Nat) : State :=
  modNode s fn ix (fun n => { n with ranOn := if n.ranOn.contains (dieIx k) then n.ranOn else n.ranOn ++ [dieIx k] })

/-- A task starts in context `k` (R22, R25, R43, R57, R186, R244): on a core whose width is free it issues on the next
cycle, at TTC 0. -/
def startTask (s : State) (k : Nat) (t : Task) (heap : W64 × W64 × W64) (frame : Nat) : State :=
  let old := ctxOf s k
  let c : Ctx := { Ctx.reset with
    task := some t
    seq := old.seq
    seqMark := old.seq
    heapBase := heap.1
    heapLim := heap.2.1
    heapOff := heap.2.2
    tvec := (tenantOf s t.tenant).tvec
    tframe := BitVec.ofNat 64 frame
    started := s.gcc
    readyAt := some s.gcc
    resume := s.gcc + 1 }
  let s := openPartitions (openTiles (setCtx s k c) (coreIx k) t.tiles) k t.size
  let s := modCore s (coreIx k) (fun x =>
    if x.width.isNone && x.incoming.isNone then { x with width := some (ctxIx k) } else x)
  stretchValue (noteDie s t.tenant t.node k) (coreIx k)

/-- Place member `m` in context `k`. -/
def placeMember (fn ix g : Nat) (gang : List Nat) (twin : Bool) (s : State) (p : Nat × Nat) : Option State :=
  let n := nodeOf s fn ix
  let k := p.1
  match (tenantOf s fn).regions.find? (fun r => r.1 == kCodeReg n.desc), findBases (residents s (coreIx k)) (kSize n.desc) with
  | some r, some base =>
    (loadImage s (clusIx k) (r.2.paddr + 4 * kWoadOff n.desc) (4 * kWoadLen n.desc)).map (fun x =>
      let t := makeTask fn ix n (nodeLevels n) g p.2 gang twin base r.2.paddr x.2
      startTask x.1 k t n.heap (kFrameOff n.desc))
  | _, _ => none

/-- Place every member of one copy of a gang; `none` where one does not fit. -/
def placeCopy (fn ix g : Nat) (twin : Bool) (gang : List Nat) (s : State) : Option State :=
  (gang.zipIdx).foldlM (fun s p =>
    if contextFits s fn (nodeOf s fn ix).desc p.1 then placeMember fn ix g gang twin s p else none) s

/-- The node's bindings as its first task starts, its data table written (R314, R324, R385); none while that is not done. -/
def openNode (s : State) (fn ix : Nat) : Option State :=
  let s := layTable s fn ix
  let n := nodeOf s fn ix
  match bindHeap (tenantOf s fn) n.desc n.args (recArgLen n.record) with
  | some heap =>
    let segs := (bindSegments (tenantOf s fn) n.desc n.args (recArgLen n.record)).getD n.segs
    if !n.laid || datumOut s fn ix then none
    else some (modNode s fn ix (fun m => { m with heap := heap, segs := segs, state := .running }))
  | none => none

/-- Do the saved members of a gang go back where R306 and R347 want them? -/
def restoreOk (xs : List Saved) (place : List Nat) : Bool :=
  xs.length == place.length && (xs.zip place).all (fun p =>
    !p.1.ctx.task.any (fun t => t.sync) || p.1.key == p.2)

/-- Is a task member `m` of gang `g` of a node, in this copy? -/
def isMember (fn ix g m : Nat) (levels : List (Nat × Nat)) (twin : Bool) (c : Ctx) : Bool :=
  c.task.any (fun t => t.tenant == fn && t.node == ix && t.twin == twin && t.tid == (taskCoords g m levels).1)

/-- The members of a gang, copy by copy, as member number and copy. -/
def members (x : Node) : List (Nat × Bool) :=
  let size := gangSize (nodeLevels x)
  (List.range size).map (fun m => (m, false)) ++ (if recRedundant x.record then (List.range size).map (fun m => (m, true)) else [])

/-- The saved members of a gang, in order. -/
def savedGang (s : State) (fn ix g : Nat) : List ((Nat × Bool) × Saved) :=
  let x := nodeOf s fn ix
  (members x).filterMap (fun m => (s.saved.find? (fun y => isMember fn ix g m.1 (nodeLevels x) m.2 y.ctx)).map (fun y => (m, y)))

/-- The members that a placement of gang `g` seats: those that wait saved, or all of a gang that has not started (R325). -/
def toSeat (s : State) (fn ix g : Nat) : List (Nat × Bool) :=
  match savedGang s fn ix g with
  | [] => members (nodeOf s fn ix)
  | xs => xs.map (fun p => p.1)

/-- The seats of the members of a gang that still run. -/
def runningSeats (s : State) (fn ix g : Nat) : List Seat :=
  let x := nodeOf s fn ix
  let levels := nodeLevels x
  (members x).filterMap (fun m => ((nodeCtxs s fn ix).find? (fun k => isMember fn ix g m.1 levels m.2 (ctxOf s k))).map
    (fun k => (k, seatDie levels g m.1, m.2)))

/-- The seats that contexts `place` give the members to seat. -/
def seatsOf (s : State) (fn ix g : Nat) (place : List Nat) : List Seat :=
  (place.zip (toSeat s fn ix g)).map (fun p => (p.1, seatDie (nodeLevels (nodeOf s fn ix)) g p.2.1, p.2.2))

/-- A saved walk in its new context: a token that waits keeps its way (R286, R300). -/
def Walk.moveTo (w : Walk) (k : Nat) : Walk :=
  { w with
    ctx := k
    pend := w.pend.map (fun p => ({ p.1 with dest := k }, p.2)) }

/-- Bring a saved context back into context `k`, frozen, with its partitions at new bases (R347). Its reservations join the core's
even where the table then holds more than its 16 intervals (R126): a bundle that reserves is refused while it does, and the spec
is silent (DESIGN CHOICE, log 105). -/
def restoreCtx (s : State) (x : Saved) (k : Nat) : Option State :=
  match x.ctx.task with
  | none => none
  | some t =>
    match findBases (residents s (coreIx k)) t.size,
      loadImage s (clusIx k) (t.code + 4 * kWoadOff (nodeOf s t.tenant t.node).desc) t.woadLen with
    | some base, some (s, woad) =>
      let s := setCtx s k { x.ctx with task := some { t with base := base, woad := woad }, seq := max x.ctx.seq (ctxOf s k).seq }
      let s := noteDie (renameStaged s x.ctx (savedKey x.handle) k) t.tenant t.node k
      let s := x.parts.foldl (fun s p =>
        let b := if p.1 = 0 then Buf.wb else if p.1 = 1 then Buf.ab else if p.1 = 2 then Buf.cb else Buf.dm
        bufWrite s k b 0 ((ctxOf s k).size b) p.2 []) s
      let s := x.tiles.foldl (fun s p => modTile s (coreIx k) (Fin.ofNat 4 p.1) (fun _ => p.2)) s
      let s := modCore s (coreIx k) (fun c => { c with
        resv := c.resv ++ x.resv.map (fun i => { i with ctx := k })
        width := if c.width.isNone && c.incoming.isNone then some (ctxIx k) else c.width })
      let s := modCluster s (clusIx k) (fun c => { c with
        startQ := (x.walk.map (fun w => w.moveTo k)).toList ++ c.startQ
        walkLines := x.lines.map (fun l => (k, l.1, l.2)) ++ c.walkLines })
      some (stretchValue { s with saved := s.saved.filter (fun y => y.handle != x.handle) } (coreIx k))
    | _, _ => none

/-- Put the saved members of a gang back and thaw them (R325). -/
def restoreGang (s : State) (xs : List Saved) (place : List Nat) : Option State :=
  ((xs.zip place).foldlM (fun s p => restoreCtx s p.1 p.2) s).map (fun s =>
    place.foldl (fun s k => clearMark s k .pre (s.gcc + 64)) s)

/-- Seat a gang that has not started: the placed copy, then the twin (R354). -/
def seatFresh (s : State) (fn ix g : Nat) (place : List Nat) : Option State :=
  let size := gangSize (nodeLevels (nodeOf s fn ix))
  (placeCopy fn ix g false (place.take size) s).bind (fun s =>
    if recRedundant (nodeOf s fn ix).record then placeCopy fn ix g true (place.drop size) s else some s)

/-- Seat members that wait saved. -/
def seatSaved (s : State) (fn ix g : Nat) (place : List Nat) : Option State :=
  let xs := (savedGang s fn ix g).map (fun p => p.2)
  if restoreOk xs place && place.all (contextFits s fn (nodeOf s fn ix).desc) then restoreGang s xs place else none

/-- May the members to seat take the contexts `place`, homes apart? (R18, R323) -/
def placeOk (s : State) (fn ix g : Nat) (place : List Nat) : Bool :=
  place.length == (toSeat s fn ix g).length && place.eraseDups == place &&
  gangShapeOk s (runningSeats s fn ix g ++ seatsOf s fn ix g place) &&
  (seatsOf s fn ix g place).all (keepsDie (nodeOf s fn ix))

/-- Start the next gang of a node in the contexts `place`, member by member, the twin's behind; none where a rule forbids it or
nothing can be started now (R18–R24, R306, R322–R325, R354, R385). -/
def startGang (s : State) (fn ix : Nat) (place : List Nat) : Option State :=
  let x := nodeOf s fn ix
  match x.gangs with
  | [] => none
  | g :: rest =>
    let seats := seatsOf s fn ix g place
    if !placeOk s fn ix g place || !homesOk s fn x seats || !pagesHomed s fn x seats || x.migrating != [] then none
    else
      let opened := if x.state = .ready then openNode s fn ix else if x.state = .running then some s else none
      (opened.bind (fun v => if savedGang s fn ix g = [] then seatFresh v fn ix g place else seatSaved v fn ix g place)).map (fun u =>
        modNode { u with turns := u.turns + 1 } fn ix (fun m => { m with
          gangs := rest
          running := m.running ++ place
          dies := if m.dies = [] then seatDies (nodeLevels x) seats else m.dies
          readyAt := u.turns
          unplacedSince := if rest = [] then none else some s.gcc }))

/-! ### Turns (R322) -/

/-- The nodes with a gang to start: tenant, number, entry. -/
def candidates (s : State) : List (Nat × Nat × Node) :=
  s.tenants.flatMap (fun t => (t.2.nodes.filter (fun n => (n.2.state == .ready || n.2.state == .running) && n.2.gangs != [])).map
    (fun n => (t.1, n.1, n.2)))

/-- Is node `y` served before node `x`: by priority, then by the order of their turns? -/
def goesFirst (y x : Node) : Bool :=
  decide (recPrio x.record < recPrio y.record) || (recPrio x.record == recPrio y.record && decide (y.readyAt < x.readyAt))

/-- Is there a choice of contexts, one for each member to seat, that fits together and passes `last`? -/
def canSeat (fits : List Seat → Bool) (last : List Nat → Bool) (ks : List Nat) : List (Nat × Bool) → List Seat → Bool
  | [], seats => last (seats.map (fun x => x.1))
  | m :: r, seats => ks.any (fun k =>
      let next := seats ++ [(k, m.1, m.2)]
      fits next && canSeat fits last ks r next)

/-- Can the next gang of a node be started now? (R322) -/
def canStart (s : State) (fn ix : Nat) : Bool :=
  let x := nodeOf s fn ix
  match x.gangs with
  | [] => false
  | g :: _ =>
    let ks := ((tenantOf s fn).cores.flatMap (fun c => (List.range 4).map (fun i => 4 * c + i))).filter (contextFits s fn x.desc)
    let running := runningSeats s fn ix g
    canSeat (fun l => gangShapeOk s (running ++ l) && l.all (keepsDie x)) (fun place => (startGang s fn ix place).isSome) ks
      ((toSeat s fn ix g).map (fun m => (seatDie (nodeLevels x) g m.1, m.2))) []

/-- Is it the turn of a node: can no node before it start a gang now? (R322) -/
def nodeTurn (s : State) (fn ix : Nat) : Bool :=
  (candidates s).all (fun y => !goesFirst y.2.2 (nodeOf s fn ix) || !canStart s y.1 y.2.1)

/-- GANG_PLACEMENT: the launch unit starts the next gang of a node in the contexts `place`, if it is the node's turn. Where the homes
are not right it sets out to move the regions, and where they are it writes the data table (R322–R324, R385). A placement
that breaks a rule does nothing. -/
def execGangPlacement (fn n : Nat) (place : List Nat) (s : State) : Host.Outcome State Fault Refusal :=
  let x := nodeOf s fn n
  match x.gangs with
  | [] => .next (if x.state = .ready then emptyNode s fn n else s)
  | g :: _ =>
    if !nodeTurn s fn n then .next s
    else match startGang s fn n place with
      | some u => .next u
      | none =>
        if x.state ≠ .ready ∨ !placeOk s fn n g place ∨ x.migrating ≠ [] then .next s
        else if homesOk s fn x (seatsOf s fn n g place) then .next (layTable s fn n)
        else match migrationsFor (tenantOf s fn) x (seatsOf s fn n g place) with
          | some ms => .next (modNode s fn n (fun m => { m with migrating := ms }))
          | none => .next s

/-! ### Migration of regions (R324) -/

/-- Every region of the package: tenant, number, base, bytes. -/
def allRegions (s : State) : List (Nat × Nat × Nat × Nat) :=
  s.tenants.flatMap (fun t => t.2.regions.map (fun r => (t.1, r.1, r.2.paddr, r.2.size * 65536)))

/-- The page table root of a tenant. -/
def rootOf (s : State) (tenant : Nat) : Option Nat :=
  let r := (tenantOf s tenant).ptroot
  if r.getLsbD 0 then some (fieldOf r.toNat 13 32 * 8192) else none

/-- The tables that a table of levels 1 to 3 names. -/
def childTables (m : Memory) (table : Nat) : List Nat := (List.range 1024).filterMap (fun i => nextTable m table i)

/-- The level-4 tables of a page table, behind all the others. -/
def lastTables (m : Memory) (root : Nat) : List Nat := ((childTables m root).flatMap (childTables m)).flatMap (childTables m)

/-- Every table of a page table (R348). -/
def allTables (m : Memory) (root : Nat) : List Nat :=
  let t2 := childTables m root
  root :: t2 ++ t2.flatMap (childTables m) ++ lastTables m root

/-- The pages a page table maps. -/
def mappedPages (m : Memory) (root : Nat) : List Nat :=
  (lastTables m root).flatMap (fun t4 =>
    (List.range 1024).filterMap (fun i =>
      let e := memReadNat m (t4 + 8 * i) 8
      if e % 2 = 1 then some (fieldOf e 16 29 * 65536) else none))

/-- Ranges of HBM in use, in 64 KiB units: the supervisor's code, the regions, the page tables and the pages they map. -/
def usedPlaces (s : State) : List (Nat × Nat) :=
  (Config.supervisorCode, Config.supervisorCodeLen) :: (allRegions s).map (fun r => (r.2.2.1, r.2.2.2)) ++
  s.tenants.flatMap (fun t => match rootOf s t.1 with
    | some r => (allTables s.mem r).map (fun p => (p / 65536 * 65536, 65536)) ++ (mappedPages s.mem r).map (fun p => (p, 65536))
    | none => [])

/-- A free place for `bytes` in an HBM stack. -/
def placeRegion (s : State) (stack bytes : Nat) : Option Nat :=
  let lo := stack * Config.hbmStack
  let used := (usedPlaces s).filterMap (fun u => if lo ≤ u.1 ∧ u.1 < lo + Config.hbmStack then some (u.1 - lo, u.2) else none)
  (firstFit used bytes Config.hbmStack).map (lo + ·)

/-- REGION_MIGRATION_COMPLETE: the region's bytes stand on the new stack, and the node may start; a region that a RUNNING or
COMMITTING node names by now stays where it is (R324). -/
def execRegionMigrationComplete (region stack : Nat) (s : State) : Host.Outcome State Fault Refusal :=
  match (allRegions s).find? (fun r => r.2.1 == region &&
      (tenantOf s r.1).nodes.any (fun x => x.2.migrating.contains (region, stack))) with
  | none => .next s
  | some (fn, _, base, bytes) =>
    if regionHeld (tenantOf s fn) region then .next s
    else match placeRegion s stack bytes with
    | none => .next s
    | some a =>
      let s := forgetImages (forgetImages (moveBytes s base a bytes) base bytes) a bytes
      .next (modTenant s fn (fun t => { t with
        regions := t.regions.map (fun r => if r.1 = region then (r.1, { r.2 with paddr := a }) else r)
        nodes := t.nodes.map (fun x => (x.1, { x.2 with migrating := x.2.migrating.filter (· != (region, stack)) })) }))

/-! ### Pre-emption (R325) -/

/-- The running contexts that a gang of priority `p` of the tenant may pre-empt: priority, start, key. -/
def victims (s : State) (fn p : Nat) : List (Nat × Nat × Nat) :=
  s.ctxs.filterMap (fun c => c.2.task.bind (fun t =>
    if t.tenant = fn ∧ t.prio < p ∧ (nodeOf s fn t.node).state = .running then some (t.prio, c.2.started, c.1) else none))

/-- Lowest priority, then most recently started. -/
def chooseVictim (l : List (Nat × Nat × Nat)) : Option Nat :=
  (l.foldl (fun (best : Option (Nat × Nat × Nat)) x => match best with
    | none => some x
    | some b => if x.1 < b.1 ∨ (x.1 = b.1 ∧ b.2.1 < x.2.1) then some x else some b) none).map (fun x => x.2.2)

/-- Can the image engine save a context: frozen, with nothing of it untimed still out? (R343) -/
def canSave (s : State) (k : Nat) : Bool :=
  let c := ctxOf s k
  (c.freeze.isSome || c.halted.isSome) && c.allUntimed.all (fun u => u.done || (match u.job with
    | .walk => true
    | _ => false))

/-- The walk of a context, running or queued. -/
def walkOfCtx (s : State) (k : Nat) : Option Walk :=
  let cl := clusterOf s (clusIx k)
  match cl.walk with
  | some w => if w.ctx = k then some w else cl.startQ.find? (fun w => w.ctx == k)
  | none => cl.startQ.find? (fun w => w.ctx == k)

/-- The image of a task is lost: cause 0x24 is posted for context `k`, and its node rolls back, if it still runs (R321, R327, R347). On a
restore `k` is the context it was to come back to (DESIGN CHOICE, log 106). -/
def loseImage (s : State) (k : Nat) (t : Task) (sub : Nat) : State :=
  let s := postFault s (dieIx k) (faultEntry t.tenant t.node (coreIx k) (k % 4) sub 0x24 s.gcc 0 0 0)
  let n := nodeOf s t.tenant t.node
  if recSerial n.record = t.serial ∧ n.state = .running then rollNode 1025 s t.tenant t.node true else s

/-- Does context state that a save has to read fail its parity? (R347) -/
def parityFails (s : State) (k : Nat) : Bool :=
  [Buf.wb, Buf.ab, Buf.cb, Buf.dm].any (fun b => badBytes s k b 0 ((ctxOf s k).size b) != [])

/-- Save a context whole and leave it free (R300, R343). Its sync group stays as it was, for when it is back (R306). -/
def saveCtx (s : State) (k handle : Nat) : State :=
  let c := ctxOf s k
  let core := coreOf s (coreIx k)
  let part (b : Buf) : Nat × Memory := (bufCode b, bufSlice s k b 0 (c.size b))
  let x : Saved := {
    handle := handle, key := k, ctx := c,
    tiles := (List.range 4).filterMap (fun i =>
      if c.task.any (fun t => t.tiles.getLsbD i) then some (i, core.tiles[Fin.ofNat 4 i]) else none),
    parts := [part .wb, part .ab, part .cb, part .dm],
    resv := core.resv.filter (fun i => i.ctx == k), walk := walkOfCtx s k,
    lines := ((clusterOf s (clusIx k)).walkLines.filter (fun l => l.1 == k)).map (fun l => l.2) }
  vacate (renameStaged { s with saved := s.saved ++ [x] } c k (savedKey handle)) k

/-- The gang number of a task: its C coordinates as one number. -/
def gangOf (levels : List (Nat × Nat)) (tid : List Nat) : Nat := kindCoord levels tid 2

/-- Is a context still to be saved for pre-emption: posted, or standing, with its task in it? -/
def isPreempted (s : State) (fn k : Nat) : Bool :=
  let c := ctxOf s k
  c.task.any (fun t => t.tenant == fn) && (c.preAt.isSome || c.freeze.any (fun f => f.marks.contains .pre))

/-- The victim of a node's waiting gang: the one it has begun to pre-empt, else, for a gang unplaced for longer than PWAIT, the first
in the order of R325. -/
def victimOf (s : State) (fn n : Nat) : Option Nat :=
  let x := nodeOf s fn n
  let t := tenantOf s fn
  let late := x.unplacedSince.any (fun g => decide (g + t.pwait.toNat * s.clock < s.gcc))
  match (t.preempts.find? (fun p => p.1 == n)).filter (fun p => isPreempted s fn p.2) with
  | some p => some p.2
  | none =>
    if x.gangs = [] ∨ t.pwait = 0 ∨ !late ∨ (x.state ≠ .ready ∧ x.state ≠ .running) then none
    else chooseVictim (victims s fn (recPrio x.record))

/-- PREEMPTION_TIMEOUT: a gang unplaced for longer than PWAIT freezes one sync group, or lone context, of lower priority
(R325); once it stands, the image engine saves it, and its gang waits at the front of its node's turn. A member whose state reads
uncorrectable as it is saved is lost (R347). -/
def execPreemptionTimeout (fn n : Nat) (s : State) : Host.Outcome State Fault Refusal :=
  match victimOf s fn n with
  | none => .next s
  | some v =>
    let ms := groupOf s v
    let all := match (ctxOf s v).task with
      | some t => if t.sync then t.gang.filter (fun k => (ctxOf s k).task.any (fun (y : Task) =>
          y.tenant == t.tenant && y.node == t.node && y.twin == t.twin && y.gang == t.gang)) else ms
      | none => ms
    let standing := all.all (fun k => (ctxOf s k).freeze.any (fun f => f.marks.contains .pre))
    let s := modTenant s fn (fun t => { t with preempts := t.preempts.put n v })
    if !standing then .next (all.foldl (fun s k => if (ctxOf s k).preAt.isSome then s else postPre s k) s)
    else if all.all (canSave s) then
      match (ctxOf s v).task, all.find? (parityFails s) with
      | none, _ => .next s
      | some vt, some k => .next (loseImage s k vt 1)
      | some vt, none =>
        let g := gangOf (nodeLevels (nodeOf s fn vt.node)) vt.tid
        let s := (all.zipIdx).foldl (fun s p => saveCtx s p.1 (s.fresh + p.2)) s
        .next (modNode (nextFresh s all.length) fn vt.node (fun m => { m with
          running := m.running.filter (fun k => !all.contains k)
          gangs := if m.gangs.contains g then m.gangs else g :: m.gangs
          unplacedSince := m.unplacedSince.or (some s.gcc) }))
    else .next s

/-! ### REDUNDANT nodes (R354) -/

/-- The digest of a copy's writes. -/
def digestOf (n : Node) (key : Nat) : BitVec 256 := sha3 ((n.digests.get key []).flatMap (fun e => e.2))

/-- REDUNDANT_COMPARE: both copies of a task have executed END; a mismatch posts cause 0x23, for the context of the node that ended
last, and rolls the node back (R327; the context is a DESIGN CHOICE, log 106). -/
def execRedundantCompare (fn n task : Nat) (s : State) : Host.Outcome State Fault Refusal :=
  let x := nodeOf s fn n
  let copy (c : Ctx) : Bool := c.task.any (fun t => t.tenant == fn && t.node == n && taskKey t / 2 == task)
  let runs := s.ctxs.any (fun c => copy c.2) || s.saved.any (fun x => copy x.ctx)
  if !recRedundant x.record ∨ runs then .next s
  else if digestOf x (2 * task) = digestOf x (2 * task + 1) then
    .next (modNode s fn n (fun m => { m with digests := m.digests.filter (fun d => d.1 / 2 != task) }))
  else
    let k := (x.past.getLast?.map (fun p => p.1)).getD 0
    .next (rollNode 1025 (postFault s (dieIx k) (faultEntry fn n (coreIx k) (k % 4) 0 0x23 s.gcc 0 0 0)) fn n true)

/-! ### Teardown and reset (R330, R331) -/

/-- QSTAT.DRAINED (R330). -/
def isDrained (t : Tenant) : Bool := t.tda && t.queue == [] && t.msixPending == [] && !t.nodes.any (fun x => isLive x.2)

/-- Cancel every queued record, with its signal (R330). -/
def cancelQueue (s : State) (fn : Nat) : State :=
  modTenant ((tenantOf s fn).queue.foldl (fun s r => cancelRecord s fn r) s) fn (fun t => { t with queue := [] })

/-- A teardown of the function's queue; `force` kills whatever KILLABLE says (R330, R362). -/
def teardown (s : State) (fn : Nat) (force : Bool) : State :=
  let s := cancelQueue (modTenant s fn (fun t => { t with tda := true })) fn
  ((tenantOf s fn).nodes.map (fun x => x.1)).foldl (fun s i =>
    let n := nodeOf s fn i
    match n.state with
    | .waiting | .ready => endNode s fn i 1
    | .running => if force || recKillable n.record then endNode s fn i 3 else s
    | _ => s) s

/-- QCTL_TD: QCTL.TD is written 1 (R330). -/
def execQctlTd (fn : Nat) (s : State) : Host.Outcome State Fault Refusal :=
  .next (teardown s fn false)

/-- The queue reset of R331. -/
def resetQueue (s : State) (fn : Nat) : State :=
  modTenant (forgetClouds s fn (fun _ => true)) fn (fun t => { t with nodes := [], alloc := 0, drop := 0, bad := 0, qserial := 0, tda := false })

/-- QCTL_RST: QCTL.RST is written 1; it acts only on a drained queue (R331). -/
def execQctlRst (fn : Nat) (s : State) : Host.Outcome State Fault Refusal :=
  .next (if isDrained (tenantOf s fn) then resetQueue s fn else s)

end Sys2Proof.Machine
end

