-- ==== Sys2Proof/Machine/Image.lean ====
section
/-! DEFINITION. Context images: CTXSAVE, CTXLOAD and SEGLOAD as they perform (R195, R343–R347). What an image has no place for, the
identity of the task and its gang, the launch unit keeps beside it, and the snapshot payloads, whose layout the spec does not give,
are kept with that; an image finds it by its header (log 30). -/

namespace Sys2Proof.Machine

/-! ### The bytes of an image (R344–R346) -/

/-- Place a list of 64-bit words at an offset. -/
def putWords (m : Memory) (a : Nat) (ws : List Nat) : Memory := memWriteList m a (ws.flatMap (fun w => bytesOfNat 8 w))

/-- A 64-bit word of an image. -/
def imageWord (m : Memory) (a : Nat) : W64 := BitVec.ofNat 64 (memReadNat m a 8)

/-- The control registers at 0x0900: rows 0x38 to 0xA0 of R189, then those R344 names. -/
def imageControls (s : State) (k : Nat) : List Nat :=
  let c := ctxOf s k
  c.lc.toList.map BitVec.toNat ++ [c.sp.toNat, c.mask.length, c.vmode.toNat, c.vflags.toNat, c.padm.toNat] ++
  c.prec.toList.map BitVec.toNat ++ c.winlog.toList.map BitVec.toNat ++
  [c.tvec.toNat, c.tframe.toNat, c.hstat.toNat, if (coreOf s (coreIx k)).strict then 1 else 0,
    c.heapBase.toNat, c.heapLim.toNat, c.heapOff.toNat, c.trtgt.toNat]

/-- A loop-stack entry of 32 bytes: kind, LC index, start, end. Kind 0 is an entry not in use; a LOOPP has its S, queue and predicate
above the kind, and its trip count above the LC index (the spec gives neither a code nor a place; DESIGN CHOICE, log 30). -/
def imageLoop (e : LoopEntry) : List Nat :=
  [(match e.kind with
    | .loop => 1
    | .loopp => 2
    | .sloop => 3) + e.pred.val % 16 * 2 ^ 8 + e.queue % 2 ^ 16 * 2 ^ 16 + e.stages % 2 ^ 32 * 2 ^ 32,
    e.lc.val + e.trip.toNat % 2 ^ 56 * 2 ^ 8, e.start.toNat, e.stop.toNat]

/-- A loop-stack entry read back; none where it is not in use. -/
def loopOfImage (m : Memory) (a : Nat) : Option LoopEntry :=
  let w (i : Nat) : Nat := memReadNat m (a + 8 * i) 8
  let kind : Option LoopKind := match w 0 % 4 with
    | 1 => some .loop
    | 2 => some .loopp
    | 3 => some .sloop
    | _ => none
  kind.map (fun k => ⟨k, Fin.ofNat 4 (w 1), BitVec.ofNat 64 (w 2), BitVec.ofNat 64 (w 3), BitVec.ofNat 64 (fieldOf (w 1) 8 56),
    fieldOf (w 0) 32 32, fieldOf (w 0) 16 16, Fin.ofNat 16 (fieldOf (w 0) 8 4)⟩)

/-- The freeze snapshot: what is in flight as the context stands, and its untimed results (R343 steps 1 and 3). -/
def freezeSnapshot (c : Ctx) : List (W64 × W64) :=
  descriptors (snapshot c.flights c.ttc) c.untimed

/-- The trap snapshot a context holds. -/
def trapSnapshot (c : Ctx) : List (W64 × W64) := descriptors c.snap c.snapU

/-- Reservation intervals, 16 bytes each: start and draw, end or all ones for one that lasts to a wait. -/
def imageResv (s : State) (k : Nat) : List Nat :=
  ((coreOf s (coreIx k)).resv.filter (fun i => i.ctx == k)).flatMap (fun i =>
    [i.start % 2 ^ 48 + i.draw % 2 ^ 16 * 2 ^ 48, i.stop.getD (2 ^ 64 - 1)])

/-- A GCC of which an image holds the low 48 bits, near the freeze GCC `f`. -/
def nearGcc (f low : Nat) : Nat :=
  let x := f - f % 2 ^ 48 + low
  if f + 2 ^ 47 < x then x - 2 ^ 48 else if x + 2 ^ 47 < f then x + 2 ^ 48 else x

/-- Interval `i` of an image, of a context that froze at `f`: one that a trap had paused before stays paused from then. -/
def resvOfImage (m : Memory) (f : Nat) (old : List Interval) (i : Nat) : Interval :=
  let w (j : Nat) : Nat := memReadNat m (0xF00 + 16 * i + 8 * j) 8
  ⟨0, nearGcc f (w 0 % 2 ^ 48), if w 1 = 2 ^ 64 - 1 then none else some (w 1), fieldOf (w 0) 48 16,
    some ((old[i]?.bind (fun x => x.paused)).getD f)⟩

/-- Bytes of a context's partitions. -/
def partBytes (c : Ctx) : Nat := c.size .wb + c.size .ab + c.size .cb + c.size .dm

/-- Tiles a context owns, rising. -/
def ownedTiles (c : Ctx) : List Nat := (List.range 4).filter (fun i => c.task.any (fun t => t.tiles.getLsbD i))

/-- LEN of an image (R346). -/
def imageLen (c : Ctx) : Nat := 0x10000 + 65536 * (ownedTiles c).length + partBytes c

/-- F of a frozen or halted context. -/
def freezeGcc (c : Ctx) : Nat := ((c.freeze.map (fun f => f.f)).or c.halted).getD 0

/-- FLAGS of the header. -/
def imageFlags (s : State) (k : Nat) : Nat :=
  let c := ctxOf s k
  (if c.mode = .supervisor then 1 else 0) + (if c.halted.isSome then 2 else 0) +
  (if (walkOfCtx s k).isSome then 4 else 0) + (if c.wait.isSome then 8 else 0)

/-- The header (R346). -/
def imageHeader (s : State) (k : Nat) : Memory :=
  let c := ctxOf s k
  let ids := nodeIds c
  let ks (b : Buf) : Nat := c.size b / 1024
  let m := memWriteNat [] 0 4 1
  let m := memWriteNat m 0x04 2 ids.1
  let m := memWriteNat m 0x06 2 ids.2
  let m := memWriteNat m 0x08 4 (serialOf s k)
  let m := memWriteNat m 0x0C 2 (coreIx k)
  let m := memWriteNat m 0x0E 1 (k % 4)
  let m := memWriteNat m 0x0F 1 (imageFlags s k)
  let m := putWords m 0x10 [c.ttc, freezeGcc c]
  let m := memWriteNat m 0x20 1 (trapSnapshot c).length
  let m := memWriteNat m 0x21 1 (freezeSnapshot c).length
  let m := memWriteNat m 0x22 1 ((imageResv s k).length / 2)
  let m := memWriteNat m 0x23 1 ((c.task.map (fun t => t.tiles.toNat)).getD 0)
  let m := memWriteNat m 0x24 8 (ks .wb + ks .ab * 2 ^ 16 + ks .cb * 2 ^ 32 + ks .dm * 2 ^ 48)
  putWords m 0x30 [(c.task.map (fun t => t.kdesc)).getD 0, imageLen c]

/-- Walk state: w0–w15; the control registers WQ, WADR, WPF, WPC, WTOK and WPFC; the open tile; and the tags of the up to 16 lines of
the entry buffer, 48 bits each of a 56-bit address (R84, R287, R290, R292). The places inside the 256 bytes are the model's own
(DESIGN CHOICE, log 136). -/
def imageWalk (w : Option Walk) : List Byte :=
  match w with
  | none => []
  | some w =>
    let t := w.tile.getD ⟨0, 0, false, 0, 0, []⟩
    let kind := (if w.tile.isSome then 1 else 0) + (if t.first then 2 else 0) + 4 * t.tile
    w.w.toList.flatMap (fun x => bytesOfNat 8 x.toNat) ++
      bytesOfNat 1 w.queue ++ bytesOfNat 1 (walkAddressee w) ++ bytesOfNat 1 w.wpf.toNat ++ bytesOfNat 1 kind ++ bytesOfNat 4 w.pc ++
      bytesOfNat 8 w.wtok.toNat ++ bytesOfNat 8 w.wpfc.toNat ++
      bytesOfNat 2 t.line ++ bytesOfNat 1 t.fmt ++ bytesOfNat 1 w.ebuf.length ++ bytesOfNat 4 t.kidx.toNat ++
      w.ebuf.flatMap (fun e => bytesOfNat 6 e.1)

/-- Snapshot payloads of an image, 256 bytes each. -/
def payloads (c : Ctx) : Nat := (trapSnapshot c).length + (freezeSnapshot c).length

/-- Everything below the tiles (R344, R345). The payloads have no layout in the spec: their bytes are free values (log 30). -/
def imageState (s : State) (k : Nat) : Memory :=
  let c := ctxOf s k
  let ws (l : List (W64 × W64)) : List Nat := l.flatMap (fun d => [d.1.toNat, d.2.toNat])
  let m := imageHeader s k
  let m := putWords m 0x100 (c.s.toList.map BitVec.toNat)
  let m := memWriteList m 0x300 (c.p.toList.flatMap (fun p => bytesOfNat 16 p.toNat))
  let m := memWriteList m 0x400 (c.g.toList.flatMap (fun g => bytesOfNat 64 g.toNat))
  let m := memWriteList m 0x800 (c.mask.reverse.flatMap (fun p => bytesOfNat 16 p.toNat))
  let m := putWords m 0x900 (imageControls s k)
  let m := putWords m 0xA00 (c.loops.reverse.flatMap imageLoop)
  let m := putWords m 0xA80 (match pendingRedirect s c with
    | some r => [1, r.left, r.target.toNat]
    | none => [0, 0, 0])
  let m := putWords m 0xB00 (ws (trapSnapshot c))
  let m := putWords m 0xF00 (imageResv s k)
  let m := memWriteList m 0x1000 (c.v.toList.flatMap (fun v => bytesOfNat 256 v.toNat))
  let m := putWords m 0x3000 (ws (freezeSnapshot c))
  let rpc := (c.wait.map (fun w => w.pc)).getD c.pc
  let m := putWords m 0x3400 [rpc.toNat, c.tcause.toNat, c.tpc.toNat, c.tval.toNat, c.tstate.toNat, c.trttc.toNat, c.irq.toNat]
  let m := memWriteList m 0x4000 ((List.range (256 * payloads c)).map (fun i => Config.freeByte (s.fresh + i)))
  memWriteList m 0xC000 (imageWalk (walkOfCtx s k))

/-- The tiles and partitions after it. -/
def imageBulk (s : State) (k : Nat) (m : Memory) : Memory :=
  let c := ctxOf s k
  let core := coreOf s (coreIx k)
  let m := ((ownedTiles c).zipIdx).foldl (fun m p => memPlace m (0x10000 + 65536 * p.2) 65536 core.tiles[Fin.ofNat 4 p.1].mem) m
  let base := 0x10000 + 65536 * (ownedTiles c).length
  let put (m : Memory) (off : Nat) (b : Buf) : Memory := memPlace m (base + off) (c.size b) (bufSlice s k b 0 (c.size b))
  let m := put m 0 .wb
  let m := put m (c.size .wb) .ab
  let m := put m (c.size .wb + c.size .ab) .cb
  put m (c.size .wb + c.size .ab + c.size .cb) .dm

/-- Is a run of bytes, 64-byte aligned, in HBM? -/
def imagePlaceOk (a n : Nat) : Bool := decide (a % 64 = 0 ∧ a + n ≤ Config.hbmEnd)

/-- Does memory deliver one of the lines of a run as uncorrectable? -/
def anyMarked (s : State) (a n : Nat) : Bool :=
  s.marked.any (fun l => (linePieces (l * 64)).any (fun x => decide (a / 64 ≤ x ∧ x ≤ (a + n - 1) / 64)))

/-- Is an operation of a context held at a unit, in a side log, or pinned to a page whose fault is unresolved: an untimed one, a timed
one whose page is unmapped as it needs it, or an entry of the trap snapshot that faulted? (R343 step 2) -/
def saveBusy (s : State) (k : Nat) : Bool :=
  let c := ctxOf s k
  let missing (v : Nat) : Bool := translate s k v == .unmapped
  c.allUntimed.any (fun u => !u.done && (u.held.isSome || isLogged s k u || (heldPages u).any (fun p => !pageMapped s k p))) ||
  (c.freeze.any (fun f => f.marks.contains .pf) && c.flights.any (fun f =>
    (nextSlot f c.ttc).any (fun x => x.2 == 0 && missing x.1))) ||
  c.snap.any (fun e => e.fault.any (fun f => f.1 == 0x0B && missing f.2.toNat))

/-- CTXSAVE of context `target` to `paddr` (R195, R343): it waits for the context's untimed operations. -/
def performCtxsave (s : State) (k : Nat) (u : Untimed) (target paddr : Nat) : State :=
  let c := ctxOf s target
  let status (s : State) (x : Nat) : State := finishJob s k u.seq (some (BitVec.ofNat 64 x)) none
  if !imagePlaceOk paddr (imageLen c) then status s 2
  else if (c.freeze.isNone && c.halted.isNone) || c.task.isNone || saveBusy s target then status s 1
  else if !canSave s target then s
  else
    let ids := nodeIds c
    if parityFails s target then
      match c.task with
      | some t => loseImage (status s 3) target t 1
      | none => status s 3
    else
      let image := imageBulk s target (imageState s target)
      let s := nextFresh s (256 * payloads c)
      let s := status (putSlice s paddr (imageLen c) image) 0
      let s := noteWrite (nextFresh (saveCtx s target s.fresh) 1) paddr (imageLen c)
      let s := { s with images := s.images ++ s.saved.getLast?.toList }
      modNode s ids.1 ids.2 (fun n => { n with running := n.running.filter (· != target) })

/-- The context of a record with its registers as the image holds them (R344, R345). -/
def loadRegisters (c : Ctx) (m : Memory) : Ctx :=
  let w (a : Nat) : W64 := imageWord m a
  let depth := min (w 0x928).toNat 16
  { c with
    s := Vector.ofFn (fun i : Fin 64 => if i = 0 then 0 else w (0x100 + 8 * i.val))
    p := Vector.ofFn (fun i : Fin 16 => BitVec.ofNat 128 (memReadNat m (0x300 + 16 * i.val) 16))
    g := Vector.ofFn (fun i : Fin 16 => BitVec.ofNat 512 (memReadNat m (0x400 + 64 * i.val) 64))
    v := Vector.ofFn (fun i : Fin 32 => BitVec.ofNat 2048 (memReadNat m (0x1000 + 256 * i.val) 256))
    mask := ((List.range depth).map (fun i => BitVec.ofNat 128 (memReadNat m (0x800 + 16 * i) 16))).reverse
    loops := ((List.range 4).filterMap (fun i => loopOfImage m (0xA00 + 32 * i))).reverse
    lc := Vector.ofFn (fun i : Fin 4 => w (0x900 + 8 * i.val))
    sp := (w 0x920).setWidth 8
    vmode := (w 0x930).setWidth 2
    vflags := (w 0x938).setWidth 5
    flagsSeen := (w 0x938).setWidth 5
    padm := w 0x940
    prec := Vector.ofFn (fun i : Fin 4 => (w (0x948 + 8 * i.val)).setWidth 32 &&& 0x0FFF_FFFF)
    winlog := Vector.ofFn (fun i : Fin 8 => (w (0x968 + 8 * i.val)).setWidth 24)
    tvec := w 0x9A8
    tframe := w 0x9B0
    hstat := w 0x9B8 &&& 0xFF_FF01
    heapBase := heapMask (w 0x9C8)
    heapLim := heapLimMask (w 0x9D0)
    heapOff := heapOffMask (w 0x9D8)
    trtgt := w 0x9E0
    redirect := if (w 0xA80).getLsbD 0 && !(c.wait.isSome && (w 0xA88).toNat % 4 == 0) then
      some ⟨w 0xA90, (w 0xA88).toNat % 4, c.redirect.any (fun r => r.pops)⟩ else none
    pc := if c.wait.isNone then w 0x3400
      else if (w 0xA80).getLsbD 0 && (w 0xA88).toNat % 4 == 0 then w 0xA90 else c.pc
    tcause := (w 0x3408).setWidth 8
    tpc := w 0x3410
    tval := w 0x3418
    tstate := (w 0x3420).setWidth 16
    trttc := w 0x3428
    irq := (w 0x3430).setWidth 3
    ttc := (w 0x10).toNat }

/-- A walk with its registers, control registers and open tile as the image holds them (R300, R344). -/
def loadWalk (w : Walk) (m : Memory) : Walk :=
  let x (i : Nat) : W64 := imageWord m (0xC000 + 8 * i)
  { w with
    w := Vector.ofFn (fun i : Fin 16 => x i.val)
    wtok := x 18
    wpfc := x 19
    wpf := x 20
    pc := (x 21).toNat
    tile := w.tile.map (fun t => (⟨(x 23).toNat, (x 24).toNat, (x 25).getLsbD 0, (x 26).toNat, (x 27).setWidth 32, t.runs⟩ : OpenTile)) }

/-- A record with registers, loop stack, reservations, walk, tiles and partitions as the image holds them, to be left frozen with PRE
and F (R347). -/
def loadRecord (x : Saved) (m : Memory) : Saved :=
  let c := loadRegisters x.ctx m
  let f := (imageWord m 0x18).toNat
  let n := (ownedTiles c).length
  let part (off : Nat) (b : Buf) : Nat × Memory := (bufCode b, memSlice m (0x10000 + 65536 * n + off) (c.size b))
  { x with
    ctx := { c with freeze := some ⟨f, [.pre], 0⟩, halted := none, preAt := none }
    resv := (List.range (memReadNat m 0x22 1)).map (resvOfImage m f x.resv)
    walk := x.walk.map (fun w => loadWalk w m)
    tiles := (x.tiles.zipIdx).map (fun p => (p.1.1, { p.1.2 with mem := memSlice m (0x10000 + 65536 * p.2) 65536 }))
    parts := [part 0 .wb, part (c.size .wb) .ab, part (c.size .wb + c.size .ab) .cb,
      part (c.size .wb + c.size .ab + c.size .cb) .dm] }

/-- May a record come back in context `k`? (R306, R323, R347) -/
def loadFits (s : State) (x : Saved) (k : Nat) : Bool :=
  match x.ctx.task with
  | none => false
  | some t =>
    let n := nodeOf s t.tenant t.node
    let seat : Seat := (k, kindCoord (nodeLevels n) t.tid 4, t.twin)
    contextFits s t.tenant n.desc k && (!t.sync || x.key == k) && keepsDie n seat &&
      gangShapeOk s (runningSeats s t.tenant t.node (gangOf (nodeLevels n) t.tid) ++ [seat]) && homesOk s t.tenant n [seat] && pagesHomed s t.tenant n [seat]

/-- Is a record that of an image, by its header: tenant, node, serial, the context it was saved from, TTC and freeze GCC? (R346) -/
def isRecordOf (x : Saved) (m : Memory) : Bool :=
  let h (a n : Nat) : Nat := memReadNat m a n
  x.ctx.task.any (fun t => t.tenant == h 0x04 2 && t.node == h 0x06 2 && t.serial == h 0x08 4) &&
  coreIx x.key == h 0x0C 2 && x.key % 4 == h 0x0E 1 && x.ctx.ttc == h 0x10 8 && freezeGcc x.ctx == h 0x18 8

/-- The record of an image whose node is live: as it stands where its task waits saved, else as it was kept, the latest first. -/
def recordOfImage (s : State) (m : Memory) : Option Saved :=
  (s.images.reverse.find? (fun x => isRecordOf x m && x.ctx.task.any (fun t =>
    isLive (nodeOf s t.tenant t.node) && recSerial (nodeOf s t.tenant t.node).record == t.serial))).map (fun x =>
      (s.saved.find? (fun y => y.handle == x.handle)).getD x)

/-- CTXLOAD of the image at `paddr` into context `target` (R195, R347). An image of no live node is answered with status 2 (DESIGN
CHOICE, log 30). -/
def performCtxload (s : State) (k : Nat) (u : Untimed) (target paddr : Nat) : State :=
  let status (s : State) (x : Nat) : State := finishJob s k u.seq (some (BitVec.ofNat 64 x)) none
  let len := memReadNat s.mem (paddr + 0x38) 8
  if !imagePlaceOk paddr (max len 0x10000) then status s 2
  else match recordOfImage s (memSlice s.mem paddr 0x100) with
  | none => status s 2
  | some x =>
    let ids := nodeIds x.ctx
    if (ctxOf s target).task.isSome || !loadFits s x target then status s 1
    else if anyMarked s paddr len then
      match x.ctx.task with
      | some t => loseImage (status s 3) target t 0
      | none => status s 3
    else match restoreCtx s (loadRecord x (memSlice s.mem paddr len)) target with
      | none => status s 1
      | some t =>
        status (modNode t ids.1 ids.2 (fun n => { n with running := n.running ++ [target] })) 0

/-- SEGLOAD: the 64 entries of a segment table (R86, R195). -/
def performSegload (s : State) (k : Nat) (u : Untimed) (target paddr : Nat) : State :=
  let status (s : State) (x : Nat) : State := finishJob s k u.seq (some (BitVec.ofNat 64 x)) none
  let c := ctxOf s target
  if !imagePlaceOk paddr 2048 then status s 2
  else if c.freeze.isNone && c.halted.isNone then status s 1
  else if anyMarked s paddr 2048 then status s 3
  else
    let w (i j : Nat) : W64 := BitVec.ofNat 64 (memReadNat s.mem (paddr + 32 * i + 8 * j) 8)
    let segs := (List.range 64).map (fun i => (⟨w i 0, w i 1, w i 2, w i 3⟩ : Segment))
    status (modCtx s target (fun c => { c with task := c.task.map (fun t => { t with segs := segs }) })) 0

end Sys2Proof.Machine
end

