-- ==== Sys2Proof/Machine/Events.lean ====
section
/-! DEFINITION. The events of contexts and cores: effects as they perform, waits, hand-over, freezing, traps and pages
(R20–R35, R89, R136, R176, R185–R194, R305, R341, R342, R349–R351). An event given when its condition does not hold changes
nothing. -/

namespace Sys2Proof.Machine

/-! ### Timed effects (R29) -/

/-- Which event performs an effect. -/
inductive ActClass where
  | result | copyLine | followOn | group | arrival | nest
deriving DecidableEq, Repr

/-- The event of an effect. The first read of a matrix command, a COPYM's follow-on among them, is `followOn`. -/
def classOf : Act → ActClass
  | .copySample .. | .copySource .. | .copyLand .. | .copyPerform .. | .mapGather .. | .mapLand .. => .copyLine
  | .mmaRead _ 0 0 _ _ _ _ => .followOn
  | .mmaUpdate .. => .group
  | .sendLand .. => .arrival
  | .nestStep .. | .nestWrite .. => .nest
  | _ => .result

/-- Perform flight `i` of context `k` if it is of the class and this is its cycle. -/
def performClass (cl : ActClass) (k i : Nat) (s : State) : Host.Outcome State Fault Refusal :=
  match (ctxOf s k).flights[i]? with
  | none => .next s
  | some f => .next (if classOf f.act = cl then performAt s k i else s)

/-- TIMED_RESULT_PERFORM (R29). -/
def execTimedResultPerform (k i : Nat) (s : State) : Host.Outcome State Fault Refusal := performClass .result k i s
/-- COPY_LINE_LAND: a line of a copy is sampled, read, performed in HBM or landed (R81, R270). -/
def execCopyLineLand (k i : Nat) (s : State) : Host.Outcome State Fault Refusal := performClass .copyLine k i s
/-- COPYM_FOLLOW_ON_START: the first stream read of a matrix command (R254, R271). -/
def execCopymFollowOnStart (k i : Nat) (s : State) : Host.Outcome State Fault Refusal := performClass .followOn k i s
/-- MMA_KGROUP_UPDATE: a k-group's update of its tile (R254). -/
def execMmaKgroupUpdate (k i : Nat) (s : State) : Host.Outcome State Fault Refusal := performClass .group k i s
/-- XSEND_LINE_ARRIVAL (R109). -/
def execXsendLineArrival (k i : Nat) (s : State) : Host.Outcome State Fault Refusal := performClass .arrival k i s
/-- VNEST_STEP: the reads of a step, or its write (R230). -/
def execVnestStep (k i : Nat) (s : State) : Host.Outcome State Fault Refusal := performClass .nest k i s

/-! ### Untimed operations (R28, R30) -/

/-- The cores whose held units and side logs retry. -/
def retryCores (s : State) (cores : List Nat) : State :=
  cores.foldl (fun s core => match execSideLogRetry core s with
    | .next t => t
    | _ => s) s

/-- Every core with a context. -/
def usedCores (s : State) : List Nat := ((s.ctxs.map (fun c => c.1 / 4))).eraseDups

/-- What an untimed operation does as it performs; held units and side logs retry after every TLBINV (R351). The operation of a walk is
marked done by `endWalk` alone. -/
def performJob (s : State) (k : Nat) (u : Untimed) : State :=
  match u.job with
  | .load v n sx => performLoad s k u v n sx
  | .store v b => performStore s k u v b
  | .atomic op v n sx x c _ => performAtomic s k u op v n sx x c
  | .gather v n idx p => performGather s k u v n idx p
  | .scatter v n idx p => performScatter s k u v n idx p
  | .fput v p n => performPut s k u v p (4 * n)
  | .fget v p n => performFget s k u v p (4 * n)
  | .dput v p n => performPut s k u v p n
  | .dget v p n => performDget s k u v p n
  | .record v b => performRecord s k u v b
  | .replay els rest => performReplay s k u els rest
  | .walk => s
  | .qsend q e d x => performQsend s k u q e d x
  | .qrecv q => if mmasHolds (ctxOf s k) q then s else performQrecv s k u q
  | .mmag ga gb p t => if arrayScheduled s k u.seq then s else performMmag s k u ga gb p t
  | .mmas q ga gb p tiles missed =>
    match takeToken s k q with
    | some (e, t) => if arrayScheduled s k u.seq || tokenFresh s k ga e then s else takeMmasToken t k u q ga gb p tiles missed e
    | none => s
  | .vhacc t x base keys vals act rm slot => performVhacc s k u t x base keys vals act rm slot
  | .arrive b => performArrive s k u b
  | .signal v b msi => performSignal s k u v b msi
  | .fence _ => finishJob s k u.seq none none
  | .ctxsave t p => performCtxsave s k u t p
  | .ctxload t p => performCtxload s k u t p
  | .gfreeze t f => performGfreeze s k u t f
  | .tlbinv kd v t => retryCores (performTlbinv s k u kd v t) (usedCores s)
  | .segload t p => performSegload s k u t p
  | .message d b => performMessage s k u d b
  | .pgreq _ => s

/-- Kinds of untimed work with an event of their own. -/
inductive JobClass where
  | other | madder | mmag | mmas | arrive | page
deriving DecidableEq, Repr

def classOfJob : Job → JobClass
  | .gather .. => .madder
  | .mmag .. => .mmag
  | .mmas .. => .mmas
  | .arrive _ => .arrive
  | .pgreq _ => .page
  | _ => .other

/-- The causes that an operation of an interrupted program raises as it performs (`t` after `s`) belong to its entry of the snapshot,
and are raised as that is injected again, or at the wait that drains it; the handler goes on (R187, R191). -/
def deferCauses (s t : State) (k seq : Nat) : State :=
  let old := (ctxOf s k).causes
  let new := (ctxOf t k).causes.drop old.length
  if (ctxOf s k).snapU.any (fun u => u.seq == seq) then
    showFault (modUntimed (modCtx t k (fun c => { c with causes := old })) k seq (fun u => { u with late := u.late ++ new })) k seq
  else t

/-- Would the lines of a GATHER or DGET be written in a cycle in which its typed buffer has a write already? (R75) -/
def meetsWrite (s : State) (k : Nat) : Job → Bool
  | .gather _ _ _ p | .dget _ p _ => p.buf != .dm && writtenNow s (coreIx k) p.buf
  | _ => false

/-- Perform untimed operation `i` of context `k`, if it is of the class, nothing before it holds it, and no timed write is in its way
in this cycle. -/
def performUntimed (cl : JobClass) (k i : Nat) (s : State) : Host.Outcome State Fault Refusal :=
  match (ctxOf s k).allUntimed[i]? with
  | none => .next s
  | some u => .next (if classOfJob u.job = cl ∧ mayPerform s k u ∧ !meetsWrite s k u.job then deferCauses s (performJob s k u) k u.seq else s)

/-- UNTIMED_OPERATION_PERFORM (R30). -/
def execUntimedOperationPerform (k i : Nat) (s : State) : Host.Outcome State Fault Refusal := performUntimed .other k i s
/-- MADDER_GATHER_RETURN (R83, R274). -/
def execMadderGatherReturn (k i : Nat) (s : State) : Host.Outcome State Fault Refusal := performUntimed .madder k i s
/-- MMAG_START (R257). -/
def execMmagStart (k i : Nat) (s : State) : Host.Outcome State Fault Refusal := performUntimed .mmag k i s
/-- MMAS_TOKEN_TAKE (R258). -/
def execMmasTokenTake (k i : Nat) (s : State) : Host.Outcome State Fault Refusal := performUntimed .mmas k i s
/-- BARRIER_ARRIVAL_COUNT (R178, R179). -/
def execBarrierArrivalCount (k i : Nat) (s : State) : Host.Outcome State Fault Refusal := performUntimed .arrive k i s

/-! ### Pages (R89, R90, R348–R351) -/

/-- Does an operation under way pin a page? (R90) -/
def jobTouches (page : Nat) : Job → Bool
  | .gather v n idx _ => idx.any (fun i => (entryAddr v n i) / 65536 == page)
  | .scatter v n idx _ => idx.any (fun i => (entryAddr v n i) / 65536 == page)
  | .replay els rest => (els ++ rest).any (fun e => e.1 / 65536 == page)
  | .fput v _ n => (List.range n).any (fun i => (v + 256 * i) / 65536 == page)
  | .fget v _ n => (List.range n).any (fun i => (v + 256 * i) / 65536 == page)
  | .load v n _ => v / 65536 == page || (v + n - 1) / 65536 == page
  | .store v b => v / 65536 == page || (v + b.length - 1) / 65536 == page
  | .atomic _ v n _ _ _ _ => v / 65536 == page || (v + n - 1) / 65536 == page
  | .signal v _ _ => v / 65536 == page
  | _ => false

/-- Does a copy in flight touch the page? -/
def flightTouches (page : Nat) (f : Flight) : Bool :=
  match slotRun f.act with
  | some r => (copyAddrs r).any (fun a => a / 65536 == page)
  | none => false

/-- Is the page of a tenant pinned: by a copy in flight or paused, a transfer under way, or a side-log entry? (R90, R350) -/
def isPinned (s : State) (tenant page : Nat) : Bool :=
  let pins (c : Ctx) : Bool := c.task.any (fun t => t.tenant == tenant) &&
    (c.flights.any (flightTouches page) || c.snap.any (fun e => flightTouches page e.flight) ||
      c.allUntimed.any (fun u => !u.done && jobTouches page u.job && (u.sent || u.held.isSome || (match u.job with
        | .gather .. | .scatter .. | .replay .. | .fput .. | .fget .. => true
        | _ => false))))
  s.ctxs.any (fun c => pins c.2) || s.saved.any (fun x => pins x.ctx)

/-- Address of the level-4 entry of a page; none where a table is missing. -/
def entryOf (m : Memory) (root v : Nat) : Option Nat :=
  (nextTable m root (fieldOf v 46 10)).bind (fun t2 => (nextTable m t2 (fieldOf v 36 10)).bind (fun t3 =>
    (nextTable m t3 (fieldOf v 26 10)).map (fun t4 => t4 + 8 * fieldOf v 16 10)))

/-- Remove a page's cached translations, and its lines in every entry buffer, those of walks that wait or are saved too (R308,
R350). -/
def dropPage (s : State) (tenant page : Nat) : State :=
  let drop (w : Walk) : Walk := { w with ebuf := w.ebuf.filter (fun e => e.1 / 256 != page) }
  let clear (w : Walk) : Walk := if (ctxOf s w.ctx).task.any (fun t => t.tenant == tenant) then drop w else w
  let old (x : Saved) : Saved := if x.ctx.task.any (fun t => t.tenant == tenant) then { x with walk := x.walk.map drop } else x
  { s with
    clusters := s.clusters.map (fun c => (c.1, { c.2 with
      tlb := c.2.tlb.filter (fun e => !(e.1 == tenant && e.2.1 == page))
      walk := c.2.walk.map clear
      startQ := c.2.startQ.map clear }))
    saved := s.saved.map old
    images := s.images.map old }

/-- SIDE_LOG_RETRY: every 1,024 cycles, and after every PGREQ or TLBINV (R351). -/
def execSideLogRetryEvent (core : Nat) (s : State) : Host.Outcome State Fault Refusal := execSideLogRetry core s

/-- The pending PGREQ of a context with this value. -/
def pageRequest (s : State) (k : Nat) (v : W64) : Option Untimed :=
  (ctxOf s k).allUntimed.find? (fun u => !u.done && decide (u.job = .pgreq v))

/-- A PGREQ has ended: PGRES is written at the issuer's next wait (R350), and held units retry (R351). -/
def endRequest (s : State) (k : Nat) (u : Untimed) (res : Nat) : State :=
  let s := modUntimed s k u.seq (fun u => { u with done := true, result := some ⟨0, some (BitVec.ofNat 64 res)⟩ })
  retryCores s (usedCores s)

/-- Virtual page, tenant and destination of a PGREQ (R349). -/
def reqPage (v : W64) : Nat := fieldOf v.toNat 16 40
def reqTenant (v : W64) : Nat := fieldOf v.toNat 56 4
def reqStack (v : W64) : Nat := fieldOf v.toNat 60 3

/-- PGREQ_EVICT (R349, R350). -/
def execPgreqEvict (k : Nat) (v : W64) (s : State) : Host.Outcome State Fault Refusal :=
  match pageRequest s k v with
  | none => .next s
  | some u =>
    if v.getLsbD 63 then .next s
    else
      let t := reqTenant v
      let page := reqPage v
      match (rootOf s t).bind (fun r => (pageWalk s.mem r (page * 65536)).bind (fun _ => entryOf s.mem r (page * 65536))) with
      | none => .next (endRequest s k u 2)
      | some e =>
        if isPinned s t page then .next (endRequest s k u 1)
        else
          let s := putFinal s e (bytesOfNat 8 (memReadNat s.mem e 8 / 2 * 2))
          .next (endRequest (dropPage s t page) k u 0)

/-- A free 64 KiB page of a stack. -/
def freePage (s : State) (stack : Nat) : Option Nat := placeRegion s stack 65536

/-- Does a stack keep the class and grant of every core whose task uses the page? (R90) -/
def stackServes (s : State) (tenant page stack : Nat) : Bool :=
  s.ctxs.all (fun c => match c.2.task with
    | some t => !(t.tenant == tenant && t.segs.any (fun g => g.valid && g.kind == .pg &&
        decide (g.vbase ≤ page * 65536 ∧ page * 65536 < g.vbase + g.bytes))) ||
      stackFits (tenantOf s tenant) (nodeOf s tenant t.node).desc (coreIx c.1) stack
    | none => true)

/-- PGREQ_MIGRATE (R90, R349, R350). -/
def execPgreqMigrate (k : Nat) (v : W64) (s : State) : Host.Outcome State Fault Refusal :=
  match pageRequest s k v with
  | none => .next s
  | some u =>
    if !v.getLsbD 63 then .next s
    else
      let t := reqTenant v
      let page := reqPage v
      match (rootOf s t).bind (fun r => (pageWalk s.mem r (page * 65536)).bind (fun p =>
          (entryOf s.mem r (page * 65536)).map (fun e => (p.1, e)))) with
      | none => .next (endRequest s k u 2)
      | some (old, e) =>
        if isPinned s t page then .next (endRequest s k u 1)
        else if !stackServes s t page (reqStack v) then .next (endRequest s k u 3)
        else match freePage s (reqStack v) with
          | none => .next (endRequest s k u 3)
          | some a =>
            let s := moveBytes s old a 65536
            let s := putFinal s e (bytesOfNat 8 (a + memReadNat s.mem e 8 % 65536))
            .next (endRequest (dropPage s t page) k u 0)

/-- The address of flight `i` of context `k` whose translation is needed this cycle: that of the line whose slot it is. -/
def neededNow (s : State) (k i : Nat) : Option Nat :=
  match (ctxOf s k).flights[i]? with
  | some f => if isRunning s k then (nextSlot f (ctxOf s k).ttc).bind (fun x => if x.2 = 0 then some x.1 else none) else none
  | none => none

/-- Is the translation of an address at hand: of a segment without pages, or one that the cluster's cache holds? (R89, R304, R350) -/
def isResolved (s : State) (k v : Nat) : Bool :=
  match translate s k v with
  | .hit p => p.kind != .pg || (clusterOf s (clusIx k)).tlb.any (fun e =>
      e.1 == (nodeIds (ctxOf s k)).1 && e.2.1 == v / 65536)
  | _ => true

/-- TIMED_PAGE_FAULT: the translation that a timed access needs in this cycle is unmapped (PF), or mapped but, as the outside
world has it, not resolved yet (LK), which one at hand is not: the group stops before the cycle (R89, R304, R341). -/
def execTimedPageFault (k i : Nat) (s : State) : Host.Outcome State Fault Refusal :=
  match neededNow s k i with
  | none => .next s
  | some v =>
    if translate s k v = .unmapped then
      .next (postCtxFault (freezeGroup s k .pf) k 0 0x0B (BitVec.ofNat 64 v) 0 (ctxOf s k).pc.toNat)
    else if isResolved s k v then .next s else .next (freezeGroup s k .lk)

/-- The addresses of the lines of a paused copy whose slots are still to come, in order (R304). -/
def pausedAddrs (e : SnapEntry) : List Nat :=
  let rest (r : CopyRun) (j : Nat) : List Nat := ((List.range r.lines).drop j).map (copyAddr r)
  let ttc := e.flight.due - e.delay
  let reads (r : CopyRun) (j : Nat) : List Nat := rest r (j + (ttc + r.half - e.flight.due + (r.stride - 1)) / r.stride)
  match e.flight.act with
  | .copySample r j => reads r j
  | .mapGather r j _ _ => reads r j
  | .copySource r j => rest r j
  | .copyPerform .. => ((nextSlot e.flight ttc).map (fun x => x.1)).toList
  | _ => []

/-- The addresses that the paused entries of command `seq` still need (R304). -/
def snapAddrs (s : State) (k seq : Nat) : List Nat :=
  ((ctxOf s k).snap.filter (fun e => e.flight.seq == seq)).flatMap pausedAddrs

/-- The first address that a paused entry of command `seq` still needs and finds unmapped. -/
def missedAddr (s : State) (k seq : Nat) (e : SnapEntry) : Option Nat :=
  if e.flight.seq = seq then (pausedAddrs e).find? (fun v => translate s k v == .unmapped) else none

/-- Does a paused entry of command `seq` wait for an unmapped page? -/
def missesPage (s : State) (k seq : Nat) (e : SnapEntry) : Bool := (missedAddr s k seq e).isSome

/-- The first entry of command `seq` that waits for an unmapped page takes its fault. -/
def faultSnap (s : State) (k seq : Nat) (l : List SnapEntry) : List SnapEntry :=
  match l.findIdx? (missesPage s k seq) with
  | none => l
  | some j => l.modify j (fun e => { e with fault := some (0x0B, BitVec.ofNat 64 ((missedAddr s k seq e).getD 0)) })

/-- TRANSLATION_RESOLVED: a lookup ends. For a group frozen by LK the reason clears; for a copy entry of a snapshot whose
page is unmapped the entry and its descriptor in the frame take the fault, and one whose pages are mapped keeps the results, of
every line still to come, for the resumed copy (R191, R304). -/
def execTranslationResolved (k i : Nat) (s : State) : Host.Outcome State Fault Refusal :=
  let c := ctxOf s k
  if c.freeze.any (fun f => f.marks.contains .lk) then .next (clearGroup s k .lk (s.gcc + 1))
  else match (snapHeads c.snap)[i]? with
    | none => .next s
    | some e =>
      if e.fault.isSome then .next s
      else if c.snap.any (missesPage s k e.flight.seq) then
        .next (rewriteDescriptor (modCtx s k (fun c => { c with snap := faultSnap s k e.flight.seq c.snap })) k e.flight.seq)
      else .next ((snapAddrs s k e.flight.seq).foldl (fun s v => cachePage s k v) s)

/-- Does the context's next bundle stand in blocks that are pinned in L1? (R91) -/
def isPinnedCode (s : State) (k : Nat) : Bool :=
  let c := ctxOf s k
  let blocks := codeBlocks c c.pc (bundleBytes s c c.pc)
  blocks != [] && blocks.all (fun b => (coreOf s (coreIx k)).pins.any (fun p => p.1 == b))

/-- CODE_FETCH_MISS: the next bundle is not at hand; the group stops before it (R91, R341). Code pinned in L1 does not miss. -/
def execCodeFetchMiss (k : Nat) (s : State) : Host.Outcome State Fault Refusal :=
  let c := ctxOf s k
  if c.task.isNone ∨ c.freeze.isSome ∨ isPinnedCode s k then .next s
  else .next (modCtx (freezeGroup s k .fe) k (fun c => { c with missing := some c.pc }))

/-- CODE_FETCH_ARRIVAL (R91, R342). -/
def execCodeFetchArrival (k : Nat) (s : State) : Host.Outcome State Fault Refusal :=
  if (ctxOf s k).missing.isSome then .next (clearGroup (modCtx s k (fun c => { c with missing := none })) k .fe (s.gcc + 1))
  else .next s

/-! ### Freezing and thawing (R35, R341, R342) -/

/-- FREEZE_BOUNDARY: the boundary of a posted pre-emption (R341). -/
def execFreezeBoundary (k : Nat) (s : State) : Host.Outcome State Fault Refusal :=
  if (ctxOf s k).preAt.any (fun p => decide (p ≤ s.gcc)) then
    let s := freezeGroup s k .pre
    .next ((groupOf s k).foldl (fun s j => modCtx s j (fun c => { c with preAt := none })) s)
  else .next s

/-- Is the width of the context's core free for it? (R342) -/
def widthFree (s : State) (k : Nat) : Bool :=
  let c := coreOf s (coreIx k)
  c.incoming.isNone && (c.width.isNone || c.width == some (ctxIx k))

/-- Has the last reason of a frozen context cleared? -/
def isCleared (s : State) (k : Nat) : Bool := (ctxOf s k).freeze.any (fun f => f.marks == [])

/-- Is the trap of another member the only reason of a frozen context? -/
def isTrapHeld (s : State) (k : Nat) : Bool := (ctxOf s k).freeze.any (fun f => f.marks == [.trp])

/-- May the group of a context thaw in this cycle? (R342) A member that is held by the trap of another, and that other while
its handler runs, do not hold the group. -/
def canThaw (s : State) (k : Nat) : Bool :=
  let ms := groupOf s k
  ms.any (isCleared s) && ms.all (fun j => match (ctxOf s j).freeze with
    | some f => f.marks == [.trp] ||
      f.marks == [] && decide (f.soon ≤ s.gcc ∧ s.gcc % 1024 = f.f % 1024) && widthFree s j
    | none => true)

/-- One member goes on at T: what it measured in GCC moves by the frozen cycles (R35). It holds the width, so it is promoted no
more (R22). -/
def thawCtx (s : State) (k : Nat) : State :=
  let s := resumeResv s k (((ctxOf s k).freeze.map (fun f => f.f)).getD 0)
  let s := modCtx s k (fun c => match c.freeze with
    | some f => { c with
      freeze := none
      promoted := false
      readyAt := none
      resume := if f.f < c.resume then c.resume + (s.gcc - f.f) else c.resume
      wait := c.wait.map (fun w => match w.kind with
        | .resumeAt r => if f.f < r then { w with kind := .resumeAt (r + (s.gcc - f.f)) } else w
        | _ => w) }
    | none => c)
  modCore s (coreIx k) (fun c => { c with width := some (ctxIx k) })

/-- THAW (R35, R342). -/
def execThaw (k : Nat) (s : State) : Host.Outcome State Fault Refusal :=
  if canThaw s k then .next (((groupOf s k).filter (isCleared s)).foldl thawCtx s) else .next s

/-! ### Waits (R25, R26, R30–R33, R174–R180) -/

/-- Has everything the context issued performed? -/
def hasDrained (c : Ctx) : Bool := c.flights == [] && c.untimed.all (fun u => u.done)

/-- Is the oldest entry of queue q for the context an end-of-stream token? (R38, R280) -/
def headEos (s : State) (k q : Nat) : Bool :=
  (splitQueue k ((clusterOf s (clusIx k)).queues.get q [])).any (fun x => x.2.1.eos)

/-- The condition of a wait besides its drain (R31). -/
def waitMet (s : State) (k : Nat) (w : Wait) : Bool :=
  match w.kind with
  | .waitq q => !mmasHolds (ctxOf s k) q && ((clusterOf s (clusIx k)).queues.get q []).any (fun e => e.dest == k)
  | .waitm _ _ _ _ _ dl hit => hit.isSome || dl.any (fun d => decide (d ≤ s.gcc))
  | .barwait b ph =>
    let x := (((coreOf s (b / 64)).barriers.get (b % 64) ⟨0, 0, 0⟩).phase - ph).toNat
    decide (1 ≤ x ∧ x ≤ 2 ^ 15)
  | .csync _ => false
  | .resumeAt _ => false
  | _ => true

/-- Can the wait of the context complete in the next cycle? -/
def canComplete (s : State) (k : Nat) : Bool :=
  let c := ctxOf s k
  match c.wait with
  | some w => hasDrained c && waitMet s k w
  | none => false

/-- Write the untimed results of a context in issue order (R30). -/
def writeResults (c : Ctx) : Ctx :=
  c.untimed.foldl (fun c u => match u.result with
    | some ⟨r, some x⟩ => if isHacc u then c.orFlags (BitVec.ofNat 5 (x.toNat / 2 ^ 32)) else c.writeReg (.s r x)
    | _ => c) c

/-- The drain of a wait is over: results, HSTAT, PGRES (of several requests the later one stands) and the faults of untimed work (R30,
R187, R227, R350). -/
def finishDrain (s : State) (k : Nat) : State :=
  let c := ctxOf s k
  let faults := c.untimed.filterMap (fun u => u.fault)
  let pg := (c.untimed.filterMap (fun u => match u.job, u.result with
    | .pgreq _, some ⟨_, some x⟩ => some x
    | _, _ => none)).getLast?
  let s := modCtx s k (fun c =>
    let d := writeResults c
    { d with
      hstat := if c.untimed.any isHacc then haccStatus c.untimed else c.hstat
      untimed := []
      causes := c.causes ++ faults })
  let s := match pg with
    | some x => modCore s (coreIx k) (fun c => { c with pgres := some (x.setWidth 2) })
    | none => s
  let s := modCluster s (clusIx k) (fun x => { x with
    walkLines := x.walkLines.filter (fun l => l.1 != k || c.snapU.any (fun u => u.seq == l.2.1)) })
  releaseOpen s k

/-- What a kind of wait does as it completes. -/
def waitEffect (s : State) (k : Nat) (w : Wait) : State :=
  match w.kind with
  | .waitq q =>
    if headEos s k q then
      match takeToken s k q with
      | some (_, t) => deliverEos t k q
      | none => s
    else s
  | .waitm d _ _ _ _ _ hit => modCtx s k (fun c => c.writeReg (.s d (boolWord (hit == some true))))
  | .pbar | .pcommit => modCtx s k (fun c => { c with lastPersist := some s.gcc })
  | _ => s

/-- Is the wait a CSYNC, at which no width is handed over and whose time counts? (R21, R23) -/
def isCsync (w : Wait) : Bool :=
  match w.kind with
  | .csync _ => true
  | _ => false

/-- The cycles that count towards RUNLEN when a wait completes: the last cycle of a CSYNC is one, any other wait of the program is a
hand-over point, and a handler's waits leave its program's count alone (R23, R175). -/
def ranAfter (c : Ctx) (w : Wait) : Nat := if c.mode = .supervisor then c.ran else if isCsync w then c.ran + 1 else 0

/-- The wait completes in this cycle; the next bundle issues in the next one, at TTC 0 (R23, R25, R26, R32). -/
def completeWait (s : State) (k : Nat) (w : Wait) : State :=
  let s := waitEffect (finishDrain s k) k w
  modCtx s k (fun c => { c with wait := none, ttc := 0, resume := s.gcc + 1, ran := ranAfter c w })

/-- Has the context the width? -/
def hasWidth (s : State) (k : Nat) : Bool := (coreOf s (coreIx k)).width == some (ctxIx k)

/-- WAIT_COMPLETION (R26, R31); an RTE that has drained fixes its resumption cycle (R192), unless the handler's own work has left a
fault: that is a double fault, to be taken in supervisor mode (R193). -/
def execWaitCompletion (k : Nat) (s : State) : Host.Outcome State Fault Refusal :=
  let c := ctxOf s k
  match c.wait with
  | none => .next s
  | some w =>
    if c.freeze.isSome || !hasWidth s k || decide (s.gcc ≤ w.at_) || !canComplete s k then .next s
    else match w.kind with
      | .endTask => .next s
      | .rte =>
        let t := finishDrain s k
        if (ctxOf t k).causes != [] then .next (modCtx t k (fun c => { c with wait := none, resume := s.gcc }))
        else .next (modCtx t k (fun c => { c with
          wait := some { w with kind := .resumeAt (resumeCycle c w.at_ (s.gcc - 1)) } }))
      | _ => .next (completeWait s k w)

/-- The live members of a task's gang, itself among them (R33). -/
def liveGang (s : State) (k : Nat) : List Nat :=
  match (ctxOf s k).task with
  | none => [k]
  | some t => t.gang.filter (fun j => (ctxOf s j).task.any (fun x => x.tenant == t.tenant && x.node == t.node && x.gang == t.gang))

/-- The GCC of a member's CSYNC, if it sits drained in one. A member that is frozen alone, or in a trap handler, while in its CSYNC holds
its gang back, on which R33 is silent (DESIGN CHOICE, log 130). -/
def csyncArrival (s : State) (k : Nat) : Option Nat :=
  let c := ctxOf s k
  match c.wait with
  | some ⟨.csync a, _, _⟩ => if c.freeze.isNone && hasDrained c then some a else none
  | _ => none

/-- May the gang of a context be released in this cycle, so that it issues in the next? (R33) A member whose drain (R31) lasts past
g + 7 delays the release of the whole gang: R33 fixes g + 8 for every member, and the spec does not say which gives way (DESIGN
CHOICE, log 104). -/
def canRelease (s : State) (k : Nat) : Bool :=
  let ms := liveGang s k
  let away := (ctxOf s k).task.any (fun t => s.saved.any (fun x => x.ctx.task.any (fun y =>
    y.tenant == t.tenant && y.node == t.node && y.gang == t.gang)))
  !away && ms != [] && ms.all (fun j => (csyncArrival s j).any (fun a => decide (a + 7 ≤ s.gcc)))

/-- CSYNC_RELEASE: every live member issues 8 cycles after the last arrival, and the members form a sync group (R33). -/
def execCsyncRelease (k : Nat) (s : State) : Host.Outcome State Fault Refusal :=
  if canRelease s k then
    let ms := liveGang s k
    .next (ms.foldl (fun s j => match (ctxOf s j).wait with
      | some w => modCtx (completeWait s j w) j (fun c => { c with group := ms })
      | none => s) s)
  else .next s

/-- WAITM_POLL: the monitor of a HOST or REM word compares again; so does one whose word a write has reached. The WAITM in which a
trap was taken goes on comparing (R176, R194). -/
def execWaitmPoll (k : Nat) (s : State) : Host.Outcome State Fault Refusal :=
  .next (nextFresh (modCtx s k (fun c => { c with
    wait := c.wait.map (lookAgain s k)
    heldWait := c.heldWait.map (lookAgain (nextFresh s 1) k) })) 2)

/-- The condition is met where the timeout has come (R176). -/
def Wait.expire (w : Wait) (gcc : Nat) : Wait :=
  match w.kind with
  | .waitm _ _ _ _ _ (some dl) _ => if dl ≤ gcc then w.meet false else w
  | _ => w

/-- WAITM_TIMEOUT: the condition is met without a true comparison (R176). -/
def execWaitmTimeout (k : Nat) (s : State) : Host.Outcome State Fault Refusal :=
  .next (modCtx s k (fun c => { c with
    wait := c.wait.map (fun w => w.expire s.gcc)
    heldWait := c.heldWait.map (fun w => w.expire s.gcc) }))

/-- The node of a context has lost the task in it; a node with no task left is COMMITTING (R321). -/
def taskGone (s : State) (fn n k : Nat) (persist : Option Nat) : State :=
  let away := s.saved.any (fun x => x.ctx.task.any (fun t => t.tenant == fn && t.node == n))
  modNode s fn n (fun m =>
    let running := m.running.filter (· != k)
    { m with
      running := running
      past := m.past ++ [(k, persist)]
      state := if m.state = .running ∧ running = [] ∧ m.gangs = [] ∧ !away then .committing else m.state })

/-- Is the END that context `k` issued at GCC `a` drained, with no cause left to be taken? (R16, R187) -/
def endsNow (s : State) (k a : Nat) : Bool :=
  let c := ctxOf s k
  c.freeze.isNone && decide (a < s.gcc) && hasDrained c && c.causes == []

/-- TASK_END_COMPLETE: END is drained and the context is free (R16, R33, R135, R321). Faults of untimed work that END drains
are raised first, with END as the wait that RTE resumes (log 21). -/
def execTaskEndComplete (k : Nat) (s : State) : Host.Outcome State Fault Refusal :=
  let c := ctxOf s k
  match c.wait, c.task with
  | some ⟨.endTask, a, _⟩, some t =>
    let faults := c.untimed.filterMap (fun u => u.fault)
    if !endsNow s k a then .next s
    else if faults != [] then .next (modCtx s k (fun c => { c with causes := c.causes ++ faults, untimed := [] }))
    else
      .next (taskGone (freeCtx s k) t.tenant t.node k c.lastPersist)
  | _, _ => .next s

/-! ### The width (R20–R24, R132) -/

/-- Would a context issue, or take a trap, if it had the width? -/
def isReady (s : State) (k : Nat) : Bool :=
  let c := ctxOf s k
  occupied c k && c.freeze.isNone && c.halted.isNone &&
  (match c.wait with
    | none => true
    | some ⟨.endTask, _, _⟩ => c.causes != []
    | some _ => canComplete s k || c.causes != [] || (c.mode == .user && c.irq != 0))

/-- Is the context's priority high? (R22) -/
def isHigh (c : Ctx) : Bool := c.promoted || c.task.any (fun t => decide (2 ≤ t.prio))

/-- The context of the core that gets the width next: high before low, round-robin after the last holder, the one that gives
the width up (`except`) if there is one (R22). -/
def selectNext (s : State) (core : Nat) (except : Option (Fin 4)) : Option (Fin 4) :=
  let last := (except.getD (coreOf s core).last).val
  let order := (List.range 4).map (fun i => (last + 1 + i) % 4)
  let ready := order.filter (fun i => isReady s (core * 4 + i) && except != some (Fin.ofNat 4 i))
  ((ready.find? (fun i => isHigh (ctxOf s (core * 4 + i)))).or ready.head?).map (Fin.ofNat 4)

/-- Has the RTE of a context drained, so that it goes on at a cycle that is fixed? (R192) -/
def isReturning (s : State) (k : Nat) : Bool :=
  match (ctxOf s k).wait with
  | some ⟨.resumeAt _, _, _⟩ => (ctxOf s k).freeze.isNone
  | _ => false

/-- Does a frozen context only wait for its thaw, its last reason gone or about to go as an RTE of its group ends? (R342) -/
def awaitsThaw (s : State) (k : Nat) : Bool :=
  isCleared s k || (isTrapHeld s k && (groupOf s k).any (isReturning s))

/-- A context of the core that waits for its thaw alone. -/
def thawing (s : State) (core : Nat) : Option (Fin 4) :=
  ((List.range 4).find? (fun i => awaitsThaw s (core * 4 + i))).map (Fin.ofNat 4)

/-- Begin a hand-over: two cycles in which nothing issues (R22). -/
def beginHandOver (s : State) (core : Nat) (holder : Option (Fin 4)) (next : Fin 4) : State :=
  modCore s core (fun c => { c with width := none, last := holder.getD c.last, incoming := some next, handCycles := 2, padded := 0 })

/-- Does the holder stand at a point at which it gives up the width, with no trap to take first? (R21, R175) -/
def givesUp (s : State) (k : Nat) : Bool :=
  let c := ctxOf s k
  c.causes == [] && !(c.mode == .user && c.irq != 0) &&
  match c.wait with
  | some ⟨.csync _, _, _⟩ => false
  | some ⟨.yield, _, _⟩ => c.mode == .user && c.flights == []
  | some ⟨.endTask, _, _⟩ => c.flights == []
  | some _ => c.mode == .user && c.flights == [] && !canComplete s k
  | none => c.halted.isSome && c.flights == []

/-- The context to which the width goes when `holder` gives it up, or when nobody holds it: one that waits for its thaw alone, for
which the width then stays idle, or a ready one (R22, R342). -/
def nextHolder (s : State) (core : Nat) (holder : Option (Fin 4)) : Option (Fin 4) := (thawing s core).or (selectNext s core holder)

/-- Who takes the width from a frozen holder that does not wait for its thaw alone: a ready context, whatever the holder has in flight,
or, where it has nothing in flight, a thawing one (R21, R342). -/
def takerOf (s : State) (core : Nat) (i : Fin 4) : Option (Fin 4) :=
  if (ctxOf s (core * 4 + i.val)).flights = [] then nextHolder s core (some i) else selectNext s core (some i)

/-- Who holds the width after this cycle (R21, R22, R76, R342). Every passing of the width costs two dead cycles, that to a thawing
context too; at a freeze it is given up at the boundary before F, so that F is the first of them. -/
def decideWidth (s : State) (core : Nat) : State :=
  let c := coreOf s core
  match c.incoming, c.width with
  | some _, _ => modCore s core (fun c => { c with
      handCycles := max 1 (c.handCycles - 1), padded := if c.handCycles ≤ 1 then c.padded + 1 else 0 })
  | none, none => match nextHolder s core none with
    | some i => beginHandOver s core none i
    | none => s
  | none, some i =>
    let k := core * 4 + i.val
    match (ctxOf s k).freeze with
    | some f =>
      if awaitsThaw s k then s
      else match takerOf s core i with
        | some j =>
          let t := beginHandOver s core (some i) j
          if f.f = s.gcc then modCore t core (fun c => { c with handCycles := 1 }) else t
        | none => s
    | none =>
      if givesUp s k then match nextHolder s core (some i) with
        | some j => beginHandOver s core (some i) j
        | none => s
      else s

/-- Does the first bundle of a context fit in the next cycle, with the reservations that it makes, on the core as the completion of
its wait in this one leaves it? (R122, R132) -/
def firstFits (s : State) (core k : Nat) : Bool :=
  let t := match (ctxOf s k).wait with
    | some w => completeWait s k w
    | none => s
  let t := { t with gcc := s.gcc + 1, cur := k }
  match checkBundle t k with
  | .error _ => true
  | .ok b =>
    let new := (activeOps (ctxOf t k) b).flatMap (fun o => drawsOf t o.instr)
    let c := coreOf t core
    decide (pastEnergy c 6 + drawsAt c.resv s.gcc + b.weight + drawsAt (c.resv ++ new) (s.gcc + 1) ≤ c.value)

/-- Is the padding of a hand-over over: at most 6 cycles, and none before a handler, a trap or a thaw? (R131, R132, R342) -/
def paddingOver (s : State) (core k : Nat) : Bool :=
  let c := ctxOf s k
  c.freeze.isSome || c.mode == .supervisor || c.causes != [] || c.irq != 0 || decide (6 ≤ (coreOf s core).padded) || firstFits s core k

/-- Can the incoming context of a hand-over still take the width: is it ready, or does it wait for its thaw alone? (R22, R342) -/
def canReceive (s : State) (k : Nat) : Bool := occupied (ctxOf s k) k && ((ctxOf s k).freeze.isNone || awaitsThaw s k)

/-- HAND_OVER: in the last dead cycle the width reaches the incoming context, whose wait may complete in it (R22, R26). One that is
frozen only holds it until its thaw (R35, R342). -/
def execHandOver (core : Nat) (s : State) : Host.Outcome State Fault Refusal :=
  let c := coreOf s core
  match c.incoming with
  | none => .next s
  | some i =>
    let k := core * 4 + i.val
    if !canReceive s k then .next (modCore s core (fun c => { c with incoming := none, handCycles := 0 }))
    else if c.handCycles ≠ 1 ∨ !paddingOver s core k then .next s
    else
      let s := modCore s core (fun c => { c with incoming := none, handCycles := 0, padded := 0, width := some i })
      .next (modCtx s k (fun x => { x with
        readyAt := none
        promoted := false
        resume := if x.wait.isNone && x.freeze.isNone then max x.resume (s.gcc + 1) else x.resume }))

/-- LOW_PRIORITY_PROMOTION: ready for 2^20 cycles (R22). -/
def execLowPriorityPromotion (k : Nat) (s : State) : Host.Outcome State Fault Refusal :=
  if (ctxOf s k).readyAt.any (fun g => decide (g + 2 ^ 20 ≤ s.gcc)) then .next (modCtx s k (fun c => { c with promoted := true }))
  else .next s

/-- Has the holder of the width run past its RUNLEN? (R24) -/
def hasOverrun (s : State) (k : Nat) : Bool :=
  hasWidth s k && (ctxOf s k).task.any (fun t => decide ((ctxOf s k).ran = t.runlen + 1))

/-- RUN_OVERRUN: a pre-emption request for the group, and an entry in the fault buffer; while a full buffer holds the entry back,
the request is left pending (R24, R337, R340). -/
def execRunOverrun (k : Nat) (s : State) : Host.Outcome State Fault Refusal :=
  if hasOverrun s k then
    let s := modCtx s k (fun c => { c with ran := c.ran + 1 })
    let full := decide (4096 ≤ (dieOf s (dieIx k)).faults.length)
    .next (postCtxFault (if full then s else postPre s k) k 0 0x20 0 0 (ctxOf s k).pc.toNat)
  else .next s

/-! ### Faults held at their source (R340) -/

/-- Is a fault-buffer entry one of the task that context `k` runs now? (R338) -/
def isEntryOf (s : State) (k : Nat) (e : FaultEntry) : Bool :=
  let c := ctxOf s k
  fieldOf e.w0.toNat 40 9 == coreIx k && fieldOf e.w0.toNat 38 2 == k % 4 && decide (c.started ≤ e.w1.toNat) &&
  c.task.any (fun t => fieldOf e.w0.toNat 60 4 == t.tenant % 16 && fieldOf e.w0.toNat 50 10 == t.node % 1024)

/-- The page fault of context `k` that a full fault buffer holds back (R340). -/
def heldFault (s : State) (k : Nat) : Option FaultEntry :=
  (dieOf s (dieIx k)).held.find? (fun e => fieldOf e.w0.toNat 0 8 == 0x0B && isEntryOf s k e)

/-- Do the cause registers of a context hold the fault that is held back at its source, as those of a handler under way need not?
(R340, log 108) -/
def holdsCause (c : Ctx) (e : FaultEntry) : Bool := c.mode == .supervisor || (c.tcause == 0x0B && c.tval == e.w2)

/-- Does a fault held back at its source still have to freeze its context, or to enter its cause registers? (R340) -/
def mustHoldFault (s : State) (k : Nat) : Bool :=
  (heldFault s k).any (fun e => !(ctxOf s k).freeze.any (fun f => f.marks.contains .pf) || !holdsCause (ctxOf s k) e)

/-- A fault that finds the buffer full leaves its context frozen, with its sync group, and the cause in its cause registers, which
a handler under way keeps for its own cause (R340, log 108). -/
def freezeAtSource (k : Nat) (s : State) : Host.Outcome State Fault Refusal :=
  match heldFault s k with
  | none => .next s
  | some e =>
    let s := freezeGroup s k .pf
    .next (if (ctxOf s k).mode = .supervisor then s else modCtx s k (fun c => { c with tcause := 0x0B, tval := e.w2 }))

/-! ### Allowances (R135, R136) -/

/-- Does post `p` win against `q` of its core and kind in one cycle: the later posting, else the lower allowance, or STRICT? (R136) -/
def Post.beats (p q : Post) : Bool :=
  decide (q.posted < p.posted) ||
  (p.posted == q.posted && (if p.isMode then p.value.getLsbD 0 else decide (p.value.toNat ≤ q.value.toNat)))

/-- Is it a post for the core and of the kind of `p` that applies by GCC `g`? -/
def Post.isRival (p q : Post) (g : Nat) : Bool := q.core == p.core && q.isMode == p.isMode && decide (q.posted + 16 ≤ g)

/-- At boost no core's VALUE stands above 7,200 q: a core that needs more takes the package to nominal (R135). -/
def leaveBoost (s : State) (core : Nat) : State :=
  if 700 < s.clock ∧ 7200 < (coreOf s core).value then { s with clock := 700 } else s

/-- A post takes effect (R135, R136). -/
def applyPost (s : State) (p : Post) : State :=
  leaveBoost (if p.isMode then
    let strict := p.value.getLsbD 0
    stretchValue (modCore s p.core (fun c => { c with
      strict := strict, value := if strict then max c.target (drawPeak c s.gcc + 64) else c.value })) p.core
  else
    let cap := if 700 < s.clock then 7200 else 8000
    stretchValue (modCore s p.core (fun c =>
      let t := min p.value.toNat cap
      { c with target := t, value := if c.strict then max t (drawPeak c s.gcc + 64) else c.value })) p.core) p.core

/-- ALLOWANCE_APPLY: 16 cycles after its posting, post `i`, or the one that wins against it in this cycle, applies (R135, R136). -/
def execAllowanceApply (i : Nat) (s : State) : Host.Outcome State Fault Refusal :=
  match s.posts[i]? with
  | none => .next s
  | some p =>
    if s.gcc < p.posted + 16 then .next s
    else
      let rivals := s.posts.filter (fun q => p.isRival q s.gcc)
      .next (applyPost { s with posts := s.posts.filter (fun q => !p.isRival q s.gcc) }
        (rivals.foldl (fun m q => if q.beats m then q else m) p))

/-! ### Traps (R185–R194, R305) -/

/-- The code by which causes at one boundary are ordered; a deferred one is marked by 0x100. -/
def causeCode (c : Nat) : Nat := c % 256

/-- The lowest of the posted causes, and the rest. -/
def lowestCause (cs : List (Nat × W64)) : Option ((Nat × W64) × List (Nat × W64)) :=
  match cs with
  | [] => none
  | x :: r =>
    let m := r.foldl (fun m y => if causeCode y.1 < causeCode m.1 then y else m) x
    some (m, cs.erase m)

/-- The lowest pending interrupt source (R194). -/
def lowestSource (irq : BitVec 3) : Option Nat := (List.range 3).find? (fun i => irq.getLsbD i)

/-- Does the context stand at a boundary of this cycle: about to issue, or in a wait that has issued? (R185, R187) -/
def atBoundary (s : State) (k : Nat) : Bool :=
  let c := ctxOf s k
  c.freeze.isNone && c.halted.isNone && hasWidth s k && occupied c k &&
  (match c.wait with
    | some w => decide (w.at_ < s.gcc) && (match w.kind with
        | .resumeAt _ => false
        | _ => true)
    | none => c.idle == 0 && decide (c.resume ≤ s.gcc))

/-- Is a trap to be taken now? -/
def trapDue (s : State) (k : Nat) : Bool :=
  let c := ctxOf s k
  atBoundary s k && (c.causes != [] || (c.mode == .user && c.irq != 0))

/-- Pages of the deferred page faults among causes, each once, with the first address in it (R191, R305). -/
def deferredPages (cs : List (Nat × W64)) : List W64 :=
  ((cs.filter (fun x => x.1 == 0x10B)).map (fun x => x.2)).foldl (fun acc v =>
    if acc.any (fun y => y.toNat / 65536 == v.toNat / 65536) then acc else acc ++ [v]) []

/-- The lowest pending interrupt of a context as a cause (R194). -/
def pendingIrq (c : Ctx) : Option (Nat × W64) :=
  if c.mode = .user then (lowestSource c.irq).map (fun i => (0x12, BitVec.ofNat 64 i)) else none

/-- TRAP_ENTRY: the lowest cause of the boundary is taken, the others held for the resumption; an interrupt leaves its source's
bit (R185, R187, R194). A wait behind which control goes elsewhere keeps that way as a redirect with RCNT 0 (R188). Page
faults deferred from a snapshot freeze the group instead, all of them at once (R305). -/
def execTrapEntry (k : Nat) (s : State) : Host.Outcome State Fault Refusal :=
  let c := ctxOf s k
  if !trapDue s k then .next s
  else match lowestCause (c.causes ++ (pendingIrq c).toList) with
    | none => .next s
    | some (x, rest) =>
      let pc := (c.wait.map (fun w => w.pc)).getD c.pc
      if x.1 = 0x10B then
        let t := modCtx s k (fun c => { c with causes := c.causes.filter (fun y => y.1 != 0x10B) })
        .next ((deferredPages c.causes).foldl (fun t v => postCtxFault t k 3 0x0B v 0 pc.toNat) (freezeGroup t k .pf))
      else
        let t := modCtx s k (fun c => { c with
          causes := []
          heldCauses := c.heldCauses ++ rest.filter (fun y => y.1 != 0x12)
          redirect := pendingRedirect s c
          irq := if x.1 = 0x12 then c.irq &&& ~~~((1 : BitVec 3) <<< x.2.toNat) else c.irq })
        .next (takeTrap t k (causeCode x.1) (some x.2) pc c.wait.isSome (decide (0x100 ≤ x.1)))

/-- The wait of an operation as RTE resumes it where a handler has moved TPC: registers are read anew (R176, R192). -/
def waitOf (s : State) (k : Nat) : Instr → Option WaitKind
  | .endTask => some .endTask
  | .yield => some .yield
  | .waite => some .waite
  | .waitq q => some (.waitq q.val)
  | .csync => some (.csync s.gcc)
  | .barwait a b => some (.barwait (barrierName ((ctxOf s k).readS a)) (((ctxOf s k).readS b).setWidth 16))
  | .pbar => some .pbar
  | .pcommit _ _ => some .pcommit
  | .waitm d a b cc w32 t =>
    let v := ((ctxOf s k).readS a).toNat
    let y := (ctxOf s k).readS b
    some (.waitm d v y cc w32 (if t = 0 then none else some (s.gcc + 1024 * t.toNat)) (if monitorHit s k v y cc w32 then some true else none))
  | _ => none

/-- The wait that a bundle at TPC holds (R192). -/
def waitAt (s : State) (k : Nat) : Option WaitKind :=
  let c := { ctxOf s k with pc := (ctxOf s k).tpc }
  match codeAddr c c.pc with
  | none => none
  | some a => match decodeBundle (bundleWords s c) a (c.mode == .supervisor) with
    | .error _ => none
    | .ok b => b.ops.findSome? (fun o => waitOf s k o.instr)

/-- May an RTE whose r has come resume? The members that thaw with it need their cores' width free (R192, R342); else it does
at the next GCC of its phase. -/
def canResume (s : State) (k : Nat) : Bool :=
  match (ctxOf s k).wait with
  | some ⟨.resumeAt r, _, _⟩ => (ctxOf s k).freeze.isNone && decide (r ≤ s.gcc) &&
    ((ctxOf s k).group == [] || (s.gcc % 1024 == r % 1024 &&
      (groupOf s k).all (fun j => !isTrapHeld s j || widthFree s j)))
  | _ => false

/-- RTE_RESUME: at r the interrupted program goes on; with WT set its wait does (R192). -/
def execRteResume (k : Nat) (s : State) : Host.Outcome State Fault Refusal :=
  let c := ctxOf s k
  match c.wait with
  | some ⟨.resumeAt _, _, _⟩ =>
    if !canResume s k then .next s
    else
      let u := { c with mode := Mode.user }
      let t := setCtx s k u
      let w : Option Wait :=
        if !c.tstate.getLsbD 5 then none
        else match c.heldWait with
          | some w => if w.pc = c.tpc then some { w with at_ := s.gcc - 1 } else (waitAt t k).map (fun kd => ⟨kd, s.gcc - 1, c.tpc⟩)
          | none => (waitAt t k).map (fun kd => ⟨kd, s.gcc - 1, c.tpc⟩)
      .next (resumeFromTrap s k w (nextBundle t u c.tpc))
  | _ => .next s

/-- TIMER_INTERRUPT: the timer's source becomes pending (R194). -/
def execTimerInterrupt (k : Nat) (s : State) : Host.Outcome State Fault Refusal :=
  .next (modCtx s k (fun c => { c with irq := c.irq ||| 1 }))

end Sys2Proof.Machine
end

