-- ==== Sys2Proof/Machine/Loader.lean ====
section
/-! DEFINITION. The kernel loader's bound on the windows and the carried draws of a kernel (R133, R312): the largest eight-cycle sum
over the paths of its control flow, and what stays open in its waits (log 32). -/

namespace Sys2Proof.Machine

/-! ### Paths -/

/-- A hardware loop on a path: its range, its counter, and the passes left where their number is a constant of the path. -/
structure PathLoop where
  start : W64
  stop  : W64
  lc    : Option Nat
  left  : Option Nat
deriving DecidableEq, Repr

/-- A point of a path: the next bundle and its cycle, the cycle of TTC 0, E of the last seven cycles, the draws under way, the
registers whose values are constants of the path, those that a result under way may still change, the writes of PREC (cycle of
effect and value, none where it is not determined), loops, a redirect with the delay bundles left, whether an END has
completed, and the largest sums so far. -/
structure Path where
  pc     : W64
  t      : Nat
  origin : Nat
  past   : List Nat
  resv   : List Interval
  regs   : Table W64
  unsure : List (Nat × Option Nat)
  precs  : List (Nat × Nat × Option W64)
  loops  : List PathLoop
  redirect : Option (W64 × Nat × Bool)
  ended  : Bool
  peak   : Nat
  carry  : Nat
deriving DecidableEq, Repr

/-- What the loader knows of a kernel: device memory, its code image and entry, its copies' half-latency and grant, and the
targets of indirect branches that its descriptor lists. -/
structure LoaderView where
  mem     : Memory
  code    : Nat
  codeLen : Nat
  entry   : Nat
  half    : Nat
  grant   : Nat
  targets : List W64

/-- Where a path begins: the entry bundle, at task start. -/
def Path.entry : Path := ⟨0, 0, 0, [], [], [], [], [], [], none, false, 0, 0⟩

/-- A register's value, where it is a constant of the path. -/
def Path.reg (p : Path) (r : SReg) : Option W64 :=
  if r = 0 then some 0 else (p.regs.find? (fun x => x.1 == r.val)).map (fun x => x.2)

/-- A cycle in which a bundle of weight `w` issues, or none with 0: E(c), and S of the window that ends there (R122, R133). -/
def Path.pass (p : Path) (w : Nat) : Path :=
  let e := w + drawsAt p.resv p.t
  { p with t := p.t + 1, past := (e :: p.past).take 7, peak := max p.peak (e + p.past.sum) }

/-- `n` cycles in which nothing issues. -/
def Path.idle (p : Path) (n : Nat) : Path := (List.range n).foldl (fun p _ => p.pass 0) p

/-! ### Constants of a path -/

/-- The value of an ALU operation whose operands are constants, with its register (R197–R199). -/
def constOf (p : Path) : Instr → Option (SReg × W64)
  | .li d i => some (d, sext64 i)
  | .lih d i => (p.reg d).map (fun (x : W64) => (d, (x <<< 19) ||| zext64 i))
  | .addi d a i => (p.reg a).map (fun x => (d, x + sext64 i))
  | .andi d a i => (p.reg a).map (fun x => (d, x &&& sext64 i))
  | .ori d a i => (p.reg a).map (fun x => (d, x ||| sext64 i))
  | .xori d a i => (p.reg a).map (fun x => (d, x ^^^ sext64 i))
  | .shli d a k => (p.reg a).map (fun (x : W64) => (d, x <<< k.val))
  | .shri d a k => (p.reg a).map (fun (x : W64) => (d, x >>> k.val))
  | .sari d a k => (p.reg a).map (fun x => (d, x.sshiftRight k.val))
  | .add d a b => (p.reg a).bind (fun x => (p.reg b).map (fun y => (d, x + y)))
  | .sub d a b => (p.reg a).bind (fun x => (p.reg b).map (fun y => (d, x - y)))
  | .and d a b => (p.reg a).bind (fun x => (p.reg b).map (fun y => (d, x &&& y)))
  | .or d a b => (p.reg a).bind (fun x => (p.reg b).map (fun y => (d, x ||| y)))
  | .xor d a b => (p.reg a).bind (fun x => (p.reg b).map (fun y => (d, x ^^^ y)))
  | _ => none

/-- The general register that an operation writes, and whether its result waits for the next wait (R30). -/
def destOf : Instr → Option (Nat × Bool)
  | .add d .. | .sub d .. | .addi d .. | .mul d .. | .mulh d .. | .mulhn d .. | .madd d .. | .div d .. | .divn d .. | .rem d ..
  | .remn d .. | .and d .. | .or d .. | .xor d .. | .andi d .. | .ori d .. | .xori d .. | .shl d .. | .shr d .. | .sar d ..
  | .shli d .. | .shri d .. | .sari d .. | .slt d .. | .sltn d .. | .seq d .. | .slti d .. | .sel d .. | .min d .. | .max d ..
  | .minn d .. | .maxn d .. | .li d .. | .lih d .. | .clz d .. | .popc d .. | .exts d .. | .extz d .. | .ins d .. | .ceilm d ..
  | .divc d .. | .ld d .. | .amoaddDm d .. | .amominDm d .. | .amomaxDm d .. | .amominnDm d .. | .amomaxnDm d .. | .amoandDm d ..
  | .amoorDm d .. | .amoxorDm d .. | .amoswapDm d .. | .amocasDm d .. | .getc d _ | .calli d _ | .gget d .. | .pget d ..
  | .pcnt d .. | .tstat d .. => some (d.val, false)
  | .vext d .. => some (d.val, false)
  | .call _ => some (63, false)
  | .ldg d .. | .amoaddGlobal d .. | .amominGlobal d .. | .amomaxGlobal d .. | .amominnGlobal d .. | .amomaxnGlobal d ..
  | .amoandGlobal d .. | .amoorGlobal d .. | .amoxorGlobal d .. | .amoswapGlobal d .. | .amocasGlobal d .. | .fatom d ..
  | .qrecv d _ | .waitm d .. => some (d.val, true)
  | _ => none

/-- Longest latency of a timed result in a general register (R163, R203). -/
def longestLatency : Nat := 24

/-- The general registers after an operation of a bundle that issued at `old`: a constant, unless a result under way may still
replace it; else not determined. -/
def Path.afterOp (old p : Path) (i : Instr) : Path :=
  match constOf old i with
  | some (d, x) =>
    if old.unsure.any (fun u => u.1 == d.val && u.2.all (fun g => decide (old.t ≤ g))) then
      { p with regs := p.regs.filter (fun r => r.1 != d.val) }
    else { p with regs := (d.val, x) :: p.regs.filter (fun r => r.1 != d.val) }
  | none => match destOf i with
    | some (d, late) =>
      { p with
        regs := p.regs.filter (fun r => r.1 != d)
        unsure := (d, if late then none else some (old.t + longestLatency)) :: p.unsure }
    | none => p

/-- PREC and the loop counters after an operation: PRECSET and SETC take effect two cycles later (R182, R262). -/
def Path.afterControl (old p : Path) : Instr → Path
  | .precset x => { p with precs := (x.tile.val, old.t + 2, some (BitVec.ofNat 64 (precsetValue x))) :: p.precs }
  | .setc a i =>
    if 0x20 ≤ i.toNat ∧ i.toNat < 0x24 then { p with precs := (i.toNat - 0x20, old.t + 2, old.reg a) :: p.precs }
    else if 0x80 ≤ i.toNat ∧ i.toNat < 0x84 then
      { p with loops := p.loops.map (fun e => if e.lc = some (i.toNat - 0x80) then { e with left := none } else e) }
    else p
  | _ => p

/-! ### The machine at a point of a path -/

/-- A task of a kernel by itself, as far as fetching and the draws of its commands look at it. -/
def loaderTask (v : LoaderView) : Task where
  tenant := 0
  node := 0
  serial := 0
  kdesc := 0
  code := v.code
  codeLen := v.codeLen
  entry := v.entry
  woad := 0
  woadLen := 0
  tid := []
  text := []
  gang := []
  prio := 0
  spec := false
  redundant := false
  twin := false
  runlen := 0
  aclass := 0
  carry := 0
  half := v.half
  grant := v.grant
  sync := false
  tiles := 0xF
  base := ⟨0, 0, 0, 0⟩
  size := ⟨0, 0, 0, 0⟩
  segs := []

/-- PREC.i at a point of a path. One that is not determined names no width, and counts as width 16 (R133). -/
def Path.prec (p : Path) (i : Fin 4) : BitVec 32 :=
  match p.precs.find? (fun x => x.1 == i.val && decide (x.2.1 ≤ p.t)) with
  | some (_, _, some x) => ((Ctx.reset.writeCR (0x20 + i.val) x).prec)[i]
  | some (_, _, none) => BitVec.allOnes 32
  | none => Ctx.reset.prec[i]

/-- A machine that holds the kernel's code and stands at the path's next bundle. Its general registers hold 1, no place of a copy
map: a map's lines and follow-on are not determined, and count at their largest (R133). -/
def Path.machine (v : LoaderView) (p : Path) : State :=
  { State.reset with
    mem := v.mem
    gcc := p.t
    ctxs := [(0, { Ctx.reset with
      task := some (loaderTask v)
      pc := p.pc
      ttc := p.t - p.origin
      prec := Vector.ofFn p.prec
      s := Vector.replicate 64 1 })] }

/-! ### Where a path goes -/

/-- Ways on at the end bundle of loops: a constant number of passes decides, another goes both ways (R133, R167). -/
def loopWays (pc follow : W64) : List PathLoop → List (List PathLoop × W64)
  | [] => [([], follow)]
  | e :: r =>
    if e.stop ≠ pc then [(e :: r, follow)]
    else match e.left with
      | some n => if 1 < n then [({ e with left := some (n - 1) } :: r, e.start)] else loopWays pc follow r
      | none => (e :: r, e.start) :: loopWays pc follow r

/-- Loops that a jump leaves (R167). -/
def leaveLoops (target : W64) (ls : List PathLoop) : List PathLoop :=
  match ls with
  | [] => []
  | e :: r =>
    let r' := leaveLoops target r
    if r'.length < r.length ∨ target.toNat < e.start.toNat ∨ e.stop.toNat < target.toNat then r' else e :: r

/-- Targets to which an operation may branch, whether it may also not branch, and whether the jump leaves loops (R165, R166, R171).
A jump to a constant goes there, another to every target that the descriptor lists, BSEL's among them (R133, log 32). -/
def branchWays (v : LoaderView) (p : Path) : Instr → Option (List W64 × Bool × Bool)
  | .b x => some ([p.pc + 4 * sext64 x], false, true)
  | .bz _ x | .bnz _ x | .beq _ _ x | .bne _ _ x | .blt _ _ x | .bge _ _ x | .bltn _ _ x | .bgen _ _ x | .bany _ x | .bnone _ x =>
    some ([p.pc + 4 * sext64 x], true, true)
  | .bmz x => some ([p.pc + 4 * sext64 x], true, true)
  | .call x => some ([p.pc + 4 * sext64 x], false, false)
  | .calli _ a => some (((p.reg a).map (fun t => [t])).getD v.targets, false, false)
  | .jmpi a => some (((p.reg a).map (fun t => [t])).getD v.targets, false, true)
  | .bsel .. => some (v.targets, false, true)
  | _ => none

/-- Passes of a loop instruction where they are determined, its counter and its end: a trip of 0 skips the loop (R168–R170). -/
def loopEntry (p : Path) : Instr → Option (Option Nat × Option Nat × W64)
  | .loop a n x => some ((p.reg a).map (·.toNat), some n.val, p.pc + 4 * sext64 x)
  | .loopp a n x stages => some ((p.reg a).map (fun t => if t = 0 then 0 else t.toNat + stages.val), some n.val, p.pc + 4 * sext64 x)
  | .sloop _ _ x => some (none, none, p.pc + 4 * sext64 x)
  | _ => none

/-- Is the operation a wait of the program, or END, which waits as one does (R22, R31)? -/
def isWaitOp : Instr → Bool
  | .endTask | .yield | .waite | .waitq _ | .waitm .. | .csync | .barwait .. | .pbar | .pcommit .. => true
  | _ => false

/-- The largest sum of draws over up to eight cycles from `t` on that end at a start, seven cycles after one, or at a stop: between
these the sum only rises, only falls or stands (R133). -/
def carriedSum (t : Nat) (resv : List Interval) : Nat :=
  let ends := (t + 7) :: resv.flatMap (fun i => (i.start + 7) :: i.stop.toList)
  ends.foldl (fun m c => max m (((List.range 8).map (fun k => if t + k ≤ c then drawsAt resv (c - k) else 0)).sum)) 0

/-- The ways on from a bundle that holds a wait, taken at `p`, the point after its cycle: it drains, so that every draw has ended when
it completes, and lasts as long as it may. The draws under way while a wait is unmet are carried: from its own cycle on, the timed
ones to their ends and the others as long as it lasts (R126, R133, R175). END carries nothing: it is no wait of the kernel
("Programming: energy": CARRY 0, because the kernel has no wait). -/
def waitWays (p : Path) (ends : Bool) (next : Path → List Path) : List Path :=
  let last := p.resv.foldl (fun m i => max m (i.stop.getD 0)) 0
  let p := if ends then p else { p with carry := max p.carry (carriedSum (p.t - 1) p.resv) }
  (List.range 9).flatMap (fun n =>
    let q := p.idle (last + 1 - p.t + n)
    if ends then [{ q with ended := true }]
    else next { q with resv := [], origin := q.t, unsure := [] })

/-- The points to which a path may go on from a bundle at `p` with following bundle `follow`; `q` is the point after its cycle. -/
def ways (v : LoaderView) (p q : Path) (ops : List Instr) (follow after : W64) : List Path :=
  let onward (target : Option (W64 × Nat × Bool)) (q : Path) (pc : W64) : List Path :=
    (loopWays p.pc pc q.loops).map (fun w => { q with loops := w.1, pc := w.2, redirect := target })
  match p.redirect with
  | some (target, left, leaves) =>
    if p.loops.any (fun e => e.stop == p.pc) ∨
        ops.any (fun i => (branchWays v p i).any (fun w => !w.2.1) || (loopEntry p i).isSome) then []
    else if left ≤ 1 then [{ q with pc := target, redirect := none, loops := if leaves then leaveLoops target q.loops else q.loops }]
    else [{ q with pc := follow, redirect := some (target, left - 1, leaves) }]
  | none =>
    match ops.findSome? (branchWays v p), ops.findSome? (loopEntry p) with
    | some (targets, both, leaves), _ =>
      targets.flatMap (fun t => onward (some (t, 2, leaves)) q follow) ++ (if both then onward none q follow else [])
    | none, some (trip, lc, stop) =>
      let enter := onward none { q with loops := ⟨follow, stop, lc, trip⟩ :: q.loops } follow
      match trip with
      | some 0 => onward none q after
      | some _ => enter
      | none => enter ++ (if lc.isSome then onward none q after else [])
    | none, none => onward none q follow

/-- The bundle behind the end of a loop that an operation begins. -/
def exitOf (s : State) (p : Path) (ops : List Instr) : W64 :=
  ((ops.findSome? (loopEntry p)).map (fun e => nextBundle s (ctxOf s 0) e.2.2)).getD 0

/-- One bundle of a path: nothing where it would not issue; else the points to which the path may go on, an END's with no more. -/
def Path.next (v : LoaderView) (p : Path) : List Path :=
  let s := p.machine v
  if p.ended then []
  else match checkBundle s 0 with
  | .error _ => []
  | .ok b =>
    let ops := b.ops.map (fun o => o.instr)
    let q := { p with resv := p.resv ++ ops.flatMap (drawsOf s) }.pass b.weight
    let q := ops.foldl (fun q i => p.afterControl (p.afterOp q i) i) q
    let q := { q with regs := (ops.findSome? (fun i => match i with
      | .call _ => some 63
      | .calli d _ => some d.val
      | _ => none)).elim q.regs (fun d => if d = 0 then q.regs else (d, returnOffset s (ctxOf s 0)) :: q.regs) }
    let idle := (ops.findSome? (fun i => match i with
      | .idle n => some n.toNat
      | _ => none)).getD 0
    let go (q : Path) : List Path := ways v p q ops (nextBundle s (ctxOf s 0) p.pc) (exitOf s p ops)
    if ops.any isWaitOp then waitWays q (ops.any (fun i => i == .endTask)) go else go (q.idle idle)

/-- The largest sums over the paths of at most `n` bundles from a point: a window's, and what a wait leaves open (R133). -/
def pathBound (v : LoaderView) : Nat → Path → Nat × Nat
  | 0, p => (p.peak, p.carry)
  | n + 1, p => (p.next v).foldl (fun m q =>
      let r := pathBound v n q
      (max m.1 r.1, max m.2 r.2)) (p.peak, p.carry)

/-- Bundles to which the loader follows a path, more than a run length holds (R23, log 32). -/
def pathLimit : Nat := 2 ^ 64

/-- What the loader knows of the kernel whose descriptor `d` lies at `a`. -/
def loaderView (s : State) (a : Nat) (d : Memory) (code : Nat) : LoaderView :=
  ⟨s.mem, code, kCodeLen d, kEntry d, kHalf d, kGrant d,
    (List.range (kNind d)).map (fun i => BitVec.ofNat 64 (memReadNat s.mem (a + kIndOff d + 4 * i) 4))⟩

/-- Do a kernel's class and CARRY reach the loader's bound? (R133) -/
def boundHolds (s : State) (a : Nat) (d : Memory) (code : Nat) : Bool :=
  let r := pathBound (loaderView s a d code) pathLimit Path.entry
  decide (r.1 ≤ 400 * kAclass d ∧ r.2 ≤ kCarry d)

end Sys2Proof.Machine
end

