-- ==== Sys2Proof/Machine/HostIf.lean ====
section
/-! DEFINITION. What the host sees: BAR registers, the device-memory window, the management mailbox and its commands,
function-level reset, and the health record behind HEALTH (R311, R312, R332–R335, R355–R362, R370, R377, R379, R382, R383). -/

namespace Sys2Proof.Machine

/-! ### Configuration records (R369) -/

/-- A configuration record: its address, TYPE, VERSION, body and the signed bytes. -/
structure ConfigRecord where
  addr    : Nat
  kind    : Nat
  version : Nat
  body    : List Byte
  signed  : List Byte
deriving DecidableEq, Repr

/-- The record at an address, if its magic is there and it lies in the configuration region. -/
def recordAt (m : Memory) (a : Nat) : Option ConfigRecord :=
  let len := memReadNat m (a + 12) 4
  if memReadNat m a 4 = 0x4A58_4352 ∧ a + 0x10 + len + 2420 ≤ Config.configBase + 0x4000_0000 then
    some ⟨a, memReadNat m (a + 4) 2, memReadNat m (a + 8) 4, memReadList m (a + 16) len, memReadList m a (16 + len + 2420)⟩
  else none

/-- The ML-DSA-44 signature of a digest with the device identity key (R369, R370). -/
def identitySignature (digest : BitVec 256) : List Byte := (List.range 2420).map (Config.signature digest)

/-- Does the record's signature verify: against the root key, or, of TYPE 2 alone, as one that the identity key made? (R368, R369) -/
def recordValid (r : ConfigRecord) : Bool :=
  let n := 16 + r.body.length
  Config.signatureValid r.kind r.signed || (r.kind == 2 && r.signed.drop n == identitySignature (sha3 (r.signed.take n)))

/-- The valid records in offset order: a record starts with a non-zero byte at a multiple of 64 of the region. -/
def recordsOf (m : Memory) : List ConfigRecord :=
  (m.filterMap (fun c =>
    if Config.configBase ≤ c.1 ∧ c.1 < Config.configBase + 0x4000_0000 ∧ c.1 % 64 = 0 then recordAt m c.1 else none)).filter recordValid

/-- The record of a TYPE that applies: the highest VERSION (R369). -/
def recordOf (rs : List ConfigRecord) (kind : Nat) : Option ConfigRecord :=
  match rs.filter (fun r => r.kind == kind) with
  | [] => none
  | r :: t => some (t.foldl (fun b x => if b.version < x.version then x else b) r)

/-- Extend measurement register k (R370). -/
def extendMeasure (s : State) (k : Fin 8) (digest : BitVec 256) : State :=
  let bytes (x : BitVec 256) : List Byte := (List.range 32).map (byteOf x)
  { s with measures := s.measures.set k (sha3 (bytes s.measures[k] ++ bytes digest)) }

/-! ### Health (R376, R379, R380, R382) -/

/-- Shadow divergences of the last 24 hours (R379). -/
def divRate (s : State) : Nat := (s.divLog.filter (isRecent s)).length

/-- Spare clusters not in service (R5, R379). -/
def sparesLeft (s : State) : Nat := ((List.range Config.dies).map (fun d => (dieOf s d).spares)).sum

/-- Is a port permanently narrowed? (R379) -/
def linkBad (s : State) : Bool := s.ports.any (fun p => p.2.bad || p.2.since.any (fun g => !isRecent s g))

/-- Has a die no spare left? -/
def noSpare (s : State) : Bool := (List.range Config.dies).any (fun d => (dieOf s d).spares == 0)

/-- The worst state that applies (R379, R380). -/
def healthNow (s : State) : BitVec 2 :=
  if decide (64 < divRate s) || linkBad s || noSpare s then 2
  else if s.clusters.any (fun c => c.2.spareUsed) then 1 else 0

/-- Nanoseconds of wear that are one percent of the budget of 3.15 × 10⁸ s (R376). -/
def wearPercent : Nat := 3_150_000_000_000_000

/-- Highest wear of a cluster in service in percent (R376). -/
def wearMax (s : State) : Nat :=
  (s.clusters.filter (fun c => !c.2.quarantined)).foldl (fun m c => max m c.2.wear) 0 / wearPercent

/-- HEALTH (R379): STATE as posted, the other fields as they stand. -/
def healthWordOf (s : State) : W64 :=
  BitVec.ofNat 64 (min (wearMax s) 255 * 2 ^ 40 + min (divRate s) 255 * 2 ^ 32 +
    (s.clusters.filter (fun c => c.2.quarantined)).length % 256 * 2 ^ 24 + sparesLeft s % 256 * 2 ^ 16 +
    (if s.sealNext then 2 ^ 11 else 0) + (if 64 < divRate s then 2 ^ 10 else 0) + (if linkBad s then 2 ^ 9 else 0) +
    (if noSpare s then 2 ^ 8 else 0) + s.health.toNat)

/-! ### Registers (R332–R335, R357, R358, R360, R366, R368, R379) -/

/-- QSTAT (R333). -/
def queueStatus (t : Tenant) : W64 :=
  BitVec.ofNat 64 (min t.drop 0xFFFF * 2 ^ 48 + min t.bad 0xFFFF * 2 ^ 32 +
    (t.nodes.filter (fun x => isLive x.2)).length % 2 ^ 11 * 2 ^ 12 + (256 - t.queue.length) % 2 ^ 9 * 2 ^ 3 +
    (if t.tda then 4 else 0) + (if isDrained t then 2 else 0))

/-- Code of a node's state (R321, R335). -/
def stateCode : NodeState → Nat
  | .free => 0 | .waiting => 1 | .ready => 2 | .running => 3 | .committing => 4 | .rollingBack => 5 | .retired => 6

/-- NTINFO (R335). -/
def nodeInfo (t : Tenant) : W64 :=
  let n := t.nodes.get t.ntsel.toNat Node.reset
  if n.state = .free then 0
  else BitVec.ofNat 64 (recSerial n.record * 2 ^ 32 + min n.rolls 255 * 2 ^ 24 +
    (if n.state = .retired then n.status % 256 * 2 ^ 16 else 0) + stateCode n.state * 2 ^ 8 + recPrio n.record)

/-- Port status word `w` of port p (R366). -/
def portWord (p : Port) (w : Nat) : W64 :=
  match w with
  | 0 => BitVec.ofNat 64 (p.retrains % 2 ^ 32 * 2 ^ 32 + p.faulted.toNat * 2 ^ 24 + p.peer % 256 * 2 ^ 16 +
      p.width % 4 * 4 + p.state % 4)
  | 1 => p.crcerr
  | 2 => p.replays
  | _ => 0

/-- Does a function answer? There are 16, and before the tenants exist only the physical one appears (R355, R368). -/
def appears (s : State) (fn : Nat) : Bool := fn == 0 || (decide (fn < 16) && s.bootStep == 0x80)

/-- Where the model's register numbers place BAR 4, and the Resizable BAR control of BAR 2, behind the 16 MiB of BAR 0 (DESIGN CHOICE,
log 120). -/
def bar4 : Nat := 0x100_0000
def barControl : Nat := 0x101_0000

/-- A word of BAR 4: the MSI-X table, and the pending bits (R356). -/
def bar4Word (t : Tenant) (o : Nat) : W64 :=
  if o < 0x8000 then (if o / 16 < t.msix then BitVec.ofNat 64 (memReadNat t.msixTable o 8) else 0)
  else BitVec.ofNat 64 ((List.range 64).foldl (fun x i => if t.msixPending.contains ((o - 0x8000) * 8 + i) then x + 2 ^ i else x) 0)

/-- A write of a word of the MSI-X table; vectors that were pending and are masked no more are sent (R356). -/
def writeTable (s : State) (fn o : Nat) (v : W64) : State :=
  let t := tenantOf s fn
  if 0x8000 ≤ o ∨ t.msix ≤ o / 16 then s
  else
    let s := modTenant s fn (fun t => { t with msixTable := memWriteNat t.msixTable o 8 v.toNat, msixPending := [] })
    t.msixPending.foldl (fun s vec => sendMsix s fn vec) s

/-- Resizable BAR on BAR 2: 128 MiB to 64 GiB, a power of two; another value changes nothing (R355, R356). -/
def resizeBar (s : State) (fn : Nat) (v : W64) : State :=
  if (List.range 10).any (fun i => v.toNat == 0x800_0000 * 2 ^ i) then modTenant s fn (fun t => { t with barSize := v.toNat }) else s

/-- What a host read of `width` bytes of BAR 0 returns: 0 unless it is 8 bytes wide and aligned (R332–R335, R357, R358, R360, R366, R368, R379). -/
def registerRead (s : State) (fn off width : Nat) : W64 :=
  let t := tenantOf s fn
  if width ≠ 8 ∨ off % 8 ≠ 0 ∨ !appears s fn then 0
  else if 0x1100 ≤ off ∧ off < 0x1200 then BitVec.ofNat 64 (memReadNat t.req (off - 0x1100) 8)
  else if 0x1200 ≤ off ∧ off < 0x1300 then BitVec.ofNat 64 (memReadNat t.rsp (off - 0x1200) 8)
  else if 0x1_0000 ≤ off ∧ off < 0x1_0400 then
    if fn = 0 then portWord (portOf s ((off - 0x1_0000) / 64)) (off % 64 / 8) else 0
  else if bar4 ≤ off ∧ off < barControl then bar4Word t (off - bar4)
  else if off = barControl then BitVec.ofNat 64 t.barSize
  else match off with
    | 0x00 => (boolWord t.en) ||| (if t.tda then 2 else 0)
    | 0x08 => queueStatus t
    | 0x10 => (t.rollmax.setWidth 64 <<< 24) ||| t.pwait.setWidth 64
    | 0x18 => t.qserial.setWidth 64
    | 0x20 => t.ntsel.setWidth 64
    | 0x28 => nodeInfo t
    | 0x1000 => BitVec.ofNat 64 ((if t.mbLost then 8 else 0) + (if t.mbIe then 4 else 0) + (if t.mbDone then 2 else 0) +
        (if t.mbBusy then 1 else 0))
    | 0x2000 => (t.winRegion.setWidth 64) ||| (if t.winEn then 0x1_0000 else 0)
    | 0x2008 => t.winOff.setWidth 64 <<< 16
    | 0x3000 => s.bootStep.setWidth 64
    | 0x3010 => healthWordOf s
    | _ => 0

/-! ### The mailbox (R360, R361) -/

/-- Word i of the request. -/
def reqWord (t : Tenant) (i : Nat) : Nat := memReadNat t.req (8 * i) 8
/-- CMD of the request. -/
def reqCmd (t : Tenant) : Nat := reqWord t 0 % 2 ^ 16

/-- Does anything serve the mailboxes: Lemelo when the functions are ready, or recovery mode? A package that boots or has halted serves
none (R368). -/
def isServing (s : State) : Bool := s.bootStep == 0x80 || s.bootStep == 0xF3

/-- Is the command one of R361, R368 or R383 that the function's mailbox knows in this mode? -/
def isKnownCmd (s : State) (cmd : Nat) : Bool :=
  if s.bootStep = 0xF3 then cmd == 0x07 || cmd == 0x08 || cmd == 0x20
  else isServing s && ((1 ≤ cmd && cmd ≤ 9) || (0x10 ≤ cmd && cmd ≤ 0x16))

/-- Write RSP, clear BUSY, set DONE and send the vector (R360). -/
def respond (s : State) (fn status : Nat) (result : List Byte) : State :=
  let t := tenantOf s fn
  let word := status % 2 ^ 16 + result.length % 2 ^ 16 * 2 ^ 16 + reqWord t 0 / 2 ^ 32 * 2 ^ 32
  let s := modTenant s fn (fun t => { t with
    rsp := memWriteList [] 0 (bytesOfNat 8 word ++ result), mbBusy := false, mbDone := true })
  if t.mbIe then sendMsix s fn 0 else s

/-- Answer of a command: the state it leaves, STATUS, result bytes. -/
structure Reply where
  s      : State
  status : Nat
  result : List Byte

/-- A command that fails leaves the state alone. -/
def refusedWith (s : State) (status : Nat) : Reply := ⟨s, status, []⟩

/-- Serve the pending request of a function, if it is this command (R360, R361). -/
def serve (cmd : Nat) (pfOnly : Bool) (fn : Nat) (s : State) (f : Tenant → Reply) : Host.Outcome State Fault Refusal :=
  let t := tenantOf s fn
  if !t.mbBusy || reqCmd t != cmd || !isKnownCmd s cmd then .next s
  else if pfOnly && fn != 0 then .next (respond s fn 2 [])
  else
    let r := f t
    .next (respond r.s fn r.status r.result)

/-- The doorbell (R360): BUSY, and interrupt source 2 on a system core of die 0; an unknown command is answered 1. -/
def doorbell (s : State) (fn : Nat) : State :=
  let t := tenantOf s fn
  if t.mbBusy then modTenant s fn (fun t => { t with mbLost := true })
  else
    let s := modTenant s fn (fun t => { t with mbBusy := true })
    let s := modCtx s (4 * Config.firstSystemCore) (fun c => { c with irq := c.irq ||| 4 })
    if isServing s && !isKnownCmd s (reqCmd t) then respond s fn 1 [] else s

/-- REGISTER_WRITE: an 8-byte host write to BAR 0; one of another width has no effect and is no event (R332–R335, R357–R360, R366). -/
def execRegisterWrite (fn off : Nat) (v : W64) (s : State) : Host.Outcome State Fault Refusal :=
  let t := tenantOf s fn
  if off % 8 ≠ 0 ∨ !appears s fn then .next s
  else if 0x1100 ≤ off ∧ off < 0x1200 then
    .next (if t.mbBusy then s else modTenant s fn (fun t => { t with req := memWriteNat t.req (off - 0x1100) 8 v.toNat }))
  else if 0x1_0000 ≤ off ∧ off < 0x1_0400 then
    if fn ≠ 0 then .next s
    else match off % 64 with
      | 8 => .next (modPort s ((off - 0x1_0000) / 64) (fun p => { p with crcerr := p.crcerr &&& ~~~v }))
      | 16 => .next (modPort s ((off - 0x1_0000) / 64) (fun p => { p with replays := p.replays &&& ~~~v }))
      | _ => .next s
  else if bar4 ≤ off ∧ off < barControl then .next (writeTable s fn (off - bar4) v)
  else if off = barControl then .next (resizeBar s fn v)
  else match off with
    | 0x00 =>
      let s := modTenant s fn (fun t => { t with en := v.getLsbD 0 })
      if v.getLsbD 1 then execQctlTd fn s else if v.getLsbD 2 then execQctlRst fn s else .next s
    | 0x10 =>
      .next (if fn = 0 then modTenant s fn (fun t => { t with rollmax := v.extractLsb' 24 8, pwait := v.setWidth 20 }) else s)
    | 0x20 => .next (modTenant s fn (fun t => { t with ntsel := v.setWidth 10 }))
    | 0x1000 => .next (modTenant s fn (fun t => { t with
        mbLost := t.mbLost && !v.getLsbD 3, mbIe := v.getLsbD 2, mbDone := t.mbDone && !v.getLsbD 1 }))
    | 0x1008 => .next (doorbell s fn)
    | 0x2000 => .next (modTenant s fn (fun t => { t with winRegion := v.setWidth 16, winEn := v.getLsbD 16 }))
    | 0x2008 => .next (modTenant s fn (fun t => { t with winOff := v.extractLsb' 16 24 }))
    | _ => .next s

/-! ### The window (R358, R359) -/

/-- An access that arrives now. -/
def arrive (t : Tenant) (off len : Nat) (bytes : Option (List Byte)) : WinAccess :=
  ⟨off, len, bytes, t.winEn, t.winRegion.toNat, 65536 * t.winOff.toNat⟩

/-- The physical address of byte `i` of an access; none where it is dropped (R356, R358). -/
def windowAddr (t : Tenant) (x : WinAccess) (i : Nat) : Option Nat :=
  let o := x.off + i
  let b := x.base + o - 0x1_0000
  if !x.en || decide (o < 0x1_0000) || decide (t.barSize ≤ o) then none
  else match t.regions.find? (fun r => r.1 == x.region) with
    | some r => if b < r.2.size * 65536 then some (r.2.paddr + b) else none
    | none => none

/-- The live nodes of a tenant that name a region. -/
def namingNodes (t : Tenant) (region : Nat) : List Nat :=
  (t.nodes.filter (fun x => isLive x.2 &&
    ((boundRegions x.2.desc x.2.args (recArgLen x.2.record)).any (fun r => r.1 == region) || kCodeReg x.2.desc == region))).map (fun x => x.1)

/-- One byte of a window write performs; for a live node that names the region its value is undefined, and a walker image read from there
is that of no kernel placed from now on (R284, R359). -/
def windowWrite (s : State) (fn region a : Nat) (b : Byte) : State :=
  let t := nextFresh (forgetImages (putFinal s a [b]) a 1) 1
  { t with clouded := t.clouded ++ ((namingNodes (tenantOf s fn) region).map (fun n =>
      (⟨s.fresh, a, fn, n, recSerial (nodeOf s fn n).record⟩ : Cloud))) }

/-- A window access performs: writes at .PKG; a read returns bytes as they stand, writes of a node that has not committed being open as
to any other reader (R87), zero in the launch port and the reserved space behind it (R317, R356), and all ones where the window
maps nothing (R358, R359). -/
def performWindow (fn : Nat) (s : State) (x : WinAccess) : State :=
  let t := tenantOf s fn
  match x.bytes with
  | some l => (l.zipIdx).foldl (fun s b => match windowAddr t x b.2 with
    | some a => windowWrite s fn x.region a b.1
    | none => s) s
  | none => { s with readData := (List.range x.len).map (fun i =>
      if x.off + i < 0x1_0000 then 0
      else match windowAddr t x i with
      | some a => seenByte s (fun _ _ => false) (fun _ => false) a
      | none => 0xFF) }

/-- Must an access wait for a migration of its region? (R358) -/
def awaitsMigration (t : Tenant) (x : WinAccess) : Bool :=
  x.en && t.nodes.any (fun n => n.2.migrating.any (fun m => m.1 == x.region))

/-- The accesses of a function that wait, in order of arrival, as far as they may perform by now (R358, R359). -/
def flushWindow (fn : Nat) : List WinAccess → State → State
  | [], s => modTenant s fn (fun t => { t with winQueue := [] })
  | x :: r, s =>
    if awaitsMigration (tenantOf s fn) x then modTenant s fn (fun t => { t with winQueue := x :: r })
    else flushWindow fn r (performWindow fn s x)

/-- An access behind those of its function that wait. -/
def windowAccess (s : State) (fn : Nat) (x : WinAccess) : State := flushWindow fn ((tenantOf s fn).winQueue ++ [x]) s

/-- HOST_WINDOW_WRITE: the bytes perform at .PKG, in order of arrival, after a migration under way (R358, R359). -/
def execHostWindowWrite (fn off : Nat) (bytes : List Byte) (s : State) : Host.Outcome State Fault Refusal :=
  .next (windowAccess s fn (arrive (tenantOf s fn) off bytes.length (some bytes)))

/-- HOST_WINDOW_READ: completes behind the writes of its function (R358, R359). -/
def execHostWindowRead (fn off len : Nat) (s : State) : Host.Outcome State Fault Refusal :=
  .next (windowAccess s fn (arrive (tenantOf s fn) off len none))

/-! ### Regions (R315, R361) -/

/-- HBM units of a tenant's regions. -/
def unitsUsed (t : Tenant) : Nat := ((t.regions.map (fun r => r.2.size)).sum)

/-- The least region number not in use. -/
def freeRegion (t : Tenant) : Option Nat := (List.range (t.regions.length + 1)).find? (fun i => !t.regions.any (fun r => r.1 == i))

/-- REGION_CREATE (R315, R361): the region is placed on the first stack with room. -/
def execRegionCreate (fn : Nat) (s : State) : Host.Outcome State Fault Refusal :=
  serve 0x01 false fn s (fun t =>
    let units := reqWord t 1
    if units = 0 then refusedWith s 5
    else if t.hbmUnits < unitsUsed t + units then refusedWith s 3
    else match freeRegion t, (List.range 8).findSome? (fun st => placeRegion s st (units * 65536)) with
      | some i, some a =>
        if i < 65536 then ⟨modTenant s fn (fun t => { t with regions := t.regions.put i ⟨units, a⟩ }), 0, bytesOfNat 8 i⟩
        else refusedWith s 3
      | _, _ => refusedWith s 3)

/-- REGION_FREE (R361). -/
def execRegionFree (fn : Nat) (s : State) : Host.Outcome State Fault Refusal :=
  serve 0x02 false fn s (fun t =>
    let i := reqWord t 1
    if !t.regions.any (fun r => r.1 == i) then refusedWith s 5
    else if regionNamed t i then refusedWith s 4
    else
      let gone := t.regions.filter (fun r => r.1 == i)
      ⟨gone.foldl (fun s r => forgetImages s r.2.paddr (r.2.size * 65536))
        (modTenant s fn (fun t => { t with regions := t.regions.filter (fun r => r.1 != i) })), 0, []⟩)

/-- REGION_DMA: direction 0 writes the region from host memory, 1 reads it (R361); host memory is the host's to change, so
what is read from it is free (log 3). -/
def execRegionDma (fn : Nat) (s : State) : Host.Outcome State Fault Refusal :=
  serve 0x03 false fn s (fun t =>
    let host := Config.hostBase + reqWord t 3
    let off := reqWord t 2
    let len := reqWord t 4
    match t.regions.find? (fun r => r.1 == reqWord t 1) with
    | none => refusedWith s 5
    | some r =>
      if r.2.size * 65536 < off + len ∨ !inHost t host len then refusedWith s 5
      else if reqWord t 5 % 2 = 0 then
        if regionNamed t r.1 then refusedWith s 4
        else ⟨nextFresh (noteWrite (putSlice (forgetImages s (r.2.paddr + off) len) (r.2.paddr + off) len (freeSlice s.fresh len)) (r.2.paddr + off) len) len, 0, []⟩
      else ⟨noteWrite (putSlice s host len (memSlice s.mem (r.2.paddr + off) len)) host len, 0, []⟩)

/-! ### Kernels (R14, R20, R133, R312, R370) -/

/-- Does a code image hold a CSYNC, read bundle by bundle over the walker image `[lo, hi)` in it? (R20, R312) -/
def hasCsync (m : Memory) (lo hi stop : Nat) : Nat → Nat → Bool
  | 0, _ => false
  | fuel + 1, a =>
    if stop ≤ a then false
    else if lo ≤ a ∧ a < hi then hasCsync m lo hi stop fuel hi
    else
      let h := memReadNat m a 4
      let ops := ((List.range 11).filter (fun i => h.testBit (21 + i))).length
      let br := memReadNat m (a + 4 * (1 + (if h.testBit 7 then (ops + 7) / 8 else 0))) 4
      (h.testBit 20 && fieldOf br 25 7 == 0x1D) || hasCsync m lo hi stop fuel (a + 4 * (fieldOf h 16 4 + 1))

/-- The loop table as the loader checks it, with the entry that ends it (R13, R14). -/
def loopTableOk (d : Memory) : Bool :=
  let es := loopEntries d
  let last := if es.length < 8 then [memReadNat d (0x40 + 8 * es.length) 8] else []
  (es ++ last).all (fun e => decide (e % 8 ≤ 4) && e / 8 % 32 == 0 && e / 512 % 2 ^ 23 == 0) &&
    decide ((es.filter (fun e => decide (2 ≤ e % 8))).length ≤ 5)

/-- The first check of the loader that fails, numbered from 1, of the descriptor `d` at `a` (R14, R20, R133, R284, R312). No rule
names a check of RUNLEN's range (R23), and none is made here or at admission (DESIGN CHOICE, log 129). -/
def loaderCheck (s : State) (t : Tenant) (a : Nat) (d : Memory) : Option Nat :=
  let z := kSize d
  if !loopTableOk d then some 1
  else if kAclass d < 1 ∨ 20 < kAclass d ∨ kCarry d % 8 ≠ 0 ∨ 8000 < kCarry d then some 2
  else if z.dm < kFrameOff d + 1280 ∨ kFrameOff d % 64 ≠ 0 then some 3
  else match t.regions.find? (fun r => r.1 == kCodeReg d) with
    | none => some 4
    | some r =>
      if r.2.size * 65536 < kCodeLen d then some 4
      else if !kSync d && hasCsync s.mem (r.2.paddr + 4 * kWoadOff d) (r.2.paddr + 4 * (kWoadOff d + kWoadLen d))
          (r.2.paddr + kCodeLen d) (kCodeLen d / 4 + 2) r.2.paddr then some 5
      else if 4096 < kWoadLen d then some 6
      else if !boundHolds s a d r.2.paddr then some 7
      else none

/-- KERNEL_LOAD: LOADED is set, or the failed check reported; the image is measured into M.3 (R312, R361, R370). -/
def execKernelLoad (fn : Nat) (s : State) : Host.Outcome State Fault Refusal :=
  serve 0x04 false fn s (fun t =>
    let a := reqWord t 1
    if a % 64 ≠ 0 ∨ !inRegions t a 0x908 ∨ !inRegions t a (kBytes s a) ∨
        !inRegions t (a + memReadNat s.mem (a + 0x34) 4) (4 * memReadNat s.mem (a + 0x33) 1) then refusedWith s 5
    else
      let d := memSlice s.mem a (kBytes s a)
      match loaderCheck s t a d with
      | some n => ⟨s, 0, bytesOfNat 8 n⟩
      | none =>
        let code := ((t.regions.find? (fun r => r.1 == kCodeReg d)).map (fun r => r.2.paddr)).getD 0
        let s := forgetImages (putFinal s (a + 0x1A) (bytesOfNat 2 (kFlags d % 2 ^ 15 + 2 ^ 15))) code (kCodeLen d)
        ⟨extendMeasure s 3 (sha3 (memReadList s.mem code (kCodeLen d))), 0, bytesOfNat 8 0⟩)

/-! ### Faults and contexts (R336, R338, R361) -/

/-- The bytes of a fault-buffer entry. -/
def faultBytes (e : FaultEntry) : List Byte :=
  bytesOfNat 8 e.w0.toNat ++ bytesOfNat 8 e.w1.toNat ++ bytesOfNat 8 e.w2.toNat ++ bytesOfNat 8 e.w3.toNat

/-- Insert an entry behind those detected no later. -/
def insertFault (e : FaultEntry) : List FaultEntry → List FaultEntry
  | [] => [e]
  | x :: r => if x.w1.toNat ≤ e.w1.toNat then x :: insertFault e r else e :: x :: r

/-- Entries leave a die's buffer, and for each one a held event is posted (R340). -/
def retireFaults (s : State) (die : Nat) (taken : List FaultEntry) : State :=
  let left := (dieOf s die).faults.filter (fun e => !taken.contains e)
  (List.range ((dieOf s die).faults.length - left.length)).foldl (fun s _ => postWaiting s die)
    (modDie s die (fun d => { d with faults := left }))

/-- FAULT_READ: the tenant's oldest entries, over all dies; what is returned leaves the buffers (R339, R340, R361). -/
def execFaultRead (fn : Nat) (s : State) : Host.Outcome State Fault Refusal :=
  serve 0x05 false fn s (fun t =>
    let n := reqWord t 1
    if n < 1 ∨ 7 < n then refusedWith s 5
    else
      let mine := (s.diesT.flatMap (fun d => d.2.faults.filter (fun e => fieldOf e.w0.toNat 60 4 == fn))).foldl
        (fun acc e => insertFault e acc) []
      let taken := mine.take n
      ⟨(s.diesT.map (fun d => d.1)).foldl (fun s die => retireFaults s die taken) s, 0, taken.flatMap faultBytes⟩)

/-- CTX_CONTROL (R336, R361): resume a context halted at a TRAP instruction, or end its node FAULTED. -/
def execCtxControl (fn : Nat) (s : State) : Host.Outcome State Fault Refusal :=
  serve 0x06 false fn s (fun t =>
    let k := reqWord t 1 * 4 + reqWord t 2
    let c := ctxOf s k
    match c.task with
    | some x =>
      if reqWord t 2 < 4 ∧ c.halted.isSome ∧ c.tcause = 0x13 ∧ (fn = 0 ∨ x.tenant = fn) then
        match reqWord t 3 with
        | 0 => ⟨thawHalted s k 0, 0, []⟩
        | 1 => ⟨endNode s x.tenant x.node 5, 0, []⟩
        | _ => refusedWith s 5
      else refusedWith s 2
    | none => refusedWith s 2)

/-! ### Attestation, health, journals (R96, R370, R379, R382, R383) -/

/-- The report of R370. -/
def attestReport (s : State) (nonce : List Byte) : List Byte :=
  let cert := ((recordOf (recordsOf s.mem) 6).map (fun r => r.signed)).getD []
  let body := nonce ++ bytesOfNat 8 s.gcc ++ (s.measures.toList.flatMap (fun m => (List.range 32).map (byteOf m))) ++
    bytesOfNat 8 (healthWordOf s).toNat ++ (List.range 1312).map Config.identityKey ++ cert
  body ++ identitySignature (sha3 body)

/-- ATTEST (R361, R370). In recovery mode no policy has given the physical function a host window, and the buffer is not held to one
(R368; DESIGN CHOICE, log 121). -/
def execAttest (fn : Nat) (s : State) : Host.Outcome State Fault Refusal :=
  serve 0x07 false fn s (fun t =>
    let a := Config.hostBase + reqWord t 5
    let report := attestReport s (memReadList t.req 8 32)
    if s.bootStep ≠ 0xF3 ∧ !inHost t a 0x4000 then refusedWith s 5
    else ⟨putFinal s a report, 0, bytesOfNat 8 report.length⟩)

/-- HEALTH_READ: HEALTH, then the next index of the health log (R361, R379). -/
def execHealthRead (fn : Nat) (s : State) : Host.Outcome State Fault Refusal :=
  serve 0x08 false fn s (fun _ => ⟨s, 0, bytesOfNat 8 (healthWordOf s).toNat ++ bytesOfNat 8 s.logNext⟩)

/-- Byte `i` of a die's journal as a function sees it: another tenant's nodes read as zero (R96, R361). -/
def journalByte (s : State) (fn die i : Nat) : Byte :=
  let base := Config.journalBase + die * Config.journalStep
  let n := memReadNat s.mem (base + 10) 2
  let tenantAt (j : Nat) : Nat := memReadNat s.mem (base + 0x40 + 16 * j) 2
  let hidden : Bool :=
    if i < 0x40 ∨ fn = 0 then false
    else if i < 0x40 + 16 * n then tenantAt ((i - 0x40) / 16) != fn
    else (s.journalOwners.get die []).getD ((i - 0x40) / 16 - n) fn != fn
  if hidden then 0 else memRead s.mem (base + i)

/-- JOURNAL_READ (R361). -/
def execJournalRead (fn : Nat) (s : State) : Host.Outcome State Fault Refusal :=
  serve 0x09 false fn s (fun t =>
    let die := reqWord t 1
    let off := reqWord t 2
    let n := reqWord t 3
    if Config.dies ≤ die ∨ n < 1 ∨ 240 < n ∨ Config.journalStep < off + n then refusedWith s 5
    else ⟨s, 0, (List.range n).map (fun i => journalByte s fn die (off + i))⟩)

/-! ### Tenants and allowances (R80, R136, R178, R311) -/

/-- The grants of a policy, those of the shortest intervals first. -/
def grantOrder (p : Config.Policy) : List (Nat × Nat × Nat × Nat) :=
  (List.range 11).flatMap (fun i => p.grants.filter (fun g => g.2.2.2 == 2 ^ i))

/-- The tenant that a policy gives a function, with the cycles of its grants; its registers stand as they are (R311, R356). -/
def applyPolicy (t : Tenant) (p : Config.Policy) (slots : List Nat) : Tenant := { t with
  live := true, cores := p.cores, grants := grantOrder p, slots := slots, hbmUnits := p.hbmUnits, durable := p.durable, host := p.host,
  weights := p.weights, msix := p.msix, tvec := p.tvec, ptroot := p.ptroot &&& 0x1FFF_FFFF_E001, regions := [] }

/-- The policy of a function in the records. -/
def policyFor (s : State) (fn : Nat) : Option Config.Policy :=
  (recordOf (recordsOf s.mem) 3).bind (fun r => ((Config.policyOf r.body).find? (fun p => p.1 == fn)).map (fun p => p.2))

/-- The grants of all tenants with those of a policy (R80). -/
def allGrants (s : State) (p : Config.Policy) : List (Nat × Nat × Nat × Nat) :=
  (s.tenants.filter (fun t => t.2.live)).flatMap (fun t => t.2.grants) ++ p.grants

/-- Request cycles that grants take of every 1,024. -/
def grantCycles (gs : List (Nat × Nat × Nat × Nat)) : Nat := (gs.map (fun g => 1024 / g.2.2.2)).sum

/-- May a grant take cycle `o` of its interval beside those laid already, each with its cycle? No two of an engine share a cycle, and a
stack has at most 14 in one (R80). -/
def slotOk (laid : List ((Nat × Nat × Nat × Nat) × Nat)) (g : Nat × Nat × Nat × Nat) (o : Nat) : Bool :=
  (List.range (1024 / g.2.2.2)).all (fun n =>
    let at_ := laid.filter (fun h => (o + n * g.2.2.2) % h.1.2.2.2 == h.2)
    !at_.any (fun h => h.1.1 / 4 == g.1 / 4 && h.1.2.1 == g.2.1) &&
    decide ((at_.filter (fun h => h.1.2.2.1 == g.2.2.1)).length < 14))

/-- Lay out grants beside those laid already, those that stand keep theirs: each in the first cycle of its interval that is free for it, as
Lemelo does it here (R80; DESIGN CHOICE, log 109). -/
def laySlots : List ((Nat × Nat × Nat × Nat) × Nat) → List (Nat × Nat × Nat × Nat) → Option (List Nat)
  | _, [] => some []
  | laid, g :: r => ((List.range g.2.2.2).find? (slotOk laid g)).bind (fun o => (laySlots (laid ++ [(g, o)]) r).map (fun l => o :: l))

/-- The cycles that the grants of a policy take, the shortest intervals first; none where they do not fit beside those of the live tenants, which
never change (R80). -/
def slotsFor (s : State) (p : Config.Policy) : Option (List Nat) :=
  laySlots ((s.tenants.filter (fun t => t.2.live)).flatMap (fun t => t.2.grants.zip t.2.slots)) (grantOrder p)

/-- Do the grants leave each engine a cycle for each, and each stack at most 13,632 slots in 1,024 cycles? Each interval is a power
of two from 1 to 1,024, of one of the policy's cores, and the only one of its core, engine and stack (R80). -/
def grantsOk (s : State) (p : Config.Policy) : Bool :=
  let all := allGrants s p
  p.grants.all (fun g => p.cores.contains g.1 && decide (g.2.1 < 2 ∧ g.2.2.1 < 8) &&
    (List.range 11).any (fun i => g.2.2.2 == 2 ^ i) &&
    decide ((p.grants.filter (fun h => h.1 == g.1 && h.2.1 == g.2.1 && h.2.2.1 == g.2.2.1)).length = 1)) &&
  all.all (fun g => decide (grantCycles (all.filter (fun h => h.1 / 4 == g.1 / 4 && h.2.1 == g.2.1)) ≤ 1024)) &&
  (List.range 8).all (fun st => decide (grantCycles (all.filter (fun h => h.2.2.1 == st)) ≤ 13632))

/-- Can a tenant be created from a policy: its MSI-X table of 64 to 2,048 entries, a power of two, its cores no other tenant's, its
grants as R80 allows, and its durable ranges in the durable tier outside the configuration region? (R80, R88, R311, R356) -/
def policyOk (s : State) (p : Config.Policy) : Bool :=
  [64, 128, 256, 512, 1024, 2048].contains p.msix &&
  p.cores.all (fun c => decide (c < Config.cores) && !s.tenants.any (fun t => t.2.live && t.2.cores.contains c)) &&
  grantsOk s p && (slotsFor s p).isSome &&
  p.durable.all (fun r => decide (Config.durBase ≤ r.1 ∧ r.1 + r.2 ≤ Config.durEnd ∧
    (r.1 + r.2 ≤ Config.configBase ∨ Config.configBase + 0x4000_0000 ≤ r.1)))

/-- Create the tenant of a function: its cores' barriers read zero (R178). -/
def createTenant (s : State) (fn : Nat) (p : Config.Policy) : State :=
  p.cores.foldl (fun s c => modCore s c (fun x => { x with barriers := [] })) (modTenant s fn (fun t => applyPolicy t p ((slotsFor s p).getD [])))

/-- TENANT_CREATE (R311, R361). -/
def execTenantCreate (fn : Nat) (s : State) : Host.Outcome State Fault Refusal :=
  serve 0x10 true fn s (fun t =>
    let f := reqWord t 1
    if 16 ≤ f then refusedWith s 5
    else if (tenantOf s f).live then refusedWith s 4
    else match policyFor s f with
      | none => refusedWith s 3
      | some p => if policyOk s p then ⟨createTenant s f p, 0, []⟩ else refusedWith s 3)

/-- TENANT_DESTROY: only while the queue reads DRAINED (R311, R361). -/
def execTenantDestroy (fn : Nat) (s : State) : Host.Outcome State Fault Refusal :=
  serve 0x11 true fn s (fun t =>
    let f := reqWord t 1
    if 16 ≤ f ∨ !(tenantOf s f).live then refusedWith s 5
    else if !isDrained (tenantOf s f) then refusedWith s 4
    else
      let s := (tenantOf s f).regions.foldl (fun s r => forgetImages s r.2.paddr (r.2.size * 65536)) s
      ⟨modTenant s f (fun x => { x with
      live := false, cores := [], grants := [], slots := [], hbmUnits := 0, durable := [], host := [], weights := [], ptroot := 0,
      regions := [] }), 0, []⟩)

/-- Post an allowance and a mode to each core of a range (R136). -/
def postRange (s : State) (lo hi : Nat) (target mode : W64) : State :=
  { s with posts := s.posts ++ (List.range (hi + 1 - lo)).flatMap (fun i =>
      [⟨lo + i, s.gcc, false, target⟩, ⟨lo + i, s.gcc, true, mode⟩]) }

/-- SET_ALLOW (R136, R361). -/
def execSetAllowCmd (fn : Nat) (s : State) : Host.Outcome State Fault Refusal :=
  serve 0x12 true fn s (fun t =>
    let lo := reqWord t 1
    let hi := reqWord t 2
    if hi < lo ∨ Config.cores ≤ hi then refusedWith s 5
    else ⟨postRange s lo hi (BitVec.ofNat 64 (reqWord t 3)) (BitVec.ofNat 64 (reqWord t 4)), 0, []⟩)

/-! ### Operator commands (R383) -/

/-- SEAL_SET: takes effect at the next power-up (R381, R383). -/
def execSealSet (fn : Nat) (s : State) : Host.Outcome State Fault Refusal :=
  serve 0x13 true fn s (fun t =>
    let on := reqWord t 1
    if 1 < on then refusedWith s 5
    else
      let s := { s with sealNext := on == 1 }
      ⟨if on = 1 then postHealth s 11 0 [] else s, 0, []⟩)

/-- HEALTH_LOG_READ (R382, R383). -/
def execHealthLogRead (fn : Nat) (s : State) : Host.Outcome State Fault Refusal :=
  serve 0x14 false fn s (fun t =>
    let n := reqWord t 2
    if n < 1 ∨ 3 < n then refusedWith s 5
    else ⟨s, 0, (List.range n).flatMap (fun i => s.healthLog.get ((reqWord t 1 + i) % 4096) (List.replicate 64 0))⟩)

/-! ### Power (R372, R374–R376) -/

/-- Is the core frozen: no occupied context that is not? One whose freeze only waits for its thaw is about to draw, and counts as running
(R122, R372, R375). -/
def coreFrozen (s : State) (core : Nat) : Bool :=
  let held := ((List.range 4).map (fun i => ctxOf s (4 * core + i))).filter (fun x => x.task.isSome)
  held != [] && held.all (fun x => x.freeze.any (fun f => f.marks != []))

/-- The logic rail of a cluster in mV at `f` MHz: its trimmed voltage, within 0.54 V and 0.90 V, and at most 0.75 V at 700 MHz and
above (R371). -/
def logicRail (trims : List Byte) (clus f : Nat) : Nat := max 540 (min (if 700 ≤ f then 750 else 900) (Config.trimmed trims clus f))

/-- The logic rail of a cluster as it stands: 0.54 V in retention, 0.80 V in the margin step of a self-test, with no work resident, else
that of the set clock. A rail and the clock change together, the rail where both voltages support the clock (R371, R381). -/
def railOf (s : State) (clus : Nat) : Nat :=
  if (clusterOf s clus).retained then 540
  else if s.bootStep = 0x06 ∧ s.sealed ∧ s.testItem = 0 then 800 else logicRail s.trims clus s.clock

/-- The term of a core at `f` MHz in µW times 750²: VALUE × 1 pJ × f × V², V its cluster's rail in mV (R371, R372, log 33). -/
def coreTerm (s : State) (f core : Nat) : Nat :=
  if coreFrozen s core then 0 else (coreOf s core).value * f * (logicRail s.trims (core / 4) f) ^ 2

/-- The bound P of R372 at `f` MHz, in µW. -/
def powerBound (s : State) (f : Nat) : Nat :=
  870_000_000 + (((List.range Config.cores).map (coreTerm s f)).sum + 562_499) / 562_500

/-- Boost ceiling of a cluster at wear `w`, in MHz (R376). -/
def wearCeiling (w : Nat) : Nat :=
  let p := wearPercent
  if w ≤ 60 * p then 770 else if w < 100 * p then max 700 ((77000 * p - 175 * (w - 60 * p)) / (500 * p) * 5) else 700

/-- The package's boost ceiling (R376). -/
def packageCeiling (s : State) : Nat :=
  (s.clusters.filter (fun c => !c.2.quarantined)).foldl (fun m c => min m (wearCeiling c.2.wear)) 770

/-- No core's VALUE above 7,200 q stands at boost, above 700 MHz (R135). -/
def boostCeiling (s : State) (ceiling : Nat) : Nat :=
  if s.cores.any (fun c => decide (7200 < c.2.value)) then min ceiling 700 else ceiling

/-- The highest clock step at or below a ceiling whose bound fits the available power, 350 MHz at least (R375). -/
def fitClock (s : State) (ceiling avail : Nat) : Nat :=
  (List.range 85).foldl (fun f i =>
    let g := 350 + 5 * i
    if g ≤ ceiling ∧ powerBound s g ≤ avail then max f g else f) 350

/-- Available power in µW at an input of `mv` millivolts (R375). -/
def available (s : State) (mv : Nat) : Nat := min (s.pcap * 1_000_000) (mv * s.ilim * 1000)

/-- The machine with every STRICT core's TARGET `q` lower, its VALUE as R135 has it follow (R375). -/
def strictLower (s : State) (q : Nat) : State :=
  if q = 0 then s
  else { s with cores := s.cores.map (fun c => if c.2.strict then
      (c.1, { c.2 with target := c.2.target - q, value := max (c.2.target - q) (drawPeak c.2 s.gcc + 64) }) else c) }

/-- STRICT cores lower TARGET evenly, by `n` steps of 400 q (R375). -/
def lowerStrict (s : State) (n : Nat) : State :=
  if n = 0 then s
  else { s with posts := s.posts ++ (s.cores.filter (fun c => c.2.strict)).map (fun c =>
      (⟨c.1, s.gcc, false, BitVec.ofNat 64 (c.2.target - 400 * n)⟩ : Post)) }

/-- The sync group of a STRETCH core to freeze next: lowest priority, most recently started (R375). -/
def nextToFreeze (s : State) : Option Nat :=
  let all := (s.ctxs.filter (fun c => c.2.task.isSome && c.2.freeze.isNone && !(coreOf s (coreIx c.1)).strict)).map (fun c =>
    (((c.2.task.map (fun t => t.prio)).getD 0), c.2.started, c.1))
  match all with
  | [] => none
  | x :: r => some (r.foldl (fun m y => if y.1 < m.1 ∨ (y.1 = m.1 ∧ m.2.1 < y.2.1) then y else m) x).2.2

/-- The machine with every posted pre-emption in force, and every group that only waits for its thaw running, to judge what it will
draw. -/
def asSettled (s : State) : State :=
  { s with ctxs := s.ctxs.map (fun c => (c.1, { c.2 with
      freeze := if c.2.preAt.isSome then some ⟨s.gcc, [.pre], 0⟩ else c.2.freeze.filter (fun f => f.marks != []) })) }

/-- The bound at 350 MHz once what is posted applies, STRICT cores lowered by `q` (R375). -/
def settledPower (s : State) (q : Nat) : Nat := powerBound (strictLower (asSettled s) q) 350

/-- Pre-empt groups, one after another, until the bound at 350 MHz fits (R375). -/
def freezeUntil : Nat → State → Nat → Nat → State
  | 0, s, _, _ => s
  | fuel + 1, s, q, avail =>
    if settledPower s q ≤ avail then s
    else match nextToFreeze (asSettled s) with
      | none => s
      | some k => freezeUntil fuel { postPre s k with brownFrozen := k :: s.brownFrozen } q avail

/-- A group that a brown-out froze is let go, no earlier than `soon`. -/
def letGo (s : State) (k soon : Nat) : State :=
  clearGroup ((groupOf s k).foldl (fun s j => modCtx s j (fun c => { c with preAt := none })) s) k .pre soon

/-- The groups that a brown-out froze thaw as the input recovers, the latest first, as far as the bound at 350 MHz fits (R375). -/
def thawRecovered (avail : Nat) : List Nat → State → State
  | [], s => { s with brownFrozen := [] }
  | k :: r, s =>
    let t := letGo s k (s.gcc + 1)
    if settledPower t 0 ≤ avail then thawRecovered avail r t else { s with brownFrozen := k :: r }

/-- The clock and the cores of a brown-out (R375). -/
def brownPower (s : State) (mv : Nat) : State :=
  let a := available s mv
  let s := thawRecovered a s.brownFrozen s
  let s := { s with clock := fitClock s (boostCeiling s (packageCeiling s)) a }
  if settledPower s 0 ≤ a then s
  else
    let n := ((List.range 21).find? (fun i => decide (settledPower s (400 * i) ≤ a))).getD 20
    freezeUntil 1536 (lowerStrict s n) (400 * n) a

/-- POWER_SET: PCAP and ILIM; during a brown-out it applies at once (R375, R383). -/
def execPowerSet (fn : Nat) (s : State) : Host.Outcome State Fault Refusal :=
  serve 0x15 true fn s (fun t =>
    let p := reqWord t 1
    if p < 1800 ∨ 3000 < p then refusedWith s 5
    else
      let s := { s with pcap := p, ilim := reqWord t 2 }
      ⟨match s.brown with
        | some mv => brownPower s mv
        | none => s, 0, []⟩)

/-- The A-clock as it runs, in MHz: the set clock, or below it where a droop stretches it (R373). -/
def effectiveClock (s : State) : Nat := min (s.stretched.getD s.clock) s.clock

/-- A cluster's rail in mV, temperature in °C and wear in percent, in 16 bits each (R377; the layout is a DESIGN CHOICE, log 122). -/
def clusterFigures (s : State) (clus : Nat) : Nat :=
  railOf s clus % 2 ^ 16 + Config.temperature s.fresh clus % 2 ^ 16 * 2 ^ 16 + (clusterOf s clus).wear / wearPercent % 2 ^ 16 * 2 ^ 32

/-- TELEMETRY: the counters of each core, the clock, the input power over the last 1 ms and 1 s, measured figures that nothing here
bounds, for the bound of R372 may have been higher within the span, and the figures of each cluster (R372, R377, R383). -/
def execTelemetry (fn : Nat) (s : State) : Host.Outcome State Fault Refusal :=
  serve 0x16 false fn s (fun t =>
    let lo := reqWord t 1
    let n := reqWord t 2
    if n < 1 ∨ 8 < n ∨ Config.cores < lo + n then refusedWith s 5
    else
      let counters := (List.range n).flatMap (fun i => (coreOf s (lo + i)).ecnt.toList.map BitVec.toNat)
      let power := [0, 1].map (Config.sensor s.fresh)
      let clusters := (((List.range n).map (fun i => (lo + i) / 4)).eraseDups).map (clusterFigures s)
      ⟨nextFresh s 1, 0, (counters ++ [effectiveClock s] ++ power ++ clusters).flatMap (bytesOfNat 8)⟩)

/-- IMAGE_WRITE: in recovery mode a signed Lemelo image from host memory goes into slot B (R368); host memory is free. -/
def execImageWrite (fn : Nat) (s : State) : Host.Outcome State Fault Refusal :=
  serve 0x20 true fn s (fun t =>
    let len := reqWord t 2
    match recordOf (recordsOf s.mem) 7 with
    | none => refusedWith s 5
    | some r =>
      let slot := Config.imageSlot r.body 1
      if slot.2.1 < len then refusedWith s 5
      else ⟨nextFresh (putSlice s slot.1 len (freeSlice s.fresh len)) len, 0, []⟩)

/-! ### Function-level reset (R362) -/

/-- Step 2 and 3 of R362, once the queue is drained. -/
def finishFlr (s : State) (fn : Nat) : State :=
  if (tenantOf s fn).flr && isDrained (tenantOf s fn) then
    modTenant (resetQueue s fn) fn (fun t => { t with
      flr := false, winEn := false, winRegion := 0, winOff := 0, mbLost := false, mbIe := false, mbDone := false,
      mbBusy := false, req := [], rsp := [] })
  else s

/-- FUNCTION_LEVEL_RESET: a teardown that kills whatever KILLABLE says, then the reset (R362). -/
def execFunctionLevelReset (fn : Nat) (s : State) : Host.Outcome State Fault Refusal :=
  let s := modTenant s fn (fun t => { t with en := false, flr := true })
  .next (finishFlr (teardown s fn true) fn)

/-- FBPOP: the head entry of a die's buffer is retired (R339, R340). -/
def execFbpop (die : Nat) (s : State) : Host.Outcome State Fault Refusal := .next (popFault s die)

end Sys2Proof.Machine
end

