-- ==== Sys2Proof/Machine/Fabric.lean ====
section
/-! DEFINITION. The Abaing ports: flits, acknowledgement and replay, lanes and width, routes, and the transactions applied at
the home and answered at the source (R115–R117, R363–R367). -/

namespace Sys2Proof.Machine

/-! ### Routes and sending (R115, R366) -/

/-- Does the port carry traffic? -/
def portUp (s : State) (p : Nat) : Bool := (portOf s p).state == 2

/-- The ports of the route table for a destination and lane, in order of preference. -/
def routesFor (s : State) (dest lane : Nat) : List Nat :=
  (s.routes.filter (fun r => r.1 == dest && r.2.1 == lane)).map (fun r => r.2.2)

/-- Is the transaction on this lane to this destination? -/
def onLane (dest lane : Nat) (o : Outbound) : Bool := o.dest == dest && o.tr.lane.val == lane

/-- Has the port unacknowledged transactions of the lane? -/
def laneHeld (p : Port) (dest lane : Nat) : Bool := p.replay.any (fun f => f.2.any (onLane dest lane))

/-- Transactions of a lane in the replay buffers of lost ports go back to the head of the queue, in SEQ order (R366). -/
def rescueLane (s : State) (dest lane : Nat) : State :=
  let lost (p : Port) : Bool := (p.state == 0 || p.state == 3) && laneHeld p dest lane
  let back := s.ports.flatMap (fun p => if lost p.2 then p.2.replay.flatMap (fun f => f.2.filter (onLane dest lane)) else [])
  { s with
    outbound := back ++ s.outbound
    ports := s.ports.map (fun p => (p.1, if lost p.2 then
      { p.2 with replay := p.2.replay.map (fun f => (f.1, f.2.filter (fun o => !onLane dest lane o))) } else p.2)) }

/-- The port on which the lane may send now: one up with room, while no other port holds unacknowledged transactions of
the lane (R364, R366). -/
def sendPort (s : State) (dest lane : Nat) : Option Nat :=
  match (routesFor s dest lane).find? (portUp s) with
  | none => none
  | some p =>
    if s.ports.any (fun q => q.1 != p && laneHeld q.2 dest lane) || decide (1024 ≤ (portOf s p).replay.length) then none
    else some p

/-- The header of a transaction and its data (R363). -/
def transBytes (t : Transaction) : List Byte :=
  bytesOfNat 16 (t.detail.toNat + t.data.length % 2 ^ 12 * 2 ^ 40 + t.addr.toNat * 2 ^ 52 + t.tag.toNat * 2 ^ 97 +
    t.lane.val * 2 ^ 109 + t.tenant.val * 2 ^ 113 + t.src.val * 2 ^ 117 + t.op.val * 2 ^ 124) ++ t.data

/-- The transaction of a 16-byte header and the data behind it (R363). -/
def transOf (h : Nat) (data : List Byte) : Transaction where
  op := Fin.ofNat 16 (fieldOf h 124 4)
  src := Fin.ofNat 128 (fieldOf h 117 7)
  tenant := Fin.ofNat 16 (fieldOf h 113 4)
  lane := Fin.ofNat 16 (fieldOf h 109 4)
  tag := BitVec.ofNat 12 (fieldOf h 97 12)
  addr := BitVec.ofNat 45 (fieldOf h 52 45)
  detail := BitVec.ofNat 40 (fieldOf h 0 40)
  data := data

/-- The whole transactions of a run of payload, and the bytes of one that goes on in the next flit. Zeros up to the end fill a
payload (R363; DESIGN CHOICE, log 19). -/
def takeTrans : Nat → List Byte → List Transaction × List Byte
  | 0, l => ([], l)
  | fuel + 1, l =>
    let n := 16 + fieldOf (natOfBytes (l.take 16)) 40 12
    if l.all (· == 0) then ([], [])
    else if l.length < 16 ∨ l.length < n then ([], l)
    else
      let r := takeTrans fuel (l.drop n)
      (transOf (natOfBytes (l.take 16)) ((l.take n).drop 16) :: r.1, r.2)

/-- Bytes 0 to 247 of a flit that a port sends: its link header and its payload (R363). TYPE is 0 data, 1 acknowledgement only, 2 width
marker. -/
def flitBody (p : Port) (seq : BitVec 12) (type : Nat) (os : List Outbound) : List Byte :=
  let data := os.flatMap (fun o => transBytes o.tr)
  bytesOfNat 8 (seq.toNat + (p.rxSeq - 1).toNat * 2 ^ 12 + (if p.nakSent then 2 ^ 24 else 0) + type * 2 ^ 25 + p.width % 4 * 2 ^ 28) ++
    data ++ List.replicate (240 - data.length) 0

/-- A flit as it goes over the link. -/
def flitOf (p : Port) (seq : BitVec 12) (type : Nat) (os : List Outbound) : Flit :=
  ⟨flitBody p seq type os, Config.crc64 (flitBody p seq type os)⟩

/-- Put a transaction into a flit of the port (R363, R364). -/
def sendFlit (s : State) (p : Nat) (o : Outbound) : State :=
  modPort s p (fun x => { x with replay := x.replay ++ [(x.txSeq, [o])], txSeq := x.txSeq + 1 })

/-- Must a decision of a node wait? Not before its home has all writes of the node does a commit or rollback leave, whichever lane
they took (R117, R121). -/
def awaitsWrites (s : State) (o : Outbound) : Bool :=
  let mine (x : Outbound) : Bool := x.tr.op.val == 0 && x.dest == o.dest && x.tr.src == o.tr.src && x.tr.tenant == o.tr.tenant &&
    x.tr.detail.toNat % 2 ^ 32 == o.tr.detail.toNat % 2 ^ 32
  (o.tr.op.val == 5 || o.tr.op.val == 6) &&
    (s.outbound.any mine || s.ports.any (fun p => p.2.waiting.any mine || p.2.replay.any (fun f => f.2.any mine)))

/-- The tenant of this package for which a transaction goes: an answer's is that of the package which asked (R367). -/
def senderOf (s : State) (o : Outbound) : Nat :=
  if o.tr.op.val = 2 ∨ o.tr.op.val = 4 then (mappedTenant s o.dest o.tr.tenant.val).getD 0 else o.tr.tenant.val

/-- Where a transaction would start and end in the fair queues of a port: behind its tenant's last one, for a time that is its bytes
over the tenant's weight (R311, R367; the scale and the tie are a DESIGN CHOICE, log 119). -/
def fairSpan (s : State) (p : Nat) (o : Outbound) : Nat × Nat :=
  let x := portOf s p
  let t := senderOf s o
  let start := max x.fairNow (x.fairTags.get t 0)
  (start, start + (16 + o.tr.data.length) * 2 ^ 16 / max 1 ((tenantOf s t).weights.getD p 1))

/-- The first transaction of each lane, in order of entry: one held back keeps its whole lane back (R115). A decision that waits for
the writes of its node does not. -/
def laneHeads (s : State) : List Outbound → List (Nat × Nat) → List Outbound
  | [], _ => []
  | o :: r, seen =>
    if seen.contains (o.dest, o.tr.lane.val) || awaitsWrites s o then laneHeads s r seen
    else o :: laneHeads s r ((o.dest, o.tr.lane.val) :: seen)

/-- The transaction that goes next, with its port: of the lanes that may send, that which ends first in its port's fair queues
(R367). -/
def nextToSend (s : State) : Option (Outbound × Nat) :=
  (laneHeads s s.outbound []).foldl (fun best o => match sendPort s o.dest o.tr.lane.val, best with
    | none, b => b
    | some p, none => some (o, p)
    | some p, some b => if (fairSpan s p o).2 < (fairSpan s b.2 b.1).2 then some (o, p) else some b) none

/-- Send what may be sent (R115, R367). -/
def sendList : Nat → State → State
  | 0, s => s
  | fuel + 1, s => match nextToSend s with
    | none => s
    | some (o, p) =>
      let f := fairSpan s p o
      let s := modPort s p (fun x => { x with fairNow := f.1, fairTags := x.fairTags.put (senderOf s o) f.2 })
      sendList fuel (sendFlit { s with outbound := s.outbound.erase o } p o)

/-- The ports take what the fabric unit holds. -/
def sendOutbound (s : State) : State :=
  if s.outbound = [] && !s.ports.any (fun p => p.2.state != 2 && p.2.replay != []) then s
  else
    let lanes := ((s.outbound ++ s.ports.flatMap (fun p => p.2.replay.flatMap (fun f => f.2))).map
      (fun o => (o.dest, o.tr.lane.val))).eraseDups
    let s := lanes.foldl (fun s l => if (routesFor s l.1 l.2).any (portUp s) then rescueLane s l.1 l.2 else s) s
    sendList s.outbound.length s

/-! ### Acknowledgement (R364) -/

/-- A decision has reached its home: a node that waited for it ends its rollback, or goes on with its commit (R120, R121,
R327). -/
def decisionDone (s : State) (o : Outbound) : State :=
  let fn := o.tr.tenant.val
  ((tenantOf s fn).nodes.map (fun x => x.1)).foldl (fun s i =>
    if recSerial (nodeOf s fn i).record = o.tr.detail.toNat % 2 ^ 32 then continueCommit (finishRollback s fn i) fn i else s) s

/-- A transaction of ours has been received (R363, R364): a write is applied, a request waits for its answer. -/
def onAck (s : State) (o : Outbound) : State :=
  match o.tr.op.val with
  | 1 | 3 => { s with awaiting := s.awaiting ++ [o] }
  | 0 => if o.ctx = noCtx ∨ isOutstanding s o.ctx o.seq then s else finishJob s o.ctx o.seq none none
  | 5 | 6 => decisionDone s o
  | _ => s

/-- Flits up to `ack` leave the replay buffer (R364). -/
def ackPort (s : State) (p : Nat) (ack : BitVec 12) : State :=
  let q := (portOf s p).replay
  let isAcked (f : BitVec 12 × List Outbound) : Bool := decide ((ack - f.1).toNat < 2048)
  let acked := q.filter isAcked
  let s := modPort s p (fun x => { x with replay := q.filter (fun f => !isAcked f) })
  (acked.flatMap (fun f => f.2)).foldl onAck s

/-- Everything unacknowledged is resent (R364, R365). -/
def resend (s : State) (p : Nat) : State :=
  modPort s p (fun x => { x with replays := x.replays + BitVec.ofNat 64 x.replay.length })

/-- ACK_FLIT (R363, R364). -/
def execAckFlit (port : Nat) (ack : BitVec 12) (s : State) : Host.Outcome State Fault Refusal := .next (ackPort s port ack)

/-- NAK with the last good SEQ: what follows it is resent in order (R364). -/
def execNak (port : Nat) (good : BitVec 12) (s : State) : Host.Outcome State Fault Refusal :=
  .next (resend (ackPort s port good) port)

/-! ### Transactions at the home and answers at the source (R117, R363, R367) -/

/-- Operation detail of a transaction: DETAIL [39:32] (log 19). -/
def transDetail (t : Transaction) : Nat := fieldOf t.detail.toNat 32 8
/-- Serial of the source node. -/
def transSerial (t : Transaction) : Nat := fieldOf t.detail.toNat 0 32

/-- Answer a request: detail bit 7 uncorrectable, bit 6 refused (log 19). -/
def answer (s : State) (t : Transaction) (op detail : Nat) (data : List Byte) : State :=
  let r : Transaction := { t with
    op := Fin.ofNat 16 op, src := Fin.ofNat 128 s.pkgId
    detail := BitVec.ofNat 40 (transSerial t + detail * 2 ^ 32), data := padData data }
  { s with outbound := s.outbound ++ [⟨t.src.val, noCtx, 0, 0, r⟩] }

/-- A request is refused where the domain record or the tenant's grants do not admit it (R367). -/
def serveRead (s : State) (t : Transaction) : State :=
  let a := t.addr.toNat
  let n := transDetail t % 128
  if homeAccepts s t.src.val t.tenant.val a n then
    answer (nextFresh s 1) t 2 (if isMarked s a then 0x80 else 0) ((List.range n).map (fun i =>
      seenByte s (fun _ _ => false)
        (fun w => w == ⟨true, t.src.val, t.tenant.val, transSerial t⟩) (a + i)))
  else answer s t 2 0x40 []

/-- An atomic at the home (R113, R363). -/
def serveAtomic (s : State) (t : Transaction) : State :=
  let a := t.addr.toNat
  let d := transDetail t
  let n := if d.testBit 4 then 8 else 4
  if homeAccepts s t.src.val t.tenant.val a n then
    let x := BitVec.ofNat 64 (natOfBytes (t.data.take 8))
    let c := BitVec.ofNat 64 (natOfBytes (t.data.drop 8))
    let r := homeAtomic s ⟨true, t.src.val, t.tenant.val, transSerial t⟩ (amoOf (d % 16)) a n x c
    answer r.1 t 4 (if r.2.2 then 0x80 else 0) (bytesOfNat 8 r.2.1)
  else answer s t 4 0x40 []

/-- Deliver the answer of request `o` (R207, R208, R276, R277, R367). -/
def deliver (s : State) (o : Outbound) (t : Transaction) : State :=
  let refused := (transDetail t).testBit 6
  let bad := (transDetail t).testBit 7
  match (ctxOf s o.ctx).allUntimed.find? (fun u => u.seq == o.seq) with
  | none => s
  | some u =>
    match u.job with
    | .load v n sx =>
      if refused then finishJob s o.ctx o.seq none (some (0x0C, BitVec.ofNat 64 v))
      else if bad then
        nextFresh (finishJob s o.ctx o.seq (some (Config.freeWord s.fresh)) (some (0x0F, BitVec.ofNat 64 v))) 1
      else finishJob s o.ctx o.seq
        (some (extend sx n (natOfBytes (heldFabric s o.ctx o.dest o.tr.addr.toNat (t.data.take n))))) none
    | .atomic _ v n sx _ _ _ =>
      if refused then finishJob s o.ctx o.seq none (some (0x0C, BitVec.ofNat 64 v))
      else if bad then
        nextFresh (finishJob s o.ctx o.seq (some (Config.freeWord s.fresh)) (some (0x0F, BitVec.ofNat 64 v))) 1
      else finishJob s o.ctx o.seq (some (extend sx n (natOfBytes (t.data.take n)))) none
    | .fget v place _ =>
      let s := if refused then
          modUntimed s o.ctx o.seq (fun u => { u with fault := u.fault.or (some (0x0C, BitVec.ofNat 64 (v + 64 * o.ix))) })
        else landPiece s o.ctx place o.ix (heldFabric s o.ctx o.dest o.tr.addr.toNat t.data) bad
      if isOutstanding s o.ctx o.seq then s else finishJob s o.ctx o.seq none none
    | _ => s

/-- An answer meets its request by package, lane and tag. -/
def takeAnswer (s : State) (t : Transaction) : State :=
  match s.awaiting.find? (fun o => o.dest == t.src.val && o.tr.lane == t.lane && o.tr.tag == t.tag) with
  | none => s
  | some o => showFault (deliver { s with awaiting := s.awaiting.erase o } o t) o.ctx o.seq

/-- Apply one received transaction (R117, R363). -/
def applyTrans (s : State) (t : Transaction) : State :=
  match t.op.val with
  | 0 => applyWrite s t.src.val t.tenant.val (transSerial t) t.addr.toNat (t.data.take (transDetail t % 128))
      ((transDetail t).testBit 7)
  | 1 => serveRead s t
  | 2 => takeAnswer s t
  | 3 => serveAtomic s t
  | 4 => takeAnswer s t
  | 5 => applyCommit s t.src.val t.tenant.val (transSerial t)
  | 6 => applyRollback s t.src.val t.tenant.val (transSerial t)
  | _ => s

/-- What tells a transaction from others: its source, lane and tag, and whether it is an answer, whose tag is that of the package
which asked (R363, R366). -/
def transKey (t : Transaction) : Nat × Nat × Nat :=
  (t.src.val, t.lane.val, t.tag.toNat + if t.op.val = 2 ∨ t.op.val = 4 then 4096 else 0)

/-- A transaction already applied is discarded, by source, lane and tag (R366). The last 2,048 of each source and lane are kept: one
that comes again is among its sender's 1,024 unacknowledged flits (R364), and a tag comes back after 4,096 (log 71). -/
def receiveTrans (s : State) (t : Transaction) : State :=
  let mine (x : Nat × Nat × Nat) : Bool := x.1 == t.src.val && x.2.1 == t.lane.val
  if s.applied.contains (transKey t) then s
  else applyTrans { s with
    applied := transKey t :: ((s.applied.filter mine).take 2047 ++ s.applied.filter (fun x => !mine x)) } t

/-- The link header of a flit (R363). -/
def flitHeader (f : Flit) : Nat := natOfBytes (f.body.take 8)
def flitSeq (f : Flit) : BitVec 12 := BitVec.ofNat 12 (fieldOf (flitHeader f) 0 12)
def flitAck (f : Flit) : BitVec 12 := BitVec.ofNat 12 (fieldOf (flitHeader f) 12 12)
def flitNak (f : Flit) : Bool := (flitHeader f).testBit 24
def flitType (f : Flit) : Nat := fieldOf (flitHeader f) 25 3
def flitWidth (f : Flit) : Nat := fieldOf (flitHeader f) 28 2
/-- Its payload. -/
def flitPayload (f : Flit) : List Byte := (f.body.take 248).drop 8
/-- Does the CRC hold? (R363, R364) -/
def flitCrcOk (f : Flit) : Bool := f.crc == Config.crc64 f.body

/-- A data flit: accepted in SEQ order, discarded when already accepted, refused with NAK otherwise (R364). -/
def takeFlit (s : State) (port : Nat) (f : Flit) : State :=
  let p := portOf s port
  if flitSeq f = p.rxSeq then
    let l := p.rxPart ++ (flitPayload f)
    let r := takeTrans l.length l
    r.1.foldl receiveTrans (modPort s port (fun x => { x with rxSeq := x.rxSeq + 1, nakSent := false, rxPart := r.2 }))
  else if (p.rxSeq - flitSeq f).toNat ≤ 2048 then s
  else modPort s port (fun x => { x with nakSent := true })

/-- DATA_FLIT: a flit arrives on a port that is up (R363–R365). One with a failed CRC is refused with NAK; every other acknowledges, and
asks for more where its NAK is set. -/
def execDataFlit (port : Nat) (f : Flit) (s : State) : Host.Outcome State Fault Refusal :=
  if (portOf s port).state ≠ 2 then .next s
  else if !flitCrcOk f then .next (modPort s port (fun x => { x with crcerr := x.crcerr + 1, nakSent := true }))
  else
    let s := ackPort s port (flitAck f)
    let s := if flitNak f then resend s port else s
    .next (match flitType f with
      | 0 => takeFlit s port f
      | 2 => modPort s port (fun x => { x with width := flitWidth f })
      | _ => s)

/-! ### Lanes, width, retraining (R365–R367) -/

/-- The groups of lanes that a port may use, the widest first, each with its WIDTH code (R365). -/
def laneGroups : List (BitVec 8 × Nat) := [(0xFF, 0), (0x0F, 1), (0xF0, 1), (0x03, 2), (0x0C, 2), (0x30, 2), (0xC0, 2)]

/-- The widest group that includes no faulted lane, the one in use where it is as wide; no lane and code 3 where no pair is usable
(R365). -/
def lanesFor (faulted used : BitVec 8) : BitVec 8 × Nat :=
  let clean := laneGroups.filter (fun g => g.1 &&& faulted == 0)
  match clean.head? with
  | none => (0, 3)
  | some g => if clean.contains (used, g.2) then (used, g.2) else g

/-- Its WIDTH code. -/
def widthOf (faulted : BitVec 8) : Nat := (lanesFor faulted 0).2

/-- Take up other lanes: a marker flit announces the width and everything unacknowledged is resent (R365). -/
def changeLanes (s : State) (port : Nat) (g : BitVec 8 × Nat) : State :=
  resend (modPort s port (fun x => { x with lanes := g.1, width := g.2, markers := x.markers ++ [g.2] })) port

/-- WIDTH_MARKER_FLIT: the peer sends at a new width from the next flit on (R365). -/
def execWidthMarkerFlit (port : Nat) (width : Fin 4) (s : State) : Host.Outcome State Fault Refusal :=
  .next (modPort s port (fun x => { x with width := width.val }))

/-- A port retrains: it is down until it has (R365, R366). -/
def retrain (s : State) (port : Nat) : State :=
  modPort s port (fun x => { x with state := 1, width := 3, lanes := 0, retrains := x.retrains + 1 })

/-- LANE_FAULT: a port that is up narrows, moves to other lanes, or retrains where no pair of lanes is usable (R365). -/
def execLaneFault (port : Nat) (lane : Fin 8) (s : State) : Host.Outcome State Fault Refusal :=
  let s := modPort s port (fun x => { x with
    faulted := x.faulted ||| ((1 : BitVec 8) <<< lane.val), since := x.since.or (some (now s)) })
  let p := portOf s port
  let g := lanesFor p.faulted p.lanes
  if p.state ≠ 2 then .next s
  else if g.2 = 3 then .next (retrain s port)
  else if g.1 ≠ p.lanes then
    .next (if g.2 ≠ p.width then postHealth (changeLanes s port g) 4 port [] else changeLanes s port g)
  else .next s

/-- A port is permanently narrowed from now on, if `old`; it is logged once (R379, R382). -/
def markBad (s : State) (port : Nat) (old : Bool) : State :=
  if old && !(portOf s port).bad then postHealth (modPort s port (fun x => { x with bad := true })) 5 port [] else s

/-- LANE_RETEST: lanes that pass are no longer faulted, and the port widens (R365). One that had been bad for 24 hours stays so in HEALTH
until a self-test clears it, and is logged as such (R380, R382). -/
def execLaneRetest (port : Nat) (passed : BitVec 8) (s : State) : Host.Outcome State Fault Refusal :=
  let s := modPort s port (fun x => { x with faulted := x.faulted &&& ~~~passed })
  let p := portOf s port
  let old := p.since.any (fun g => !isRecent s g)
  let s := if p.faulted = 0 then markBad (modPort s port (fun x => { x with since := none })) port old else s
  let g := lanesFor p.faulted p.lanes
  if p.state = 2 ∧ g.1 ≠ p.lanes then .next (changeLanes s port g) else .next s

/-- Does the domain record list the package? (R367) -/
def isListed (s : State) (peer : Nat) : Bool := s.packages.contains peer

/-- RETRAIN_COMPLETE: the port comes up and exchanges ids, and a wrong peer disables it; with no usable pair of lanes it retrains. One
that comes up narrowed is logged (R365–R367, R382). -/
def execRetrainComplete (port : Nat) (peer : Fin 256) (s : State) : Host.Outcome State Fault Refusal :=
  let g := lanesFor (portOf s port).faulted 0
  if (portOf s port).state ≠ 1 then .next s
  else if g.2 = 3 then .next (retrain s port)
  else if peer.val = s.pkgId ∨ !isListed s peer.val then
    .next (modPort s port (fun x => { x with state := 3, width := 3, peer := 0xFF }))
  else
    let s := resend (modPort s port (fun x => { x with
      state := 2, peer := peer.val, lanes := g.1, width := g.2, since := if x.faulted = 0 then none else x.since })) port
    .next (if g.2 = 0 then s else postHealth s 4 port [])

/-- Is the transaction of a node towards a package? Those of its data table have serial 0 and name the node (R385). -/
def towards (s : State) (fn ix dest : Nat) (o : Outbound) : Bool :=
  let serial := o.tr.detail.toNat % 2 ^ 32
  o.dest == dest && o.tr.op.val != 2 && o.tr.op.val != 4 && o.tr.src.val == s.pkgId && o.tr.tenant.val == fn &&
    (serial == recSerial (nodeOf s fn ix).record || (serial == 0 && o.ctx == noCtx && o.seq == ix))

/-- All transactions under way. -/
def allOutbound (s : State) : List Outbound :=
  s.outbound ++ s.awaiting ++ s.ports.flatMap (fun p => p.2.waiting ++ p.2.replay.flatMap (fun f => f.2))

/-- Has the transaction a node whose commit has begun, which nothing undoes? (R321) -/
def isCommitted (s : State) (o : Outbound) : Bool :=
  (tenantOf s o.tr.tenant.val).nodes.any (fun n => commitBegun n.2 && towards s o.tr.tenant.val n.1 o.dest o)

/-- Discard every held transaction towards a package (R366), but those of a commit that has begun: it cannot be undone, so they wait for
a path (R321; DESIGN CHOICE, log 133). -/
def discardTowards (s : State) (dest : Nat) : State :=
  let keep (o : Outbound) : Bool := o.dest != dest || isCommitted s o
  { s with
    outbound := s.outbound.filter keep
    awaiting := s.awaiting.filter keep
    ports := s.ports.map (fun p => (p.1, { p.2 with
      waiting := p.2.waiting.filter keep, replay := p.2.replay.map (fun f => (f.1, f.2.filter keep)) })) }

/-- Has a destination a path: a port of its routes that is up? (R366) -/
def hasPath (s : State) (dest : Nat) : Bool := s.routes.any (fun r => r.1 == dest && portUp s r.2.2)

/-- NO_PATH_TIMEOUT: a destination has had no path for 100 ms, which the outside world tells: each node with fabric operations towards
it retires FAULTED, with cause 0x28 (R338, R366), but for one whose commit has begun (R321, log 133). -/
def execNoPathTimeout (dest : Fin 128) (s : State) : Host.Outcome State Fault Refusal :=
  if hasPath s dest.val then .next s else
  let os := allOutbound s
  let victims := s.tenants.flatMap (fun t => (t.2.nodes.filter (fun n => isLive n.2 && !commitBegun n.2 && os.any (towards s t.1 n.1 dest.val))).map
    (fun n => (t.1, n.1)))
  let last := ((routesFor s dest.val 0).getLast?).getD 0xFF
  let stop (s : State) (v : Nat × Nat) : State :=
    let k := ((os.find? (fun o => towards s v.1 v.2 dest.val o && o.ctx != noCtx)).map (fun o => o.ctx)).getD 0
    let s := postFault s (dieIx k) (faultEntry v.1 v.2 (coreIx k) (k % 4) last 0x28 s.gcc (BitVec.ofNat 64 dest.val) 0 0)
    endNode s v.1 v.2 5
  .next (discardTowards (victims.foldl stop s) dest.val)

end Sys2Proof.Machine
end

