-- ==== Sys2Proof/Machine/Operate.lean ====
section
/-! DEFINITION. Boot and self-test, droop, brown-out and power loss with its journals, retention, scrubbing, spares, wear and
HEALTH (R95, R96, R309, R310, R353, R368–R382). -/

namespace Sys2Proof.Machine

/-! ### Clusters and spares (R378) -/

/-- Byte j of a spare map's body: the logical cluster of die j / 2 that its spare j % 2 has replaced, 0xFF for a spare not in service
(the spec gives the body no layout; DESIGN CHOICE, log 123). -/
def spareByte (body : List Byte) (j : Nat) : Nat := (body.getD j 0xFF).toNat

/-- The body with a cluster's number in the first free place of its die. -/
def spareTaken (body : List Byte) (clus : Nat) : List Byte :=
  let die := clus / 24
  let body := body ++ List.replicate (8 - body.length) 0xFF
  match [2 * die, 2 * die + 1].find? (fun j => spareByte body j == 0xFF) with
  | some j => body.set j (BitVec.ofNat 8 (clus % 24))
  | none => body

/-- Rewrite the spare-map record as a spare takes a cluster's number: its VERSION rises, and the identity key signs it (R369, R378). A
body of fewer than 8 bytes has no room, and is left alone. -/
def rewriteSpareMap (s : State) (clus : Nat) : State :=
  match recordOf (recordsOf s.mem) 2 with
  | none => s
  | some r =>
    if r.body.length < 8 then s
    else
      let head := r.signed.take 8 ++ bytesOfNat 4 (r.version + 1) ++ (r.signed.take 16).drop 12 ++ spareTaken r.body clus
      putFinal s r.addr (head ++ identitySignature (sha3 head))

/-- Apply the spare map at boot: the spares left to each die, and the clusters that a spare has replaced (R368). -/
def applySpareMap (s : State) (body : List Byte) : State :=
  (List.range 8).foldl (fun s j =>
    if spareByte body j = 0xFF then modDie s (j / 2) (fun d => { d with spares := d.spares + 1 })
    else modCluster s (24 * (j / 2) + spareByte body j) (fun c => { c with spareUsed := true }))
    ((List.range Config.dies).foldl (fun s d => modDie s d (fun d => { d with spares := 0 })) s)

/-- The occupied contexts of a cluster. -/
def occupants (s : State) (clus : Nat) : List Nat :=
  ((List.range 16).map (fun i => 16 * clus + i)).filter (fun k => (ctxOf s k).task.isSome)

/-- Has everything of a context's image stood long enough to be saved: frozen, its untimed operations performed, none held for a page?
(R343) -/
def readyToSave (s : State) (k : Nat) : Bool :=
  ((ctxOf s k).freeze.isSome || (ctxOf s k).halted.isSome) && canSave s k && !saveBusy s k

/-- A context goes over to the spare, through its image: one that reads uncorrectable as it is saved, or as it comes back, is lost;
else it keeps CORE.ID and CTX.ID and thaws (R342, R343, R347, R378). -/
def moveToSpare (s : State) (k : Nat) : State :=
  match (ctxOf s k).task with
  | none => s
  | some t =>
    if parityFails s k then loseImage s k t 1
    else if !Config.passes s.fresh then loseImage (nextFresh s 1) k t 0
    else clearMark (nextFresh s 1) k .pre (s.gcc + 64)

/-- Once every context of a cluster stands saved, the spare has its number (R378). -/
def finishSwap (s : State) (clus : Nat) : State :=
  if (clusterOf s clus).swapping && (occupants s clus).all (readyToSave s) then
    let s := (occupants s clus).foldl moveToSpare s
    let s := (List.range 4).foldl (fun s i => modCore s (4 * clus + i) (fun c => { c with divergences := [] })) s
    let s := modCluster s clus (fun c => { c with spareUsed := true, losses := [], wear := 0, tripped := none, swapping := false })
    postHealth (rewriteSpareMap s clus) 2 clus []
  else s

/-- Retire a cluster: its contexts freeze, and a spare of its die, taken now, gets its number as they are saved, or it is quarantined
(R378). -/
def retireCluster (s : State) (clus : Nat) : State :=
  if (clusterOf s clus).swapping || (clusterOf s clus).quarantined then s
  else if 0 < (dieOf s (clus / 24)).spares then
    let s := (occupants s clus).foldl (fun s k =>
      if (ctxOf s k).preAt.isSome || (ctxOf s k).freeze.any (fun f => f.marks.contains .pre) then s else postPre s k) s
    let s := modDie s (clus / 24) (fun d => { d with spares := d.spares - 1 })
    finishSwap (modCluster s clus (fun c => { c with swapping := true })) clus
  else postHealth (modCluster s clus (fun c => { c with quarantined := true })) 3 clus []

/-- Does a cluster meet one of the causes of R378: two parity losses or four divergences within 24 hours? -/
def mustRetire (s : State) (clus : Nat) : Bool :=
  decide (2 ≤ ((clusterOf s clus).losses.filter (isRecent s)).length) ||
  decide (4 ≤ ((List.range 4).map (fun i => ((coreOf s (4 * clus + i)).divergences.filter (isRecent s)).length)).sum)

/-- CLUSTER_RETIRE: cause 0 is a failed self-test item; for the others the counts of R378 decide. -/
def execClusterRetire (clus cause : Nat) (s : State) : Host.Outcome State Fault Refusal :=
  if Config.clusters ≤ clus ∨ (cause ≠ 0 ∧ !mustRetire s clus) then .next s else .next (retireCluster s clus)

/-- May a cluster stand in retention: its occupied contexts pre-empted, with nothing of them out, and no walk of it? The spec does not
say when Lemelo puts a cluster there (DESIGN CHOICE, log 138). -/
def mayRetain (s : State) (clus : Nat) : Bool :=
  let c := clusterOf s clus
  let ks := occupants s clus
  s.booted && decide (clus < Config.clusters) && ks != [] && c.walk.isNone && c.startQ == [] && !c.swapping &&
    ks.all (fun k => (ctxOf s k).freeze.any (fun f => f.marks.contains .pre) && readyToSave s k)

/-- At the end of a cycle a cluster that may enters retention, or not: a free value (R353, R371, log 138). -/
def tickRetention (s : State) : State :=
  (((usedCores s).map (· / 4)).eraseDups).foldl (fun s i =>
    if mayRetain s i && !(clusterOf s i).retained then
      nextFresh (modCluster s i (fun c => { c with retained := Config.freeBool s.fresh })) 1
    else s) s

/-- Item 0 to 4 of the self-test on unit `u`: whether it fails, and where, is free. A failed unit is logged with its failing address,
and a cluster retired, a port marked in LINK; a port that passes is cleared (R378, R380–R382). -/
def testUnit (s : State) (item u : Nat) : State :=
  let ok := Config.passes s.fresh
  let t := nextFresh s 2
  let t := if ok then t else postHealth t 1 u ([BitVec.ofNat 8 item, 1] ++ bytesOfNat 8 (Config.freeWord (s.fresh + 1)).toNat)
  if item = 4 then
    if ok then modPort t u (fun p => { p with bad := false, since := none, faulted := 0 }) else markBad t u true
  else if !ok && decide (item ≤ 1) then retireCluster t u else t

/-- CLUSTER_RETENTION_EXIT: a parity failure loses every context of the cluster, and their nodes roll back; the cluster runs its
self-test, its items of the array and of the SRAM, before it returns to service (R353, R381, R382). -/
def execClusterRetentionExit (clus : Nat) (parityOk : Bool) (s : State) : Host.Outcome State Fault Refusal :=
  let s := modCluster s clus (fun c => { c with retained := false })
  if parityOk then .next s
  else
    let ks := ((List.range 16).map (fun i => 16 * clus + i)).filter (fun k => (ctxOf s k).task.isSome)
    let nodes := (ks.filterMap (fun k => (ctxOf s k).task.map (fun t => (t.tenant, t.node)))).eraseDups
    let s := ks.foldl (fun s k => postCtxFault s k 0 0x22 0 0 (ctxOf s k).pc.toNat) s
    let s := nodes.foldl (fun s n => rollNode 1025 s n.1 n.2 true) s
    let s := postHealth (modCluster s clus (fun c => { c with losses := now s :: c.losses })) 12 clus []
    let s := testUnit (testUnit s 0 clus) 1 clus
    .next (if mustRetire s clus then retireCluster s clus else s)

/-! ### Scrubbing (R340, R353) -/

/-- SCRUB_UNCORRECTABLE: the line that holds 64-byte piece `line` is marked and cause 0x25 posted; a full buffer pauses the scrubber
(R338, R340, R353). -/
def execScrubUncorrectable (line : Nat) (s : State) : Host.Outcome State Fault Refusal :=
  let a := line * 64
  let dur := decide (Config.durBase ≤ a)
  let stack := if dur then (a - Config.durBase) / Config.durStack else stackOf a
  let die := if dur then stack % 4 else stack / 2 % 4
  let sub := if dur then 8 + stack else stack
  if (dieOf s die).scrubPaused.contains sub then .next s
  else
    let s := addMarks s (linePieces a)
    let full := decide (4096 ≤ (dieOf s die).faults.length)
    let s := postFault s die (faultEntry 0 0 0 0 sub 0x25 s.gcc 0 0 0)
    .next (if full then modDie s die (fun d => { d with scrubPaused := d.scrubPaused ++ [sub] }) else s)

/-! ### Droop, brown-out, wear, HEALTH (R373–R376, R379, R380) -/

/-- DROOP_TRIP: the package clock is stretched, to a step that the spec leaves open from 350 MHz to the set clock (a free value); every
offset in cycles holds (R2, R373). -/
def execDroopTrip (clus : Nat) (s : State) : Host.Outcome State Fault Refusal :=
  let f := 350 + Config.freePick s.fresh s.gcc 0 % (s.clock - 350 + 1)
  .next (modCluster { nextFresh s 1 with stretched := some (min f (effectiveClock s)) } clus (fun c => { c with tripped := some s.gcc }))

/-- Is the set clock due back: no detector has tripped for 1,024 cycles? (R373) -/
def droopOver (s : State) : Bool :=
  s.stretched.isSome && s.clusters.all (fun c => c.2.tripped.all (fun g => decide (g + 1024 ≤ s.gcc)))

/-- DROOP_RELEASE: detectors that have not tripped for 1,024 cycles are released; with none left the set clock is back (R373). -/
def execDroopRelease (s : State) : Host.Outcome State Fault Refusal :=
  let t := { s with clusters := s.clusters.map (fun c => (c.1, { c.2 with
    tripped := if c.2.tripped.any (fun g => decide (g + 1024 ≤ s.gcc)) then none else c.2.tripped })) }
  .next (if t.clusters.any (fun c => c.2.tripped.isSome) then t else { t with stretched := none })

/-- BROWN_OUT at an input of `mv` millivolts (R374, R375). -/
def execBrownOut (mv : Nat) (s : State) : Host.Outcome State Fault Refusal :=
  if 44000 ≤ mv then .next s
  else
    let s := brownPower { s with brown := some mv } mv
    .next (postHealth s 8 0 (bytesOfNat 4 mv ++ bytesOfNat 4 s.clock))

/-- The clock that the wear ceiling and the cores' VALUE allow (R135, R374, R376). -/
def restoredClock (s : State) : Nat := boostCeiling s (packageCeiling s)

/-- BROWN_OUT_RECOVERY: the clock is restored, and the frozen groups thaw in the reverse order, each in a phase of its own (R374,
R375). -/
def execBrownOutRecovery (s : State) : Host.Outcome State Fault Refusal :=
  match s.brown with
  | none => .next s
  | some _ =>
    let t := { s with brown := none, clock := restoredClock s, brownFrozen := [] }
    .next ((s.brownFrozen.zipIdx).foldl (fun t k => letGo t k.1 (t.gcc + 1 + 1024 * k.2)) t)

/-- A cluster's wear counter stands at `w`: each of 60 and 100 percent that it crosses is logged, and its ceiling lowers the clock. It
never falls (R376). -/
def setWear (s : State) (clus w : Nat) : State :=
  let old := (clusterOf s clus).wear
  let new := max old w
  let s := modCluster s clus (fun c => { c with wear := new })
  let s := [60, 100].foldl (fun s p =>
    if old < p * wearPercent ∧ p * wearPercent ≤ new then postHealth s 10 clus [BitVec.ofNat 8 p] else s) s
  { s with clock := min s.clock (packageCeiling s) }

/-- WEAR_CROSSING: the cluster's counter has come to `percent` of its budget (R376). -/
def execWearCrossing (clus percent : Nat) (s : State) : Host.Outcome State Fault Refusal := .next (setWear s clus (percent * wearPercent))

/-- 2^(i/10) with nine digits behind the point. -/
def tenthPower (i : Nat) : Nat := [1000000000, 1071773462, 1148698354, 1231144413, 1319507910, 1414213562, 1515716566, 1624504792,
  1741101126, 1866065983].getD i 0

/-- Wear of one second at `mv` and `t` °C in nanoseconds: (V/0.75)⁴ × 2^((T − 85)/10) s (R376). -/
def wearSecond (mv t : Nat) : Nat :=
  let x := mv ^ 4 * tenthPower ((t + 5) % 10)
  let q := (t + 5) / 10
  x * 2 ^ q / (750 ^ 4 * 2 ^ 9)

/-- Femtoseconds that a cycle takes at the A-clock as it runs. -/
def cycleTime (s : State) : Nat := 10 ^ 9 / max 1 (effectiveClock s)

/-- Once a second every cluster wears, before it is booted too, at its rail as it stands (R371, R376). -/
def tickWear (s : State) : State :=
  let e := s.elapsed + cycleTime s
  if e < 10 ^ 15 then { s with elapsed := e }
  else
    nextFresh ((List.range Config.clusters).foldl (fun t i =>
      setWear t i ((clusterOf s i).wear + wearSecond (railOf s i) (Config.temperature s.fresh i)))
      { s with elapsed := e - 10 ^ 15 }) 1

/-- A port that has been narrowed or down for 24 hours is bad for good, until a self-test clears it; it is logged once (R379–R382). -/
def latchPorts (s : State) : State :=
  (s.ports.filter (fun p => !p.2.bad && p.2.since.any (fun g => !isRecent s g))).foldl (fun s p =>
    markBad s p.1 true) s

/-- HEALTH_STATE_CHANGE: STATE takes the worst state that applies, and a change is logged (R380). -/
def execHealthStateChange (s : State) : Host.Outcome State Fault Refusal :=
  let s := latchPorts s
  let h := healthNow s
  if h = s.health then .next s
  else .next (postHealth { s with health := h } 7 0 [s.health.setWidth 8, h.setWidth 8])

/-! ### Power loss (R95, R96, R310, R374) -/

/-- Insert into a list rising by context. -/
def insertPast (x : Nat × Option Nat) : List (Nat × Option Nat) → List (Nat × Option Nat)
  | [] => [x]
  | y :: r => if x.1 ≤ y.1 then x :: y :: r else y :: insertPast x r

/-- The started tasks of a node with their last persist points, by context (R310). -/
def startedTasks (s : State) (fn ix : Nat) : List (Nat × Option Nat) :=
  (openTasks s fn ix ++ (nodeOf s fn ix).past).foldl (fun acc x => insertPast x acc) []

/-- The nodes of a die's journal: tenant, NODE.ID, and their started tasks, of each node that has run on the die (R96). -/
def journalNodes (s : State) (die : Nat) : List (Nat × Nat × List (Nat × Option Nat)) :=
  s.tenants.flatMap (fun t => t.2.nodes.filterMap (fun n =>
    let ts := startedTasks s t.1 n.1
    if isLive n.2 && n.2.ranOn.contains die then some (t.1, n.1, ts) else none))

/-- State code of a journal's node entry (R96). -/
def journalState : NodeState → Nat
  | .committing => 1
  | .rollingBack => 2
  | _ => 0

/-- The bytes of a die's journal, at most 1 MiB: entries past that are left out (R96, R310; DESIGN CHOICE, log 132). -/
def journalBytes (s : State) (die : Nat) : List Byte :=
  let ns := journalNodes s die
  let cs := ns.flatMap (fun n => n.2.2.map (fun x => (n.2.1, x)))
  List.take Config.journalStep (bytesOfNat 8 s.gcc ++ bytesOfNat 2 die ++ bytesOfNat 2 ns.length ++ bytesOfNat 2 cs.length ++ List.replicate 50 0 ++
  ns.flatMap (fun n =>
    let m := nodeOf s n.1 n.2.1
    bytesOfNat 2 n.1 ++ bytesOfNat 2 n.2.1 ++ [BitVec.ofNat 8 (journalState m.state)] ++ List.replicate 3 0 ++
      bytesOfNat 8 (recSerial m.record)) ++
  cs.flatMap (fun c => bytesOfNat 2 (c.2.1 / 4) ++ [BitVec.ofNat 8 (c.2.1 % 4), 0] ++ bytesOfNat 2 c.1 ++ [0, 0] ++
    bytesOfNat 8 (c.2.2.getD (2 ^ 64 - 1))))

/-- The tenants of the context entries of a die's journal. -/
def journalTenants (s : State) (die : Nat) : List Nat := (journalNodes s die).flatMap (fun n => n.2.2.map (fun _ => n.1))

/-- Write the journals of all dies (R96). -/
def writeJournals (s : State) : State :=
  { s with
    journalOwners := (List.range Config.dies).map (fun d => (d, journalTenants s d))
    mem := (List.range Config.dies).foldl (fun m d =>
      memWriteList m (Config.journalBase + d * Config.journalStep) (journalBytes s d)) s.mem }

/-- What outlives the package's reset: durable and host memory, the records' effects on clusters and dies, the health log,
and what the outside world still has to say (R95, R309, R374, R382). -/
def powerReset (s : State) : State :=
  { State.reset with
    inputs := s.inputs
    fresh := s.fresh + 1
    mem := s.mem.filter (fun c => decide (Config.durBase ≤ c.1))
    marked := s.marked.filter (fun l => decide (Config.durBase / 64 ≤ l))
    clusters := s.clusters.map (fun c => (c.1, { ClusterState.reset with
      wear := c.2.wear, quarantined := c.2.quarantined, spareUsed := c.2.spareUsed, losses := c.2.losses }))
    cores := s.cores.map (fun c => (c.1, { CoreState.reset with divergences := c.2.divergences }))
    ports := s.ports.map (fun p => (p.1, { Port.reset with
      since := p.2.since, bad := p.2.bad, faulted := if p.2.bad then p.2.faulted else 0 }))
    elapsed := s.elapsed
    era := now s + Config.outage s.fresh
    divLog := s.divLog
    diesT := s.diesT.map (fun d => (d.1, { DieState.reset with spares := d.2.spares }))
    journalOwners := s.journalOwners
    sealNext := s.sealNext
    bootCount := s.bootCount
    health := s.health
    logNext := s.logNext
    healthLog := s.healthLog }

/-- POWER_LOSS: buffers drain, journals are written, and the package resets (R95, R96, R374). -/
def execPowerLoss (s : State) : Host.Outcome State Fault Refusal := .next (powerReset (writeJournals (postHealth s 9 0 [])))

/-! ### Boot (R368–R370, R381) -/

/-- The first Lemelo image that verifies and meets the floor: its slot, bytes and VERSION (R368 step 3, R369). -/
def chooseImage (m : Memory) (rs : List ConfigRecord) : Option (Nat × List Byte) :=
  let floor := ((recordOf rs 5).map (fun r => Config.versionFloor r.body)).getD 0
  (recordOf rs 7).bind (fun r =>
    [0, 1].findSome? (fun slot =>
      let x := Config.imageSlot r.body slot
      let bytes := memReadList m x.1 x.2.1
      if Config.signatureValid 7 bytes ∧ floor ≤ x.2.2 then some (slot, bytes) else none))

/-- Step 4: the measurements of the ROM, each record and the image. A record's digest is over its bytes without the signature (R368–R370). -/
def measureBoot (s : State) (rs : List ConfigRecord) (image : List Byte) : State :=
  let s := extendMeasure s 0 Config.romDigest
  let s := rs.foldl (fun s r => extendMeasure s 1 (sha3 (r.signed.take (16 + r.body.length)))) s
  extendMeasure s 2 (sha3 image)

/-- Step 5: the trims and the spare map apply, and Lemelo runs on the system cores (R368). -/
def releaseLemelo (s : State) (rs : List ConfigRecord) : State :=
  let s := { s with trims := ((recordOf rs 1).map (fun r => r.body)).getD [] }
  let s := applySpareMap s (((recordOf rs 2).map (fun r => r.body)).getD [])
  (List.range (4 * Config.systemCores)).foldl (fun s i =>
    modCtx s (4 * Config.firstSystemCore + i) (fun c => { c with mode := .supervisor, halted := some s.gcc })) s

/-- Units of each item of the self-test: array cells and SRAM by cluster, HBM and durable stacks, ports (R381). -/
def testUnits (item : Nat) : Nat := [96, 96, 8, 4, 16].getD item 0

/-- One item of the self-test: its units one after another, and the item's result, which is logged too (R381, R382). -/
def testItemOf (s : State) (item : Nat) : State :=
  let t := (List.range (testUnits item)).foldl (fun (t : State × Bool) u => (testUnit t.1 item u, t.2 && Config.passes t.1.fresh)) (s, true)
  postHealth t.1 1 0 [BitVec.ofNat 8 item, if t.2 then 0 else 1]

/-- The end of step 6: the ports train, a permanently narrowed one too, which goes on serving at what it has (R365, R380), and the tenants
of the policy exist (R367, R368). -/
def openFunctions (s : State) (rs : List ConfigRecord) : State :=
  let dom := ((recordOf rs 4).map (fun r => Config.domainOf r.body)).getD ⟨0, [], [], []⟩
  let s := { s with pkgId := dom.id % 128, packages := dom.packages, domain := dom.triples, routes := dom.routes }
  let s := (List.range 16).foldl (fun s p => modPort s p (fun x => { x with state := 1 })) s
  let s := (((recordOf rs 3).map (fun r => Config.policyOf r.body)).getD []).foldl (fun s p =>
    if p.1 < 16 ∧ policyOk s p.2 then createTenant s p.1 p.2 else s) s
  { s with booted := true, bootStep := 0x80 }

/-- Step 6: the items of a self-test that the seal requests, one after another, and the seal cleared after the last; then the
functions (R368, R381). -/
def bootServices (s : State) : State :=
  if s.sealed then
    let t := testItemOf s s.testItem
    let t := { t with testItem := s.testItem + 1 }
    if 5 ≤ t.testItem then { t with sealed := false, sealNext := false } else t
  else openFunctions s (recordsOf s.mem)

/-- BOOT: power-up begins with the step in progress that BOOTSTAT shows, and every further event completes that step: the ROM's steps
in order, with the codes of their failures (R368). -/
def execBoot (s : State) : Host.Outcome State Fault Refusal :=
  let rs := recordsOf s.mem
  .next (match s.bootStep.toNat with
    | 0 => { s with bootStep := 1, bootCount := s.bootCount + 1, measures := Vector.replicate 8 0, sealed := s.sealNext, testItem := 0 }
    | 1 => nextFresh { s with bootStep := if Config.passes s.fresh then 2 else 0xF1 } 1
    | 2 => { s with bootStep := if (recordOf rs 1).isNone ∨ (recordOf rs 2).isNone then 0xF2 else 3 }
    | 3 => { s with bootStep := if (chooseImage s.mem rs).isNone then 0xF3 else 4 }
    | 4 => { measureBoot s rs (((chooseImage s.mem rs).map (fun x => x.2)).getD []) with bootStep := 5 }
    | 5 => { releaseLemelo s rs with bootStep := 6 }
    | 6 => bootServices s
    | _ => s)

end Sys2Proof.Machine
end

