-- ==== Sys2Proof/Machine/Scalar.lean ====
section
/-! DEFINITION. The scalar slots S0 and S1 (R196–R203). -/

namespace Sys2Proof.Machine

/-- A scalar operation: its slot, its occupancy, and its result at issue + latency (R196). -/
def scalarOp (lat occ : Nat) (d : SReg) (x : W64) (s : State) : Host.Outcome State Fault Refusal :=
  finish s (withSlot s (fun s => result (occupy s occ) lat (.s d x)))

/-- An ALU operation on two registers (R197). -/
def alu2 (f : W64 → W64 → W64) (d a b : SReg) (s : State) : Host.Outcome State Fault Refusal :=
  scalarOp 1 1 d (f ((here s).readS a) ((here s).readS b)) s

/-- An ALU operation on one register (R197, R198). -/
def alu1 (f : W64 → W64) (d a : SReg) (s : State) : Host.Outcome State Fault Refusal :=
  scalarOp 1 1 d (f ((here s).readS a)) s

/-- Leading zeros of the low n bits. -/
def leadingZeros (x : W64) : Nat → Nat
  | 0 => 0
  | n + 1 => if x.getLsbD n then 0 else 1 + leadingZeros x n

/-- One bits of a word. -/
def popCount (x : W64) : Nat := ((List.range 64).filter (fun i => x.getLsbD i)).length

/-- CEILM: round up to a multiple of 2^k (R197). -/
def ceilMultiple (a b : W64) : W64 :=
  let m : W64 := (1 <<< (b.toNat % 64)) - 1
  (a + m) &&& ~~~m

def execAdd (d a b : SReg) (s : State) : Host.Outcome State Fault Refusal := alu2 (· + ·) d a b s
def execSub (d a b : SReg) (s : State) : Host.Outcome State Fault Refusal := alu2 (· - ·) d a b s
def execAnd (d a b : SReg) (s : State) : Host.Outcome State Fault Refusal := alu2 (· &&& ·) d a b s
def execOr (d a b : SReg) (s : State) : Host.Outcome State Fault Refusal := alu2 (· ||| ·) d a b s
def execXor (d a b : SReg) (s : State) : Host.Outcome State Fault Refusal := alu2 (· ^^^ ·) d a b s
/-- SHL: the amount is sB[5:0] (R197). -/
def execShl (d a b : SReg) (s : State) : Host.Outcome State Fault Refusal := alu2 (fun x y => x <<< (y.toNat % 64)) d a b s
def execShr (d a b : SReg) (s : State) : Host.Outcome State Fault Refusal := alu2 (fun x y => x >>> (y.toNat % 64)) d a b s
def execSar (d a b : SReg) (s : State) : Host.Outcome State Fault Refusal := alu2 (fun x y => x.sshiftRight (y.toNat % 64)) d a b s
def execSlt (d a b : SReg) (s : State) : Host.Outcome State Fault Refusal := alu2 (fun x y => boolWord (x.slt y)) d a b s
def execSltn (d a b : SReg) (s : State) : Host.Outcome State Fault Refusal := alu2 (fun x y => boolWord (x.ult y)) d a b s
def execSeq (d a b : SReg) (s : State) : Host.Outcome State Fault Refusal := alu2 (fun x y => boolWord (x == y)) d a b s
def execMin (d a b : SReg) (s : State) : Host.Outcome State Fault Refusal := alu2 (fun x y => if x.slt y then x else y) d a b s
def execMax (d a b : SReg) (s : State) : Host.Outcome State Fault Refusal := alu2 (fun x y => if x.slt y then y else x) d a b s
def execMinn (d a b : SReg) (s : State) : Host.Outcome State Fault Refusal := alu2 (fun x y => if x.ult y then x else y) d a b s
def execMaxn (d a b : SReg) (s : State) : Host.Outcome State Fault Refusal := alu2 (fun x y => if x.ult y then y else x) d a b s
def execClz (d a : SReg) (s : State) : Host.Outcome State Fault Refusal := alu1 (fun x => BitVec.ofNat 64 (leadingZeros x 64)) d a s
def execPopc (d a : SReg) (s : State) : Host.Outcome State Fault Refusal := alu1 (fun x => BitVec.ofNat 64 (popCount x)) d a s
def execCeilm (d a b : SReg) (s : State) : Host.Outcome State Fault Refusal := alu2 ceilMultiple d a b s

/-! Immediate forms (R198). -/
def execAddi (d a : SReg) (i : BitVec 13) (s : State) : Host.Outcome State Fault Refusal := alu1 (· + sext64 i) d a s
def execAndi (d a : SReg) (i : BitVec 13) (s : State) : Host.Outcome State Fault Refusal := alu1 (· &&& sext64 i) d a s
def execOri (d a : SReg) (i : BitVec 13) (s : State) : Host.Outcome State Fault Refusal := alu1 (· ||| sext64 i) d a s
def execXori (d a : SReg) (i : BitVec 13) (s : State) : Host.Outcome State Fault Refusal := alu1 (· ^^^ sext64 i) d a s
def execSlti (d a : SReg) (i : BitVec 13) (s : State) : Host.Outcome State Fault Refusal := alu1 (fun x => boolWord (x.slt (sext64 i))) d a s
def execShli (d a : SReg) (k : Fin 64) (s : State) : Host.Outcome State Fault Refusal := alu1 (· <<< k.val) d a s
def execShri (d a : SReg) (k : Fin 64) (s : State) : Host.Outcome State Fault Refusal := alu1 (· >>> k.val) d a s
def execSari (d a : SReg) (k : Fin 64) (s : State) : Host.Outcome State Fault Refusal := alu1 (fun x => x.sshiftRight k.val) d a s

/-- LI (R199). -/
def execLi (d : SReg) (i : BitVec 19) (s : State) : Host.Outcome State Fault Refusal := scalarOp 1 1 d (sext64 i) s
/-- LIH: sD read at issue (R199). -/
def execLih (d : SReg) (i : BitVec 19) (s : State) : Host.Outcome State Fault Refusal :=
  scalarOp 1 1 d (((here s).readS d <<< 19) ||| zext64 i) s
/-- SEL (R200). -/
def execSel (d c a b : SReg) (s : State) : Host.Outcome State Fault Refusal :=
  scalarOp 1 1 d (if (here s).readS c ≠ 0 then (here s).readS a else (here s).readS b) s

/-- Ones in the low n bits. -/
def lowOnes (n : Nat) : W64 := BitVec.ofNat 64 (2 ^ n - 1)

/-- EXTS (R201). -/
def execExts (d a : SReg) (pos len1 : Fin 64) (s : State) : Host.Outcome State Fault Refusal :=
  alu1 (fun x => (x <<< (63 - len1.val - pos.val)).sshiftRight (63 - len1.val)) d a s
/-- EXTZ (R201). -/
def execExtz (d a : SReg) (pos len1 : Fin 64) (s : State) : Host.Outcome State Fault Refusal :=
  alu1 (fun x => (x >>> pos.val) &&& lowOnes (len1.val + 1)) d a s
/-- INS: sD read at issue (R201). -/
def execIns (d a : SReg) (pos len1 : Fin 64) (s : State) : Host.Outcome State Fault Refusal :=
  let m := lowOnes (len1.val + 1) <<< pos.val
  scalarOp 1 1 d (((here s).readS d &&& ~~~m) ||| (((here s).readS a <<< pos.val) &&& m)) s

/-! Multiplies (R202). -/
def execMul (d a b : SReg) (s : State) : Host.Outcome State Fault Refusal :=
  scalarOp 3 1 d ((here s).readS a * (here s).readS b) s
def execMulh (d a b : SReg) (s : State) : Host.Outcome State Fault Refusal :=
  scalarOp 3 1 d (BitVec.ofInt 64 (((here s).readS a).toInt * ((here s).readS b).toInt / 2 ^ 64)) s
def execMulhn (d a b : SReg) (s : State) : Host.Outcome State Fault Refusal :=
  scalarOp 3 1 d (BitVec.ofNat 64 (((here s).readS a).toNat * ((here s).readS b).toNat / 2 ^ 64)) s
def execMadd (d a b : SReg) (s : State) : Host.Outcome State Fault Refusal :=
  scalarOp 3 1 d ((here s).readS d + (here s).readS a * (here s).readS b) s

/-! Divisions (R203): division by zero and signed overflow give the values of the rule's table. -/
def divSigned (a b : W64) : W64 := if b = 0 then BitVec.allOnes 64 else BitVec.ofInt 64 (a.toInt.tdiv b.toInt)
def remSigned (a b : W64) : W64 := if b = 0 then a else BitVec.ofInt 64 (a.toInt.tmod b.toInt)
def divUnsigned (a b : W64) : W64 := if b = 0 then BitVec.allOnes 64 else BitVec.ofNat 64 (a.toNat / b.toNat)
def remUnsigned (a b : W64) : W64 := if b = 0 then a else BitVec.ofNat 64 (a.toNat % b.toNat)
def divCeil (a b : W64) : W64 :=
  if b = 0 then BitVec.allOnes 64 else BitVec.ofNat 64 ((a.toNat + b.toNat - 1) / b.toNat)
def execDiv (d a b : SReg) (s : State) : Host.Outcome State Fault Refusal :=
  scalarOp 20 20 d (divSigned ((here s).readS a) ((here s).readS b)) s
def execDivn (d a b : SReg) (s : State) : Host.Outcome State Fault Refusal :=
  scalarOp 20 20 d (divUnsigned ((here s).readS a) ((here s).readS b)) s
def execRem (d a b : SReg) (s : State) : Host.Outcome State Fault Refusal :=
  scalarOp 20 20 d (remSigned ((here s).readS a) ((here s).readS b)) s
def execRemn (d a b : SReg) (s : State) : Host.Outcome State Fault Refusal :=
  scalarOp 20 20 d (remUnsigned ((here s).readS a) ((here s).readS b)) s
def execDivc (d a b : SReg) (s : State) : Host.Outcome State Fault Refusal :=
  scalarOp 20 20 d (divCeil ((here s).readS a) ((here s).readS b)) s

end Sys2Proof.Machine
end

