-- ==== Sys2Proof/Machine/Dispatch.lean ====
section
/-! DEFINITION. One arm for each instruction and event: its meaning. -/

namespace Sys2Proof.Machine

def exec (i : Instr) (s : State) : Host.Outcome State Fault Refusal :=
  match i with
  | .b x => Sys2Proof.Machine.execB x s
  | .bz a x => Sys2Proof.Machine.execBz a x s
  | .bnz a x => Sys2Proof.Machine.execBnz a x s
  | .beq a b x => Sys2Proof.Machine.execBeq a b x s
  | .bne a b x => Sys2Proof.Machine.execBne a b x s
  | .blt a b x => Sys2Proof.Machine.execBlt a b x s
  | .bge a b x => Sys2Proof.Machine.execBge a b x s
  | .bltn a b x => Sys2Proof.Machine.execBltn a b x s
  | .bgen a b x => Sys2Proof.Machine.execBgen a b x s
  | .bany a x => Sys2Proof.Machine.execBany a x s
  | .bnone a x => Sys2Proof.Machine.execBnone a x s
  | .bmz x => Sys2Proof.Machine.execBmz x s
  | .call x => Sys2Proof.Machine.execCall x s
  | .calli d a => Sys2Proof.Machine.execCalli d a s
  | .jmpi a => Sys2Proof.Machine.execJmpi a s
  | .loop a n x => Sys2Proof.Machine.execLoop a n x s
  | .loopp a n x stages => Sys2Proof.Machine.execLoopp a n x stages s
  | .sloop q p x => Sys2Proof.Machine.execSloop q p x s
  | .bsel a b => Sys2Proof.Machine.execBsel a b s
  | .mpush a => Sys2Proof.Machine.execMpush a s
  | .minv => Sys2Proof.Machine.execMinv s
  | .mpop => Sys2Proof.Machine.execMpop s
  | .idle n => Sys2Proof.Machine.execIdle n s
  | .endTask => Sys2Proof.Machine.execEndTask s
  | .yield => Sys2Proof.Machine.execYield s
  | .waite => Sys2Proof.Machine.execWaite s
  | .waitq q => Sys2Proof.Machine.execWaitq q s
  | .waitm d a b cc w32 timeout => Sys2Proof.Machine.execWaitm d a b cc w32 timeout s
  | .csync => Sys2Proof.Machine.execCsync s
  | .barinit a b => Sys2Proof.Machine.execBarinit a b s
  | .bararr a => Sys2Proof.Machine.execBararr a s
  | .barwait a b => Sys2Proof.Machine.execBarwait a b s
  | .fence sc => Sys2Proof.Machine.execFence sc s
  | .pbar => Sys2Proof.Machine.execPbar s
  | .pcommit a b => Sys2Proof.Machine.execPcommit a b s
  | .getc d im => Sys2Proof.Machine.execGetc d im s
  | .setc a im => Sys2Proof.Machine.execSetc a im s
  | .trap imm => Sys2Proof.Machine.execTrap imm s
  | .rte => Sys2Proof.Machine.execRte s
  | .ipf a b l => Sys2Proof.Machine.execIpf a b l s
  | .ipin a b l2 => Sys2Proof.Machine.execIpin a b l2 s
  | .iunpin a b l2 => Sys2Proof.Machine.execIunpin a b l2 s
  | .setallow a b n => Sys2Proof.Machine.execSetallow a b n s
  | .setallowMode a b n => Sys2Proof.Machine.execSetallowMode a b n s
  | .ctxsave d a b => Sys2Proof.Machine.execCtxsave d a b s
  | .ctxload d a b => Sys2Proof.Machine.execCtxload d a b s
  | .gfreeze d a => Sys2Proof.Machine.execGfreeze d a s
  | .gthaw a b => Sys2Proof.Machine.execGthaw a b s
  | .tlbinv a b k => Sys2Proof.Machine.execTlbinv a b k s
  | .segload d a b => Sys2Proof.Machine.execSegload d a b s
  | .msgsend a b => Sys2Proof.Machine.execMsgsend a b s
  | .halt => Sys2Proof.Machine.execHalt s
  | .add d a b => Sys2Proof.Machine.execAdd d a b s
  | .sub d a b => Sys2Proof.Machine.execSub d a b s
  | .addi d a im => Sys2Proof.Machine.execAddi d a im s
  | .mul d a b => Sys2Proof.Machine.execMul d a b s
  | .mulh d a b => Sys2Proof.Machine.execMulh d a b s
  | .mulhn d a b => Sys2Proof.Machine.execMulhn d a b s
  | .madd d a b => Sys2Proof.Machine.execMadd d a b s
  | .div d a b => Sys2Proof.Machine.execDiv d a b s
  | .divn d a b => Sys2Proof.Machine.execDivn d a b s
  | .rem d a b => Sys2Proof.Machine.execRem d a b s
  | .remn d a b => Sys2Proof.Machine.execRemn d a b s
  | .and d a b => Sys2Proof.Machine.execAnd d a b s
  | .or d a b => Sys2Proof.Machine.execOr d a b s
  | .xor d a b => Sys2Proof.Machine.execXor d a b s
  | .andi d a im => Sys2Proof.Machine.execAndi d a im s
  | .ori d a im => Sys2Proof.Machine.execOri d a im s
  | .xori d a im => Sys2Proof.Machine.execXori d a im s
  | .shl d a b => Sys2Proof.Machine.execShl d a b s
  | .shr d a b => Sys2Proof.Machine.execShr d a b s
  | .sar d a b => Sys2Proof.Machine.execSar d a b s
  | .shli d a k => Sys2Proof.Machine.execShli d a k s
  | .shri d a k => Sys2Proof.Machine.execShri d a k s
  | .sari d a k => Sys2Proof.Machine.execSari d a k s
  | .slt d a b => Sys2Proof.Machine.execSlt d a b s
  | .sltn d a b => Sys2Proof.Machine.execSltn d a b s
  | .seq d a b => Sys2Proof.Machine.execSeq d a b s
  | .slti d a im => Sys2Proof.Machine.execSlti d a im s
  | .sel d c a b => Sys2Proof.Machine.execSel d c a b s
  | .min d a b => Sys2Proof.Machine.execMin d a b s
  | .max d a b => Sys2Proof.Machine.execMax d a b s
  | .minn d a b => Sys2Proof.Machine.execMinn d a b s
  | .maxn d a b => Sys2Proof.Machine.execMaxn d a b s
  | .li d im => Sys2Proof.Machine.execLi d im s
  | .lih d im => Sys2Proof.Machine.execLih d im s
  | .clz d a => Sys2Proof.Machine.execClz d a s
  | .popc d a => Sys2Proof.Machine.execPopc d a s
  | .exts d a pos len1 => Sys2Proof.Machine.execExts d a pos len1 s
  | .extz d a pos len1 => Sys2Proof.Machine.execExtz d a pos len1 s
  | .ins d a pos len1 => Sys2Proof.Machine.execIns d a pos len1 s
  | .ceilm d a b => Sys2Proof.Machine.execCeilm d a b s
  | .divc d a b => Sys2Proof.Machine.execDivc d a b s
  | .ld d a b sx sz => Sys2Proof.Machine.execLd d a b sx sz s
  | .st d a b sz => Sys2Proof.Machine.execSt d a b sz s
  | .ldg d a b sx sz => Sys2Proof.Machine.execLdg d a b sx sz s
  | .stg d a b sz => Sys2Proof.Machine.execStg d a b sz s
  | .amoaddDm d a b sx sz => Sys2Proof.Machine.execAmoaddDm d a b sx sz s
  | .amoaddGlobal d a b sc sx sz => Sys2Proof.Machine.execAmoaddGlobal d a b sc sx sz s
  | .amominDm d a b sx sz => Sys2Proof.Machine.execAmominDm d a b sx sz s
  | .amominGlobal d a b sc sx sz => Sys2Proof.Machine.execAmominGlobal d a b sc sx sz s
  | .amomaxDm d a b sx sz => Sys2Proof.Machine.execAmomaxDm d a b sx sz s
  | .amomaxGlobal d a b sc sx sz => Sys2Proof.Machine.execAmomaxGlobal d a b sc sx sz s
  | .amominnDm d a b sx sz => Sys2Proof.Machine.execAmominnDm d a b sx sz s
  | .amominnGlobal d a b sc sx sz => Sys2Proof.Machine.execAmominnGlobal d a b sc sx sz s
  | .amomaxnDm d a b sx sz => Sys2Proof.Machine.execAmomaxnDm d a b sx sz s
  | .amomaxnGlobal d a b sc sx sz => Sys2Proof.Machine.execAmomaxnGlobal d a b sc sx sz s
  | .amoandDm d a b sx sz => Sys2Proof.Machine.execAmoandDm d a b sx sz s
  | .amoandGlobal d a b sc sx sz => Sys2Proof.Machine.execAmoandGlobal d a b sc sx sz s
  | .amoorDm d a b sx sz => Sys2Proof.Machine.execAmoorDm d a b sx sz s
  | .amoorGlobal d a b sc sx sz => Sys2Proof.Machine.execAmoorGlobal d a b sc sx sz s
  | .amoxorDm d a b sx sz => Sys2Proof.Machine.execAmoxorDm d a b sx sz s
  | .amoxorGlobal d a b sc sx sz => Sys2Proof.Machine.execAmoxorGlobal d a b sc sx sz s
  | .amoswapDm d a b sx sz => Sys2Proof.Machine.execAmoswapDm d a b sx sz s
  | .amoswapGlobal d a b sc sx sz => Sys2Proof.Machine.execAmoswapGlobal d a b sc sx sz s
  | .amocasDm d a b sx sz => Sys2Proof.Machine.execAmocasDm d a b sx sz s
  | .amocasGlobal d a b sc sx sz => Sys2Proof.Machine.execAmocasGlobal d a b sc sx sz s
  | .gset d a b => Sys2Proof.Machine.execGset d a b s
  | .gsetf d a f => Sys2Proof.Machine.execGsetf d a f s
  | .gget d a f => Sys2Proof.Machine.execGget d a f s
  | .gadv d a => Sys2Proof.Machine.execGadv d a s
  | .grst d => Sys2Proof.Machine.execGrst d s
  | .gmask d a b => Sys2Proof.Machine.execGmask d a b s
  | .gcopy d a => Sys2Proof.Machine.execGcopy d a s
  | .vadd d a b p t => Sys2Proof.Machine.execVadd d a b p t s
  | .vsub d a b p t => Sys2Proof.Machine.execVsub d a b p t s
  | .vmul d a b p t => Sys2Proof.Machine.execVmul d a b p t s
  | .vfma d a b p t => Sys2Proof.Machine.execVfma d a b p t s
  | .vfms d a b p t => Sys2Proof.Machine.execVfms d a b p t s
  | .vfnma d a b p t => Sys2Proof.Machine.execVfnma d a b p t s
  | .vmin d a b p t => Sys2Proof.Machine.execVmin d a b p t s
  | .vmax d a b p t => Sys2Proof.Machine.execVmax d a b p t s
  | .vabs d a p t => Sys2Proof.Machine.execVabs d a p t s
  | .vneg d a p t => Sys2Proof.Machine.execVneg d a p t s
  | .vand d a b p t => Sys2Proof.Machine.execVand d a b p t s
  | .vor d a b p t => Sys2Proof.Machine.execVor d a b p t s
  | .vxor d a b p t => Sys2Proof.Machine.execVxor d a b p t s
  | .vnot d a p t => Sys2Proof.Machine.execVnot d a p t s
  | .vshl d a b p t => Sys2Proof.Machine.execVshl d a b p t s
  | .vshr d a b p t => Sys2Proof.Machine.execVshr d a b p t s
  | .vsar d a b p t => Sys2Proof.Machine.execVsar d a b p t s
  | .vmulh d a b p t => Sys2Proof.Machine.execVmulh d a b p t s
  | .vclamp d a b c p t => Sys2Proof.Machine.execVclamp d a b c p t s
  | .vscale d a b p t => Sys2Proof.Machine.execVscale d a b p t s
  | .vcmpeq d a b p t => Sys2Proof.Machine.execVcmpeq d a b p t s
  | .vcmpne d a b p t => Sys2Proof.Machine.execVcmpne d a b p t s
  | .vcmplt d a b p t => Sys2Proof.Machine.execVcmplt d a b p t s
  | .vcmple d a b p t => Sys2Proof.Machine.execVcmple d a b p t s
  | .vclass d a mask p t => Sys2Proof.Machine.execVclass d a mask p t s
  | .vsel d a b p t => Sys2Proof.Machine.execVsel d a b p t s
  | .vmov d a p t => Sys2Proof.Machine.execVmov d a p t s
  | .vbcast d a b p t => Sys2Proof.Machine.execVbcast d a b p t s
  | .vins d a b p t => Sys2Proof.Machine.execVins d a b p t s
  | .vext d a b p t => Sys2Proof.Machine.execVext d a b p t s
  | .viota d a b p t => Sys2Proof.Machine.execViota d a b p t s
  | .vcvt d a p t x => Sys2Proof.Machine.execVcvt d a p t x s
  | .vrcp d a p t => Sys2Proof.Machine.execVrcp d a p t s
  | .vrsq d a p t => Sys2Proof.Machine.execVrsq d a p t s
  | .vsqrt d a p t => Sys2Proof.Machine.execVsqrt d a p t s
  | .vexp2 d a p t => Sys2Proof.Machine.execVexp2 d a p t s
  | .vlog2 d a p t => Sys2Proof.Machine.execVlog2 d a p t s
  | .vtanh d a p t => Sys2Proof.Machine.execVtanh d a p t s
  | .vsin d a p t => Sys2Proof.Machine.execVsin d a p t s
  | .vred d a op p t => Sys2Proof.Machine.execVred d a op p t s
  | .vscan d a op exc p t => Sys2Proof.Machine.execVscan d a op exc p t s
  | .vperm d a b p t => Sys2Proof.Machine.execVperm d a b p t s
  | .vrot d a b p t => Sys2Proof.Machine.execVrot d a b p t s
  | .vzip d a b p t => Sys2Proof.Machine.execVzip d a b p t s
  | .vunzip d a b p t => Sys2Proof.Machine.execVunzip d a b p t s
  | .vtopk d a k isMin p t => Sys2Proof.Machine.execVtopk d a k isMin p t s
  | .vhacc a b p t x => Sys2Proof.Machine.execVhacc a b p t x s
  | .vnest x => Sys2Proof.Machine.execVnest x s
  | .vunpk d a p t x => Sys2Proof.Machine.execVunpk d a p t x s
  | .vunpks d a b p t x => Sys2Proof.Machine.execVunpks d a b p t x s
  | .vunpkz d a b p t x => Sys2Proof.Machine.execVunpkz d a b p t x s
  | .vpack d a p t x => Sys2Proof.Machine.execVpack d a p t x s
  | .vpacksc d a p t x => Sys2Proof.Machine.execVpacksc d a p t x s
  | .vpackz d a p t x => Sys2Proof.Machine.execVpackz d a p t x s
  | .pand d a b => Sys2Proof.Machine.execPand d a b s
  | .por d a b => Sys2Proof.Machine.execPor d a b s
  | .pxor d a b => Sys2Proof.Machine.execPxor d a b s
  | .pnot d a => Sys2Proof.Machine.execPnot d a s
  | .psetHalf d a h => Sys2Proof.Machine.execPsetHalf d a h s
  | .psetL16 d a => Sys2Proof.Machine.execPsetL16 d a s
  | .psetL32 d a => Sys2Proof.Machine.execPsetL32 d a s
  | .pget d a h => Sys2Proof.Machine.execPget d a h s
  | .pcnt d a w32 => Sys2Proof.Machine.execPcnt d a w32 s
  | .vld d p t x => Sys2Proof.Machine.execVld d p t x s
  | .vst d p t x => Sys2Proof.Machine.execVst d p t x s
  | .vlds d st p t x => Sys2Proof.Machine.execVlds d st p t x s
  | .vsts d st p t x => Sys2Proof.Machine.execVsts d st p t x s
  | .vldx d a p t x => Sys2Proof.Machine.execVldx d a p t x s
  | .vstx d a p t x => Sys2Proof.Machine.execVstx d a p t x s
  | .vldb d p t x => Sys2Proof.Machine.execVldb d p t x s
  | .mma t ga gb at_ nk => Sys2Proof.Machine.execMma t ga gb at_ nk s
  | .mmaz t ga gb at_ nk => Sys2Proof.Machine.execMmaz t ga gb at_ nk s
  | .mmag d ga gb g => Sys2Proof.Machine.execMmag d ga gb g s
  | .mmas q ga gb => Sys2Proof.Machine.execMmas q ga gb s
  | .tdrain t rm b fmt ov at_ rows => Sys2Proof.Machine.execTdrain t rm b fmt ov at_ rows s
  | .tload t b fmt at_ rows => Sys2Proof.Machine.execTload t b fmt at_ rows s
  | .tclr t => Sys2Proof.Machine.execTclr t s
  | .tmask t a b => Sys2Proof.Machine.execTmask t a b s
  | .precset x => Sys2Proof.Machine.execPrecset x s
  | .tstat d t c => Sys2Proof.Machine.execTstat d t c s
  | .copy d a b e buf out map at_ n => Sys2Proof.Machine.execCopy d a b e buf out map at_ n s
  | .copym d a b e buf map at_ n => Sys2Proof.Machine.execCopym d a b e buf map at_ n s
  | .gather d a b lsz buf iw n => Sys2Proof.Machine.execGather d a b lsz buf iw n s
  | .scatter d a b lsz buf iw n => Sys2Proof.Machine.execScatter d a b lsz buf iw n s
  | .xsend a b buf at_ n => Sys2Proof.Machine.execXsend a b buf at_ n s
  | .xrecv a b buf at_ n => Sys2Proof.Machine.execXrecv a b buf at_ n s
  | .fput a b buf n => Sys2Proof.Machine.execFput a b buf n s
  | .fget a b buf n => Sys2Proof.Machine.execFget a b buf n s
  | .fatom d a b op sz64 sx sys => Sys2Proof.Machine.execFatom d a b op sz64 sx sys s
  | .dput a b buf n => Sys2Proof.Machine.execDput a b buf n s
  | .dget a b n => Sys2Proof.Machine.execDget a b n s
  | .wstart a b q => Sys2Proof.Machine.execWstart a b q s
  | .wstop => Sys2Proof.Machine.execWstop s
  | .qsend a b q eos => Sys2Proof.Machine.execQsend a b q eos s
  | .qrecv d q => Sys2Proof.Machine.execQrecv d q s
  | .launch a => Sys2Proof.Machine.execLaunch a s
  | .signal a b msi vec => Sys2Proof.Machine.execSignal a b msi vec s
  | .fill a b e buf at_ n => Sys2Proof.Machine.execFill a b e buf at_ n s
  | .wld d a im => Sys2Proof.Machine.execWld d a im s
  | .wldp d a im => Sys2Proof.Machine.execWldp d a im s
  | .wadd d a b => Sys2Proof.Machine.execWadd d a b s
  | .waddi d a im => Sys2Proof.Machine.execWaddi d a im s
  | .wsub d a b => Sys2Proof.Machine.execWsub d a b s
  | .wshli d a k => Sys2Proof.Machine.execWshli d a k s
  | .wshri d a k => Sys2Proof.Machine.execWshri d a k s
  | .wand d a b => Sys2Proof.Machine.execWand d a b s
  | .wli d im => Sys2Proof.Machine.execWli d im s
  | .wbeq a b im => Sys2Proof.Machine.execWbeq a b im s
  | .wbne a b im => Sys2Proof.Machine.execWbne a b im s
  | .wblt a b im => Sys2Proof.Machine.execWblt a b im s
  | .wj im => Sys2Proof.Machine.execWj im s
  | .wloop d im => Sys2Proof.Machine.execWloop d im s
  | .wemit a b => Sys2Proof.Machine.execWemit a b s
  | .wemitz t => Sys2Proof.Machine.execWemitz t s
  | .wtile a b fmt first t => Sys2Proof.Machine.execWtile a b fmt first t s
  | .wgetc d n => Sys2Proof.Machine.execWgetc d n s
  | .wsetc a n => Sys2Proof.Machine.execWsetc a n s
  | .wgath d a b => Sys2Proof.Machine.execWgath d a b s
  | .wflush => Sys2Proof.Machine.execWflush s
  | .weos => Sys2Proof.Machine.execWeos s
  | .whalt => Sys2Proof.Machine.execWhalt s
  | .timedResultPerform c k => Sys2Proof.Machine.execTimedResultPerform c k s
  | .untimedOperationPerform c k => Sys2Proof.Machine.execUntimedOperationPerform c k s
  | .waitCompletion c => Sys2Proof.Machine.execWaitCompletion c s
  | .taskEndComplete c => Sys2Proof.Machine.execTaskEndComplete c s
  | .handOver core => Sys2Proof.Machine.execHandOver core s
  | .lowPriorityPromotion c => Sys2Proof.Machine.execLowPriorityPromotion c s
  | .runOverrun c => Sys2Proof.Machine.execRunOverrun c s
  | .csyncRelease c => Sys2Proof.Machine.execCsyncRelease c s
  | .barrierArrivalCount c k => Sys2Proof.Machine.execBarrierArrivalCount c k s
  | .waitmPoll c => Sys2Proof.Machine.execWaitmPoll c s
  | .waitmTimeout c => Sys2Proof.Machine.execWaitmTimeout c s
  | .allowanceApply k => Sys2Proof.Machine.execAllowanceApply k s
  | .trapEntry c => Sys2Proof.Machine.execTrapEntry c s
  | .rteResume c => Sys2Proof.Machine.execRteResume c s
  | .timerInterrupt c => Sys2Proof.Machine.execTimerInterrupt c s
  | .freezeBoundary c => Sys2Proof.Machine.execFreezeBoundary c s
  | .thaw c => Sys2Proof.Machine.execThaw c s
  | .codeFetchMiss c => Sys2Proof.Machine.execCodeFetchMiss c s
  | .codeFetchArrival c => Sys2Proof.Machine.execCodeFetchArrival c s
  | .timedPageFault c k => Sys2Proof.Machine.execTimedPageFault c k s
  | .translationResolved c k => Sys2Proof.Machine.execTranslationResolved c k s
  | .sideLogRetry core => Sys2Proof.Machine.execSideLogRetryEvent core s
  | .copyLineLand c k => Sys2Proof.Machine.execCopyLineLand c k s
  | .copymFollowOnStart c k => Sys2Proof.Machine.execCopymFollowOnStart c k s
  | .mmaKgroupUpdate c k => Sys2Proof.Machine.execMmaKgroupUpdate c k s
  | .xsendLineArrival c k => Sys2Proof.Machine.execXsendLineArrival c k s
  | .vnestStep c k => Sys2Proof.Machine.execVnestStep c k s
  | .madderGatherReturn c k => Sys2Proof.Machine.execMadderGatherReturn c k s
  | .mmagStart c k => Sys2Proof.Machine.execMmagStart c k s
  | .mmasTokenTake c k => Sys2Proof.Machine.execMmasTokenTake c k s
  | .queueEntryEnter clus q => Sys2Proof.Machine.execQueueEntryEnter clus q s
  | .walkStart clus => Sys2Proof.Machine.execWalkStart clus s
  | .walkResume clus => Sys2Proof.Machine.execWalkResume clus s
  | .wtileOpen clus => Sys2Proof.Machine.execWtileOpen clus s
  | .walkerTokenEnqueue clus => Sys2Proof.Machine.execWalkerTokenEnqueue clus s
  | .launchPortWrite fn off bytes => Sys2Proof.Machine.execLaunchPortWrite fn off bytes s
  | .nodeAdmission fn => Sys2Proof.Machine.execNodeAdmission fn s
  | .nodeReady fn n => Sys2Proof.Machine.execNodeReady fn n s
  | .gangPlacement fn n place => Sys2Proof.Machine.execGangPlacement fn n place s
  | .regionMigrationComplete region stack => Sys2Proof.Machine.execRegionMigrationComplete region stack s
  | .preemptionTimeout fn n => Sys2Proof.Machine.execPreemptionTimeout fn n s
  | .nodeCommit fn n => Sys2Proof.Machine.execNodeCommit fn n s
  | .nodeRollback fn n own => Sys2Proof.Machine.execNodeRollback fn n own s
  | .redundantCompare fn n task => Sys2Proof.Machine.execRedundantCompare fn n task s
  | .qctlTd fn => Sys2Proof.Machine.execQctlTd fn s
  | .qctlRst fn => Sys2Proof.Machine.execQctlRst fn s
  | .registerWrite fn off v => Sys2Proof.Machine.execRegisterWrite fn off v s
  | .hostWindowWrite fn off bytes => Sys2Proof.Machine.execHostWindowWrite fn off bytes s
  | .hostWindowRead fn off len => Sys2Proof.Machine.execHostWindowRead fn off len s
  | .regionCreate fn => Sys2Proof.Machine.execRegionCreate fn s
  | .regionFree fn => Sys2Proof.Machine.execRegionFree fn s
  | .regionDma fn => Sys2Proof.Machine.execRegionDma fn s
  | .kernelLoad fn => Sys2Proof.Machine.execKernelLoad fn s
  | .faultRead fn => Sys2Proof.Machine.execFaultRead fn s
  | .ctxControl fn => Sys2Proof.Machine.execCtxControl fn s
  | .attest fn => Sys2Proof.Machine.execAttest fn s
  | .healthRead fn => Sys2Proof.Machine.execHealthRead fn s
  | .journalRead fn => Sys2Proof.Machine.execJournalRead fn s
  | .tenantCreate fn => Sys2Proof.Machine.execTenantCreate fn s
  | .tenantDestroy fn => Sys2Proof.Machine.execTenantDestroy fn s
  | .setAllowCmd fn => Sys2Proof.Machine.execSetAllowCmd fn s
  | .sealSet fn => Sys2Proof.Machine.execSealSet fn s
  | .healthLogRead fn => Sys2Proof.Machine.execHealthLogRead fn s
  | .powerSet fn => Sys2Proof.Machine.execPowerSet fn s
  | .telemetry fn => Sys2Proof.Machine.execTelemetry fn s
  | .imageWrite fn => Sys2Proof.Machine.execImageWrite fn s
  | .functionLevelReset fn => Sys2Proof.Machine.execFunctionLevelReset fn s
  | .fbpop die => Sys2Proof.Machine.execFbpop die s
  | .pgreqEvict c v => Sys2Proof.Machine.execPgreqEvict c v s
  | .pgreqMigrate c v => Sys2Proof.Machine.execPgreqMigrate c v s
  | .dataFlit port f => Sys2Proof.Machine.execDataFlit port f s
  | .ackFlit port ack => Sys2Proof.Machine.execAckFlit port ack s
  | .nak port good => Sys2Proof.Machine.execNak port good s
  | .widthMarkerFlit port width => Sys2Proof.Machine.execWidthMarkerFlit port width s
  | .laneFault port lane => Sys2Proof.Machine.execLaneFault port lane s
  | .laneRetest port passed => Sys2Proof.Machine.execLaneRetest port passed s
  | .retrainComplete port peer => Sys2Proof.Machine.execRetrainComplete port peer s
  | .noPathTimeout dest => Sys2Proof.Machine.execNoPathTimeout dest s
  | .droopTrip clus => Sys2Proof.Machine.execDroopTrip clus s
  | .droopRelease => Sys2Proof.Machine.execDroopRelease s
  | .brownOut mv => Sys2Proof.Machine.execBrownOut mv s
  | .brownOutRecovery => Sys2Proof.Machine.execBrownOutRecovery s
  | .powerLoss => Sys2Proof.Machine.execPowerLoss s
  | .boot => Sys2Proof.Machine.execBoot s
  | .clusterRetentionExit clus parityOk => Sys2Proof.Machine.execClusterRetentionExit clus parityOk s
  | .scrubUncorrectable line => Sys2Proof.Machine.execScrubUncorrectable line s
  | .clusterRetire clus cause => Sys2Proof.Machine.execClusterRetire clus cause s
  | .wearCrossing clus percent => Sys2Proof.Machine.execWearCrossing clus percent s
  | .healthStateChange => Sys2Proof.Machine.execHealthStateChange s

end Sys2Proof.Machine
end

