-- ==== Sys2Proof/Machine/Issue.lean ====
section
/-! DEFINITION. How a context issues a bundle: register results of the cycle, fetch, the checks of R161 in their order, the
operations in MASK order, and where control goes next (R29, R36–R43, R89, R91, R100, R122–R131, R144–R146, R161, R167). -/

namespace Sys2Proof.Machine

/-! ### Running the operations (R161 step 7) -/

/-- Run operations in MASK order until one faults; `s.issueFault` then holds its cause and TVAL. -/
def runOps : List BundleOp → State → Host.Outcome State Fault Refusal
  | [], s => .next s
  | o :: r, s =>
    match exec o.instr { s with slot := o.slot } with
    | .next t => if t.issueFault.isSome then .next t else runOps r t
    | x => x

/-- Control goes to the target of a redirect; loop entries that exclude it pop (R167, log 35). -/
def goTo (c : Ctx) (r : Redirect) : Ctx :=
  { c with
    redirect := none
    pc := r.target
    loops := if r.pops && c.mode == .user then popLoops r.target c.loops else c.loops }

/-- Take over the requests of the bundle's operations and find the next bundle (R40–R43, R167, R168): a loop that goes
round, then a skipped loop, a redirect whose delay bundles have issued, or the bundle that follows. -/
def advancePc (c : Ctx) (count : Nat) (round : Option W64) : Ctx :=
  let follow := c.pc + BitVec.ofNat 64 (4 * (count + 1))
  let here_ := (round.or c.skip).getD follow
  let c := { c with
    skip := none
    mask := c.maskNext.getD c.mask
    maskNext := none
    idle := if c.idle = 0 then 0 else c.idle + 1 }
  match c.branch, c.redirect with
  | some b, _ => { c with branch := none, redirect := some b, pc := here_ }
  | none, some r => if r.left ≤ 1 then goTo c r else { c with redirect := some { r with left := r.left - 1 }, pc := here_ }
  | none, none => { c with pc := here_ }

/-- A wait of the program takes its context out of its sync group; END, which is no wait, leaves it as it completes (R33). -/
def leaveGroup (s : State) (k : Nat) : State :=
  let c := ctxOf s k
  if c.wait.any (fun w => w.kind != .endTask) && c.mode == .user && c.group != [] then
    modCtx (c.group.foldl (fun s j => modCtx s j (fun x => { x with group := x.group.filter (· != k) })) s) k
      (fun x => { x with group := [] })
  else s

/-- The architected weight of the vector unit's operations of a bundle: the slots V0, V1, VX, VP and VM (R7, R137). -/
def vectorWeight (ops : List BundleOp) : Nat :=
  ((ops.filter (fun o => [Slot.v0, .v1, .vx, .vp, .vm].contains o.slot)).map (fun o => opWeight o.instr)).sum

/-- Finish the issue of a bundle of declared weight `w`, `vw` of it the vector unit's, and `count` syllables. -/
def commitBundle (t : State) (w vw count : Nat) : State :=
  let e := if (here t).mode = .user then endTest t else (t, none)
  let t := modCore e.1 (coreIx t.cur) (fun c => { c with weight := w, vweight := vw })
  leaveGroup (modHere t (fun c => advancePc c count e.2)) t.cur

/-- What the attempt to issue a bundle comes to. -/
inductive Attempt where
  | issued (s : State)
  | trapped (s : State) (cause : Nat) (tval : Option W64)
  | delayed
  | stopped (x : Host.Outcome State Fault Refusal)

/-- Does the end bundle of a stacked loop stand in a delay slot? (R41) -/
def endsInDelay (c : Ctx) : Bool := c.mode == .user && inDelay c && c.loops.any (fun e => e.stop == c.pc)

/-- Step 7 of R161. -/
def runBundle (s : State) (b : Bundle) (ops : List BundleOp) (drawn : Nat) : Attempt :=
  if endsInDelay (here s) then .trapped s 0x04 none
  else match runOps ops (modHereCore s (fun c => { c with weight := b.weight + drawn })) with
    | .next t => match t.issueFault with
      | some (c, v) => .trapped { s with fresh := t.fresh } c (some v)
      | none => .issued (commitBundle t b.weight (vectorWeight ops) b.count)
    | x => .stopped x

/-- WINLOG of a refused bundle; with a full table the new draws are not in it (R128). -/
def logRefusal (s : State) (b : Bundle) (new : List Interval) (v : W64) (dt : Nat) : State :=
  let c := hereCore s
  modHere s (fun x => { x with winlog := refusedLog c s.gcc b.weight dt (if v.getLsbD 17 then c.resv else c.resv ++ new) })

/-- Is a refusal that of R122, with neither FULL nor RES in its TVAL? (R128) -/
def isWindowRefusal (v : W64) : Bool := !v.getLsbD 17 && !v.getLsbD 16

/-- Step 6 of R161, then step 7: in supervisor mode a bundle that fails R122 waits for its turn, one whose reservations do not fit
traps (R122, R127, R128, R131). -/
def tryBundle (s : State) (b : Bundle) : Attempt :=
  let ops := activeOps (here s) b
  let new := ops.flatMap (fun o => drawsOf s o.instr)
  match windowCheck (hereCore s) s.gcc b.weight new with
  | .refused v dt =>
    if (here s).mode = .supervisor ∧ isWindowRefusal v then .delayed else .trapped (logRefusal s b new v dt) 0x02 (some v)
  | .fits => runBundle s b ops (drawsAt new s.gcc)

/-- Attempt the bundle at the pc of context `k`, whose register results of this cycle have performed. -/
def tryIssue (s : State) (k : Nat) : Attempt :=
  let s := { s with cur := k, issueFault := none }
  match checkBundle s k with
  | .error (c, v) => .trapped s c v
  | .ok b => tryBundle s b

/-- May context `k` issue in this cycle? (R21, R173, R185) -/
def canIssue (s : State) (k : Nat) : Bool :=
  let c := ctxOf s k
  hasWidth s k && occupied c k && c.freeze.isNone && c.halted.isNone && c.wait.isNone && c.idle == 0 &&
  decide (c.resume ≤ s.gcc)

/-- The trap of a refused bundle on state `t`. -/
def trapBundle (t : State) (cause : Nat) (tval : Option W64) : State :=
  { raiseAtIssue t cause tval with issueFault := none }

/-- The bundle of context `k` issues, traps or is delayed. -/
def issueBundle (k : Nat) (s : State) : Host.Outcome State Fault Refusal :=
  match tryIssue s k with
  | .issued t => .next t
  | .trapped t c v => .next (trapBundle t c v)
  | .delayed => .next s
  | .stopped x => x

/-! ### What the boundary before a cycle decides about the bundle of the cycle -/

/-- What a context's bundle will come to in this cycle: a trap, or a freeze before a held unit, both decided at the boundary
before the cycle, where the whole sync group stops (R35, R89, R185, R341). -/
inductive Verdict where
  | go
  | trap (s : State) (cause : Nat) (tval : W64)
  | hold

/-- The verdict on the bundle of context `k`, with the register results of this cycle taken into account (R100). The trap
leaves those results in flight (R185). -/
def verdict (s : State) (k : Nat) : Verdict :=
  if !canIssue s k then .go
  else
    let t := settled s k
    match tryIssue t k with
    | .issued _ => if meetsHeldUnit t k then .hold else .go
    | .trapped u c v =>
      .trap (trapBundle (modCtx { s with cur := k, issueFault := none, fresh := u.fresh } k
        (fun x => { x with winlog := (ctxOf u k).winlog })) c v) c (v.getD (Config.freeWord u.fresh))
    | _ => .go

end Sys2Proof.Machine
end

