-- ==== Sys2Proof/Machine/Cycle.lean ====
section
/-! DEFINITION. A cycle of the machine (log 4): in each phase the events that are due, one a step, and what the end of a
cycle counts (R21–R26, R29, R35, R73, R75, R100, R108, R122, R137). Where no event is due the next phase begins. -/

namespace Sys2Proof.Machine

/-! ### Finding what is due -/

/-- The first of some rules that finds an event due. -/
def firstDue : List (State → Option (Host.Outcome State Fault Refusal)) → State → Option (Host.Outcome State Fault Refusal)
  | [], _ => none
  | f :: r, s => match f s with
    | some x => some x
    | none => firstDue r s

/-- The first context that meets a condition. -/
def firstCtx (s : State) (p : Nat → Bool) : Option Nat := (s.ctxs.map (fun c => c.1)).find? p

/-- The event of a flight of its class. -/
def performEvent (k i : Nat) (s : State) : Host.Outcome State Fault Refusal :=
  match (ctxOf s k).flights[i]? with
  | none => .next s
  | some f => match classOf f.act with
    | .result => execTimedResultPerform k i s
    | .copyLine => execCopyLineLand k i s
    | .followOn => execCopymFollowOnStart k i s
    | .group => execMmaKgroupUpdate k i s
    | .arrival => execXsendLineArrival k i s
    | .nest => execVnestStep k i s

/-! ### The boundary before a cycle -/

def dueBoot (s : State) : Option (Host.Outcome State Fault Refusal) :=
  if !s.booted && s.bootStep == 0 then some (execBoot s) else none

/-- The detectors of a droop have been quiet for 1,024 cycles (R373). -/
def dueDroop (s : State) : Option (Host.Outcome State Fault Refusal) := if droopOver s then some (execDroopRelease s) else none

/-- A cluster in retention is needed again: it leaves it, and whether its parity holds is free (R353, log 138). -/
def dueRetention (s : State) : Option (Host.Outcome State Fault Refusal) :=
  (s.clusters.find? (fun c => c.2.retained && !mayRetain s c.1)).map (fun c =>
    execClusterRetentionExit c.1 (Config.passes s.fresh) (nextFresh s 1))

def dueAllowance (s : State) : Option (Host.Outcome State Fault Refusal) :=
  (s.posts.findIdx? (fun p => decide (p.posted + 16 ≤ s.gcc))).map (fun i => execAllowanceApply i s)

def dueFreeze (s : State) : Option (Host.Outcome State Fault Refusal) :=
  (firstCtx s (fun k => (ctxOf s k).preAt.any (fun p => decide (p ≤ s.gcc)))).map (fun k => execFreezeBoundary k s)

def dueResume (s : State) : Option (Host.Outcome State Fault Refusal) := (firstCtx s (canResume s)).map (fun k => execRteResume k s)

def dueThaw (s : State) : Option (Host.Outcome State Fault Refusal) :=
  (firstCtx s (fun k => (ctxOf s k).freeze.isSome && canThaw s k)).map (fun k => execThaw k s)

/-- The flight of a context that needs an unmapped page in this cycle. -/
def faultingFlight (s : State) (k : Nat) : Option (Nat × Nat) :=
  ((List.range (ctxOf s k).flights.length).find? (fun i =>
    (neededNow s k i).any (fun v => translate s k v == .unmapped))).map (fun i => (k, i))

def duePage (s : State) : Option (Host.Outcome State Fault Refusal) :=
  ((s.ctxs.map (fun c => c.1)).findSome? (faultingFlight s)).map (fun x => execTimedPageFault x.1 x.2 s)

def dueRelease (s : State) : Option (Host.Outcome State Fault Refusal) :=
  (firstCtx s (fun k => (csyncArrival s k).isSome && canRelease s k)).map (fun k => execCsyncRelease k s)

/-- Has the timeout of a WAITM come, one in which the context was trapped too? (R176) -/
def timesOut (s : State) (k : Nat) : Bool :=
  let late : Option Wait → Bool
    | some ⟨.waitm _ _ _ _ _ (some dl) none, _, _⟩ => decide (dl ≤ s.gcc)
    | _ => false
  late (ctxOf s k).wait || late (ctxOf s k).heldWait

def dueTimeout (s : State) : Option (Host.Outcome State Fault Refusal) := (firstCtx s (timesOut s)).map (fun k => execWaitmTimeout k s)

/-- The trap of the cause that the bundle of context `k` itself raises, with the lowest code at this boundary: the posted causes are
held for the resumption (R187). -/
def trapAtIssue (t : State) (k cause : Nat) (v : W64) : State :=
  modCtx t k (fun c => { c with causes := [], heldCauses := c.heldCauses ++ c.causes.erase (cause, v) })

/-- The lowest code of the causes posted for a context and its pending interrupts. -/
def postedCode (c : Ctx) : Nat := ((lowestCause (c.causes ++ (pendingIrq c).toList)).map (fun x => causeCode x.1.1)).getD 0x100

/-- A trap is due at the boundary: of a posted cause, or of the bundle's own if its code is lower; the one not taken is held
(R187, log 110). Where a deferred page fault is raised, the bundle at TPC does not issue, so that its own cause is not raised (R305). -/
def trapEvent (s : State) (k : Nat) : Host.Outcome State Fault Refusal :=
  if (ctxOf s k).causes.any (fun x => x.1 == 0x10B) then execTrapEntry k s
  else match verdict s k with
  | .trap t cause v =>
    let c := ctxOf s k
    if cause < postedCode c then .next (trapAtIssue t k cause v)
    else execTrapEntry k (if c.causes.contains (cause, v) then s
      else modCtx s k (fun c => { c with heldCauses := c.heldCauses ++ [(cause, v)] }))
  | _ => execTrapEntry k s

def dueTrap (s : State) : Option (Host.Outcome State Fault Refusal) := (firstCtx s (trapDue s)).map (fun k => trapEvent s k)

/-- A fault that a full buffer holds back freezes its context (R340). -/
def dueHeldFault (s : State) : Option (Host.Outcome State Fault Refusal) := (firstCtx s (mustHoldFault s)).map (fun k => freezeAtSource k s)

/-- Does the hand-over of a core end, or its incoming context drop out, in this cycle? -/
def handsOver (s : State) (core : Nat) : Bool :=
  match (coreOf s core).incoming with
  | none => false
  | some i =>
    let k := core * 4 + i.val
    !canReceive s k || ((coreOf s core).handCycles == 1 && paddingOver s core k)

def dueHandOver (s : State) : Option (Host.Outcome State Fault Refusal) :=
  ((s.cores.map (fun c => c.1)).find? (handsOver s)).map (fun n => execHandOver n s)

/-- A wait other than END that completes in this cycle. -/
def completesNow (s : State) (k : Nat) : Bool :=
  let c := ctxOf s k
  match c.wait with
  | none => false
  | some w => c.freeze.isNone && hasWidth s k && decide (w.at_ < s.gcc) && canComplete s k && (match w.kind with
    | .endTask => false
    | _ => true)

def dueWait (s : State) : Option (Host.Outcome State Fault Refusal) := (firstCtx s (completesNow s)).map (fun k => execWaitCompletion k s)

/-- An END that completes in this cycle. -/
def endsTask (s : State) (k : Nat) : Bool :=
  match (ctxOf s k).wait with
  | some ⟨.endTask, a, _⟩ => (ctxOf s k).task.isSome && endsNow s k a
  | _ => false

def dueEnd (s : State) : Option (Host.Outcome State Fault Refusal) := (firstCtx s (endsTask s)).map (fun k => execTaskEndComplete k s)

/-- The trap or freeze that the verdict on a bundle gives. -/
def verdictEvent (s : State) (k : Nat) : Option (Host.Outcome State Fault Refusal) :=
  match verdict s k with
  | .go => none
  | .trap t _ _ => some (.next t)
  | .hold => some (.next (freezeGroup s k .hu))

def dueVerdict (s : State) : Option (Host.Outcome State Fault Refusal) := (s.ctxs.map (fun c => c.1)).findSome? (verdictEvent s)

/-- The events of the boundary, in order. -/
def startEvent : State → Option (Host.Outcome State Fault Refusal) :=
  firstDue [dueBoot, dueRetention, dueDroop, dueAllowance, dueFreeze, dueHeldFault, dueResume, dueThaw, duePage, dueRelease, dueTimeout,
    dueTrap, dueHandOver, dueWait, dueEnd, dueVerdict]

/-! ### Register results, storage reads and writes -/

def regsEvent (s : State) : Option (Host.Outcome State Fault Refusal) :=
  (s.ctxs.map (fun c => c.1)).findSome? (fun k => (nextReg s k).map (fun i => performEvent k i s))

/-- Cores whose holder of the width issues in this cycle. -/
def issuingCores (s : State) : List Nat :=
  (s.cores.map (fun c => c.1)).filter (fun n => match (coreOf s n).width with
    | some i => canIssue s (n * 4 + i.val)
    | none => false)

/-- The bundle of a core issues. -/
def issueCore (n : Nat) (s : State) : Host.Outcome State Fault Refusal :=
  match (coreOf s n).width with
  | some i => if canIssue s (n * 4 + i.val) then issueBundle (n * 4 + i.val) s else .next s
  | none => .next s

/-- The phase in which an effect performs. -/
def actPhase : Act → Phase
  | .result .. | .occupy _ | .bselRead .. | .tmask .. | .clampClear _ => .regs
  | .dmRead .. | .dmAtomic .. | .vmRead .. | .gRead .. | .pcommitRead .. | .launchRead .. | .mmaRead .. | .drain .. | .tloadRead ..
  | .copySource .. | .copySample .. | .mapGather .. | .sendRead .. | .nestStep .. => .reads
  | .dmWrite .. | .vmWrite .. | .barInit .. | .mmaUpdate .. | .drainWrite .. | .tloadWrite .. | .tclr _ | .copyLand ..
  | .copyPerform .. | .mapLand .. | .fill .. | .sendLand .. | .nestWrite .. | .recv .. => .writes

/-- The order of effects in a phase: copies to HBM by core and engine (R108), the end of an XRECV last. -/
def actRank (k : Nat) : Act → Nat
  | .copyPerform r .. => 1 + 2 * coreIx k + r.engine
  | .recv .. => 10000
  | _ => 0

/-- The first of the lowest rank. -/
def lowestRank : List (Nat × Nat × Nat) → Option (Nat × Nat × Nat)
  | [] => none
  | x :: r => match lowestRank r with
    | none => some x
    | some y => if y.1 < x.1 then some y else some x

/-- The flights of a context due in a phase, with their rank. -/
def dueFlights (s : State) (ph : Phase) (k : Nat) : List (Nat × Nat × Nat) :=
  let c := ctxOf s k
  if !isRunning s k then []
  else c.flights.zipIdx.filterMap (fun f =>
    if f.1.due == c.ttc && actPhase f.1.act == ph then some (actRank k f.1.act, k, f.2) else none)

def storageEvent (ph : Phase) (s : State) : Option (Host.Outcome State Fault Refusal) :=
  (lowestRank (s.ctxs.flatMap (fun c => dueFlights s ph c.1))).map (fun x => performEvent x.2.1 x.2.2 s)

/-! ### Walkers and untimed work -/

/-- Does an untimed operation perform of itself: its context sits in a wait with no timed work left? Earlier performances are
events of the outside world (log 22). -/
def isForced (c : Ctx) : Bool := c.wait.isSome && c.flights == []

/-- The event of an untimed operation of its class. -/
def untimedEvent (k i : Nat) (s : State) : Host.Outcome State Fault Refusal :=
  match (ctxOf s k).allUntimed[i]? with
  | none => .next s
  | some u =>
    if u.done || !isForced (ctxOf s k) then .next s
    else match u.job with
      | .pgreq v => if v.getLsbD 63 then execPgreqMigrate k v s else execPgreqEvict k v s
      | j => match classOfJob j with
        | .madder => execMadderGatherReturn k i s
        | .mmag => execMmagStart k i s
        | .mmas => execMmasTokenTake k i s
        | .arrive => execBarrierArrivalCount k i s
        | _ => execUntimedOperationPerform k i s

/-- The next syllable of a walk (R284, R288). -/
def walkSyllable (w : Walk) (s : State) : Host.Outcome State Fault Refusal :=
  match walkFetch s w w.pc with
  | none => .next (walkFault s w 2 0)
  | some x => match decodeWalker x with
    | none => .next (walkFault s w 3 0)
    | some i => exec i s

/-- Does a syllable write AB lines? It does so in a cycle without another write of that buffer (R75). -/
def meetsWalkWrite (s : State) (w : Walk) : Bool :=
  match (walkFetch s w w.pc).bind decodeWalker with
  | some (.wemit ..) | some (.wgath ..) | some .wflush => writtenNow s (coreIx w.ctx) .ab
  | _ => false

/-- One action of the walker of a cluster (R75, R286, R292, R295, R297, R299, R300). -/
def walkerEvent (clus : Nat) (s : State) : Host.Outcome State Fault Refusal :=
  let s := { s with walker := clus }
  match (clusterOf s clus).walk with
  | none => match (clusterOf s clus).startQ with
    | _ :: _ => execWalkStart clus s
    | [] => .next s
  | some w =>
    if (ctxOf s w.ctx).freeze.any (fun f => f.marks.contains .pre) then .next s
    else if w.late.isSome then .next (releaseFaulted s w (w.late.getD 0))
    else if w.stop && !w.pend.any (fun p => p.2) then .next (stopWalk s w)
    else if w.pend.isSome then execWalkerTokenEnqueue clus s
    else match w.held with
      | some _ => execWalkResume clus s
      | none =>
        if w.waitTile.isSome then execWtileOpen clus s else if meetsWalkWrite s w then .next s else walkSyllable w s

/-- Is a wait a WAITM on a HOST or REM word whose condition is not met yet? -/
def polledWait (s : State) (k : Nat) : Option Wait → Bool
  | some ⟨.waitm _ v _ _ _ _ none, _, _⟩ => match translate s k v with
    | .hit p => p.kind == .host || p.kind == .rem
    | _ => false
  | _ => false

/-- A monitor of a HOST or REM word looks again every 1,024 cycles; a trap and its handler do not stop it (R176, R194). -/
def pollEvent (k : Nat) (s : State) : Host.Outcome State Fault Refusal :=
  if (polledWait s k (ctxOf s k).wait || polledWait s k (ctxOf s k).heldWait) then execWaitmPoll k s else .next s

/-- A visit of the walk phase as a number: what is visited, context, cluster or core `k`, and index. -/
def visit (what k i : Nat) : Nat := 8 * (4096 * i + k) + what

/-- What the walk phase of this cycle visits: untimed operations, walkers, full queues, and every 1,024 cycles the monitors
and side logs (R176, R351). -/
def visits (s : State) : List Nat :=
  s.ctxs.flatMap (fun c => if isForced c.2 then
    (List.range c.2.allUntimed.length).map (fun i => visit 0 c.1 i) else []) ++
  s.clusters.flatMap (fun c => (if c.2.walk.isSome || c.2.startQ != [] then [visit 1 c.1 0] else []) ++
    c.2.full.filterMap (fun q => if q.2 = [] then none else some (visit 2 c.1 q.1))) ++
  (if s.gcc % 1024 = 0 then s.ctxs.map (fun c => visit 3 c.1 0) ++ (usedCores s).map (fun n => visit 4 n 0) else [])

/-- One visit. -/
def visitEvent (n : Nat) (s : State) : Host.Outcome State Fault Refusal :=
  let k := n / 8 % 4096
  let i := n / 8 / 4096
  match n % 8 with
  | 0 => untimedEvent k i s
  | 1 => walkerEvent k s
  | 2 => execQueueEntryEnter k i s
  | 3 => pollEvent k s
  | _ => execSideLogRetryEvent k s

/-! ### The end of a cycle -/

/-- Is the time of a context counted in this cycle: does it hold the width, not frozen? (R26, R35) -/
def isCounting (s : State) (k : Nat) : Bool := isRunning s k && hasWidth s k

/-- TTC, IDLE, the flags GETC reads and the mark of R104 at the end of a cycle. -/
def tickCtx (s : State) (k : Nat) : State :=
  let go := isCounting s k
  modCtx s k (fun c => { c with
    ttc := if go then c.ttc + 1 else c.ttc
    idle := if go then c.idle - 1 else c.idle
    flagsSeen := c.vflags
    seqMark := c.seq })

/-- Since when a context has been ready without the width; one that is ready no more is promoted no more (R22). -/
def tickReady (s : State) (k : Nat) : State :=
  if isReady s k && !hasWidth s k then modCtx s k (fun c => { c with readyAt := c.readyAt.or (some s.gcc) })
  else modCtx s k (fun c => { c with readyAt := none, promoted := false })

/-- Is every occupied context of the core frozen? (R122, R130) -/
def allFrozen (s : State) (n : Nat) : Bool :=
  let ks := ((List.range 4).map (fun i => n * 4 + i)).filter (fun k => occupied (ctxOf s k) k)
  ks != [] && ks.all (fun k => (ctxOf s k).freeze.isSome)

/-- A measured figure of at most `cap` (R137, log 3). -/
def measured (n cap : Nat) : Nat := if cap = 0 then 0 else min (Config.measuredEnergy n cap) cap

/-- E(c), the energy counters, and the intervals that have ended (R122, R126, R137). In a cycle in which every context is frozen
nothing draws. -/
def countEnergy (s : State) (n : Nat) : State :=
  let core := coreOf s n
  let still := allFrozen s n
  let draws (p : Nat → Bool) : Nat := if still then 0 else drawsAt (core.resv.filter (fun i => p i.draw)) s.gcc
  let e := (if still then 0 else core.weight) + draws (fun _ => true)
  nextFresh (modCore s n (fun c => { c with
    window := ((c.weight, e) :: c.window).take 8
    weight := 0
    vweight := 0
    resv := c.resv.filter (fun i => i.paused.isSome || i.stop.all (fun t => decide (s.gcc < t)))
    ecnt := ((c.ecnt.set 0 (c.ecnt[0] + BitVec.ofNat 64 e)).set 1
        (c.ecnt[1] + BitVec.ofNat 64 (measured s.fresh (draws (· == 720))))).set 2
        (c.ecnt[2] + BitVec.ofNat 64 (measured (s.fresh + 1) (core.vweight + draws (· == 40)))) })) 2

/-- Does the cycle that begins count towards RUNLEN: user code that holds the width and issues or idles in it, or whose wait is a CSYNC
or still has timed work to drain? (R23, R76) -/
def countsRun (s : State) (k : Nat) : Bool :=
  let c := ctxOf s k
  c.mode == .user && c.freeze.isNone && hasWidth s k && (match c.wait with
    | none => decide (c.resume ≤ s.gcc)
    | some w => isCsync w || c.flights != [])

/-- The cycles a context's code has held the width since its origin (R23). -/
def countRun (s : State) (k : Nat) : State := if countsRun s k then modCtx s k (fun c => { c with ran := c.ran + 1 }) else s

def dueOverrun (s : State) : Option (Host.Outcome State Fault Refusal) := (firstCtx s (hasOverrun s)).map (fun k => execRunOverrun k s)

def duePromotion (s : State) : Option (Host.Outcome State Fault Refusal) :=
  (firstCtx s (fun k => !(ctxOf s k).promoted && (ctxOf s k).readyAt.any (fun g => decide (g + 2 ^ 20 ≤ s.gcc)))).map
    (fun k => execLowPriorityPromotion k s)

def boundaryEvent : State → Option (Host.Outcome State Fault Refusal) := firstDue [dueOverrun, duePromotion]

/-- The boundary before a cycle is over, and the cycle begins. -/
def beginCycle (s : State) : State := { (s.ctxs.map (fun c => c.1)).foldl countRun s with phase := .regs }

/-- The cycle ends: function-level resets whose queue has drained, the fabric, energy, the width, and the counters. -/
def endCycle (s : State) : State :=
  let s := (s.tenants.map (fun t => t.1)).foldl (fun s fn => if (tenantOf s fn).flr then finishFlr s fn else s) s
  let s := (s.tenants.map (fun t => t.1)).foldl (fun s fn =>
    if (tenantOf s fn).winQueue = [] then s else flushWindow fn (tenantOf s fn).winQueue s) s
  let s := tickRetention (tickWear ((s.clusters.filter (fun c => c.2.swapping)).foldl (fun s c => finishSwap s c.1) (sendOutbound s)))
  let cores := s.cores.map (fun c => c.1)
  let ctxs := s.ctxs.map (fun c => c.1)
  let s := ctxs.foldl tickCtx s
  let s := cores.foldl countEnergy s
  let s := cores.foldl decideWidth s
  let s := ctxs.foldl tickReady s
  { s with
    gcc := s.gcc + 1
    phase := .start
    agenda := []
    refused := []
    written := []
    cores := s.cores.map (fun c => (c.1, { c.2 with written := [], tilesWere := none })) }

/-! ### One step of the machine -/

/-- An event that is due, or the next phase. -/
def orNext (x : Option (Host.Outcome State Fault Refusal)) (t : State) : Host.Outcome State Fault Refusal :=
  match x with
  | some o => o
  | none => .next t

/-- One step when the outside world does nothing. -/
def cycleStep (s : State) : Host.Outcome State Fault Refusal :=
  match s.phase with
  | .start => orNext (startEvent s) (beginCycle s)
  | .regs => orNext (regsEvent s) { s with phase := .issue, agenda := issuingCores s }
  | .issue => match s.agenda with
    | n :: r => issueCore n { s with agenda := r }
    | [] => .next { s with phase := .arb }
  | .arb => .next { arbitrate s with phase := .reads }
  | .reads => orNext (storageEvent .reads s) { s with phase := .writes }
  | .writes => orNext (storageEvent .writes s) { s with phase := .walk, agenda := visits s }
  | .walk => match s.agenda with
    | n :: r => visitEvent n { s with agenda := r }
    | [] => .next { s with phase := .boundary }
  | .boundary => orNext (boundaryEvent s) (endCycle s)

/-- The oldest thing the outside world does: an event. -/
def inputStep (i : Instr) (s : State) : Host.Outcome State Fault Refusal :=
  if i.isEvent then exec i s else .fault .notAnEvent

end Sys2Proof.Machine
end

