-- ==== Sys2Proof/Machine/Place.lean ====
section
/-! DEFINITION. Placing a program from outside, for `State.withFetchWord` (log 34): one operation in a bundle of context 0,
or one syllable of a walk of cluster 0, so that the next step runs it. -/

namespace Sys2Proof.Machine

/-- Where the placed code image lies in HBM, a choice of the model (log 34). -/
def placeBase : Nat := 0x10_0000

/-- Bytes of words, each little-endian (R3). -/
def wordBytes (ws : List Nat) : List Byte := ws.flatMap (bytesOfNat 4)

/-- The task that owns the whole of core 0, with its code and its walker program. -/
def placedTask : Task :=
  { loaderTask ⟨[], placeBase, 64, 0, 0, 0, []⟩ with
    woadLen := 4, size := ⟨0x20_0000, 0x18_0000, 0x8_0000, 0x1_0000⟩ }

/-- The context before its placed bundle. -/
def placedCtx (c : Ctx) (m : Mode) (gcc : Nat) : Ctx :=
  { c with task := some placedTask, mode := m, pc := 0, resume := gcc }

/-- Store a bundle of one operation and let context 0 issue it in the next step. -/
def placeBundle (s : State) (slot : Slot) (ws : List Nat) (weight : Nat) (m : Mode) : State :=
  let at_ := match m with
    | .user => placeBase
    | .supervisor => Config.supervisorCode
  let t := modCore (modCtx s 0 (fun c => placedCtx c m s.gcc)) 0 (fun c => { c with width := some 0 })
  { t with
    inputs := []
    phase := .issue
    agenda := [0]
    mem := memWriteList s.mem at_ (wordBytes (encodeHeader [slot] ws.length weight :: ws)) }

/-- A walk of context 0 at offset 0, its registers 0 and WPF 4 (R285, R287). -/
def placedWalk : Walk where
  ctx := 0
  seq := 0
  queue := 0
  pc := 0
  w := Vector.replicate 16 0
  wtok := 0
  wpfc := 0
  wpf := 4
  tile := none
  waitTile := none
  ebuf := []
  pend := none
  held := none
  late := none
  stop := false
  begun := true
  busy := []

/-- Store a walker syllable and let cluster 0 walk it in the next step. -/
def placeWalker (s : State) (word : Nat) : State :=
  let t := modCluster (modCtx s 0 (fun c => placedCtx c .user s.gcc)) 0 (fun c =>
    { c with walk := some placedWalk, program := memWriteList c.program 0 (bytesOfNat 4 word) })
  { t with
    inputs := []
    phase := .walk
    agenda := [visit 1 0 0] }

/-- Place the instruction that a row's bits give. A word that decodes to none stands in the BR slot. -/
def placeWord (s : State) (nbits w : Nat) : State :=
  let ws := tableWords nbits w
  match decodeTableWord nbits w with
  | none => placeBundle s .br (ws.take 1) 0 .user
  | some i => match slotOf i with
    | some slot =>
      placeBundle s slot (ws.take (encode i).length) (opWeight i) (if isSupervisorOnly i then .supervisor else .user)
    | none => placeWalker s (ws.getD 0 0)

end Sys2Proof.Machine
end

