-- ==== Sys2Proof/Safety.lean ====
section
/-! DEFINITION. The terms in which claims speak: what an operation at issue may count on, the states in which it leaves the
machine, what it must not touch, and the result tables of the spec (R100–R102, R161, R163, R164). -/

namespace Sys2Proof.Machine

/-! ### What stays -/

/-- The same registers, flags and control registers: everything of a context that its program can read, with its mode, its
place in the code and its time. -/
structure SameRegisters (c d : Ctx) : Prop where
  s : c.s = d.s
  v : c.v = d.v
  p : c.p = d.p
  g : c.g = d.g
  prec : c.prec = d.prec
  heap : c.heapBase = d.heapBase ∧ c.heapLim = d.heapLim ∧ c.heapOff = d.heapOff
  vmode : c.vmode = d.vmode
  vflags : c.vflags = d.vflags ∧ c.flagsSeen = d.flagsSeen
  padm : c.padm = d.padm
  trap : c.tvec = d.tvec ∧ c.tcause = d.tcause ∧ c.tpc = d.tpc ∧ c.tval = d.tval ∧ c.tframe = d.tframe ∧
    c.tstate = d.tstate ∧ c.trtgt = d.trtgt ∧ c.trttc = d.trttc
  winlog : c.winlog = d.winlog
  loop : c.lc = d.lc ∧ c.sp = d.sp
  mask : c.mask = d.mask
  hstat : c.hstat = d.hstat
  place : c.mode = d.mode ∧ c.pc = d.pc ∧ c.ttc = d.ttc ∧ c.task = d.task

/-- Every byte of the package, of every typed buffer and walker program memory reads the same; tiles, barriers, queues and
core registers stand as they did. -/
structure SameStores (s t : State) : Prop where
  mem : ∀ a, memRead t.mem a = memRead s.mem a
  buf : ∀ n b a, memRead ((coreOf t n).bufMem b) a = memRead ((coreOf s n).bufMem b) a
  tiles : ∀ n, (coreOf t n).tiles = (coreOf s n).tiles
  barriers : ∀ n, (coreOf t n).barriers = (coreOf s n).barriers
  allow : ∀ n, (coreOf t n).target = (coreOf s n).target ∧ (coreOf t n).value = (coreOf s n).value ∧
    (coreOf t n).strict = (coreOf s n).strict ∧ (coreOf t n).ecnt = (coreOf s n).ecnt
  queues : ∀ n, (clusterOf t n).queues = (clusterOf s n).queues
  program : ∀ n a, memRead (clusterOf t n).program a = memRead (clusterOf s n).program a

/-- `t` is `s` but for `len` bytes of a context's partition of buffer `b` at `off`, which are now those of `byte`: every other byte of
every buffer, all of memory, the tiles, the barriers and every register stand as they did. -/
structure BufferWritten (s t : State) (k : Nat) (b : Buf) (off len : Nat) (byte : Nat → Byte) : Prop where
  bytes : ∀ i, i < len → memRead ((coreOf t (coreIx k)).bufMem b) ((ctxOf s k).base b + off + i) = byte i
  rest : ∀ n q a, ¬(n = coreIx k ∧ q = b ∧ (ctxOf s k).base b + off ≤ a ∧ a < (ctxOf s k).base b + off + len) →
    memRead ((coreOf t n).bufMem q) a = memRead ((coreOf s n).bufMem q) a
  mem : t.mem = s.mem
  tiles : ∀ n, (coreOf t n).tiles = (coreOf s n).tiles ∧ (coreOf t n).barriers = (coreOf s n).barriers
  regs : ∀ j, SameRegisters (ctxOf s j) (ctxOf t j)

/-- `t` is `s` but for `len` bytes of memory at `a`, which are now those of `byte`. -/
structure MemoryWritten (s t : State) (a len : Nat) (byte : Nat → Byte) : Prop where
  bytes : ∀ x, memRead t.mem x = if a ≤ x ∧ x < a + len then byte (x - a) else memRead s.mem x
  buf : ∀ n b x, memRead ((coreOf t n).bufMem b) x = memRead ((coreOf s n).bufMem b) x
  tiles : ∀ n, (coreOf t n).tiles = (coreOf s n).tiles ∧ (coreOf t n).barriers = (coreOf s n).barriers
  regs : ∀ j, SameRegisters (ctxOf s j) (ctxOf t j)

/-- `t` is `s` but for the elements, the poison and the clamp bit of one tile. -/
structure TileOnly (s t : State) (core : Nat) (tile : TileIx) : Prop where
  others : ∀ n q, ¬(n = core ∧ q = tile) → tileOf t n q = tileOf s n q
  window : (tileOf t core tile).rows = (tileOf s core tile).rows ∧ (tileOf t core tile).cols = (tileOf s core tile).cols
  mem : t.mem = s.mem
  buf : ∀ n b x, memRead ((coreOf t n).bufMem b) x = memRead ((coreOf s n).bufMem b) x
  regs : ∀ j, SameRegisters (ctxOf s j) (ctxOf t j)

/-- The operation numbered `seq` of a context has performed. -/
def IsDone (s : State) (k seq : Nat) : Prop := ∀ w ∈ (ctxOf s k).allUntimed, w.seq = seq → w.done = true

/-- The `n` pieces of 64 bytes from device address `v` on lie behind one another at home, from `p` on. -/
def piecesAt (s : State) (k v n p : Nat) (ok : Spot → Prop) : Prop :=
  ∀ i, i < n → ∃ q, translate s k (v + 64 * i) = .hit q ∧ q.paddr = p + 64 * i ∧ ok q

/-- The slots in which an operation may stand: the S and V operations in either slot of their kind (R144, R147). -/
def standsIn (i : Instr) (slot : Slot) : Bool :=
  slotOf i == some slot || (slotOf i == some .s0 && slot == .s1) || (slotOf i == some .v0 && slot == .v1)

/-! ### Results at issue + latency (R100–R102, R163) -/

/-- One more timed effect of the acting context, `lat` cycles after issue, with the register results it will land. -/
def flown (s : State) (lat : Nat) (act : Act) (res : List (Nat × Nat × Nat)) : State :=
  modHere s (fun c => c.addFlight (c.ttc + lat) act res)

/-- Where and when a register write lands. -/
def landingOf (s : State) (lat : Nat) (w : RegWrite) : List (Nat × Nat × Nat) :=
  (regDest w).toList.map (fun d => (d.1, d.2, (here s).ttc + lat))

/-- A register result in flight, `lat` cycles after issue. -/
def scheduled (s : State) (lat : Nat) (w : RegWrite) (fl : Flags) (shadow : Option (Nat × Ty)) : State :=
  flown s lat (.result w fl shadow) (landingOf s lat w)

/-- No result to the register of `w` lands in the same cycle (R102). -/
def noCollision (s : State) (lat : Nat) (w : RegWrite) : Bool :=
  (regDest w).all (fun d => !(here s).collides d.1 d.2 ((here s).ttc + lat))

/-- The slot is free (R164) and the result lands alone (R102). -/
def Lands (s : State) (lat : Nat) (w : RegWrite) : Prop := slotFree s = true ∧ noCollision s lat w = true

/-! ### A bundle at issue (R122, R127, R161) -/

/-- The intervals that the operations of a bundle reserve. -/
def newDraws (s : State) (b : Bundle) : List Interval := (activeOps (here s) b).flatMap (fun o => drawsOf s o.instr)

/-- The state in which the operations of a bundle of declared weight `w` run. -/
def underWay (s : State) (w : Nat) (new : List Interval) : State :=
  modHereCore s (fun c => { c with weight := w + drawsAt new s.gcc })

/-! ### Untimed operations at issue (R28, R30) -/

/-- One more untimed operation of the acting context. -/
def queued (s : State) (job : Job) (res : Option Result) (ordered : Bool) (lines : List Nat) (pending : List Place) : State :=
  modHere s (fun c => { c with
    seq := c.seq + 1
    untimed := c.untimed ++ [newUntimed c.seq job res ordered lines pending] })

/-- The result buffer has room for the operation's register result, if it has one (R30). -/
def resultRoom (s : State) (res : Option Result) : Bool := !res.isSome || decide ((here s).resultCount < 16)

/-- Every line of a DM, AB, WB or CB range is free of untimed work (R30). -/
def noPending (s : State) (b : Buf) (off len : Nat) : Bool := (firstPending s s.cur b off len).isNone

/-- A range that the command port may read: aligned, inside the DM partition, not pending, of good parity (R77). -/
def portReadable (s : State) (off len align : Nat) : Bool :=
  off % align == 0 && inPartition (here s) .dm off len && badBytes s s.cur .dm off len == [] && noPending s .dm off len

/-- An access of device memory that raises nothing at issue: aligned, in a segment of an allowed kind, writable if it
writes (R205, R207). -/
def segmentOk (s : State) (vaddr n : Nat) (allowed : MemKind → Bool) (write : Bool) : Bool :=
  vaddr % n == 0 && (kindOf s s.cur vaddr).any (fun k => allowed k.1 && (!write || k.2))

/-- A DM access that raises nothing at issue: aligned, inside the partition, not of a pending line (R205, R30). -/
def dmOk (s : State) (addr n : Nat) : Bool :=
  addr % n == 0 && inPartition (here s) .dm addr n && noPending s .dm addr n

/-- The state after an untimed access of device memory has been given (R89, R97). -/
def globalGiven (s : State) (vaddr n : Nat) (write : Bool) (job : Job) (res : Option Result) (ordered : Bool) : State :=
  markHeld (queued (postHeld s job vaddr (if write then 2 else 1)) job res ordered (lines64 vaddr n) []) (heldPage s vaddr)

/-- Operation and operands of a DM atomic. -/
def amoDmOf : Instr → Option (AmoOp × SReg × SReg × SReg × Bool × Sz)
  | .amoaddDm d a b sx sz => some (.add, d, a, b, sx, sz)
  | .amominDm d a b sx sz => some (.min, d, a, b, sx, sz)
  | .amomaxDm d a b sx sz => some (.max, d, a, b, sx, sz)
  | .amominnDm d a b sx sz => some (.minn, d, a, b, sx, sz)
  | .amomaxnDm d a b sx sz => some (.maxn, d, a, b, sx, sz)
  | .amoandDm d a b sx sz => some (.and, d, a, b, sx, sz)
  | .amoorDm d a b sx sz => some (.or, d, a, b, sx, sz)
  | .amoxorDm d a b sx sz => some (.xor, d, a, b, sx, sz)
  | .amoswapDm d a b sx sz => some (.swap, d, a, b, sx, sz)
  | .amocasDm d a b sx sz => some (.cas, d, a, b, sx, sz)
  | _ => none

/-- Operation and operands of a global atomic. -/
def amoGlobalOf : Instr → Option (AmoOp × SReg × SReg × SReg × Scope × Bool × Sz)
  | .amoaddGlobal d a b sc sx sz => some (.add, d, a, b, sc, sx, sz)
  | .amominGlobal d a b sc sx sz => some (.min, d, a, b, sc, sx, sz)
  | .amomaxGlobal d a b sc sx sz => some (.max, d, a, b, sc, sx, sz)
  | .amominnGlobal d a b sc sx sz => some (.minn, d, a, b, sc, sx, sz)
  | .amomaxnGlobal d a b sc sx sz => some (.maxn, d, a, b, sc, sx, sz)
  | .amoandGlobal d a b sc sx sz => some (.and, d, a, b, sc, sx, sz)
  | .amoorGlobal d a b sc sx sz => some (.or, d, a, b, sc, sx, sz)
  | .amoxorGlobal d a b sc sx sz => some (.xor, d, a, b, sc, sx, sz)
  | .amoswapGlobal d a b sc sx sz => some (.swap, d, a, b, sc, sx, sz)
  | .amocasGlobal d a b sc sx sz => some (.cas, d, a, b, sc, sx, sz)
  | _ => none

/-- What the checks of an untimed access of device memory look at: address, width, whether it writes, the kinds of segment that it may
name, and its result (R205, R207, R211). -/
structure UntimedAccess where
  addr : Nat
  size : Nat
  write : Bool
  allowed : MemKind → Bool
  res : Option Result

/-- The untimed access of a load, a store or a global atomic. -/
def untimedAccessOf (c : Ctx) (i : Instr) : Option UntimedAccess :=
  match i with
  | .ldg d a b _ sz => some ⟨(c.readS a + c.readS b).toNat, sizeOf' sz, false, fun _ => true, resultFor d⟩
  | .stg _ a b sz => some ⟨(c.readS a + c.readS b).toNat, sizeOf' sz, true, fun _ => true, none⟩
  | _ => (amoGlobalOf i).map (fun x => ⟨(c.readS x.2.2.1).toNat, sizeOf' x.2.2.2.2.2.2, true, atomicAllowed c, resultFor x.2.1⟩)

/-! ### Scalar operations (R196–R203) -/

/-- Latency, occupancy, destination and value of an S operation. -/
def scalarResult (c : Ctx) : Instr → Option (Nat × Nat × SReg × W64)
  | .add d a b => some (1, 1, d, c.readS a + c.readS b)
  | .sub d a b => some (1, 1, d, c.readS a - c.readS b)
  | .and d a b => some (1, 1, d, c.readS a &&& c.readS b)
  | .or d a b => some (1, 1, d, c.readS a ||| c.readS b)
  | .xor d a b => some (1, 1, d, c.readS a ^^^ c.readS b)
  | .shl d a b => some (1, 1, d, c.readS a <<< ((c.readS b).extractLsb' 0 6).toNat)
  | .shr d a b => some (1, 1, d, c.readS a >>> ((c.readS b).extractLsb' 0 6).toNat)
  | .sar d a b => some (1, 1, d, (c.readS a).sshiftRight ((c.readS b).extractLsb' 0 6).toNat)
  | .slt d a b => some (1, 1, d, if (c.readS a).toInt < (c.readS b).toInt then 1 else 0)
  | .sltn d a b => some (1, 1, d, if (c.readS a).toNat < (c.readS b).toNat then 1 else 0)
  | .seq d a b => some (1, 1, d, if c.readS a = c.readS b then 1 else 0)
  | .min d a b => some (1, 1, d, BitVec.ofInt 64 (min (c.readS a).toInt (c.readS b).toInt))
  | .max d a b => some (1, 1, d, BitVec.ofInt 64 (max (c.readS a).toInt (c.readS b).toInt))
  | .minn d a b => some (1, 1, d, BitVec.ofNat 64 (min (c.readS a).toNat (c.readS b).toNat))
  | .maxn d a b => some (1, 1, d, BitVec.ofNat 64 (max (c.readS a).toNat (c.readS b).toNat))
  | .clz d a => some (1, 1, d, BitVec.ofNat 64 (leadingZeros (c.readS a) 64))
  | .popc d a => some (1, 1, d, BitVec.ofNat 64 (popCount (c.readS a)))
  | .ceilm d a b => some (1, 1, d, ceilMultiple (c.readS a) (c.readS b))
  | .addi d a i => some (1, 1, d, c.readS a + i.signExtend 64)
  | .andi d a i => some (1, 1, d, c.readS a &&& i.signExtend 64)
  | .ori d a i => some (1, 1, d, c.readS a ||| i.signExtend 64)
  | .xori d a i => some (1, 1, d, c.readS a ^^^ i.signExtend 64)
  | .slti d a i => some (1, 1, d, if (c.readS a).toInt < i.toInt then 1 else 0)
  | .shli d a k => some (1, 1, d, c.readS a <<< k.val)
  | .shri d a k => some (1, 1, d, c.readS a >>> k.val)
  | .sari d a k => some (1, 1, d, (c.readS a).sshiftRight k.val)
  | .li d i => some (1, 1, d, i.signExtend 64)
  | .lih d i => some (1, 1, d, (c.readS d <<< 19) ||| i.setWidth 64)
  | .sel d x a b => some (1, 1, d, if c.readS x ≠ 0 then c.readS a else c.readS b)
  | .exts d a pos len1 => some (1, 1, d, ((c.readS a).extractLsb' pos.val (len1.val + 1)).signExtend 64)
  | .extz d a pos len1 => some (1, 1, d, ((c.readS a).extractLsb' pos.val (len1.val + 1)).setWidth 64)
  | .ins d a pos len1 => some (1, 1, d, ((c.readS d &&& ~~~(lowOnes (len1.val + 1) <<< pos.val))) |||
      (((c.readS a).extractLsb' 0 (len1.val + 1)).setWidth 64 <<< pos.val))
  | .mul d a b => some (3, 1, d, c.readS a * c.readS b)
  | .mulh d a b => some (3, 1, d, ((c.readS a).signExtend 128 * (c.readS b).signExtend 128).extractLsb' 64 64)
  | .mulhn d a b => some (3, 1, d, ((c.readS a).setWidth 128 * (c.readS b).setWidth 128).extractLsb' 64 64)
  | .madd d a b => some (3, 1, d, c.readS d + c.readS a * c.readS b)
  | .div d a b => some (20, 20, d, divSigned (c.readS a) (c.readS b))
  | .divn d a b => some (20, 20, d, divUnsigned (c.readS a) (c.readS b))
  | .rem d a b => some (20, 20, d, remSigned (c.readS a) (c.readS b))
  | .remn d a b => some (20, 20, d, remUnsigned (c.readS a) (c.readS b))
  | .divc d a b => some (20, 20, d, divCeil (c.readS a) (c.readS b))
  | _ => none

/-! ### Branches (R165) -/

/-- Condition and displacement in bytes of a relative branch. -/
def branchOf (c : Ctx) : Instr → Option (Bool × W64)
  | .b x => some (true, 4 * x.signExtend 64)
  | .bz a x => some (decide (c.readS a = 0), 4 * x.signExtend 64)
  | .bnz a x => some (decide (c.readS a ≠ 0), 4 * x.signExtend 64)
  | .beq a b x => some (decide (c.readS a = c.readS b), 4 * x.signExtend 64)
  | .bne a b x => some (decide (c.readS a ≠ c.readS b), 4 * x.signExtend 64)
  | .blt a b x => some (decide ((c.readS a).toInt < (c.readS b).toInt), 4 * x.signExtend 64)
  | .bge a b x => some (decide ((c.readS b).toInt ≤ (c.readS a).toInt), 4 * x.signExtend 64)
  | .bltn a b x => some (decide ((c.readS a).toNat < (c.readS b).toNat), 4 * x.signExtend 64)
  | .bgen a b x => some (decide ((c.readS b).toNat ≤ (c.readS a).toNat), 4 * x.signExtend 64)
  | .bany a x => some (decide (c.readP a &&& c.mt ≠ 0), 4 * x.signExtend 64)
  | .bnone a x => some (decide (c.readP a &&& c.mt = 0), 4 * x.signExtend 64)
  | .bmz x => some (decide (c.mt = 0), 4 * x.signExtend 64)
  | _ => none

/-- The state after a taken branch: the redirect waits for its two delay bundles (R40). -/
def redirected (s : State) (target : W64) (pops : Bool) : State :=
  modHere s (fun c => { c with branch := some ⟨target, 2, pops⟩ })

/-- Is the counter of a loop held by a stacked entry, or does a second LOOPP meet the active one? (R37, R167) -/
def loopClash (c : Ctx) (lc : Option (Fin 4)) (isPipelined : Bool) : Bool :=
  c.loops.any (fun e => e.kind != .sloop && lc == some e.lc) || (isPipelined && c.loops.any (fun e => e.kind == .loopp))

/-- Is there room for a loop that uses `lc`: user mode, a free entry, no clash? (R36, R37, R167) -/
def loopRoom (c : Ctx) (lc : Option (Fin 4)) (isPipelined : Bool) : Bool :=
  c.mode == .user && decide (c.loops.length < 4) && !loopClash c lc isPipelined

/-- The state after a loop has been entered: its range runs from the next bundle to its displacement (R167). -/
def entered (s : State) (kind : LoopKind) (lc : Fin 4) (x : BitVec 13) (trip : W64) (stages queue : Nat) (pred : PReg) :
    State :=
  modHere s (fun c => { c with loops :=
    ⟨kind, lc, nextBundle s c c.pc, c.pc + 4 * x.signExtend 64, trip, stages, queue, pred⟩ :: c.loops })

/-- A hardware update of a control register at +1 (R168, R169). -/
def counted (s : State) (i : Nat) (x : W64) : State := flown s 1 (.result (.cr i x) 0 none) []

/-- What a loop instruction sets at +1, behind the other results of its bundle (R168, R169, R302). -/
def starting (s : State) (us : List (Nat × W64)) : State := modHere s (fun c => { c with loopState := us })

/-- The end of a bundle: the loop stack it leaves, and the updates of loop counters and stage bits in flight (R168, R169). -/
def ending (s : State) (loops : List LoopEntry) (us : List (Nat × W64)) : State :=
  us.foldl (fun s u => counted s u.1 u.2) (modHere s (fun c => { c with loops := loops, loopState := [] }))

/-- The state in which an entry has been popped, before the test of the next one (R167). -/
def popped (s : State) (loops : List LoopEntry) (us : List (Nat × W64)) : State :=
  modHere s (fun c => { c with loops := loops, loopState := us })

/-- The state after a loop with trip count 0: control goes on behind its end bundle (R168). -/
def skipped (s : State) (x : BitVec 13) : State :=
  modHere s (fun c => { c with skip := some (nextBundle s c (c.pc + 4 * x.signExtend 64)) })

/-- A new mask stack from the next bundle on (R43). -/
def masked (s : State) (m : List PWord) : State := modHere s (fun c => { c with maskNext := some m })

/-! ### Waits (R31, R174–R180, R192) -/

/-- The state in which a wait has begun. -/
def waiting (s : State) (k : WaitKind) : State := modHere s (fun c => { c with wait := some ⟨k, s.gcc, c.pc⟩ })

/-- The wait of an instruction whose operands its entry accepts. -/
def waitBegun (s : State) : Instr → Option WaitKind
  | .endTask => some .endTask
  | .yield => some .yield
  | .waite => some .waite
  | .waitq q => some (.waitq q.val)
  | .csync => some (.csync s.gcc)
  | .barwait a b =>
    if barrierOk s ((here s).readS a) then some (.barwait (barrierName ((here s).readS a)) (((here s).readS b).setWidth 16))
    else none
  | .pbar => some .pbar
  | .rte => some .rte
  | _ => none

/-- The mode in which an instruction may wait. -/
def waitMode (m : Mode) : Instr → Bool
  | .endTask | .yield | .csync => m == .user
  | .rte => m == .supervisor
  | _ => true

/-! ### Vectors (R212–R223) -/

/-- Destination, predicate, type, latency, whether the shadow unit checks it (R70), and the lanes of an elementwise
operation, a permute or a special function. -/
structure LaneOp where
  d : VReg
  p : PReg
  t : Ty
  lat : Nat
  checked : Bool
  lane : Nat → Nat × Flags

/-- Latency of a floating or integer class operation (R163): 4 for FP32, 3 for 16-bit floating point, 2 for integers. -/
def arithLat : Ty → Nat
  | .f32 => 4
  | .f16 | .bf16 => 3
  | .i32 | .i16 | .n32 | .n16 => 2

/-- The stream element of lane i of an unpack (R231). -/
def packedLane (c : Ctx) (a : VReg) (t : Ty) (x : PackArgs) (i : Nat) : Nat :=
  streamElement (memOfVec (c.readV a)) x.fmt (x.part.val * t.lanes + i)

/-- The parameter of lane i of an unpack (R232). -/
def packedParam (c : Ctx) (b : VSrc) (t : Ty) (x : PackArgs) (i : Nat) : Nat :=
  paramLane c b (groupOfElement x.fmt x.grp (x.part.val * t.lanes + i))

/-- The elementwise operations, permutes and unpacks (R215–R217, R223, R234). -/
def laneOp (c : Ctx) : Instr → Option LaneOp
  | .vadd d a b p t => some ⟨d, p, t, arithLat t, true, fun i => laneAdd t c.rm (srcLane c t a i) (srcLane c t b i)⟩
  | .vsub d a b p t => some ⟨d, p, t, arithLat t, true, fun i => laneSub t c.rm (srcLane c t a i) (srcLane c t b i)⟩
  | .vmul d a b p t => some ⟨d, p, t, arithLat t, true, fun i => laneMul t c.rm (srcLane c t a i) (srcLane c t b i)⟩
  | .vfma d a b p t => some ⟨d, p, t, arithLat t, true, fun i => laneFma t c.rm (srcLane c t a i) (srcLane c t b i) (regLane c t d i)⟩
  | .vfms d a b p t => some ⟨d, p, t, arithLat t, true, fun i => laneFms t c.rm (srcLane c t a i) (srcLane c t b i) (regLane c t d i)⟩
  | .vfnma d a b p t => some ⟨d, p, t, arithLat t, true, fun i => laneFnma t c.rm (srcLane c t a i) (srcLane c t b i) (regLane c t d i)⟩
  | .vmin d a b p t => some ⟨d, p, t, arithLat t, true, fun i => laneMinMax false t (srcLane c t a i) (srcLane c t b i)⟩
  | .vmax d a b p t => some ⟨d, p, t, arithLat t, true, fun i => laneMinMax true t (srcLane c t a i) (srcLane c t b i)⟩
  | .vabs d a p t => some ⟨d, p, t, arithLat t, true, fun i => laneAbs t (srcLane c t a i)⟩
  | .vneg d a p t => some ⟨d, p, t, arithLat t, true, fun i => laneNeg t (srcLane c t a i)⟩
  | .vand d a b p t => some ⟨d, p, t, 2, false, fun i => (srcLane c t a i &&& srcLane c t b i, 0)⟩
  | .vor d a b p t => some ⟨d, p, t, 2, false, fun i => (srcLane c t a i ||| srcLane c t b i, 0)⟩
  | .vxor d a b p t => some ⟨d, p, t, 2, false, fun i => (srcLane c t a i ^^^ srcLane c t b i, 0)⟩
  | .vnot d a p t => some ⟨d, p, t, 2, false, fun i => (2 ^ t.width - 1 - srcLane c t a i, 0)⟩
  | .vshl d a b p t => some ⟨d, p, t, 2, false, fun i => laneShl t (srcLane c t a i) (srcLane c t b i)⟩
  | .vshr d a b p t => some ⟨d, p, t, 2, false, fun i => laneShr t (srcLane c t a i) (srcLane c t b i)⟩
  | .vsar d a b p t => some ⟨d, p, t, 2, false, fun i => laneSar t (srcLane c t a i) (srcLane c t b i)⟩
  | .vmulh d a b p t => some ⟨d, p, t, 2, false, fun i => laneMulh t (srcLane c t a i) (srcLane c t b i)⟩
  | .vclamp d a b x p t => some ⟨d, p, t, arithLat t, true, fun i => laneClamp t (srcLane c t a i) (srcLane c t b i) (srcLane c t x i)⟩
  | .vscale d a b p t => some ⟨d, p, t, arithLat t, true, fun i => laneScale t c.rm (srcLane c t a i) (srcLane c t b i)⟩
  | .vmov d a p t => some ⟨d, p, t, 2, false, fun i => (srcLane c t a i, 0)⟩
  | .viota d a b p t => some ⟨d, p, t, 2, false, fun i => (((readLow c a).toNat + i * (readLow c b).toNat) % 2 ^ t.width, 0)⟩
  | .vperm d a b p t => some ⟨d, p, t, 4, false, fun i => (if regLane c t b i < t.lanes then regLane c t a (regLane c t b i) else 0, 0)⟩
  | .vrot d a b p t => some ⟨d, p, t, 4, false, fun i => (regLane c t a ((i + (readLow c b).toNat) % t.lanes), 0)⟩
  | .vbcast d a b p t => some ⟨d, p, t, 4, false, fun _ => (regLane c t a ((readLow c b).toNat % t.lanes), 0)⟩
  | .vunpk d a p t x => some ⟨d, p, t, 2, false, fun i => convertTy (decodeAny (packedLane c a t x i) x.fmt) t 0 .ieee⟩
  | .vunpks d a b p t x => some ⟨d, p, t, 2, false, fun i =>
      scaledElement x.fmt (packedLane c a t x i) (packedParam c b t x i) t (rmOf c x.rm) x.ov⟩
  | .vunpkz d a b p t x => some ⟨d, p, t, 2, false, fun i =>
      zeroElement x.fmt (packedLane c a t x i) (packedParam c b t x i) t (rmOf c x.rm) x.ov⟩
  | _ => none

/-- The special functions (R220). -/
def sfuOf (_c : Ctx) : Instr → Option (Sfu × VReg × VSrc × PReg × Ty)
  | .vrcp d a p t => some (.rcp, d, a, p, t)
  | .vrsq d a p t => some (.rsq, d, a, p, t)
  | .vsqrt d a p t => some (.sqrt, d, a, p, t)
  | .vexp2 d a p t => some (.exp2, d, a, p, t)
  | .vlog2 d a p t => some (.log2, d, a, p, t)
  | .vtanh d a p t => some (.tanh, d, a, p, t)
  | .vsin d a p t => some (.sin, d, a, p, t)
  | _ => none

/-- The compares (R218): destination, predicate, type and lanes. -/
structure CompareOp where
  d : PReg
  p : PReg
  t : Ty
  lane : Nat → Bool × Flags

/-- What each compare writes in an active lane. -/
def compareOp (c : Ctx) : Instr → Option CompareOp
  | .vcmpeq d a b p t => some ⟨d, p, t, fun i => laneEq t (srcLane c t a i) (srcLane c t b i)⟩
  | .vcmpne d a b p t => some ⟨d, p, t, fun i =>
      (!(laneEq t (srcLane c t a i) (srcLane c t b i)).1, (laneEq t (srcLane c t a i) (srcLane c t b i)).2)⟩
  | .vcmplt d a b p t => some ⟨d, p, t, fun i => laneOrder false t (srcLane c t a i) (srcLane c t b i)⟩
  | .vcmple d a b p t => some ⟨d, p, t, fun i => laneOrder true t (srcLane c t a i) (srcLane c t b i)⟩
  | .vclass d a m p t => some ⟨d, p, t, fun i => (laneClass t m (srcLane c t a i), 0)⟩
  | _ => none

/-- The predicate operations (R239, R240). -/
def predicateResult (c : Ctx) : Instr → Option (PReg × PWord)
  | .pand d a b => some (d, c.readP a &&& c.readP b)
  | .por d a b => some (d, c.readP a ||| c.readP b)
  | .pxor d a b => some (d, c.readP a ^^^ c.readP b)
  | .pnot d a => some (d, ~~~c.readP a)
  | .psetHalf d a .lo => some (d, (c.readP d).extractLsb' 64 64 ++ c.readS a)
  | .psetHalf d a .hi => some (d, c.readS a ++ (c.readP d).extractLsb' 0 64)
  | .psetL16 d a => some (d, BitVec.ofNat 128 (2 ^ min (c.readS a).toNat 128 - 1))
  | .psetL32 d a => some (d, BitVec.ofNat 128 (4 ^ min (c.readS a).toNat 64 - 1))
  | _ => none

/-- A vector memory operation: direction, register, buffer, whether its addresses are aligned, and its cells (R242). -/
structure VecAccess where
  write : Bool
  d : VReg
  buf : Buf
  aligned : Bool
  cells : List (Nat × Nat)

/-- The address of chunk i of a strided access (R242). -/
def chunkAddr (c : Ctx) (st : Fin 32) (t : Ty) (x : VmArgs) (i : Nat) : Nat :=
  (vmBase c x + BitVec.ofNat 64 (i / (32 / laneBytes t)) * readLow c st).toNat + i % (32 / laneBytes t) * laneBytes t

/-- The address of lane i of an indexed access (R242). -/
def indexAddr (c : Ctx) (a : VReg) (t : Ty) (x : VmArgs) (i : Nat) : Nat :=
  (vmBase c x + BitVec.ofNat 64 (laneBytes t * regLane c t a i)).toNat

/-- What each vector memory operation accesses. -/
def vecAccessOf (c : Ctx) : Instr → Option VecAccess
  | .vld d p t x => some ⟨false, d, x.buf, (vmBase c x).toNat % 256 == 0,
      laneCells t (activity c p) (fun i => (vmBase c x).toNat + i * laneBytes t)⟩
  | .vst d p t x => some ⟨true, d, x.buf, (vmBase c x).toNat % 256 == 0,
      laneCells t (activity c p) (fun i => (vmBase c x).toNat + i * laneBytes t)⟩
  | .vlds d st p t x => some ⟨false, d, x.buf, (vmBase c x).toNat % 32 == 0 && (readLow c st).toNat % 32 == 0,
      laneCells t (activity c p) (chunkAddr c st t x)⟩
  | .vsts d st p t x => some ⟨true, d, x.buf, (vmBase c x).toNat % 32 == 0 && (readLow c st).toNat % 32 == 0,
      laneCells t (activity c p) (chunkAddr c st t x)⟩
  | .vldx d a p t x => some ⟨false, d, x.buf, (vmBase c x).toNat % laneBytes t == 0,
      laneCells t (activity c p) (indexAddr c a t x)⟩
  | .vstx d a p t x => some ⟨true, d, x.buf, (vmBase c x).toNat % laneBytes t == 0,
      laneCells t (activity c p) (indexAddr c a t x)⟩
  | .vldb d p t x => some ⟨false, d, x.buf, (vmBase c x).toNat % laneBytes t == 0,
      laneCells t (activity c p) (fun _ => (vmBase c x).toNat)⟩
  | _ => none

/-! ### Copies and matrix commands (R247, R251–R255, R264–R272) -/

/-- The state after a copy has been given: its reservation and its first flight. -/
def copyGiven (s : State) (r : CopyRun) : State :=
  fly (reserve s [span s r.start.toNat (copyLast r) 24]) ((copyFirst r).2 - (here s).ttc) (copyFirst r).1

/-- The checks of a copy at issue all hold (R264, R267, R269, R272). -/
def copyAccepted (s : State) (r : CopyRun) : Bool :=
  !engineBusy s r.engine ⟨(here s).seq, (copyFirst r).2, (copyFirst r).1, []⟩ && !windowsMeet s r &&
  !(copyAddrs r).any (copyLineBad s r.engine r.out) &&
  r.map.all (fun g => mapOk g && decide (r.src.length = r.lines) && decide (r.lines ≤ 256)) &&
  !(r.out && r.place.buf == .wb) && r.place.off % 256 == 0 && (r.map.isSome || r.vaddr % 256 == 0) &&
  inPartition (here s) r.place.buf r.place.off (256 * r.dest)

/-- The checks of an MMA at issue all hold (R60, R74, R102, R247, R251–R255, R384). -/
def mmaAccepted (s : State) (t : TileIx) (ga gb : GReg) (nk start : Nat) : Bool :=
  let c := here s
  let p := precOf c.prec[t]
  let da := sideA p (c.readG ga) c.padm
  let db := sideB p (c.readG gb) c.padm
  decide (ga ≠ gb) && precOk p && descFormatOk da && descFormatOk db && ownsTile c t && descAccessOk c da nk &&
  descAccessOk c db nk && (arrayConflict da db nk (precCycles p)).isNone && !tilePending c t &&
  !arrayBusy s start (nk * countedCycles p) && !arrayHeld s &&
  !c.collides 3 ga.val (c.ttc + 1) && !c.collides 3 gb.val (c.ttc + 1)

/-- The run that an MMA latches (R251). -/
def mmaLatched (s : State) (t : TileIx) (ga gb : GReg) (nk start : Nat) (zero : Bool) : MmaRun :=
  let c := here s
  let tile := tileOf s (coreIx s.cur) t
  ⟨t, c.prec[t], tile.rows, tile.cols, c.readG ga, c.readG gb, c.padm, start, nk, zero, false⟩

/-- The state after an MMA has been given: POS of both descriptors advances at +1, and its first read is at TTC `start`. -/
def mmaGiven (s : State) (t : TileIx) (ga gb : GReg) (nk start : Nat) (zero : Bool) : State :=
  let c := here s
  let s1 := scheduled s 1 (fieldWrite ga 17 (gField (c.readG ga) 17 + nk)) 0 none
  let s2 := scheduled s1 1 (fieldWrite gb 17 (gField (c.readG gb) 17 + nk)) 0 none
  fly (reserve s2 [mmaDraw s t nk start]) (start - c.ttc) (.mmaRead (mmaLatched s t ga gb nk start zero) 0 0 [] [] [] [])

/-- A TDRAIN or TLOAD of `n` rows that raises nothing at issue but for poison: an owned tile, not pending, of a mode that fits
the format, to or from aligned lines inside the CB partition (R259, R260, R384). -/
def tileTransferOk (s : State) (t : TileIx) (off : Nat) (f : Fmt) (n : Nat) : Bool :=
  !tilePending (here s) t && drainMode (precOf (here s).prec[t]).accf f && ownsTile (here s) t && off % 256 == 0 &&
  inPartition (here s) .cb off (256 * drainLines f n)

/-- A transfer between a buffer range and device memory that raises nothing at issue (R30, R264, R265). -/
def transferOk (s : State) (b : Buf) (off len align : Nat) : Bool :=
  off % align == 0 && inPartition (here s) b off len && noPending s b off len

/-- The state after an untimed transfer has been given: its reservation, its pending lines, its unit held on the first page
that is not mapped, but for a SCATTER (no `sub`), whose elements find their pages as they perform (R30, R89, R125). -/
def transferGiven (s : State) (b : Buf) (off len draw : Nat) (addrs : List Nat) (sub : Option Nat) (job : Job) : State :=
  let held := sub.bind (fun n => (addrs.find? (fun a => (heldPage s a).isSome)).map (fun a => (a, n)))
  let s' := match held with
    | some (a, n) => postHeld s job a n
    | none => s
  markHeld (queued (reserve s' [openSpan s draw]) job none false (addrs.map (· / 64)) (placesOf b off len))
    (held.map (fun x => x.1 / 65536))

/-! ### The walker (R289, R291) -/

/-- Destination and value of a walker syllable that writes a register. -/
def walkerResult (w : Walk) : Instr → Option (WReg × W64)
  | .wadd d a b => some (d, w.read a + w.read b)
  | .waddi d a i => some (d, w.read a + i.signExtend 64)
  | .wsub d a b => some (d, w.read a - w.read b)
  | .wshli d a k => some (d, w.read a <<< k.val)
  | .wshri d a k => some (d, w.read a >>> k.val)
  | .wand d a b => some (d, w.read a &&& w.read b)
  | .wli d i => some (d, i.signExtend 64)
  | _ => none

/-- Condition and displacement in syllables of a walker branch. -/
def walkerBranch (w : Walk) : Instr → Option (Bool × Int)
  | .wbeq a b i => some (decide (w.read a = w.read b), i.toInt)
  | .wbne a b i => some (decide (w.read a ≠ w.read b), i.toInt)
  | .wblt a b i => some (decide ((w.read a).toInt < (w.read b).toInt), i.toInt)
  | .wj i => some (true, i.toInt)
  | _ => none

/-! ### The mailbox (R360, R361, R368, R383) -/

/-- A request of this command waits for its answer. -/
def pendingCommand (s : State) (fn cmd : Nat) : Bool :=
  (tenantOf s fn).mbBusy && reqCmd (tenantOf s fn) == cmd && isKnownCmd s cmd

/-- Code of a mailbox event of a function, and whether it is for the physical function alone. -/
def commandOf (fn : Nat) : Instr → Option (Nat × Bool)
  | .regionCreate f => if f = fn then some (0x01, false) else none
  | .regionFree f => if f = fn then some (0x02, false) else none
  | .regionDma f => if f = fn then some (0x03, false) else none
  | .kernelLoad f => if f = fn then some (0x04, false) else none
  | .faultRead f => if f = fn then some (0x05, false) else none
  | .ctxControl f => if f = fn then some (0x06, false) else none
  | .attest f => if f = fn then some (0x07, false) else none
  | .healthRead f => if f = fn then some (0x08, false) else none
  | .journalRead f => if f = fn then some (0x09, false) else none
  | .tenantCreate f => if f = fn then some (0x10, true) else none
  | .tenantDestroy f => if f = fn then some (0x11, true) else none
  | .setAllowCmd f => if f = fn then some (0x12, true) else none
  | .sealSet f => if f = fn then some (0x13, true) else none
  | .healthLogRead f => if f = fn then some (0x14, false) else none
  | .powerSet f => if f = fn then some (0x15, true) else none
  | .telemetry f => if f = fn then some (0x16, false) else none
  | .imageWrite f => if f = fn then some (0x20, true) else none
  | _ => none

/-! ### Invariants -/

/-- The package's memory stands in canonical form. -/
def MemoryOk (s : State) : Prop := Memory.wf s.mem

end Sys2Proof.Machine
end

