-- ==== Sys2Proof/Certificates/Slice0/Obligations.lean ====
section
/-! DEFINITION. The statements of this model (OBLIGATIONS.json lists them). -/

open Sys2Proof Sys2Proof.Machine

/-! ### Encodings (R144, R147, R160–R162) -/

/-- Words written out from the spec's encodings decode to their instructions: the worked words of R197 to R203 and of the
mask and idle operations (R172, R173), in their slots. An OP value with no assigned operation in its slot is refused with REASON
4, and a walker syllable with an unassigned OP is refused (R151–R160, R162). -/
def Obligations.SpecWordsDecode : Prop :=
  decodeOp .s0 [0x02084180] = .ok (.sub 1 2 3) ∧ decodeOp .s1 [0x02084180] = .ok (.sub 1 2 3) ∧
  decodeOp .s0 [0x44188000] = .ok (.clz 3 4) ∧ decodeOp .s0 [0x4E084180] = .ok (.ceilm 1 2 3) ∧
  decodeOp .s0 [0x04182004] = .ok (.addi 3 1 4) ∧ decodeOp .s0 [0x42280123] = .ok (.lih 5 0x123) ∧
  decodeOp .s0 [0x36086202] = .ok (.sel 1 2 3 4) ∧ decodeOp .s0 [0x4A0840C8] = .ok (.extz 1 2 8 3) ∧
  decodeOp .s0 [0x0828C380] = .ok (.mulh 5 6 7) ∧ decodeOp .s0 [0x0E502100] = .ok (.div 10 1 2) ∧
  decodeOp .br [0x28006000] = .ok (.mpush 3) ∧ decodeOp .br [0x2E000500] = .ok (.idle 10) ∧
  (∀ (slot : Slot) (ws : List Nat), opLength slot (fOp (ws.getD 0 0)) = none → decodeOp slot ws = .error (0, 4)) ∧
  (∀ w : Nat, fieldOf w 26 6 = 0 ∨ 0x17 < fieldOf w 26 6 → decodeWalker w = none)

/-- Decode and encode agree on every well-formed operation of a slot, with every operand at every value its encoding admits,
and the operation is as many syllables long as its slot and OP say (R147–R159); so they do on every walker syllable (R160). -/
def Obligations.DecodeOfEncode : Prop :=
  (∀ (i : Instr) (slot : Slot), i.wf = true → standsIn i slot = true →
      decodeOp slot (encode i) = .ok i ∧ opLength slot (fOp ((encode i).getD 0 0)) = some (encode i).length ∧
      ∀ w ∈ encode i, w < 2 ^ 32) ∧
  (∀ i : Instr, i.wf = true → isWalker i = true → ∃ w, encode i = [w] ∧ w < 2 ^ 32 ∧ decodeWalker w = some i)

/-- What decodes is well-formed, and no other words mean the same: the words are the encoding of what they decode to, so no
bit of an operation or of a walker syllable is ignored (R147–R161). -/
def Obligations.EncodeOfDecode : Prop :=
  (∀ (slot : Slot) (ws : List Nat) (i : Instr), (∀ w ∈ ws, w < 2 ^ 32) →
      opLength slot (fOp (ws.getD 0 0)) = some ws.length → decodeOp slot ws = .ok i → i.wf = true ∧ encode i = ws) ∧
  (∀ (w : Nat) (i : Instr), w < 2 ^ 32 → decodeWalker w = some i → i.wf = true ∧ encode i = [w])

/-! ### Reset and the step (R5, R21, R29, R57, R129, R135, R161, R368) -/

/-- The machine at reset: the counters, allowances, modes and queue registers that the spec gives a value, with no task, no
memory listed and nothing booted. Registers to which the spec gives no reset value stand at 0, a choice of the model
(notes/assumptions/2), and so does memory (notes/assumptions/1). -/
def Obligations.ResetState : Prop :=
  let s := State.reset
  s.gcc = 0 ∧ s.phase = .start ∧ s.booted = false ∧ s.bootStep = 0 ∧ s.clock = 700 ∧ s.mem = [] ∧
  (∀ k, (ctxOf s k).task = none ∧ (ctxOf s k).mode = .user ∧ (ctxOf s k).flights = [] ∧ (ctxOf s k).untimed = [] ∧
    (ctxOf s k).mask = [] ∧ (ctxOf s k).loops = [] ∧ (∀ r, (ctxOf s k).readS r = 0) ∧
    (∀ t : TileIx, (ctxOf s k).prec[t] = 0x4277) ∧
    (ctxOf s k).ttc = 0 ∧ (ctxOf s k).vmode = 0 ∧ (ctxOf s k).vflags = 0 ∧ (ctxOf s k).hstat = 0 ∧ (ctxOf s k).heapLim = 0 ∧
    (ctxOf s k).tstate = 0 ∧ (ctxOf s k).trtgt = 0 ∧ (ctxOf s k).trttc = 0 ∧ (∀ i : Fin 8, (ctxOf s k).winlog[i] = 0)) ∧
  (∀ n, (coreOf s n).ptsel = 0 ∧ (coreOf s n).pgres = none ∧ (coreOf s n).target = 6400 ∧ (coreOf s n).value = 6400 ∧ (coreOf s n).strict = false ∧
    (∀ i : Fin 3, (coreOf s n).ecnt[i] = 0)) ∧
  (∀ k, k < 1536 → ∀ t : Fin 5, readCR s k (0x18 + t.val) = 1) ∧
  (∀ d, (dieOf s d).spares = 2 ∧ (dieOf s d).faults = []) ∧
  (∀ p w, portWord (portOf s p) w = 0) ∧
  (∀ f, (tenantOf s f).en = false ∧ (tenantOf s f).tda = false ∧ (tenantOf s f).drop = 0 ∧ (tenantOf s f).bad = 0 ∧
    (tenantOf s f).ntsel = 0 ∧ (tenantOf s f).winEn = false ∧ (tenantOf s f).mbBusy = false ∧ (tenantOf s f).mbDone = false ∧
    (tenantOf s f).ptroot = 0 ∧ (tenantOf s f).live = false ∧ (tenantOf s f).rollmax = 4 ∧ (tenantOf s f).pwait = 50)

/-- One step runs what the machine decodes (R21, R161, R284, R288). In the issue phase, when the context that holds a core's
width may issue, the bytes at its pc decode to bundle `b`, the window rule lets it pass and no loop ends in a delay slot, the
operations of `b` run in MASK order, each by `exec`; the bundle is finished if none faults, and otherwise the first fault is
taken and nothing else of the bundle has an effect. In the walk phase a walk that waits for nothing executes the syllable at
its offset by `exec`, unless that would write AB lines of its core in a cycle in which that buffer has been written (R75). An
event at the head of the inputs comes first (log 4). -/
def Obligations.StepRuns : Prop :=
  (∀ (s t : State) (n : Nat) (r : List Nat) (i : Fin 4) (b : Bundle),
      s.inputs = [] → s.phase = .issue → s.agenda = n :: r → (coreOf s n).width = some i →
      t = { s with agenda := r, cur := n * 4 + i.val, issueFault := none } →
      canIssue s (n * 4 + i.val) = true → checkBundle t (n * 4 + i.val) = .ok b →
      windowCheck (hereCore t) t.gcc b.weight (newDraws t b) = .fits →
      endsInDelay (here t) = false →
      ∃ u, runOps (activeOps (here t) b) (underWay t b.weight (newDraws t b)) = .next u ∧
        (u.issueFault = none →
          step s = .next (commitBundle u b.weight (vectorWeight (activeOps (here t) b)) b.count)) ∧
        (∀ c v, u.issueFault = some (c, v) → step s = .next (trapBundle { t with fresh := u.fresh } c (some v)))) ∧
  (∀ (s : State) (clus : Nat) (r : List Nat) (w : Walk) (word : Nat) (i : Instr),
      s.inputs = [] → s.phase = .walk → clus < 4096 → s.agenda = visit 1 clus 0 :: r →
      (clusterOf s clus).walk = some w → (ctxOf s w.ctx).freeze = none → w.late = none → w.stop = false → w.pend = none →
      w.held = none → w.waitTile = none → let t := { s with agenda := r, walker := clus }
      walkFetch t w w.pc = some word → decodeWalker word = some i → meetsWalkWrite t w = false → step s = exec i t) ∧
  (∀ (s : State) (i : Instr) (r : List Instr), s.inputs = i :: r → i.isEvent = true →
      step s = exec i { s with inputs := r })

/-- The bytes of a well-formed instruction at the pc run that instruction: a context in a mode that may run it, which holds
the width and may issue, at a pc whose code holds the header of one slot and the encoding of `i`, comes in one step to the state in which
`exec i` has acted and the pc has moved behind the bundle (or where a redirect or loop takes it), if `exec i` raises nothing
(R144, R145, R161, R165). -/
def Obligations.StepRunsInstruction : Prop :=
  ∀ (s t u : State) (n : Nat) (r : List Nat) (x : Fin 4) (i : Instr) (slot : Slot) (w a : Nat),
    i.wf = true → standsIn i slot = true → w < 256 → opWeight i ≤ w →
    s.inputs = [] → s.phase = .issue → s.agenda = n :: r → (coreOf s n).width = some x →
    t = { s with agenda := r, cur := n * 4 + x.val, issueFault := none } →
    canIssue s (n * 4 + x.val) = true → (isSupervisorOnly i = true → (here t).mode = .supervisor) →
    (isUserOnly i = true → (here t).mode = .user) →
    codeAddr (here t) (here t).pc = some a → a % 64 + 4 * ((encode i).length + 1) ≤ 64 → isCode t (here t) = true →
    bundleWords t (here t) = encodeHeader [slot] (encode i).length w :: encode i →
    windowCheck (hereCore t) t.gcc w (drawsOf t i) = .fits → endsInDelay (here t) = false →
    exec i { underWay t w (drawsOf t i) with slot := slot } = .next u →
    u.issueFault = none →
    step s = .next (commitBundle u w (if [Slot.v0, .v1, .vx, .vp, .vm].contains slot then opWeight i else 0) (encode i).length)

/-- No instruction and no event ever ends the machine: `exec` answers a next state in every state, and so does `step`, except
where the inputs hold something that is no event. Where the outside world does nothing, a step leaves GCC as it is or ends the
cycle, which adds one and begins the next (R25). -/
def Obligations.NothingStops : Prop :=
  (∀ (i : Instr) (s : State), ∃ t, exec i s = .next t) ∧
  (∀ s : State, (∃ t, step s = .next t) ∨
    (step s = .fault .notAnEvent ∧ ∃ i r, s.inputs = i :: r ∧ i.isEvent = false)) ∧
  (∀ s t : State, s.inputs = [] → step s = .next t →
    t.gcc = s.gcc ∨ (s.phase = .boundary ∧ t.gcc = s.gcc + 1 ∧ t.phase = .start ∧ t.agenda = []))

/-- Memory keeps its canonical form: addresses strictly rising, no byte listed that reads as an unlisted one does. -/
def Obligations.MemoryFormKept : Prop := ∀ s t : State, MemoryOk s → step s = .next t → MemoryOk t

/-- Memory has its canonical form at reset. -/
def Obligations.MemoryFormAtReset : Prop := MemoryOk State.reset

/-- An operation at issue writes no register and no storage: whatever operation of a slot runs, when it raises nothing every
register, flag and control register of every context, every byte of memory and of the typed buffers, the tiles, barriers,
energy state, queues and walker programs are as before; its effects are those it has put in flight (R29, R100, R101). One operation
puts something into a queue at issue: a WSTOP whose context has a walk that has not begun, whose end of stream enters it at once (R297);
that one is left out here, and WalkerControl states it. -/
def Obligations.IssueWritesNothing : Prop :=
  ∀ (i : Instr) (s t : State), slotOf i ≠ none → s.issueFault = none → exec i s = .next t → t.issueFault = none →
    (i = .wstop → ∀ w ∈ (clusterOf s (clusIx s.cur)).startQ, w.ctx = s.cur → w.begun = true) →
    (∀ k, SameRegisters (ctxOf s k) (ctxOf t k)) ∧ SameStores s t ∧ t.gcc = s.gcc

/-! ### Scalar operations (R164, R196–R203) -/

/-- Every S operation writes its destination, and only that, at issue plus its latency with the value of its entry, its
operands read at issue, and a division occupies its slot for 20 cycles; a result for s0 is discarded. No operand value makes
it trap: it runs in every state in which its slot is free and no other result of its register lands in that cycle. Its two
faults at issue are slot busy with the slot's code and write collision with the register (R102, R164, R196–R203). -/
def Obligations.ScalarResults : Prop :=
  (∀ (s : State) (i : Instr) (lat occ : Nat) (d : SReg) (x : W64), i.wf = true →
      scalarResult (here s) i = some (lat, occ, d, x) → Lands s lat (.s d x) →
      exec i s = .next (scheduled (occupy s occ) lat (.s d x) 0 none)) ∧
  (∀ (s : State) (i : Instr) (lat occ : Nat) (d : SReg) (x : W64), scalarResult (here s) i = some (lat, occ, d, x) →
      (slotFree s = false → exec i s = .next (raiseAtIssue s 0x03 (some (BitVec.ofNat 64 s.slot.code)))) ∧
      (slotFree s = true → noCollision s lat (.s d x) = false →
        exec i s = .next (raiseAtIssue s 0x0A (some (BitVec.ofNat 64 d.val)))))

/-- SEL (R200), whole: its encoding, the refusal of FN[6] in both slots, its weight, its effect at +1 from three sources read
at issue, and the two faults of every S operation: slot busy and write collision (R196). -/
def Obligations.SelectRule : Prop :=
  (∀ d c a b : SReg, encode (.sel d c a b) = [0x1B * 2 ^ 25 + d.val * 2 ^ 19 + a.val * 2 ^ 13 + b.val * 2 ^ 7 + c.val] ∧
    opWeight (.sel d c a b) = 1) ∧
  encode (.sel 1 2 3 4) = [0x36086202] ∧
  (∀ (slot : Slot) (w : Nat), slot = .s0 ∨ slot = .s1 → w < 2 ^ 32 → fieldOf w 25 7 = 0x1B → fieldOf w 6 1 = 1 →
    ∃ e, decodeOp slot [w] = .error e) ∧
  (∀ (s : State) (d c a b : SReg), let x := if (here s).readS c ≠ 0 then (here s).readS a else (here s).readS b
    (Lands s 1 (.s d x) → exec (.sel d c a b) s = .next (scheduled s 1 (.s d x) 0 none)) ∧
    (slotFree s = false → exec (.sel d c a b) s = .next (raiseAtIssue s 0x03 (some (BitVec.ofNat 64 s.slot.code)))) ∧
    (slotFree s = true → noCollision s 1 (.s d x) = false →
      exec (.sel d c a b) s = .next (raiseAtIssue s 0x0A (some (BitVec.ofNat 64 d.val)))))

/-- The values of the divisions (R203): quotient toward zero and the remainder that goes with it, unsigned quotient down and
up, and the table's values for division by zero and for −2^63 / −1. CLZ counts the zeros above the highest one bit, POPC the
one bits, and CEILM gives the lowest multiple of 2^k at or above its operand, modulo 2^64 (R197). -/
def Obligations.ScalarValues : Prop :=
  (∀ a b : W64,
      (b = 0 → divSigned a b = -1 ∧ divUnsigned a b = -1 ∧ divCeil a b = -1 ∧ remSigned a b = a ∧ remUnsigned a b = a) ∧
      (a.toInt = -2 ^ 63 → b = -1 → divSigned a b = a ∧ remSigned a b = 0) ∧
      (b ≠ 0 → ¬(a.toInt = -2 ^ 63 ∧ b = -1) → (divSigned a b).toInt = a.toInt.tdiv b.toInt) ∧
      (b ≠ 0 → remSigned a b = a - b * divSigned a b) ∧
      (b ≠ 0 → (divUnsigned a b).toNat = a.toNat / b.toNat ∧ (remUnsigned a b).toNat = a.toNat % b.toNat) ∧
      (b ≠ 0 → a.toNat ≤ (divCeil a b).toNat * b.toNat ∧
        ((divCeil a b).toNat = 0 ∨ ((divCeil a b).toNat - 1) * b.toNat < a.toNat))) ∧
  ((∀ x : W64, leadingZeros x 64 ≤ 64 ∧ x.toNat < 2 ^ (64 - leadingZeros x 64) ∧
      (x ≠ 0 → x.getLsbD (63 - leadingZeros x 64) = true)) ∧
    (∀ x : W64, popCount x = ((List.range 64).map (fun i => x.toNat / 2 ^ i % 2)).sum) ∧
    (∀ a b : W64, let k := b.toNat % 64
      (ceilMultiple a b).toNat = (a.toNat + 2 ^ k - 1) / 2 ^ k * 2 ^ k % 2 ^ 64))

/-! ### Branches, loops and masks (R36–R43, R165–R173) -/

/-- Branches, calls, indirect jumps and BSEL (R40, R41, R165, R166, R171). A relative branch whose condition does not hold
changes nothing; one whose condition holds redirects to its own bundle's address plus four times its displacement. In a
delay bundle of a taken branch it raises the shadow branch, and so do the calls, the jump and BSEL, whatever else is wrong. A call's link register receives, at +1, the offset of the bundle
behind the second delay bundle, and a target that is no multiple of 4 raises the access fault. BSEL redirects too and reads its
table at +1, its PADM landing then. The two bundles after a branch issue in fall-through order, taken or not, and the bundle at the target of a taken
one issues third. -/
def Obligations.Branches : Prop :=
  (∀ (s : State) (i : Instr) (taken : Bool) (disp : W64), branchOf (here s) i = some (taken, disp) → slotFree s = true →
      (taken = false → exec i s = .next s) ∧
      (taken = true → (here s).redirect = none → exec i s = .next (redirected s ((here s).pc + disp) true)) ∧
      (taken = true → (here s).redirect ≠ none → exec i s = .next (raiseAtIssue s 0x04 none))) ∧
  (∀ s : State, slotFree s = true → (here s).redirect = none →
      (∀ x : BitVec 25, noCollision s 1 (.s 63 0) = true → exec (.call x) s =
        .next (scheduled (redirected s ((here s).pc + 4 * x.signExtend 64) false) 1 (.s 63 (returnOffset s (here s))) 0 none)) ∧
      (∀ d a : SReg, noCollision s 1 (.s d 0) = true → ((here s).readS a).toNat % 4 = 0 → exec (.calli d a) s =
        .next (scheduled (redirected s ((here s).readS a) false) 1 (.s d (returnOffset s (here s))) 0 none)) ∧
      (∀ a : SReg, ((here s).readS a).toNat % 4 = 0 → exec (.jmpi a) s = .next (redirected s ((here s).readS a) true)) ∧
      (∀ a b : SReg, let off := ((here s).readS b).toNat
        off % 8 = 0 → inPartition (here s) .dm off 8 = true → noPending s .dm off 8 = true →
        noCollision s 1 (.cr 0x60 0) = true →
        exec (.bsel a b) s = .next (flown (redirected s 0 true) 1 (.bselRead (((here s).readS a).setWidth 32) off)
          (landingOf s 1 (.cr 0x60 0)))) ∧
      (∀ d a : SReg, ((here s).readS a).toNat % 4 ≠ 0 →
        exec (.jmpi a) s = .next (raiseAtIssue s 0x16 none) ∧ exec (.calli d a) s = .next (raiseAtIssue s 0x16 none))) ∧
  (∀ (s : State) (i : Instr), slotFree s = true → (here s).redirect ≠ none →
      ((∃ x, i = .call x) ∨ (∃ d a, i = .calli d a) ∨ (∃ a, i = .jmpi a) ∨ (∃ a b, i = .bsel a b)) →
      exec i s = .next (raiseAtIssue s 0x04 none)) ∧
  (∀ (c : Ctx) (target : W64) (pops : Bool) (m n k : Nat), c.branch = some ⟨target, 2, pops⟩ → c.skip = none →
      let c1 := advancePc c m none
      let c2 := advancePc c1 n none
      let c3 := advancePc c2 k none
      c1.pc = c.pc + BitVec.ofNat 64 (4 * (m + 1)) ∧ c2.pc = c1.pc + BitVec.ofNat 64 (4 * (n + 1)) ∧ c3.pc = target ∧
      c1.redirect = some ⟨target, 2, pops⟩ ∧ c2.redirect = some ⟨target, 1, pops⟩ ∧ c3.redirect = none) ∧
  (∀ (c : Ctx) (m n : Nat), c.branch = none → c.redirect = none → c.skip = none →
      let c1 := advancePc c m none
      let c2 := advancePc c1 n none
      c1.pc = c.pc + BitVec.ofNat 64 (4 * (m + 1)) ∧ c2.pc = c1.pc + BitVec.ofNat 64 (4 * (n + 1)) ∧
      c1.redirect = none ∧ c2.redirect = none)

/-- A loop instruction with room on the loop stack enters its loop (R36, R37, R41, R167–R170): the entry's range begins at the next
bundle and ends at its displacement; LOOP and LOOPP are to set the loop counter, LOOPP the stage bits too, which LoopsEnd puts in flight
for +1 with the end test of the bundle, and SLOOP clears its predicate. With a trip count of 0 control goes on behind the end bundle, whether or not the stack is full. Without room, in
supervisor mode, or where its counter is held or a second LOOPP meets the active one, it raises the loop-stack trap (at trip
count 0 too, where for the second LOOPP log 98 chose so). In a delay bundle it raises the shadow branch, whatever else is wrong. -/
def Obligations.LoopsEntered : Prop :=
  (∀ (s : State) (i : Instr), slotFree s = true → (here s).redirect ≠ none →
    ((∃ a n x, i = .loop a n x) ∨ (∃ a n x st, i = .loopp a n x st) ∨ (∃ q p x, i = .sloop q p x)) →
    exec i s = .next (raiseAtIssue s 0x04 none)) ∧
  ∀ s : State, slotFree s = true → (here s).redirect = none →
    (∀ (a : SReg) (n : Fin 4) (x : BitVec 13), let trip := (here s).readS a
      (trip ≠ 0 → loopRoom (here s) (some n) false = true → exec (.loop a n x) s =
        .next (starting (entered s .loop n x trip 1 0 0) [(0x80 + n.val, trip)])) ∧
      (trip = 0 → (here s).mode = .user → loopClash (here s) (some n) false = false → exec (.loop a n x) s = .next (skipped s x)) ∧
      (trip = 0 → ((here s).mode = .supervisor ∨ loopClash (here s) (some n) false = true) →
        exec (.loop a n x) s = .next (raiseAtIssue s 0x15 none)) ∧
      (trip ≠ 0 → loopRoom (here s) (some n) false = false → exec (.loop a n x) s = .next (raiseAtIssue s 0x15 none))) ∧
    (∀ (a : SReg) (n : Fin 4) (x : BitVec 13) (st : Fin 8), let trip := (here s).readS a
      (trip ≠ 0 → loopRoom (here s) (some n) true = true → exec (.loopp a n x st) s =
        .next (starting (entered s .loopp n x trip (st.val + 1) 0 0) [(0x80 + n.val, trip + BitVec.ofNat 64 st.val), (0x88, 1)])) ∧
      (trip = 0 → (here s).mode = .user → loopClash (here s) (some n) true = false → exec (.loopp a n x st) s = .next (skipped s x)) ∧
      (trip = 0 → ((here s).mode = .supervisor ∨ loopClash (here s) (some n) true = true) →
        exec (.loopp a n x st) s = .next (raiseAtIssue s 0x15 none)) ∧
      (trip ≠ 0 → loopRoom (here s) (some n) true = false →
        exec (.loopp a n x st) s = .next (raiseAtIssue s 0x15 none))) ∧
    (∀ (q : QueueIx) (p : PReg) (x : BitVec 13), noCollision s 1 (.p p 0) = true →
      (loopRoom (here s) none false = true → exec (.sloop q p x) s =
        .next (scheduled (entered s .sloop 0 x 0 1 q.val p) 1 (.p p 0) 0 none)) ∧
      (loopRoom (here s) none false = false → exec (.sloop q p x) s = .next (raiseAtIssue s 0x15 none)))

/-- The end test (R36, R37, R168–R170): at its end bundle the innermost entry goes round while its counter is above 1, which
falls by one at +1; else it is popped and its counter cleared, and the same test is applied to the next entry, whose end may be the
same bundle. A bundle in supervisor mode has no end test (R167). A LOOPP also sets SP for the pass that begins: bit s for
s ≤ p < s + trip, where the number p of the pass follows LC, also after a SETC to it (the model's choice, notes/assumptions/115). What
a loop instruction of the bundle has to set goes in flight for +1 with it, at every end bundle and at any other bundle. -/
def Obligations.LoopsEnd : Prop :=
  (∀ (s : State) (e : LoopEntry) (r : List LoopEntry), let c := here s
      let us := c.loopState
      let lc := 0x80 + e.lc.val
      c.loops = e :: r →
      (e.stop ≠ c.pc → endTest s = (ending s (e :: r) us, none)) ∧
      (e.stop = c.pc → e.kind = .loop →
        (1 < c.lc[e.lc].toNat → endTest s = (ending s (e :: r) (us ++ [(lc, c.lc[e.lc] - 1)]), some e.start)) ∧
        (c.lc[e.lc].toNat ≤ 1 → endTest s = endTest (popped s r (us ++ [(lc, 0)])) ∧
          ((∀ f ∈ r, f.stop ≠ c.pc) → endTest s = (ending s r (us ++ [(lc, 0)]), none)))) ∧
      (e.stop = c.pc → e.kind = .loopp →
        (1 < c.lc[e.lc].toNat → endTest s = (ending s (e :: r) (us ++ [(lc, c.lc[e.lc] - 1),
          (0x88, (stageBits e.trip.toNat e.stages (e.trip.toNat + e.stages - c.lc[e.lc].toNat)).setWidth 64)]), some e.start)) ∧
        (c.lc[e.lc].toNat ≤ 1 → endTest s = endTest (popped s r (us ++ [(lc, 0), (0x88, 0)])) ∧
          ((∀ f ∈ r, f.stop ≠ c.pc) → endTest s = (ending s r (us ++ [(lc, 0), (0x88, 0)]), none)))) ∧
      (e.stop = c.pc → e.kind = .sloop →
        (c.readP e.pred ≠ BitVec.allOnes 128 → endTest s = (ending s (e :: r) us, some e.start)) ∧
        (c.readP e.pred = BitVec.allOnes 128 → endTest s = endTest (popped s r us) ∧
          ((∀ f ∈ r, f.stop ≠ c.pc) → endTest s = (ending s r us, none))))) ∧
  (∀ s : State, (here s).loops = [] → endTest s = (ending s [] (here s).loopState, none)) ∧
  (∀ (t : State) (w vw n : Nat),
    let done := fun (e : State × Option W64) =>
      let u := modCore e.1 (coreIx t.cur) (fun c => { c with weight := w, vweight := vw })
      leaveGroup (modHere u (fun c => advancePc c n e.2)) t.cur
    ((here t).mode = .user → commitBundle t w vw n = done (endTest t)) ∧
    ((here t).mode = .supervisor → commitBundle t w vw n = done (t, none))) ∧
  (∀ (trip stages p st : Nat), stages ≤ 8 →
    (stageBits trip stages p).getLsbD st = (decide (st < stages) && decide (st ≤ p) && decide (p - st < trip)))

/-- What BSEL's one read selects (R39, R171): the first bucket at or above v in table order, its padding to PADM and its entry
as the target; if there is none, PADM is 0 and the target is OVF. So it is where no line of the table is pending or fails its
parity. -/
def Obligations.BucketSelect : Prop :=
  (∀ (s : State) (k off nb j : Nat) (v : BitVec 32),
    fieldOf (bselEntry s k off 0) 0 32 = nb → nb ≤ 64 → inPartition (ctxOf s k) .dm off (8 * (nb + 1)) = true →
    firstPending s k .dm off (8 * (nb + 1)) = none → badBytes s k .dm off (8 * (nb + 1)) = [] → j < nb → v.toNat ≤ fieldOf (bselEntry s k off (j + 1)) 0 32 →
    (∀ i, i < j → fieldOf (bselEntry s k off (i + 1)) 0 32 < v.toNat) →
    fieldOf (bselEntry s k off (j + 1)) 32 32 % 4 = 0 →
    (ctxOf (bselRead s k v off) k).padm.toNat = fieldOf (bselEntry s k off (j + 1)) 0 32 - v.toNat ∧
    (ctxOf (bselRead s k v off) k).redirect =
      (ctxOf s k).redirect.map (fun r => { r with target := BitVec.ofNat 64 (fieldOf (bselEntry s k off (j + 1)) 32 32) })) ∧
  (∀ (s : State) (k off nb : Nat) (v : BitVec 32),
    fieldOf (bselEntry s k off 0) 0 32 = nb → nb ≤ 64 → inPartition (ctxOf s k) .dm off (8 * (nb + 1)) = true →
    firstPending s k .dm off (8 * (nb + 1)) = none → badBytes s k .dm off (8 * (nb + 1)) = [] → (∀ i, i < nb → fieldOf (bselEntry s k off (i + 1)) 0 32 < v.toNat) →
    fieldOf (bselEntry s k off 0) 32 32 % 4 = 0 →
    (ctxOf (bselRead s k v off) k).padm = 0 ∧
    (ctxOf (bselRead s k v off) k).redirect =
      (ctxOf s k).redirect.map (fun r => { r with target := BitVec.ofNat 64 (fieldOf (bselEntry s k off 0) 32 32) }))

/-- The mask stack (R43, R172): MPUSH stacks MT AND pA, MINV replaces MT by its parent AND NOT MT, MPOP returns to the parent,
each from the next bundle on. MPUSH at depth 16, and MINV and MPOP at depth 0, raise the mask-stack fault. In supervisor mode
they leave the stack alone. -/
def Obligations.MaskStack : Prop :=
  ∀ s : State, slotFree s = true →
    ((here s).mode = .user →
      (∀ a : PReg, (here s).mask.length < 16 → exec (.mpush a) s = .next (masked s (((here s).mt &&& (here s).readP a) :: (here s).mask))) ∧
      (∀ a : PReg, (here s).mask.length = 16 → exec (.mpush a) s = .next (raiseAtIssue s 0x0E none)) ∧
      (∀ m r, (here s).mask = m :: r → exec .mpop s = .next (masked s r) ∧
        exec .minv s = .next (masked s (((r.head?).getD (BitVec.allOnes 128) &&& ~~~m) :: r))) ∧
      ((here s).mask = [] → exec .mpop s = .next (raiseAtIssue s 0x0E none) ∧ exec .minv s = .next (raiseAtIssue s 0x0E none))) ∧
    ((here s).mode = .supervisor → (∀ a : PReg, exec (.mpush a) s = .next s) ∧ exec .minv s = .next s ∧ exec .mpop s = .next s) ∧
    (∀ (c : Ctx) (m : List PWord) (n : Nat), c.maskNext = some m → (advancePc c n none).mask = m)

/-! ### Waits, barriers, control registers, supervisor instructions (R31, R150, R173–R184, R195) -/

/-- A wait instruction begins its wait, at its own GCC and with its own bundle to name: END, YIELD and CSYNC in user mode, RTE
in supervisor mode, the others in both (R31, R174–R180, R192). WAITM compares its word at issue, whole or its low 32 bits,
signed or unsigned, and sets its deadline, where the word's page is not mapped with the page fault posted for it (R89, R336, R348), and
PCOMMIT reads its record at +1; a barrier name outside the tenant raises the
access fault. -/
def Obligations.WaitsBegin : Prop :=
  ((∀ (s : State) (i : Instr) (k : WaitKind), waitBegun s i = some k → slotFree s = true → waitMode (here s).mode i = true →
      exec i s = .next (waiting s k)) ∧
    (∀ (s : State) (d a b : SReg) (cc : Cmp) (w32 : Bool) (timeout : BitVec 16), let v := ((here s).readS a).toNat
      let n := if w32 then 4 else 8
      let begun := fun u => nextFresh (waiting u (.waitm d v ((here s).readS b) cc w32
        (if timeout = 0 then none else some (s.gcc + 1024 * timeout.toNat))
        (if monitorHit s s.cur v ((here s).readS b) cc w32 then some true else none))) 1
      slotFree s = true → (d = 0 ∨ (here s).resultCount < 16) → kindOf s s.cur v ≠ none → v % n = 0 →
      (heldPage s v = none → exec (.waitm d a b cc w32 timeout) s = .next (begun s)) ∧
      (heldPage s v ≠ none → exec (.waitm d a b cc w32 timeout) s = .next (begun (postMonitor s v n)))) ∧
    (∀ (s : State) (a b : SReg), let v := ((here s).readS a).toNat
      let off := ((here s).readS b).toNat
      slotFree s = true → kindOf s s.cur v = some (.dur, true) → v % 64 = 0 → off % 8 = 0 →
      inPartition (here s) .dm off 64 = true → noPending s .dm off 64 = true →
      exec (.pcommit a b) s = .next (flown (waiting s .pcommit) 1 (.pcommitRead v off) [])) ∧
    (∀ (s : State) (a b : SReg), slotFree s = true → barrierOk s ((here s).readS a) = false →
      exec (.barwait a b) s = .next (raiseAtIssue s 0x16 none) ∧ exec (.bararr a) s = .next (raiseAtIssue s 0x16 none))) ∧
  (∀ x y : W64,
      compareWord .eq false x y = decide (x = y) ∧ compareWord .ne false x y = decide (x ≠ y) ∧
      compareWord .lt false x y = decide (x.toInt < y.toInt) ∧ compareWord .ge false x y = decide (y.toInt ≤ x.toInt) ∧
      compareWord .ltn false x y = decide (x.toNat < y.toNat) ∧ compareWord .gen false x y = decide (y.toNat ≤ x.toNat) ∧
      compareWord .eq true x y = decide (x.setWidth 32 = y.setWidth 32) ∧
      compareWord .ne true x y = decide (x.setWidth 32 ≠ y.setWidth 32) ∧
      compareWord .lt true x y = decide ((x.setWidth 32).toInt < (y.setWidth 32).toInt) ∧
      compareWord .ge true x y = decide ((y.setWidth 32).toInt ≤ (x.setWidth 32).toInt) ∧
      compareWord .ltn true x y = decide ((x.setWidth 32).toNat < (y.setWidth 32).toNat) ∧
      compareWord .gen true x y = decide ((y.setWidth 32).toNat ≤ (x.setWidth 32).toNat))

/-- The BR operations that neither branch nor wait complete (R110, R112, R173, R179, R181, R183, R184): IDLE n idles n cycles,
BARINIT puts the write of its own core's barrier in flight for +1, BARARR and FENCE join the untimed order, TRAP posts cause 0x13
with its immediate, IPF changes nothing, and IPIN and IUNPIN change the pins of their level alone, by the blocks of their range
that lie in the code segment. A pin is of one block for one node; IPIN keeps every pin, pins blocks of its range for its node
only, all of them where they fit, and never passes the limit; IUNPIN drops exactly its node's pins of the range. Model's choice
(notes/assumptions/77): IPF changes nothing, a pin is of one block for one node, and IUNPIN drops its own node's. -/
def Obligations.ControlOperations : Prop :=
  (∀ s : State, slotFree s = true → let c := here s
    (∀ n : BitVec 12, exec (.idle n) s = .next (modHere s (fun c => { c with idle := n.toNat }))) ∧
    (∀ a b : SReg, exec (.barinit a b) s =
      .next (flown s 1 (.barInit ((c.readS a).toNat % 64) ((c.readS b).setWidth 16)) [])) ∧
    (∀ a : SReg, barrierOk s (c.readS a) = true →
      exec (.bararr a) s = .next (queued s (.arrive (barrierName (c.readS a))) none false [] [])) ∧
    (∀ sc : Scope, exec (.fence sc) s = .next (queued s (.fence sc) none false [] [])) ∧
    (∀ imm : BitVec 19, exec (.trap imm) s = .next (modHere s (fun c => { c with
      causes := c.causes ++ [(0x13, imm.setWidth 64)] }))) ∧
    (∀ (a b : SReg) (l : CacheLevel), exec (.ipf a b l) s = .next s) ∧
    (∀ a b : SReg, let blocks := codeBlocks c (c.readS a) (c.readS b)
      exec (.ipin a b false) s = .next (modHereCore s (fun x =>
        { x with pins := pinBlocks 0x2_0000 (nodeIds c) x.pins blocks })) ∧
      exec (.ipin a b true) s = .next (modCluster s (clusIx s.cur) (fun x =>
        { x with pins := pinBlocks 0x10_0000 (nodeIds c) x.pins blocks })) ∧
      exec (.iunpin a b false) s = .next (modHereCore s (fun x => { x with pins := unpinBlocks (nodeIds c) x.pins blocks })) ∧
      exec (.iunpin a b true) s = .next (modCluster s (clusIx s.cur) (fun x =>
        { x with pins := unpinBlocks (nodeIds c) x.pins blocks })))) ∧
  (∀ (limit : Nat) (ids : Nat × Nat) (pins : List (Nat × Nat × Nat)) (blocks : List Nat),
    let after := pinBlocks limit ids pins blocks
    (∀ p ∈ pins, p ∈ after) ∧ (∀ p ∈ after, p ∈ pins ∨ (p.2 = ids ∧ p.1 ∈ blocks)) ∧
    (pinnedBytes pins ≤ limit → pinnedBytes after ≤ limit) ∧
    (pinnedBytes (pins ++ blocks.map (fun b => (b, ids))) ≤ limit → ∀ b ∈ blocks, (b, ids) ∈ after) ∧
    (∀ p, p ∈ unpinBlocks ids pins blocks ↔ p ∈ pins ∧ ¬(p.2 = ids ∧ p.1 ∈ blocks)))

/-- GETC gives, at +1, the register as it stands at issue, and SETC writes a register that the mode may write at +2; a SETC
to a read-only register changes nothing, one to PGREQ of a system core is an untimed request too, and in user mode an index of
0x100 and above raises the privileged fault (R150, R182, R350). -/
def Obligations.ControlRegisterMoves : Prop :=
  (∀ (s : State) (d : SReg) (i : BitVec 13), ((here s).mode = .supervisor ∨ i.toNat < 0x100) →
    Lands s 1 (.s d (readCR s s.cur i.toNat)) →
    exec (.getc d i) s = .next (scheduled s 1 (.s d (readCR s s.cur i.toNat)) 0 none)) ∧
  (∀ (s : State) (a : SReg) (i : BitVec 13), ((here s).mode = .supervisor ∨ i.toNat < 0x100) → i.toNat ≠ 0x192 →
    (writableCR (here s).mode i.toNat = true → Lands s 2 (.cr i.toNat ((here s).readS a)) →
      exec (.setc a i) s = .next (scheduled s 2 (.cr i.toNat ((here s).readS a)) 0 none)) ∧
    (writableCR (here s).mode i.toNat = false → slotFree s = true → exec (.setc a i) s = .next s)) ∧
  (∀ (s : State) (a : SReg), (here s).mode = .supervisor → Lands s 2 (.cr 0x192 ((here s).readS a)) →
    Config.firstSystemCore ≤ coreIx s.cur → exec (.setc a 0x192) s =
      .next (scheduled (queued s (.pgreq ((here s).readS a)) none false [] []) 2 (.cr 0x192 ((here s).readS a)) 0 none)) ∧
  (∀ (s : State) (d a : SReg) (i : BitVec 13), (here s).mode = .user → 0x100 ≤ i.toNat → slotFree s = true →
    exec (.getc d i) s = .next (raiseAtIssue s 0x14 none) ∧ exec (.setc a i) s = .next (raiseAtIssue s 0x14 none))

/-- The control registers in their places (R17, R37, R53, R54, R57, R129, R137, R150, R188, R339, R349). GETC reads counters,
identifiers, coordinates and extents, the energy registers, modes and trap registers, each with zeros around it. After a write a
register holds the writable bits of the value, the reserved ones zero; of TSTATE, DBL, DEFER, WT, RCNT and RDIR alone change. A
landed SETC gives an energy counter its value. A system core reads its die's fault buffer and the roots of the tenant that PTSEL
names, and writes them; OVF clears only while nothing is held. On a compute core these registers read 0 and ignore writes. -/
def Obligations.ControlRegisters : Prop :=
  (∀ (s : State) (k : Nat), let c := ctxOf s k
      let n := coreOf s (coreIx k)
      readCR s k 0 = BitVec.ofNat 64 c.ttc ∧ readCR s k 1 = BitVec.ofNat 64 s.gcc ∧
      readCR s k 2 = BitVec.ofNat 64 (k % 4) ∧
      (k < 1536 → readCR s k 3 = BitVec.ofNat 64 (k / 4) ∧ readCR s k 4 = BitVec.ofNat 64 (k / 16) ∧
        readCR s k 5 = BitVec.ofNat 64 (k / 384)) ∧
      readCR s k 6 = BitVec.ofNat 64 s.pkgId ∧ readCR s k 7 = BitVec.ofNat 64 (nodeIds c).2 ∧
      (∀ (x : Task) (i : Fin 5) (v : Nat), c.task = some x → (x.tid[i.val]? = some v → readCR s k (0x10 + i.val) = BitVec.ofNat 64 v) ∧
        (x.text[i.val]? = some v → readCR s k (0x18 + i.val) = BitVec.ofNat 64 v)) ∧
      readCR s k 0x31 = BitVec.ofNat 64 (min (windowSum n s.gcc n.weight n.resv) 0xFFFF) ∧
      (∀ i : Fin 4, readCR s k (0x20 + i.val) = c.prec[i].setWidth 64 ∧ readCR s k (0x80 + i.val) = c.lc[i]) ∧
      (n.target < 2 ^ 13 → n.value < 2 ^ 13 → readCR s k 0x30 = BitVec.ofNat 64 (n.target * 2 ^ 32 + n.value)) ∧
      readCR s k 0x32 = (if n.strict then 1 else 0) ∧
      readCR s k 0x40 = c.heapBase ∧ readCR s k 0x41 = c.heapLim ∧ readCR s k 0x42 = c.heapOff ∧
      readCR s k 0x50 = c.vmode.setWidth 64 ∧ readCR s k 0x51 = c.flagsSeen.setWidth 64 ∧ readCR s k 0x60 = c.padm ∧
      readCR s k 0x70 = c.tvec ∧ readCR s k 0x71 = c.tcause.setWidth 64 ∧ readCR s k 0x72 = c.tpc ∧ readCR s k 0x73 = c.tval ∧
      readCR s k 0x74 = c.tframe ∧ readCR s k 0x75 = c.tstate.setWidth 64 ∧
      (∀ i : Fin 8, readCR s k (0x76 + i.val) = c.winlog[i].setWidth 64) ∧
      readCR s k 0x88 = (if c.mode = .supervisor then 0xFF else c.sp.setWidth 64) ∧
      readCR s k 0x90 = BitVec.ofNat 64 c.mask.length ∧ readCR s k 0xA0 = c.hstat ∧
      readCR s k 0x100 = c.trtgt ∧ readCR s k 0x101 = c.trttc ∧
      (∀ i : Fin 3, readCR s k (0x110 + i.val) = n.ecnt[i])) ∧
  (∀ (s : State) (k : Nat) (x : W64), let after := fun i => setCtx s k ((ctxOf s k).writeCR i x)
      (∀ i : Fin 4, readCR (after (0x20 + i.val)) k (0x20 + i.val) = x &&& 0x0FFF_FFFF ∧
        readCR (after (0x80 + i.val)) k (0x80 + i.val) = x) ∧
      readCR (after 0x50) k 0x50 = x &&& 3 ∧ readCR (after 0x51) k 0x51 = x &&& 0x1F ∧ readCR (after 0x60) k 0x60 = x ∧
      readCR (after 0x70) k 0x70 = x ∧ readCR (after 0x71) k 0x71 = x &&& 0xFF ∧ readCR (after 0x72) k 0x72 = x ∧
      readCR (after 0x73) k 0x73 = x ∧ readCR (after 0x74) k 0x74 = x ∧
      readCR (after 0x75) k 0x75 = ((readCR s k 0x75 &&& ~~~0xEE) ||| (x &&& 0xEE)) ∧
      ((ctxOf s k).mode = .user → readCR (after 0x88) k 0x88 = x &&& 0xFF) ∧
      readCR (after 0xA0) k 0xA0 = x &&& 0xFF_FF01 ∧ readCR (after 0x100) k 0x100 = x ∧ readCR (after 0x101) k 0x101 = x ∧
      (∀ i, i ∉ [0x20, 0x21, 0x22, 0x23, 0x50, 0x51, 0x60, 0x70, 0x71, 0x72, 0x73, 0x74, 0x75, 0x80, 0x81, 0x82, 0x83, 0x88,
        0xA0, 0x100, 0x101] → (ctxOf s k).writeCR i x = ctxOf s k)) ∧
  (∀ (s : State) (k i : Nat) (f : Flight) (x : W64), f.act = .result (.cr i x) 0 none →
      let t := performFlight s k f
      let n := coreOf s (coreIx k)
      let m := coreOf t (coreIx k)
      let d := dieOf s (dieIx k)
      (∀ j : Fin 3, i = 0x110 + j.val → m.ecnt = n.ecnt.set j x ∧ t.diesT = s.diesT ∧ t.tenants = s.tenants) ∧
      (384 ≤ coreIx k →
        (i = 0x180 → dieOf t (dieIx k) = { d with ovf := if x.getLsbD 63 ∧ d.held = [] then false else d.ovf }) ∧
        (i = 0x181 → (∀ e r, d.faults = e :: r → d.held = [] → dieOf t (dieIx k) = { d with faults := r }) ∧
          (d.faults = [] → t.diesT = s.diesT)) ∧
        (i = 0x190 → m.ptsel = x.setWidth 4) ∧ (i = 0x192 → m.pgreq = x &&& 0xFFFF_FFFF_FFFF_0000) ∧
        (i = 0x191 → (tenantOf t n.ptsel.toNat).ptroot = x &&& 0x1FFF_FFFF_E001)) ∧
      (coreIx k < 384 → i ∈ [0x180, 0x181, 0x184, 0x185, 0x186, 0x187, 0x190, 0x191, 0x192, 0x193] →
        t.diesT = s.diesT ∧ t.tenants = s.tenants ∧ t.cores = s.cores)) ∧
  (∀ (s : State) (k : Nat), let n := coreOf s (coreIx k)
      let d := dieOf s (dieIx k)
      (384 ≤ coreIx k →
        (d.held.length < 2 ^ 16 → d.faults.length ≤ 4096 → readCR s k 0x180 =
          BitVec.ofNat 64 ((if d.ovf then 2 ^ 63 else 0) + d.held.length * 2 ^ 32 + d.faults.length)) ∧
        (∀ e r, d.faults = e :: r → readCR s k 0x184 = e.w0 ∧ readCR s k 0x185 = e.w1 ∧ readCR s k 0x186 = e.w2 ∧ readCR s k 0x187 = e.w3) ∧
        (d.faults = [] → ∀ i : Fin 4, readCR s k (0x184 + i.val) = 0) ∧
        readCR s k 0x190 = n.ptsel.setWidth 64 ∧ readCR s k 0x191 = (tenantOf s n.ptsel.toNat).ptroot ∧ readCR s k 0x192 = n.pgreq ∧
        (n.pgres = none → readCR s k 0x193 = 0) ∧
        (∀ r, n.pgres = some r → readCR s k 0x193 = r.setWidth 64 ||| (1 <<< 63))) ∧
      (coreIx k < 384 → ∀ i ∈ [0x180, 0x181, 0x184, 0x185, 0x186, 0x187, 0x190, 0x191, 0x192, 0x193], readCR s k i = 0))

/-- The supervisor instructions in supervisor mode (R136, R195): allowance posts for the own or the named core, the untimed
image, segment and translation commands, a freeze posted for 512 cycles later whose boundary becomes the result, the thaw of a
frozen or halted context, which then waits like any frozen one for its phase and its core's width, a message of 64 bytes of DM, and
HALT. A context outside the tenant or the package raises the access fault. That the HALT of a handler of TRAP posts its immediate as
cause 0x26 is the model's reading of R336 (notes/assumptions/65). -/
def Obligations.SupervisorOperations : Prop :=
  ∀ s : State, slotFree s = true → (here s).mode = .supervisor →
    (∀ a b : SReg, exec (.setallow a b false) s = .next { s with posts := s.posts ++ [⟨s.cur / 4, s.gcc, false, (here s).readS b⟩] } ∧
      exec (.setallowMode a b false) s = .next { s with posts := s.posts ++ [⟨s.cur / 4, s.gcc, true, (here s).readS b⟩] } ∧
      (((here s).readS a).toNat % 512 < Config.cores →
        exec (.setallow a b true) s =
          .next { s with posts := s.posts ++ [⟨((here s).readS a).toNat % 512, s.gcc, false, (here s).readS b⟩] } ∧
        exec (.setallowMode a b true) s =
          .next { s with posts := s.posts ++ [⟨((here s).readS a).toNat % 512, s.gcc, true, (here s).readS b⟩] })) ∧
    (∀ (d a b : SReg) (k : Nat), namedCtx s ((here s).readS a) = some k → resultRoom s (resultFor d) = true →
      exec (.ctxsave d a b) s = .next (queued s (.ctxsave k ((here s).readS b).toNat) (resultFor d) false [] []) ∧
      exec (.ctxload d a b) s = .next (queued s (.ctxload k ((here s).readS b).toNat) (resultFor d) false [] []) ∧
      exec (.segload d a b) s = .next (queued s (.segload k ((here s).readS b).toNat) (resultFor d) false [] []) ∧
      exec (.gfreeze d a) s = .next (postPre (queued s (.gfreeze k
        (((ctxOf s k).freeze.map (fun z => z.f)).getD (s.gcc + 512))) (resultFor d) false [] []) k)) ∧
    (∀ (a b : SReg) (k h : Nat), namedCtx s ((here s).readS a) = some k → (ctxOf s k).freeze = none →
      (ctxOf s k).halted = some h → exec (.gthaw a b) s = .next (modCtx s k (fun c => { c with
        halted := none, freeze := some ⟨h, [], max ((here s).readS b).toNat (s.gcc + 1)⟩ }))) ∧
    (∀ (a b : SReg) (k : Nat) (f : Freeze), namedCtx s ((here s).readS a) = some k → (ctxOf s k).freeze = some f →
      (.pre ∈ f.marks ∨ .pf ∈ f.marks) → exec (.gthaw a b) s =
        .next (clearGroup (clearGroup s k .pre (max ((here s).readS b).toNat (s.gcc + 64))) k .pf
          (max ((here s).readS b).toNat (s.gcc + 64)))) ∧
    (∀ (a b : SReg) (k : TlbKind), exec (.tlbinv a b k) s =
      .next (queued s (.tlbinv k ((here s).readS a) (((here s).readS b).toNat % 2 ^ 16)) none false [] [])) ∧
    (∀ a b : SReg, portReadable s ((here s).readS b).toNat 64 1 = true → exec (.msgsend a b) s =
      .next (queued s (.message (((here s).readS a).toNat % 8)
        (memReadList (bufPrior s s.cur .dm ((here s).readS b).toNat 64) 0 64)) none false [] [])) ∧
    (let t := modHere s (fun c => { c with halted := some s.gcc });
      exec .halt s = .next (if (here s).tcause = 0x13 ∧ (here s).task.isSome then
        postCtxFault t s.cur 0 0x26 (here s).tval 0 (here s).tpc.toNat else t)) ∧
    (∀ d a b : SReg, namedCtx s ((here s).readS a) = none →
      exec (.ctxsave d a b) s = .next (raiseAtIssue s 0x16 none) ∧ exec (.ctxload d a b) s = .next (raiseAtIssue s 0x16 none) ∧
      exec (.segload d a b) s = .next (raiseAtIssue s 0x16 none) ∧ exec (.gfreeze d a) s = .next (raiseAtIssue s 0x16 none) ∧
      exec (.gthaw a b) s = .next (raiseAtIssue s 0x16 none))

/-- In user mode every supervisor instruction, and RTE, raises the privileged fault and does nothing, and a bundle that holds
one of R195's is refused before anything of it runs (R161 step 5, R192, R195). -/
def Obligations.Privilege : Prop :=
  (∀ (s : State) (i : Instr), isSupervisorOnly i = true ∨ i = .rte → slotFree s = true → (here s).mode = .user →
    exec i s = .next (raiseAtIssue s 0x14 none)) ∧
  (∀ (b : Bundle), archWeight b ≤ b.weight → (∃ o ∈ b.ops, isSupervisorOnly o.instr = true) →
    checkMode .user b = .error (0x14, none))

/-! ### Traps (R185–R193, R303) -/

/-- Taking a trap in user mode (R185–R189): cause, resume point, value, TTC and the pending redirect go to their registers,
everything in flight goes to the snapshot with its delay, the mode becomes supervisor and the handler begins at TVEC eight
cycles later at TTC 0; the general registers, the mask and the loop stack stay as they were, and so does every register of
every other context. The frame stands in DM at TFRAME, and no other byte of any buffer or of memory changes. -/
def Obligations.TrapTaken : Prop :=
  ∀ (s : State) (k cause : Nat) (v tpc : W64) (wt defer : Bool), let c := ctxOf s k
    let t := takeTrap s k cause (some v) tpc wt defer
    let d := ctxOf t k
    c.mode = .user → frameFits c = true → cause < 256 →
    d.mode = .supervisor ∧ d.pc = c.tvec ∧ d.ttc = 0 ∧ d.resume = s.gcc + 8 ∧
    d.tcause.toNat = cause ∧ d.tpc = tpc ∧ d.tval = v ∧ d.trttc = BitVec.ofNat 64 c.ttc ∧
    d.trtgt = (c.redirect.map (fun r => r.target)).getD 0 ∧ d.tstate.getLsbD 1 = c.redirect.isSome ∧
    d.tstate.getLsbD 0 = false ∧ d.tstate.getLsbD 5 = wt ∧ d.tstate.getLsbD 6 = defer ∧ d.redirect = none ∧
    d.flights = [] ∧ d.untimed = [] ∧ d.snapU = c.untimed ∧
    d.snap = c.flights.map (fun f => ⟨f, f.due - c.ttc, none⟩) ∧
    d.s = c.s ∧ d.v = c.v ∧ d.p = c.p ∧ d.g = c.g ∧ d.mask = c.mask ∧ d.loops = c.loops ∧ d.lc = c.lc ∧ d.sp = c.sp ∧
    d.vmode = c.vmode ∧ d.vflags = c.vflags ∧ d.padm = c.padm ∧ d.prec = c.prec ∧
    (∀ j, j ≠ k → SameRegisters (ctxOf s j) (ctxOf t j)) ∧ t.mem = s.mem ∧
    (∀ i, i < (frameWords d s.gcc).length →
      memReadNat (coreOf t (coreIx k)).dm (c.base .dm + c.tframe.toNat + 8 * i) 8 = ((frameWords d s.gcc).getD i 0).toNat) ∧
    (∀ n b a, ¬(n = coreIx k ∧ b = .dm ∧ c.base .dm + c.tframe.toNat ≤ a ∧
        a < c.base .dm + c.tframe.toNat + 8 * (frameWords d s.gcc).length) →
      memRead ((coreOf t n).bufMem b) a = memRead ((coreOf s n).bufMem b) a)

/-- RTE restores what the trap saved (R192, R303): with the saved registers as the trap left them, resuming returns to user
mode at TPC with the TTC, the pending redirect (one with delay bundles left), every result in flight at its offset, the untimed work, the mask, the loop
stack and the registers of the moment of the trap. -/
def Obligations.TrapRoundTrip : Prop :=
  ∀ (s : State) (k cause g : Nat) (v tpc : W64) (after : W64), let c := ctxOf s k
    let u := resumeFromTrap { takeTrap s k cause (some v) tpc false false with gcc := g } k none after
    let d := ctxOf u k
    c.mode = .user → frameFits c = true → c.ttc < 2 ^ 64 → (∀ f ∈ c.flights, c.ttc ≤ f.due) →
    (∀ r, c.redirect = some r → 0 < r.left ∧ r.left < 4) → (∀ u ∈ c.untimed, u.late = []) →
    d.mode = .user ∧ d.pc = tpc ∧ d.ttc = c.ttc ∧ d.redirect = c.redirect ∧ d.flights = c.flights ∧ d.untimed = c.untimed ∧
    d.mask = c.mask ∧ d.loops = c.loops ∧ d.s = c.s ∧ d.v = c.v ∧ d.p = c.p ∧ d.g = c.g ∧ d.lc = c.lc ∧ d.sp = c.sp ∧
    d.vmode = c.vmode ∧ d.vflags = c.vflags ∧ d.padm = c.padm ∧ d.prec = c.prec ∧ d.snap = [] ∧ d.snapU = [] ∧ d.resume = g

/-- A cause that arises in supervisor mode, or a frame area outside the DM partition, is a double fault (R186, R193, R337), and so is,
by the model's choice (notes/assumptions/95), a TFRAME inside it that is not 64-byte aligned, as R189 has it: the
context freezes with DBL, an entry of cause 0x21 with the cause in SUB is posted to its die, and no register but TSTATE
changes, in which DBL is set. -/
def Obligations.DoubleFaults : Prop :=
  ∀ (s : State) (k cause : Nat) (v tpc : W64) (wt defer : Bool), let c := ctxOf s k
    let t := takeTrap s k cause (some v) tpc wt defer
    let d := ctxOf t k
    (c.mode = .supervisor ∨ frameFits c = false) → c.group = [] → (dieOf s (dieIx k)).faults.length < 4096 →
    d.tstate = c.tstate ||| 0x80 ∧ (∃ f, d.freeze = some f ∧ .dbl ∈ f.marks) ∧ SameRegisters { c with tstate := d.tstate } d ∧
    (∃ e, (dieOf t (dieIx k)).faults = (dieOf s (dieIx k)).faults ++ [e] ∧
      fieldOf e.w0.toNat 0 8 = 0x21 ∧ fieldOf e.w0.toNat 8 8 = cause % 256 ∧ e.w1 = BitVec.ofNat 64 s.gcc ∧ e.w2 = v) ∧
    t.mem = s.mem ∧ (∀ n b a, memRead ((coreOf t n).bufMem b) a = memRead ((coreOf s n).bufMem b) a)

/-! ### Loads, stores and atomics (R30, R89, R97, R101, R204–R211) -/

/-- The DM accesses at issue (R101, R205, R206, R209, R210): an aligned access inside the partition, not of a pending line,
reads or writes at +1, and a result lands at +3; an atomic reads its operands at issue. A load, store or atomic that is not aligned, or
leaves the partition, raises the access fault, one of a pending line the pending-line fault, and a load or atomic whose result
meets another of its register in its cycle the write collision, of these the lowest code, by the model's reading
(notes/assumptions/15). -/
def Obligations.DmAccesses : Prop :=
  ((∀ (s : State) (d a b : SReg) (sx : Bool) (sz : Sz), let addr := ((here s).readS a + (here s).readS b).toNat
      slotFree s = true → dmOk s addr (sizeOf' sz) = true → noCollision s 3 (.s d 0) = true →
      exec (.ld d a b sx sz) s = .next (flown s 1 (.dmRead d addr (sizeOf' sz) sx) (landingOf s 3 (.s d 0)))) ∧
    (∀ (s : State) (d a b : SReg) (sz : Sz), let addr := ((here s).readS a + (here s).readS b).toNat
      slotFree s = true → dmOk s addr (sizeOf' sz) = true →
      exec (.st d a b sz) s = .next (flown s 1 (.dmWrite addr (bytesOfNat (sizeOf' sz) ((here s).readS d).toNat)) [])) ∧
    (∀ (s : State) (i : Instr) (op : AmoOp) (d a b : SReg) (sx : Bool) (sz : Sz), amoDmOf i = some (op, d, a, b, sx, sz) →
      slotFree s = true → dmOk s ((here s).readS a).toNat (sizeOf' sz) = true → noCollision s 3 (.s d 0) = true →
      exec i s = .next (flown s 1 (.dmAtomic d op ((here s).readS a).toNat (sizeOf' sz) sx ((here s).readS b)
        ((here s).readS d)) (landingOf s 3 (.s d 0))))) ∧
  (∀ (s : State) (d a b : SReg) (sx : Bool) (sz : Sz), slotFree s = true →
      let addr := ((here s).readS a + (here s).readS b).toNat
      let n := sizeOf' sz
      (noPending s .dm addr n = true → noCollision s 3 (.s d 0) = true →
        (addr % n ≠ 0 ∨ (here s).size .dm < addr + n) →
        exec (.ld d a b sx sz) s = .next (raiseAtIssue s 0x16 none) ∧ exec (.st d a b sz) s = .next (raiseAtIssue s 0x16 none)) ∧
      (∀ l, firstPending s s.cur .dm addr n = some l →
        exec (.ld d a b sx sz) s = .next (raiseAtIssue s 0x08 (some (bufVal l 3 false 8 8))) ∧
        exec (.st d a b sz) s = .next (raiseAtIssue s 0x08 (some (bufVal l 3 true 8 8)))) ∧
      (noPending s .dm addr n = true → noCollision s 3 (.s d 0) = false →
        exec (.ld d a b sx sz) s = .next (raiseAtIssue s 0x0A (some (BitVec.ofNat 64 d.val))))) ∧
  (∀ (s : State) (i : Instr) (op : AmoOp) (d a b : SReg) (sx : Bool) (sz : Sz), amoDmOf i = some (op, d, a, b, sx, sz) →
      slotFree s = true →
      let addr := ((here s).readS a).toNat
      let n := sizeOf' sz
      (noPending s .dm addr n = true → noCollision s 3 (.s d 0) = true → (addr % n ≠ 0 ∨ (here s).size .dm < addr + n) →
        exec i s = .next (raiseAtIssue s 0x16 none)) ∧
      (∀ l, firstPending s s.cur .dm addr n = some l → exec i s = .next (raiseAtIssue s 0x08 (some (bufVal l 3 true 8 8)))) ∧
      (noPending s .dm addr n = true → noCollision s 3 (.s d 0) = false →
        exec i s = .next (raiseAtIssue s 0x0A (some (BitVec.ofNat 64 d.val)))))

/-- The untimed accesses at issue (R30, R84, R89, R97, R205, R207, R211): an aligned access of a segment that allows it joins
the context's untimed work with its result-buffer entry, none for s0; where its page is not mapped it is held on the page and
the fault is posted. Its faults at issue are, in this order where several meet
(the model's reading, notes/assumptions/15), slot busy for a 17th register result, the segment fault
of a segment that is not there, that it may not write, or that no atomic may name, and the access fault of an address that is not
aligned. -/
def Obligations.GlobalAccesses : Prop :=
  ((∀ (s : State) (d a b : SReg) (sx : Bool) (sz : Sz), let v := ((here s).readS a + (here s).readS b).toNat
      slotFree s = true → segmentOk s v (sizeOf' sz) (fun _ => true) false = true → resultRoom s (resultFor d) = true →
      exec (.ldg d a b sx sz) s =
        .next (globalGiven s v (sizeOf' sz) false (.load v (sizeOf' sz) sx) (resultFor d) false)) ∧
    (∀ (s : State) (d a b : SReg) (sz : Sz), let v := ((here s).readS a + (here s).readS b).toNat
      slotFree s = true → segmentOk s v (sizeOf' sz) (fun _ => true) true = true →
      exec (.stg d a b sz) s =
        .next (globalGiven s v (sizeOf' sz) true (.store v (bytesOfNat (sizeOf' sz) ((here s).readS d).toNat)) none false)) ∧
    (∀ (s : State) (i : Instr) (op : AmoOp) (d a b : SReg) (sc : Scope) (sx : Bool) (sz : Sz),
      amoGlobalOf i = some (op, d, a, b, sc, sx, sz) → let v := ((here s).readS a).toNat
      slotFree s = true → segmentOk s v (sizeOf' sz) (atomicAllowed (here s)) true = true → resultRoom s (resultFor d) = true →
      exec i s = .next (globalGiven s v (sizeOf' sz) true
        (.atomic op v (sizeOf' sz) sx ((here s).readS b) ((here s).readS d) sc) (resultFor d) true))) ∧
  (∀ (s : State) (i : Instr) (x : UntimedAccess), untimedAccessOf (here s) i = some x → slotFree s = true →
      let allowed := (kindOf s s.cur x.addr).any (fun k => x.allowed k.1 && (!x.write || k.2))
      (resultRoom s x.res = false → exec i s = .next (raiseAtIssue s 0x03 (some (BitVec.ofNat 64 s.slot.code)))) ∧
      (resultRoom s x.res = true → allowed = false → exec i s = .next (raiseAtIssue s 0x0C none)) ∧
      (resultRoom s x.res = true → allowed = true → x.addr % x.size ≠ 0 → exec i s = .next (raiseAtIssue s 0x16 none)))

/-- The values that loads and atomics make (R3, R204, R206, R209): a load's is the little-endian number at its address,
extended to 64 bits by sign or by zeros; an atomic's new value is the sum modulo 2^n, the signed or unsigned minimum or
maximum, the bitwise operation, the exchange, or for compare-and-swap nothing where the old value does not match. -/
def Obligations.MemoryValues : Prop :=
  ((∀ (n : Nat) (x : BitVec (8 * n)), 0 < n → n ≤ 8 → extend true n x.toNat = x.signExtend 64 ∧
      extend false n x.toNat = x.setWidth 64) ∧
    (∀ (m : Memory) (a n : Nat), memReadNat m a (n + 1) = (memRead m a).toNat + 256 * memReadNat m (a + 1) n) ∧
    (∀ (m : Memory) (a n x : Nat), x < 2 ^ (8 * n) → memReadNat (memWriteNat m a n x) a n = x)) ∧
  (∀ (w : Nat) (old v c : BitVec (8 * w)), 0 < w →
      let new := fun op => amoNew op w old.toNat v.toNat c.toNat
      new .add = some (old + v).toNat ∧
      new .min = some (if old.toInt ≤ v.toInt then old else v).toNat ∧
      new .max = some (if v.toInt ≤ old.toInt then old else v).toNat ∧
      new .minn = some (min old.toNat v.toNat) ∧ new .maxn = some (max old.toNat v.toNat) ∧
      new .and = some (old &&& v).toNat ∧ new .or = some (old ||| v).toNat ∧ new .xor = some (old ^^^ v).toNat ∧
      new .swap = some v.toNat ∧ new .cas = (if old = c then some v.toNat else none))

/-! ### Effects in flight (R29, R54, R78, R100–R102) -/

/-- A timed effect performs in its cycle: the event takes the flight that is due out of its context and performs it, in each
of the classes that the spec names (R29, R270, R271, R254, R275, R230). A flight that is not due, or of a context that is
frozen, waits: its event changes nothing (R35). -/
def Obligations.FlightsPerform : Prop :=
  (∀ (s : State) (k i : Nat) (f : Flight), (ctxOf s k).flights[i]? = some f → isRunning s k = true → f.due = (ctxOf s k).ttc →
    let t := performFlight (setCtx s k { ctxOf s k with flights := (ctxOf s k).flights.eraseIdx i }) k f
    (classOf f.act = .result → exec (.timedResultPerform k i) s = .next t) ∧
    (classOf f.act = .copyLine → exec (.copyLineLand k i) s = .next t) ∧
    (classOf f.act = .followOn → exec (.copymFollowOnStart k i) s = .next t) ∧
    (classOf f.act = .group → exec (.mmaKgroupUpdate k i) s = .next t) ∧
    (classOf f.act = .arrival → exec (.xsendLineArrival k i) s = .next t) ∧
    (classOf f.act = .nest → exec (.vnestStep k i) s = .next t)) ∧
  (∀ (s : State) (k i : Nat), (isRunning s k = false ∨ ∀ f, (ctxOf s k).flights[i]? = some f → f.due ≠ (ctxOf s k).ttc) →
    exec (.timedResultPerform k i) s = .next s ∧ exec (.copyLineLand k i) s = .next s ∧ exec (.copymFollowOnStart k i) s = .next s ∧
    exec (.mmaKgroupUpdate k i) s = .next s ∧ exec (.xsendLineArrival k i) s = .next s ∧ exec (.vnestStep k i) s = .next s) ∧
  (∀ (s : State) (k : Nat), (ctxOf s k).freeze.isSome = true → isRunning s k = false)

/-- A register result writes its register and raises its flags, and nothing else: the register reads the new value, every
other register of the context and of every other one is as before, and so are memory, buffers and tiles. s0 and p0 stay as
they read (R54, R100, R138). -/
def Obligations.ResultPerforms : Prop :=
  ∀ (s : State) (k : Nat) (f : Flight) (w : RegWrite) (fl : Flags), f.act = .result w fl none → (∀ i x, w ≠ .cr i x) →
    let c := ctxOf s k
    let t := performFlight s k f
    let d := ctxOf t k
    (∀ r, d.readS r = match w with
      | .s q x => if r = q ∧ r ≠ 0 then x else c.readS r
      | _ => c.readS r) ∧
    (∀ r, d.readP r = match w with
      | .p q x => if r = q ∧ r ≠ 0 then x else c.readP r
      | _ => c.readP r) ∧
    (∀ r, d.readV r = match w with
      | .v q m x => if r = q then (c.readV r &&& ~~~m) ||| (x &&& m) else c.readV r
      | _ => c.readV r) ∧
    (∀ r, d.readG r = match w with
      | .g q m x => if r = q then (c.readG r &&& ~~~m) ||| (x &&& m) else c.readG r
      | _ => c.readG r) ∧
    d.vflags = c.vflags ||| fl ∧
    SameRegisters { c with s := d.s, p := d.p, v := d.v, g := d.g, vflags := d.vflags } d ∧
    (∀ j, j ≠ k → SameRegisters (ctxOf s j) (ctxOf t j)) ∧ SameStores s t

/-- What DM accesses do when they perform (R72, R78, R99, R101, R206, R209). A store writes its bytes and no others: every other
byte of every buffer of every core, all of memory and every register are as before. A load reads at +1 and its register
receives the extended value two cycles later; an atomic reads and writes in one cycle; bytes of failed parity post data
poison. What is read is each byte as it stood before the writes of the cycle. -/
def Obligations.DmPerforms : Prop :=
  (∀ (s : State) (k addr : Nat) (f : Flight) (bytes : List Byte), f.act = .dmWrite addr bytes →
      lsRefused s k = false → s.refused.contains (.flight k f.seq) = false →
      let t := performFlight s k f
      let lo := (ctxOf s k).base .dm + addr
      (∀ i, i < bytes.length → memRead (coreOf t (coreIx k)).dm (lo + i) = bytes.getD i 0) ∧
      (∀ n b a, ¬(n = coreIx k ∧ b = .dm ∧ lo ≤ a ∧ a < lo + bytes.length) →
        memRead ((coreOf t n).bufMem b) a = memRead ((coreOf s n).bufMem b) a) ∧
      t.mem = s.mem ∧ t.ctxs = s.ctxs ∧ (∀ n, (coreOf t n).tiles = (coreOf s n).tiles ∧ (coreOf t n).barriers = (coreOf s n).barriers)) ∧
  ((∀ (s : State) (k addr n : Nat) (f : Flight) (d : SReg) (sx : Bool), f.act = .dmRead d addr n sx →
      badBytes s k .dm addr n = [] → lsRefused s k = false →
      performFlight s k f = again s k f (f.due + 2)
        (.result (.s d (extend sx n (memReadNat (bufPrior s k .dm addr n) 0 n))) 0 none)) ∧
    (∀ (s : State) (k addr n x : Nat) (f : Flight) (d : SReg) (op : AmoOp) (sx : Bool) (v c : W64),
      f.act = .dmAtomic d op addr n sx v c → badBytes s k .dm addr n = [] → lsRefused s k = false →
      let old := memReadNat (bufPrior s k .dm addr n) 0 n
      amoNew op n old (v.toNat % 2 ^ (8 * n)) (c.toNat % 2 ^ (8 * n)) = some x →
      performFlight s k f = again (again s k f (f.due + 2) (.result (.s d (extend sx n old)) 0 none)) k { f with res := [] } f.due
        (.dmWrite addr (bytesOfNat n x))) ∧
    (∀ (s : State) (k addr n : Nat) (f : Flight) (d : SReg) (sx : Bool), f.act = .dmRead d addr n sx →
      badBytes s k .dm addr n ≠ [] → ∃ v, (ctxOf (performFlight s k f) k).causes = (ctxOf s k).causes ++ [(0x0F, v)])) ∧
  (∀ (s : State) (k off len i : Nat) (b : Buf), i < len → let lo := (ctxOf s k).base b + off
    memRead (bufPrior s k b off len) i =
      (((coreOf s (coreIx k)).written.find? (fun w => w.1 == bufCode b && w.2.1 == lo + i)).map (fun w => w.2.2)).getD
        (memRead ((coreOf s (coreIx k)).bufMem b) (lo + i)))

/-! ### Stream registers (R244–R250) -/

/-- The AG operations (R244, R248–R250): GSET reads its 64 bytes at +1 and writes its register at +3; the others write a
field, a register or a descriptor at +1. A field write gives its field the value modulo its width and leaves every other field
alone; the strides alone read as signed numbers. -/
def Obligations.StreamOperations : Prop :=
  ((∀ (s : State) (d : GReg) (a b : SReg), let addr := ((here s).readS a + (here s).readS b).toNat
      slotFree s = true → addr % 64 = 0 → inPartition (here s) .dm addr 64 = true → noPending s .dm addr 64 = true →
      noCollision s 3 (.g d 0 0) = true →
      exec (.gset d a b) s = .next (flown s 1 (.gRead d addr) (landingOf s 3 (.g d 0 0)))) ∧
    (∀ (s : State) (d : GReg) (a : SReg) (f : Fin 27), Lands s 1 (.g d 0 0) →
      exec (.gsetf d a f) s = .next (scheduled s 1 (fieldWrite d f.val ((here s).readS a).toNat) 0 none)) ∧
    (∀ (s : State) (d : SReg) (a : GReg) (f : Fin 27), Lands s 1 (.s d 0) →
      exec (.gget d a f) s = .next (scheduled s 1 (.s d (BitVec.ofInt 64 (gFieldInt ((here s).readG a) f.val))) 0 none)) ∧
    (∀ (s : State) (d : GReg) (a : SReg), Lands s 1 (.g d 0 0) →
      exec (.gadv d a) s =
        .next (scheduled s 1 (fieldWrite d 17 (gField ((here s).readG d) 17 + ((here s).readS a).toNat)) 0 none)) ∧
    (∀ (s : State) (d : GReg), Lands s 1 (.g d 0 0) → exec (.grst d) s = .next (scheduled s 1 (fieldWrite d 17 0) 0 none)) ∧
    (∀ (s : State) (d : GReg) (a b : SReg), Lands s 1 (.g d 0 0) → ∃ m x, exec (.gmask d a b) s = .next (scheduled s 1 (.g d m x) 0 none) ∧
      (let g := ((here s).readG d &&& ~~~m) ||| (x &&& m)
       gField g 3 = ((here s).readS a).toNat % 256 ∧ gField g 4 = ((here s).readS b).toNat % 512 ∧
       ∀ f, f < 27 → f ≠ 3 → f ≠ 4 → gField g f = gField ((here s).readG d) f)) ∧
    (∀ (s : State) (d a : GReg), Lands s 1 (.g d 0 0) →
      exec (.gcopy d a) s = .next (scheduled s 1 (.g d (BitVec.allOnes 512) ((here s).readG a)) 0 none))) ∧
  ((∀ (c : Ctx) (d : GReg) (f g x : Nat), f < 27 → g < 27 →
      gField ((c.writeReg (fieldWrite d f x)).readG d) g =
        if g = f then x % 2 ^ (fieldSpec f).2.1 else gField (c.readG d) g) ∧
    (∀ (g : GWord) (f : Nat), f < 27 → ((12 ≤ f ∧ f ≤ 16) ∨ 22 ≤ f → gFieldInt g f = (BitVec.ofNat 16 (gField g f)).toInt) ∧
      (¬((12 ≤ f ∧ f ≤ 16) ∨ 22 ≤ f) → gFieldInt g f = gField g f)))

/-! ### Vectors and predicates (R43, R54, R70, R163, R212–R243) -/

/-- The elementwise operations, permutes and unpacks: each reads its sources at issue and lands, after the latency of its
class, in the lanes where its predicate and MT are set, with the flags of those lanes (R213, R215–R217, R223, R231–R234). A
special function keeps its slot busy for four cycles and lands at +12 (R220). -/
def Obligations.LaneOperations : Prop :=
  (∀ (s : State) (i : Instr) (o : LaneOp), laneOp (here s) i = some o → slotFree s = true →
      noCollision s o.lat (.v o.d 0 0) = true →
      let act := activity (here s) o.p
      exec i s = .next (scheduled s o.lat
        (.v o.d (laneMask o.t act) (ofLanes o.t.width o.t.lanes (fun j => (o.lane j).1)))
        (laneFlags o.t act (fun j => (o.lane j).2)) (if o.checked then shadowOf s o.t else none))) ∧
  (∀ (s : State) (i : Instr) (f : Sfu) (d : VReg) (a : VSrc) (p : PReg) (t : Ty), sfuOf (here s) i = some (f, d, a, p, t) →
      slotFree s = true → noCollision s 12 (.v d 0 0) = true →
      let c := here s
      let act := activity c p
      let lane := fun j => sfuValue f t.fmt c.rm (laneValue t (srcLane c t a j)) (Config.sfuResult f.code (tyCode t) (srcLane c t a j))
      exec i s = .next (scheduled (occupy s 4) 12 (.v d (laneMask t act) (ofLanes t.width t.lanes (fun j => (lane j).1)))
        (laneFlags t act (fun j => (lane j).2)) (shadowOf s t)))

/-- What a masked result does to its register and flags: an active lane receives its value, an inactive lane keeps its own,
and the flags raised are those of the active lanes. A lane is active where the predicate and MT both have bit i, or bit 2i for
32-bit lanes (R43, R54, R213). -/
def Obligations.LaneWrites : Prop :=
  (∀ (t : Ty) (act : PWord) (old : VWord) (f : Nat → Nat) (i : Nat), i < t.lanes →
    laneOf ((old &&& ~~~laneMask t act) ||| (ofLanes t.width t.lanes f &&& laneMask t act)) t.width i =
      if laneBit act t i then f i % 2 ^ t.width else laneOf old t.width i) ∧
  (∀ (t : Ty) (act : PWord) (g : Nat → Flags) (b : Nat), (laneFlags t act g).getLsbD b = true ↔
    ∃ i, i < t.lanes ∧ laneBit act t i = true ∧ (g i).getLsbD b = true) ∧
  (∀ (c : Ctx) (p : PReg) (t : Ty) (i : Nat), laneBit (activity c p) t i = (laneBit (c.readP p) t i && laneBit c.mt t i)) ∧
  (∀ c : Ctx, c.mode = .user → c.mask = [] → activity c 0 = BitVec.allOnes 128)

/-- The compares write a whole predicate register at +2: the bits of an active lane hold its outcome, those of an inactive
lane 0 (R218). Predicate logic and transfers land at +1, whatever MT and the predicates hold; PGET and PCNT give a scalar
(R239, R240). -/
def Obligations.ComparesAndPredicates : Prop :=
  ((∀ (s : State) (i : Instr) (o : CompareOp), compareOp (here s) i = some o → Lands s 2 (.p o.d 0) →
      let act := activity (here s) o.p
      exec i s = .next (scheduled s 2 (.p o.d (ofLaneBits o.t (fun j => laneBit act o.t j && (o.lane j).1)))
        (laneFlags o.t act (fun j => (o.lane j).2)) none)) ∧
    (∀ (t : Ty) (f : Nat → Bool) (b : Nat), b < 128 → (ofLaneBits t f).getLsbD b = f (if t.width = 32 then b / 2 else b))) ∧
  ((∀ (s : State) (i : Instr) (d : PReg) (x : PWord), predicateResult (here s) i = some (d, x) → Lands s 1 (.p d 0) →
      exec i s = .next (scheduled s 1 (.p d x) 0 none)) ∧
    (∀ (s : State) (d : SReg) (a : PReg) (h : Half), Lands s 1 (.s d 0) → exec (.pget d a h) s = .next (scheduled s 1
      (.s d (match h with
        | .lo => ((here s).readP a).extractLsb' 0 64
        | .hi => ((here s).readP a).extractLsb' 64 64)) 0 none)) ∧
    (∀ (s : State) (d : SReg) (a : PReg) (w32 : Bool), Lands s 1 (.s d 0) → exec (.pcnt d a w32) s = .next (scheduled s 1
      (.s d (BitVec.ofNat 64 ((List.range (if w32 then 64 else 128)).map (fun i =>
        ((here s).readP a).toNat / 2 ^ (if w32 then 2 * i else i) % 2)).sum)) 0 none)))

/-- Selection and single-lane moves (R218, R223): VSEL lets the predicate choose and MT alone mask, VINS writes one lane, VEXT
gives a lane to a scalar, extended by the sign of its type, and VCVT converts lanes, into or out of half H where widths differ
(R219). -/
def Obligations.SelectionsAndMoves : Prop :=
  (∀ (s : State) (d : VReg) (a b : VSrc) (p : PReg) (t : Ty), Lands s 2 (.v d 0 0) → ∃ m x,
    exec (.vsel d a b p t) s = .next (scheduled s 2 (.v d m x) 0 none) ∧
    ∀ i, i < t.lanes → laneOf (((here s).readV d &&& ~~~m) ||| (x &&& m)) t.width i =
      if laneBit (here s).mt t i then
        (if laneBit ((here s).readP p) t i then srcLane (here s) t a i else srcLane (here s) t b i)
      else regLane (here s) t d i) ∧
  (∀ (s : State) (d : VReg) (a b : Fin 32) (p : PReg) (t : Ty), Lands s 2 (.v d 0 0) → ∃ m x,
    exec (.vins d a b p t) s = .next (scheduled s 2 (.v d m x) 0 none) ∧
    ∀ i, i < t.lanes → laneOf (((here s).readV d &&& ~~~m) ||| (x &&& m)) t.width i =
      if laneBit (activity (here s) p) t i ∧ i = (readLow (here s) b).toNat % t.lanes then
        (readLow (here s) a).toNat % 2 ^ t.width
      else regLane (here s) t d i) ∧
  (∀ (s : State) (d : Fin 32) (a : VReg) (b : Fin 32) (p : PReg) (t : Ty), Lands s 4 (.s (d.castLE (by decide)) 0) →
    let x := regLane (here s) t a ((readLow (here s) b).toNat % t.lanes)
    exec (.vext d a b p t) s = .next (scheduled s 4 (.s (d.castLE (by decide))
      (if t.isSigned then (BitVec.ofNat t.width x).signExtend 64 else BitVec.ofNat 64 x)) 0 none)) ∧
  (∀ (s : State) (d a : VReg) (p : PReg) (t : Ty) (x : CvtArgs), Lands s (arithLat x.dt) (.v d 0 0) → ∃ m y fl,
    exec (.vcvt d a p t x) s = .next (scheduled s (arithLat x.dt) (.v d m y) fl (shadowOf s x.dt)) ∧
    ∀ i, i < x.dt.lanes → laneOf (((here s).readV d &&& ~~~m) ||| (y &&& m)) x.dt.width i =
      if laneBit (activity (here s) p) x.dt i && cvtTarget t x i then
        (convertTy (laneValue t (regLane (here s) t a (cvtSource t x i))) x.dt (rmOf (here s) x.rm) x.ov).1 % 2 ^ x.dt.width
      else regLane (here s) x.dt d i)

/-- Reductions and scans complete (R221, R222). A reduction writes its whole register at +6 with the result of the tree of six
or seven levels over the active lanes, or the identity where no lane is active; a scan writes its active lanes at +8. In an
integer type each step is the sum modulo 2^w, the signed or unsigned maximum or minimum, or the bitwise operation, and raises no
flag, and the tree gives the combination of the active lanes in their order. A tree with one active lane gives that lane, and a NaN
that a reduction gives is the canonical one, with NV where it was signalling (the model's reading, notes/assumptions/131). An
active lane of an inclusive scan receives the combination, left to right, of the active lanes up to itself, the first taken by
itself; of an exclusive one, that of those before it, or the identity. -/
def Obligations.ReductionsAndScans : Prop :=
  (∀ (s : State) (d a : VReg) (op : RedOp) (p : PReg) (t : Ty), Lands s 6 (.v d 0 0) → let c := here s
    let r := reduced op t (treeReduce op t c.rm (if t.width = 32 then 6 else 7) (activeLanes c t a (activity c p)))
    exec (.vred d a op p t) s = .next (scheduled s 6
      (.v d (BitVec.allOnes 2048) (BitVec.ofNat 2048 r.1)) r.2 (redShadow s op t))) ∧
  (∀ (op : RedOp) (t : Ty) (fl : Flags) (x : Nat), reduced op t (none, fl) = (identity op t, fl) ∧
    (t.isFloat = false ∨ (laneValue t x).isNaN = false → reduced op t (some x, fl) = (x, fl)) ∧
    (t.isFloat = true → (laneValue t x).isNaN = true → (reduced op t (some x, fl)).1 = canonNaN t.fmt ∧
      (reduced op t (some x, fl)).2 = fl ||| sigFlag (laneValue t x))) ∧
  (∀ (s : State) (d a : VReg) (op : RedOp) (exc : Bool) (p : PReg) (t : Ty), Lands s 8 (.v d 0 0) → let c := here s
    let act := activity c p
    let r := scanLanes op t c.rm exc none (activeLanes c t a act)
    exec (.vscan d a op exc p t) s = .next (scheduled s 8
      (.v d (laneMask t act) (ofLanes t.width t.lanes (fun i => r.1.getD i 0))) r.2 (redShadow s op t))) ∧
  (∀ (op : RedOp) (t : Ty) (rm : Nat) (x y : BitVec t.width), t.isFloat = false →
    combine op t rm x.toNat y.toNat = ((match op with
      | .add => x + y
      | .max => if t.isSigned then (if x.toInt ≤ y.toInt then y else x) else (if x.toNat ≤ y.toNat then y else x)
      | .min => if t.isSigned then (if x.toInt ≤ y.toInt then x else y) else (if x.toNat ≤ y.toNat then x else y)
      | .and => x &&& y
      | .or => x ||| y
      | .xor => x ^^^ y).toNat, 0)) ∧
  (∀ (c : Ctx) (a : VReg) (act : PWord) (op : RedOp) (t : Ty) (rm : Nat),
    let root := treeReduce op t rm (if t.width = 32 then 6 else 7) (activeLanes c t a act)
    let on := (List.range t.lanes).filter (fun i => laneBit act t i)
    (on = [] → root = (none, 0)) ∧
    (∀ i, on = [i] → root = (some (regLane c t a i), 0)) ∧
    (∀ i rest, t.isFloat = false → on = i :: rest →
      root = (some (rest.foldl (fun x j => (combine op t rm x (regLane c t a j)).1) (regLane c t a i)), 0))) ∧
  (∀ (c : Ctx) (a : VReg) (act : PWord) (op : RedOp) (t : Ty) (rm : Nat) (exc : Bool) (i : Nat),
    i < t.lanes → laneBit act t i = true →
    let x := (scanLanes op t rm exc none (activeLanes c t a act)).1.getD i 0
    let on := (List.range (if exc then i else i + 1)).filter (fun j => laneBit act t j)
    (on = [] → x = identity op t) ∧
    (∀ j rest, on = j :: rest →
      x = rest.foldl (fun y k => (combine op t rm y (regLane c t a k)).1) (scanFirst t (regLane c t a j)).1) ∧
    (t.isFloat = false → ∀ y, scanFirst t y = (y, 0)))

/-- Operations on register pairs (R223, R224): VZIP interleaves, VUNZIP separates the even from the odd lanes of vA:vB, both at
+4; VTOPK sorts at +10, its slot busy for four cycles: the k first candidates in lanes 0 to k − 1 with their lane numbers in
the second register, zeros behind lane k − 1. Equal values stand in the order of their lanes. -/
def Obligations.PairOperations : Prop :=
  (∀ (s : State) (d a b : VReg) (p : PReg) (t : Ty), d.val % 2 = 0 → slotFree s = true → noCollision s 4 (.v d 0 0) = true →
    noCollision s 4 (.v (pairReg d) 0 0) = true → let m := laneMask t (activity (here s) p)
    (exec (.vzip d a b p t) s = .next (scheduled (scheduled s 4 (.v d m (ofLanes t.width t.lanes
        (fun i => regLane (here s) t (if i % 2 = 0 then a else b) (i / 2)))) 0 none)
      4 (.v (pairReg d) m (ofLanes t.width t.lanes
        (fun i => regLane (here s) t (if i % 2 = 0 then a else b) (t.lanes / 2 + i / 2)))) 0 none)) ∧
    (exec (.vunzip d a b p t) s = .next (scheduled (scheduled s 4 (.v d m (ofLanes t.width t.lanes
        (fun i => concatLane (here s) t a b (2 * i)))) 0 none)
      4 (.v (pairReg d) m (ofLanes t.width t.lanes (fun i => concatLane (here s) t a b (2 * i + 1)))) 0 none))) ∧
  (∀ (s : State) (d a : VReg) (k : BitVec 8) (isMin : Bool) (p : PReg) (t : Ty), d.val % 2 = 0 → k.toNat ≤ t.lanes →
    slotFree s = true → noCollision s 10 (.v d 0 0) = true → noCollision s 10 (.v (pairReg d) 0 0) = true →
    let l := topOrder isMin t (here s) a (activity (here s) p)
    ∃ x y fl, exec (.vtopk d a k isMin p t) s = .next (scheduled (scheduled (occupy s 4) 10 (.v d (BitVec.allOnes 2048) x) fl none)
        10 (.v (pairReg d) (BitVec.allOnes 2048) y) 0 none) ∧
      ∀ i, i < t.lanes → (k.toNat ≤ i → laneOf x t.width i = 0 ∧ laneOf y t.width i = 0) ∧
        (i < k.toNat → ∀ e, l[i]? = some e → laneOf x t.width i = e.1 ∧ laneOf y t.width i = e.2) ∧
        (i < k.toNat → l[i]? = none → laneOf x t.width i = (if t.isFloat then canonNaN t.fmt else 0) ∧
          laneOf y t.width i = 2 ^ t.width - 1)) ∧
  (∀ (isMin : Bool) (t : Ty) (c : Ctx) (a : VReg) (act : PWord), t.isFloat = false → let l := topOrder isMin t c a act
    (∀ e ∈ l, e.2 < t.lanes ∧ laneBit act t e.2 = true ∧ e.1 = regLane c t a e.2) ∧
    (∀ i, i < t.lanes → laneBit act t i = true → (regLane c t a i, i) ∈ l) ∧
    l.Pairwise (fun x y => topBefore isMin t y.1 x.1 = false ∧ (x.1 = y.1 → x.2 < y.2)))

/-- The packs complete (R235–R238): each writes its whole register at +3, VPACKSC and VPACKZ the next one too. VPACK writes the
elements of the active lanes of its part and no other bit of the elements up to the end of its part. VPACKSC and VPACKZ write, for
every group with an active lane, the parameter of the group and the elements of its active lanes as the block function of the
format gives them, and every other parameter lane and element up to the end of the part keeps its value. -/
def Obligations.Packs : Prop :=
  (∀ (s : State) (d a : VReg) (p : PReg) (t : Ty) (x : PackArgs), (Instr.vpack d a p t x).wf = true → Lands s 3 (.v d 0 0) →
    ∃ y fl, exec (.vpack d a p t x) s = .next (scheduled s 3 (.v d (BitVec.allOnes 2048) y) fl none) ∧
      ∀ k, k < (x.part.val + 1) * t.lanes → streamElement (memOfVec y) x.fmt k =
        if x.part.val * t.lanes ≤ k ∧ laneBit (activity (here s) p) t (k - x.part.val * t.lanes) = true then
          (convert (laneValue t (regLane (here s) t a (k - x.part.val * t.lanes))) x.fmt (rmOf (here s) x.rm) x.ov).1 % 2 ^ x.fmt.bits
        else streamElement (memOfVec ((here s).readV d)) x.fmt k) ∧
  (∀ (s : State) (i : Instr) (d a : VReg) (p : PReg) (t : Ty) (x : PackArgs) (size : Nat)
    (block : List Machine.Num → Nat × List (Nat × Flags)),
    (i = .vpacksc d a p t x ∧ size = 32 ∧ block = packBlock x.fmt (rmOf (here s) x.rm) x.ov) ∨
      (i = .vpackz d a p t x ∧ size = groupSize x.grp ∧ block = packGroup x.fmt (rmOf (here s) x.rm)) →
    i.wf = true → slotFree s = true → noCollision s 3 (.v d 0 0) = true → noCollision s 3 (.v (pairReg d) 0 0) = true →
    let c := here s
    let base := x.part.val * t.lanes
    let lanes := fun g => (actives t (activity c p)).filter (fun j => j / size == g)
    let out := fun g => block ((lanes g).map (fun j => laneValue t (regLane c t a j)))
    ∃ y z fl, exec i s = .next (scheduled (scheduled s 3 (.v d (BitVec.allOnes 2048) y) fl none)
        3 (.v (pairReg d) (BitVec.allOnes 2048) z) 0 none) ∧
      (∀ g, g < t.lanes / size → lanes g ≠ [] → laneOf z 32 (base / size + g) = (out g).1 % 2 ^ 32 ∧
        ∀ n (h : n < (lanes g).length), streamElement (memOfVec y) x.fmt (base + (lanes g)[n]) =
          (((out g).2[n]?).getD (0, 0)).1 % 2 ^ x.fmt.bits) ∧
      (∀ q, q < 64 → (∀ g, g < t.lanes / size → q = base / size + g → lanes g = []) →
        laneOf z 32 q = laneOf (c.readV (pairReg d)) 32 q) ∧
      (∀ k, k < base + t.lanes → (k < base ∨ laneBit (activity c p) t (k - base) = false) →
        streamElement (memOfVec y) x.fmt k = streamElement (memOfVec (c.readV d)) x.fmt k))

/-- The vector memory operations at issue (R71, R241–R243): the cells of the active lanes, each at its own address, are read at
+2 for a register result at +4, or written at +2 with the bytes of the register as it stands at issue. -/
def Obligations.VectorAccesses : Prop :=
  ∀ (s : State) (i : Instr) (m : VecAccess), vecAccessOf (here s) i = some m → slotFree s = true →
    vmAllowed m.buf m.write = true → (m.cells = [] ∨ m.aligned = true) →
    m.cells.all (fun x => inPartition (here s) m.buf x.2 1) = true → cellsPending s m.buf m.cells = none →
    (m.write = false → noCollision s 4 (.v m.d 0 0) = true →
      exec i s = .next (flown s 2 (.vmRead m.d m.buf m.cells) (landingOf s 4 (.v m.d 0 0)))) ∧
    (m.write = true → exec i s =
      .next (flown s 2 (.vmWrite m.buf (m.cells.map (fun x => (x.2, byteOf ((here s).readV m.d) x.1)))) []))

/-- What the vector accesses move: a load gives each active lane the little-endian element at its address and leaves the other
lanes; a store writes the bytes of its cells and no other byte (R213, R242). A load reads each byte as it stood before the writes of the
cycle (R99). -/
def Obligations.VectorAccessPerforms : Prop :=
  (∀ (s : State) (k : Nat) (f : Flight) (d : VReg) (b : Buf) (t : Ty) (act : PWord) (off : Nat → Nat),
    f.act = .vmRead d b (laneCells t act off) →
    (∀ c ∈ laneCells t act off, badBytes s k b c.2 1 = [] ∧ isRefused s k b c.2 false = false) →
    ∃ m x, performFlight s k f = again (nextFresh s 1) k f (f.due + 2) (.result (.v d m x) 0 none) ∧
      ∀ i, i < t.lanes → laneOf (((ctxOf s k).readV d &&& ~~~m) ||| (x &&& m)) t.width i =
        if laneBit act t i then memReadNat (bufPrior s k b (off i) (laneBytes t)) 0 (laneBytes t)
        else regLane (ctxOf s k) t d i) ∧
  (∀ (s : State) (k : Nat) (f : Flight) (b : Buf) (cells : List (Nat × Byte)), f.act = .vmWrite b cells →
    (∀ c ∈ cells, isRefused s k b c.1 true = false) → (cells.map (fun c => c.1)).Nodup →
    (∀ c ∈ cells, memRead ((coreOf (performFlight s k f) (coreIx k)).bufMem b) ((ctxOf s k).base b + c.1) = c.2) ∧
    (∀ n q a, ¬(n = coreIx k ∧ q = b ∧ ∃ c ∈ cells, a = (ctxOf s k).base b + c.1) →
      memRead ((coreOf (performFlight s k f) n).bufMem q) a = memRead ((coreOf s n).bufMem q) a) ∧
    (performFlight s k f).mem = s.mem ∧ (performFlight s k f).ctxs = s.ctxs)

/-- VHACC joins the untimed work with its table's lines pending and an entry of the result buffer. VNEST starts its nest: its draw
is reserved, its slot is busy for its steps and one cycle more, and its first step reads at +2; both flights are of one command
(R125, R228–R230). As a VHACC performs, each active lane in turn updates the entry that its probe finds, the first of up to eight
that is its key's own or empty; a key that finds none stops it; it writes no byte outside its table (R226). A step of a VNEST reads its
lines and, a latency later, writes the active lanes of its D line and no other byte (R230). -/
def Obligations.HashAndNest : Prop :=
  (∀ (s : State) (a : VReg) (b : VSrc) (p : PReg) (t : Ty) (x : HaccArgs), let c := here s
    let base := (c.readS x.sb).toNat
    slotFree s = true → c.resultCount < 16 → base % 256 = 0 → inPartition c (haccBuf x) base (haccBytes x) = true →
    haccPending s (haccBuf x) base (haccBytes x) = none →
    exec (.vhacc a b p t x) s = .next (queued s (.vhacc t x base (c.readV a) (readSrc c t b) (activity c p) c.rm
      (if s.slot = .v1 then 1 else 0)) (some ⟨0, none⟩) false [] ((linesOf base (haccBytes x)).map (fun l => ⟨haccBuf x, l * 256⟩)))) ∧
  (∀ (s : State) (x : NestArgs), let c := here s
    let r := reserve s [span s c.ttc (c.ttc + 1 + x.steps + nestLat x.fop x.t) 40]
    slotFree s = true → nestBusy s = false →
    (∀ n, n < x.steps → nestClash c x n = none ∧ lineOk c x.bufA (nestLineA x n) = true ∧
      lineOk c x.bufB (nestLineB x n) = true ∧ lineOk c x.bufD (nestLineD x n) = true) →
    exec (.vnest x) s = .next (modHere r (fun c => { c with
      seq := c.seq + 1
      flights := c.flights ++ [⟨c.seq, c.ttc + x.steps + 1, .occupy s.slot.code, []⟩,
        ⟨c.seq, c.ttc + 2, .nestStep x s.slot.code (activity c x.p) c.rm 0, []⟩] }))) ∧
  (∀ (s : State) (k base rm slot : Nat) (u : Untimed) (t : Ty) (x : HaccArgs) (keys vals : VWord) (act : PWord),
      u.job = .vhacc t x base keys vals act rm slot → haccStopped (ctxOf s k) u.seq = false →
      Memory.wf ((coreOf s (coreIx k)).bufMem (haccBuf x)) →
      let r := haccRun t x keys vals act rm 64 (bufPrior s k (haccBuf x) base (haccBytes x))
      let v := performJob s k u
      BufferWritten s v k (haccBuf x) base (haccBytes x) (memRead r.mem) ∧ IsDone v k u.seq ∧
      ∀ w ∈ (ctxOf v k).allUntimed, w.seq = u.seq → ∀ y, w.result = some y →
        y.x = some (haccResult r.stop.isSome (r.stop.getD 64) false r.flags)) ∧
  (∀ (m : Memory) (n key h : Nat), let keyOf := fun j => memReadNat m (8 * ((h + j) % 2 ^ n)) 4
      (haccProbe m n key h = none → ∀ j, j < min 8 (2 ^ n) → keyOf j ≠ key ∧ keyOf j ≠ 0xFFFF_FFFF) ∧
      (∀ e own, haccProbe m n key h = some (e, own) → ∃ j, j < min 8 (2 ^ n) ∧ e = (h + j) % 2 ^ n ∧
        own = decide (keyOf j = key) ∧ (own = true ∨ keyOf j = 0xFFFF_FFFF) ∧
        ∀ i, i < j → keyOf i ≠ key ∧ keyOf i ≠ 0xFFFF_FFFF)) ∧
  (∀ (t : Ty) (x : HaccArgs) (keys vals : VWord) (act : PWord) (rm left : Nat) (m : Memory), left < 64 →
      let i := 63 - left
      let key := laneOf keys 32 i
      let v := laneOf vals 32 i
      let r := haccRun t x keys vals act rm (left + 1) m
      let probe := haccProbe m x.lgn.val key ((key ^^^ (key / 2 ^ 16)) % 2 ^ x.lgn.val)
      (laneBit act t i = false ∨ key = 0xFFFF_FFFF → r = haccRun t x keys vals act rm left m) ∧
      (laneBit act t i = true → key ≠ 0xFFFF_FFFF →
        (probe = none → r.mem = m ∧ r.stop = some i ∧ r.flags = 0) ∧
        (∀ e own, probe = some (e, own) → ∃ n,
          let u := if own then haccUpdate x.op t rm (memReadNat m (8 * e + 4) 4) v else (if x.op = .cnt then 1 else v, 0)
          let rest := haccRun t x keys vals act rm left n
          r.mem = rest.mem ∧ r.stop = rest.stop ∧ r.flags = u.2 ||| rest.flags ∧
          memReadNat n (8 * e) 4 = key ∧ memReadNat n (8 * e + 4) 4 = u.1 % 2 ^ 32 ∧
          ∀ a, a < 8 * e ∨ 8 * e + 8 ≤ a → memRead n a = memRead m a))) ∧
  (∀ (s : State) (k slot rm n : Nat) (f : Flight) (x : NestArgs) (mask : PWord), f.act = .nestStep x slot mask rm n →
      (∀ r ∈ nestReads x n, pendingLine s k r.2.1 r.2.2 = false ∧ isRefused s k r.2.1 (r.2.2 * 256) false = false ∧
        badBytes s k r.2.1 (r.2.2 * 256) 256 = []) →
      let lane := fun (b : Buf) (l : Int) i => laneOf (vecOfMem (bufPrior s k b (l.toNat * 256) 256)) x.t.width i
      let out := fun i => nestLane x.fop x.t rm (lane x.bufA (nestLineA x n) i) (lane x.bufB (nestLineB x n) i)
        (if x.fop = .vfma then lane x.bufD (nestLineD x n) i else 0)
      performFlight s k f = againIf (decide (n + 1 < x.steps))
        (again s k f (f.due + nestLat x.fop x.t) (.nestWrite x slot mask (nestLineD x n).toNat
          (ofLanes x.t.width x.t.lanes (fun i => (out i).1)) (laneFlags x.t mask (fun i => (out i).2)) false))
        k f (f.due + 1) (.nestStep x slot mask rm (n + 1))) ∧
  (∀ (s : State) (k slot line : Nat) (f : Flight) (x : NestArgs) (mask : PWord) (data : VWord) (fl : Flags),
      f.act = .nestWrite x slot mask line data fl false → pendingLine s k x.bufD line = false →
      isRefused s k x.bufD (line * 256) true = false →
      let t := performFlight s k f
      let at_ := fun i => (ctxOf s k).base x.bufD + line * 256 + i
      (∀ i, i < 256 → memRead ((coreOf t (coreIx k)).bufMem x.bufD) (at_ i) =
        if laneBit mask x.t (i / laneBytes x.t) then byteOf data i else memRead ((coreOf s (coreIx k)).bufMem x.bufD) (at_ i)) ∧
      (∀ n b a, ¬(n = coreIx k ∧ b = x.bufD ∧ at_ 0 ≤ a ∧ a < at_ 256) →
        memRead ((coreOf t n).bufMem b) a = memRead ((coreOf s n).bufMem b) a) ∧
      t.mem = s.mem ∧ (ctxOf t k).vflags = (ctxOf s k).vflags ||| fl ∧
      SameRegisters { ctxOf s k with vflags := (ctxOf t k).vflags } (ctxOf t k) ∧
      ∀ j, j ≠ k → SameRegisters (ctxOf s j) (ctxOf t j))

/-- Arithmetic of the lanes: a finite value decoded from F32, F16 or BF16 rounds to its own encoding in every mode and raises
no flag (R46, R53, R55, R56). VADD, VSUB and VMUL of an integer type are sum, difference and product modulo the lane width,
and raise no flag; shifts take their amount modulo the width (R215, R216). -/
def Obligations.LaneArithmetic : Prop :=
  (∀ (f : Fmt) (x rm : Nat) (ov : Ovf), (f = .f32 ∨ f = .f16 ∨ f = .bf16) → x < 2 ^ f.bits →
      (∃ neg m e, decodeFloat x f = .fin neg m e) → convertFloat (decodeFloat x f) f rm ov = (x, 0)) ∧
  (∀ (t : Ty) (rm : Nat) (x y : BitVec t.width), t.isFloat = false →
      laneAdd t rm x.toNat y.toNat = ((x + y).toNat, 0) ∧ laneSub t rm x.toNat y.toNat = ((x - y).toNat, 0) ∧
      laneMul t rm x.toNat y.toNat = ((x * y).toNat, 0) ∧
      laneShl t x.toNat y.toNat = ((x <<< (y.toNat % t.width)).toNat, 0) ∧
      laneShr t x.toNat y.toNat = ((x >>> (y.toNat % t.width)).toNat, 0) ∧
      laneSar t x.toNat y.toNat = ((x.sshiftRight (y.toNat % t.width)).toNat, 0))


/-! ### The matrix array (R247–R263, R384) -/

/-- The MMA-class commands at issue (R251–R258): an MMA or MMAZ that its checks accept latches its operands, reserves its
cycles, moves POS of both descriptors on by NK at +1 and reads its first k-group at AT. An MMAG reads its table at issue and,
like an MMAS, joins the untimed work with its reservation open to the draining wait; an MMAG of no groups does nothing. The update of
a k-group gives each element inside the tile's window the accumulation of the group's result, or poisons the tile, and leaves every
other element (R69, R254): in an integer mode the sum of the products of the present elements, each less its zero point, modulo 2^32
or saturated (R62, R63, R67); in floating mode the rounded sum with a group result that is NaN where an operand is (R64, R66). -/
def Obligations.MatrixCommands : Prop :=
  (∀ (s : State) (t : TileIx) (ga gb : GReg) (at_ nk : BitVec 16), slotFree s = true → (here s).ttc ≤ at_.toNat →
      mmaAccepted s t ga gb nk.toNat at_.toNat = true →
      exec (.mma t ga gb at_ nk) s = .next (mmaGiven s t ga gb nk.toNat at_.toNat false) ∧
      exec (.mmaz t ga gb at_ nk) s = .next (mmaGiven s t ga gb nk.toNat at_.toNat true)) ∧
  (∀ (s : State) (d : SReg) (ga gb : GReg), slotFree s = true → exec (.mmag d ga gb 0) s = .next s) ∧
  (∀ (s : State) (d : SReg) (ga gb : GReg) (g : BitVec 12), let c := here s
      let off := (c.readS d).toNat
      let table := groupTable (bufPrior s s.cur .dm off (8 * g.toNat)) g.toNat
      slotFree s = true → g ≠ 0 → portReadable s off (8 * g.toNat) 8 = true →
      (table.map groupEntry).findSome? (groupFault c (c.readG ga) (c.readG gb)) = none →
      exec (.mmag d ga gb g) s = .next (queued (reserve s [openSpan s 720])
        (.mmag (c.readG ga) (c.readG gb) c.padm table) none false [] [])) ∧
  (∀ (s : State) (q : QueueIx) (ga gb : GReg), let c := here s
      slotFree s = true → masDescFault (c.readG ga) = none → masDescFault (c.readG gb) = none →
      exec (.mmas q ga gb) s = .next (queued (reserve s [openSpan s 720])
        (.mmas q.val (c.readG ga) (c.readG gb) c.padm [] false) none false [] [])) ∧
  (∀ (s : State) (k j : Nat) (f : Flight) (r : MmaRun) (ma mb : Memory) (ba bb : List Nat), f.act = .mmaUpdate r j ma mb ba bb →
      s.refused = [] → r.rows ≤ 128 → r.cols ≤ 128 →
      let t := performFlight s k f
      let d := runSides r
      let final := j + 1 == r.nk
      let old := tileOf s (coreIx k) r.tile
      let new := tileOf t (coreIx k) r.tile
      let sum := fun x y => accumulate (precOf r.prec) d.1 d.2 ma mb final x y (if r.zero && j == 0 then 0 else tileGet old x y)
      TileOnly s t (coreIx k) r.tile ∧
      (∀ x y, x < 128 → y < 128 → ¬(x < r.rows ∧ y < r.cols) → tileGet new x y = tileGet old x y) ∧
      (ba = [] → bb = [] → new.poison = old.poison ∧
        ∀ x y, x < r.rows → y < r.cols → tileGet new x y = (sum x y).1 % 2 ^ 32 ∧ ((sum x y).2 = true → new.clamp = true)) ∧
      (isPoisoned d.1 final ba || isPoisoned d.2 final bb → new.poison = true)) ∧
  (∀ (p : Prec) (a b : Side) (ma mb : Memory) (final : Bool) (r c old : Nat),
      let x := (BitVec.ofNat 32 old).toInt + groupInt a b ma mb final r c
      let y := accumulate p a b ma mb final r c old
      (p.accf = 1 → y = ((BitVec.ofInt 32 x).toNat, false)) ∧
      (p.accf = 2 → y = ((BitVec.ofInt 32 (max (-2 ^ 31) (min (2 ^ 31 - 1) x))).toNat, decide (x < -2 ^ 31 ∨ 2 ^ 31 ≤ x))) ∧
      (p.accf = 0 → y =
        ((addRound (decodeFloat old .f32) (decodeFloat (groupResult a b ma mb final r c) .f32) .f32 0).1, false)) ∧
      (a.fmt.isFloat = false → b.fmt.isFloat = false → groupInt a b ma mb final r c =
        ((List.range 256).map (fun k => if isPresent a final r k && isPresent b final c k then
          (intValue (opElement a ma r k) a.fmt - opZero a ma r (k / 32)) * (intValue (opElement b mb c k) b.fmt - opZero b mb c (k / 32))
          else 0)).sum) ∧
      ((∃ k, k < 256 ∧ ((fullValue a ma final r k).any Num.isNaN = true ∨ (fullValue b mb final c k).any Num.isNaN = true)) →
        groupResult a b ma mb final r c = canonNaN .f32))

/-- The tile commands (R259–R263, R384): TDRAIN and TLOAD move a line a cycle from AT on, as many as ROWS and the format
give; TCLR, TMASK and the clearing of CLAMP act at +1; PRECSET writes PREC.t at +2; TSTAT writes the status word as it stands
at issue at +1. When TMASK performs, the window of its tile alone changes; a limit of 0 or more than 128 stands for 128. A TDRAIN line converts the
elements that the tile holds before the cycle's untimed work and writes them packed; a TLOAD line is read, and a cycle later its elements,
widened, stand in the tile; TCLR zeroes the tile and clears its poison and clamp bit (R259–R261). -/
def Obligations.TileCommands : Prop :=
  (∀ (s : State) (t : TileIx) (rm : RmSel) (b : SReg) (fmt : Fmt) (ov : Ovf) (at_ : BitVec 16) (rows : BitVec 8),
      let c := here s
      let off := (c.readS b).toNat
      let n := drainRows rows
      slotFree s = true → c.ttc ≤ at_.toNat → tileTransferOk s t off fmt n = true →
      ((tileOf s (coreIx s.cur) t).poison = false → exec (.tdrain t rm b fmt ov at_ rows) s =
        .next (flown s (at_.toNat - c.ttc) (.drain t fmt (rmOf c rm) ov (tileIsInt c t) off n 0 false) [])) ∧
      exec (.tload t b fmt at_ rows) s = .next (flown s (at_.toNat - c.ttc) (.tloadRead t fmt off n 0 false) [])) ∧
  (∀ (s : State) (t : TileIx) (a b : SReg), let c := here s
      slotFree s = true → tilePending c t = false → ownsTile c t = true →
      exec (.tclr t) s = .next (flown s 1 (.tclr t) []) ∧
      exec (.tmask t a b) s = .next (flown s 1 (.tmask t (maskLimit (c.readS a)) (maskLimit (c.readS b))) [])) ∧
  (∀ (s : State) (x : PrecsetArgs), Lands s 2 (.cr (0x20 + x.tile.val) 0) →
      exec (.precset x) s = .next (scheduled s 2 (.cr (0x20 + x.tile.val) (BitVec.ofNat 64 (precsetValue x))) 0 none)) ∧
  (∀ (s : State) (d : SReg) (t : TileIx), Lands s 1 (.s d 0) → let u := scheduled s 1 (.s d (tileStatus s t)) 0 none
      exec (.tstat d t false) s = .next u ∧ exec (.tstat d t true) s = .next (flown u 1 (.clampClear t) [])) ∧
  ((∀ (s : State) (k r c : Nat) (f : Flight) (t : TileIx), f.act = .tmask t r c →
      let x := (coreOf s (coreIx k)).tiles
      (coreOf (performFlight s k f) (coreIx k)).tiles = x.set t { x[t] with rows := r, cols := c }) ∧
    (∀ x : W64, maskLimit x = if x.setWidth 8 = 0 ∨ 128 < (x.setWidth 8).toNat then 128 else (x.setWidth 8).toNat)) ∧
  (∀ (s : State) (k rm base rows line : Nat) (f : Flight) (t : TileIx) (fm : Fmt) (ov : Ovf) (isInt missed : Bool),
      f.act = .drain t fm rm ov isInt base rows line missed → updateAhead s k t fm line = none →
      fm.bits = 8 ∨ fm.bits = 16 ∨ fm.bits = 32 →
      let n := elementsPerLine fm
      let out := fun i => drainElement isInt fm rm ov (tileGet (tilePrior s (coreIx k) t) ((line * n + i) / 128) ((line * n + i) % 128))
      ∃ data u, performFlight s k f = againIf (decide (line + 1 < drainLines fm rows))
          (again u k f f.due (.drainWrite t (base + 256 * line) data)) k f (f.due + 1) (.drain t fm rm ov isInt base rows (line + 1) missed) ∧
        (∀ i, i < n → elementAt data fm.bits i = (out i).1 % 2 ^ fm.bits) ∧
        u = if ∃ i, i < n ∧ (out i).2 &&& flagOF ≠ 0 then modTile s (coreIx k) t (fun x => { x with clamp := true }) else s) ∧
  ((∀ (rm x : Nat) (ov : Ovf), x < 2 ^ 32 → drainElement true .i32 rm ov x = (x, 0) ∧
      drainElement false .f32 rm ov x = (if (decodeFloat x .f32).isNaN then canonNaN .f32 else x, 0)) ∧
    (∀ x : Nat, x < 2 ^ 32 → loadElement .f32 x = (if (decodeFloat x .f32).isNaN then canonNaN .f32 else x) ∧ loadElement .i32 x = x) ∧
    (∀ x : BitVec 16, loadElement .i16 x.toNat = (x.signExtend 32).toNat ∧
      loadElement .bf16 x.toNat = if (decodeFloat x.toNat .bf16).isNaN then canonNaN .f32 else x.toNat * 2 ^ 16) ∧
    (∀ x : BitVec 8, loadElement .i8 x.toNat = (x.signExtend 32).toNat)) ∧
  (∀ (s : State) (k off : Nat) (f : Flight) (t : TileIx) (data : Memory), f.act = .drainWrite t off data → Memory.wf data →
      pendingLine s k .cb (off / 256) = false → isRefused s k .cb off true = false →
      BufferWritten s (performFlight s k f) k .cb off 256 (memRead data)) ∧
  (∀ (s : State) (k base rows line : Nat) (f : Flight) (t : TileIx) (fm : Fmt) (missed : Bool),
      f.act = .tloadRead t fm base rows line missed → base % 256 = 0 → let off := base + 256 * line
      pendingLine s k .cb (off / 256) = false → landingAhead s k .cb (off / 256) = false → isRefused s k .cb off false = false →
      badBytes s k .cb off 256 = [] →
      performFlight s k f = againIf (decide (line + 1 < drainLines fm rows))
        (again s k f (f.due + 1) (.tloadWrite t fm rows line (bufPrior s k .cb off 256) false))
        k f (f.due + 1) (.tloadRead t fm base rows (line + 1) missed)) ∧
  (∀ (s : State) (k rows line : Nat) (f : Flight) (t : TileIx) (fm : Fmt) (data : Memory), f.act = .tloadWrite t fm rows line data false →
      s.refused = [] → 0 < elementsPerLine fm →
      let n := elementsPerLine fm
      let u := performFlight s k f
      let new := tileOf u (coreIx k) t
      let old := tileOf s (coreIx k) t
      TileOnly s u (coreIx k) t ∧ new.poison = old.poison ∧ new.clamp = old.clamp ∧
      ∀ x y, y < 128 → tileGet new x y = if (128 * x + y) / n = line then
        loadElement fm (elementAt data fm.bits ((128 * x + y) % n)) % 2 ^ 32 else tileGet old x y) ∧
  (∀ (s : State) (k : Nat) (f : Flight) (t : TileIx), f.act = .tclr t → s.refused = [] →
      let u := performFlight s k f
      let new := tileOf u (coreIx k) t
      TileOnly s u (coreIx k) t ∧ new.poison = false ∧ new.clamp = false ∧ ∀ x y, x < 128 → y < 128 → tileGet new x y = 0)

/-! ### Copies and transfers (R109, R264–R283) -/

/-- The timed commands of the EC slot (R109, R266–R273, R275): a copy that its checks accept reserves its span and samples,
reads or gathers its first line in its cycle; with a map it follows the 64-byte map that stands in DM at issue; COPYM gives
the copy and then the matrix command of its FOLLOW word, one cycle after the last line; without a
map the other words of its descriptor are not looked at (the model's choice, notes/assumptions/124). FILL, XSEND and XRECV act from AT on. As
they perform (R81, R109, R270, R273, R275): a line is sampled from memory as its node sees it and lands later; an outward line is read from
its buffer and then stands in memory; FILL writes its word over the line; a map copy lands the lines of its tile; a sent line is read from
its buffer and lands where the receiver's XRECV puts it, and without one the receiver has cause 0x09. Each leaves every other byte. -/
def Obligations.Copies : Prop :=
  (∀ (s : State) (d a b : SReg) (e : Bool) (buf : Buf) (out : Bool) (at_ n : BitVec 16), let c := here s
      let r := fun m => copyRun s (if e then 1 else 0) buf out (c.readS b).toNat (c.readS a).toNat n.toNat at_.toNat m
      let g : GWord := BitVec.ofNat 512 (memReadNat (bufPrior s s.cur .dm (c.readS d).toNat 64) 0 64)
      slotFree s = true → c.ttc ≤ at_.toNat →
      (copyAccepted s (r none) = true → exec (.copy d a b e buf out false at_ n) s = .next (copyGiven s (r none))) ∧
      (portReadable s (c.readS d).toNat 64 64 = true → mapFollow g = 0 → copyAccepted s (r (some g)) = true →
        exec (.copy d a b e buf out true at_ n) s = .next (copyGiven s (r (some g))))) ∧
  (∀ (s : State) (d a b : SReg) (e : Bool) (buf : Buf) (map : Bool) (at_ n : BitVec 16), let c := here s
      let g : GWord := BitVec.ofNat 512 (memReadNat (bufPrior s s.cur .dm (c.readS d).toNat 64) 0 64)
      let r := copyRun s (if e then 1 else 0) buf false (c.readS b).toNat (c.readS a).toNat n.toNat at_.toNat
        (if map then some g else none)
      let w := mapFollow g
      let t : TileIx := Fin.ofNat 4 (fieldOf w.toNat 0 2)
      let ga : GReg := Fin.ofNat 16 (fieldOf w.toNat 4 4)
      let gb : GReg := Fin.ofNat 16 (fieldOf w.toNat 8 4)
      let nk := fieldOf w.toNat 16 16
      slotFree s = true → c.ttc ≤ at_.toNat → portReadable s (c.readS d).toNat 64 64 = true → copyAccepted s r = true →
      followOk w = true → mmaAccepted s t ga gb nk (copyLast r + 1) = true →
      exec (.copym d a b e buf map at_ n) s = .next (mmaGiven (copyGiven s r) t ga gb nk (copyLast r + 1) (w.getLsbD 2))) ∧
  (∀ (s : State) (a b : SReg) (e : Bool) (buf : Buf) (at_ n : BitVec 16), let c := here s
      let off := (c.readS b).toNat
      let r : CopyRun := ⟨if e then 1 else 0, ⟨buf, off⟩, false, 0, n.toNat, at_.toNat, 1, 0, none, [], n.toNat, false⟩
      let act : Act := .fill r (c.readS a) 0
      slotFree s = true → c.ttc ≤ at_.toNat → off % 256 = 0 → inPartition c buf off (256 * n.toNat) = true →
      engineBusy s r.engine ⟨c.seq, at_.toNat, act, []⟩ = false →
      exec (.fill a b e buf at_ n) s = .next (flown
        (reserve s [span s at_.toNat (at_.toNat + n.toNat - 1) 24]) (at_.toNat - c.ttc) act [])) ∧
  (∀ (s : State) (a b : SReg) (buf : Buf) (at_ n : BitVec 16), let c := here s
      let off := (c.readS b).toNat
      let k := peerKey (c.readS a)
      let x := sendDelay s.cur k
      slotFree s = true → c.ttc ≤ at_.toNat → off % 256 = 0 → inPartition c buf off (256 * n.toNat) = true →
      (c.group.contains k = true → coreIx k ≠ coreIx s.cur → buf = .ab ∨ buf = .cb →
        exec (.xsend a b buf at_ n) s = .next (flown (reserve s [span s at_.toNat (at_.toNat + n.toNat - 1 + x) 16])
          (at_.toNat - c.ttc) (.sendRead k ⟨buf, off⟩ n.toNat 0 x false) [])) ∧
      ((∃ j ∈ c.group, coreIx j = coreIx k) → coreIx k ≠ coreIx s.cur → buf ≠ .dm → recvBusy c at_.toNat n.toNat = false →
        exec (.xrecv a b buf at_ n) s = .next (flown s (at_.toNat + n.toNat - 1 - c.ttc)
          (.recv (coreIx k) ⟨buf, off⟩ n.toNat at_.toNat) []))) ∧
  (∀ (s : State) (k j : Nat) (f : Flight) (r : CopyRun) (p : Spot), f.act = .copySample r j → translate s k (copyAddr r j) = .hit p →
      ∃ data u, performFlight s k f = againIf (decide (j + 1 < r.lines)) (again u k f (f.due + r.half) (.copyLand r j data (isMarked s p.paddr)))
          k f (f.due + r.stride) (.copySample r (j + 1)) ∧
        (∀ i, i < 256 → memRead data i = physRead s (nodeIds (ctxOf s k)).1 (nodeIds (ctxOf s k)).2 (p.paddr + i)) ∧
        SameStores s u ∧ ∀ i, SameRegisters (ctxOf s i) (ctxOf u i)) ∧
  (∀ (s : State) (k j : Nat) (f : Flight) (r : CopyRun), let off := r.place.off + 256 * j
      pendingLine s k r.place.buf (off / 256) = false →
      (∀ data bad, f.act = .copyLand r j data bad → copyRefused s k ⟨r.place.buf, off⟩ f.seq true = false → Memory.wf data →
        BufferWritten s (performFlight s k f) k r.place.buf off 256 (memRead data)) ∧
      (∀ x, f.act = .fill r x j → copyRefused s k ⟨r.place.buf, off⟩ f.seq true = false →
        BufferWritten s (performFlight s k f) k r.place.buf off 256 (fun i => byteOf x (i % 8))) ∧
      (∀ held bad, f.act = .mapLand r j held bad → copyRefused s k ⟨r.place.buf, off⟩ f.seq true = false →
        let tile := mapTile (r.map.getD 0) r.vaddr r.src held
        Memory.wf tile → BufferWritten s (performFlight s k f) k r.place.buf off 256 (fun i => memRead tile (256 * j + i))) ∧
      (f.act = .copySource r j → r.place.off % 256 = 0 → landingAhead s k r.place.buf (off / 256) = false →
        copyRefused s k ⟨r.place.buf, off⟩ f.seq false = false →
        performFlight s k f = againIf (decide (j + 1 < r.lines)) (again s k f (f.due + r.stride - 1 + r.half)
            (.copyPerform r j (bufPrior s k r.place.buf off 256) (badBytes s k r.place.buf off 256 != [])))
          k f (f.due + r.stride) (.copySource r (j + 1)))) ∧
  (∀ (s : State) (k j : Nat) (f : Flight) (r : CopyRun) (data : Memory) (bad : Bool) (p : Spot), f.act = .copyPerform r j data bad →
      translate s k (copyAddr r j) = .hit p → p.write = true → p.kind = .plain → p.paddr + 256 ≤ Config.durBase →
      MemoryWritten s (performFlight s k f) p.paddr 256 (memRead data)) ∧
  (∀ (s : State) (k dest lines j x : Nat) (f : Flight) (p : Place) (missed : Bool), f.act = .sendRead dest p lines j x missed →
      let off := p.off + 256 * j
      p.off % 256 = 0 → pendingLine s k p.buf (off / 256) = false → landingAhead s k p.buf (off / 256) = false →
      isRefused s k p.buf off false = false →
      performFlight s k f = againIf (decide (j + 1 < lines))
        (again s k f (f.due + x) (.sendLand dest (p.off / 256) (bufPrior s k p.buf off 256) (badBytes s k p.buf off 256)))
        k f (f.due + 1) (.sendRead dest p lines (j + 1) x missed)) ∧
  (∀ (s : State) (k dest line : Nat) (f : Flight) (data : Memory) (bad : List Nat), f.act = .sendLand dest line data bad →
      (recvPlace s dest (coreIx k) = none →
        performFlight s k f = postCause s dest 0x09 (BitVec.ofNat 64 (coreIx k))) ∧
      (∀ p, recvPlace s dest (coreIx k) = some p → Memory.wf data → pendingLine s dest p.buf (p.off / 256) = false →
        isRefused s dest p.buf p.off true = false → BufferWritten s (performFlight s k f) dest p.buf p.off 256 (memRead data)))

/-- The untimed commands of the EC slot (R125, R274, R276–R278, R281–R283): each that its checks accept joins the context's
untimed work, with its reservation, its pending lines, its 64-byte lines and its result, and is held where its page is not
mapped, but for a SCATTER, whose elements find their pages as they perform (R89). LAUNCH reads its record at +1. As they perform (R92, R94,
R115): GATHER's elements stand packed in list order; SCATTER writes its own, here of plain memory and disjoint; DPUT and FPUT write each
piece, FGET and DGET deliver it, over the fabric by a transaction for each piece (R276, R278). Each leaves every other byte alone. -/
def Obligations.EngineWork : Prop :=
  (∀ (s : State) (d a b : SReg) (lsz : Fin 9) (buf : Buf) (iw : Bool) (n : BitVec 16), let c := here s
      let size := 2 ^ lsz.val
      let base := (c.readS a).toNat
      let off := (c.readS b).toNat
      let w := if iw then 2 else 4
      let idx := indexList (bufPrior s s.cur .dm (c.readS d).toNat (w * n.toNat)) n.toNat w
      let addrs := idx.flatMap (fun i => elementAddrs size ((base + i * size) % 2 ^ 64))
      slotFree s = true → portReadable s (c.readS d).toNat (w * n.toNat) w = true → base % size = 0 →
      transferOk s buf off (n.toNat * size) 256 = true →
      (∃ k x, kindOf s s.cur base = some (k, x) ∧ (k = .plain ∨ k = .pg)) →
      (buf = .wb ∨ buf = .ab → exec (.gather d a b lsz buf iw n) s =
        .next (transferGiven s buf off (n.toNat * size) 8 addrs (some 1) (.gather base size idx ⟨buf, off⟩))) ∧
      (buf ≠ .wb → exec (.scatter d a b lsz buf iw n) s =
        .next (transferGiven s buf off (n.toNat * size) 8 addrs none (.scatter base size idx ⟨buf, off⟩)))) ∧
  (∀ (s : State) (a b : SReg) (buf : Buf) (n : BitVec 16), let c := here s
      let v := (c.readS a).toNat
      let off := (c.readS b).toNat
      slotFree s = true →
      (v % 256 = 0 → transferOk s buf off (256 * n.toNat) 256 = true →
        (buf ≠ .wb → runBad s .rem true (runAddrs v (4 * n.toNat)) = false → exec (.fput a b buf n) s =
          .next (transferGiven s buf off (256 * n.toNat) 8 (runAddrs v (4 * n.toNat)) (some 2) (.fput v ⟨buf, off⟩ n.toNat))) ∧
        (runBad s .rem false (runAddrs v (4 * n.toNat)) = false → exec (.fget a b buf n) s =
          .next (transferGiven s buf off (256 * n.toNat) 8 (runAddrs v (4 * n.toNat)) (some 1) (.fget v ⟨buf, off⟩ n.toNat)))) ∧
      (v % 64 = 0 →
        (buf ≠ .wb → transferOk s buf off (64 * n.toNat) 64 = true → runBad s .dur true (runAddrs v n.toNat) = false →
          exec (.dput a b buf n) s =
            .next (transferGiven s buf off (64 * n.toNat) 16 (runAddrs v n.toNat) (some 2) (.dput v ⟨buf, off⟩ n.toNat))) ∧
        (transferOk s .wb off (64 * n.toNat) 64 = true → runBad s .dur false (runAddrs v n.toNat) = false →
          exec (.dget a b n) s =
            .next (transferGiven s .wb off (64 * n.toNat) 16 (runAddrs v n.toNat) (some 1) (.dget v ⟨.wb, off⟩ n.toNat))))) ∧
  (∀ (s : State) (d a b : SReg) (op : AmoOp) (sz64 sx sys : Bool), let c := here s
      let v := (c.readS a).toNat
      let n := if sz64 then 8 else 4
      slotFree s = true → segmentOk s v n (fun k => k == .rem && atomicAllowed c k) true = true →
      resultRoom s (resultFor d) = true →
      exec (.fatom d a b op sz64 sx sys) s = .next (globalGiven (reserve s [openSpan s 8]) v n true
        (.atomic op v n sx (c.readS b) (c.readS d) (if sys then .sys else .dom)) (resultFor d) true)) ∧
  (∀ (s : State) (d a b : SReg) (q : QueueIx) (eos : Bool), let c := here s
      slotFree s = true →
      exec (.qsend a b q eos) s = .next (queued s
        (.qsend q.val eos (clusIx s.cur * 16 + fieldOf (c.readS b).toNat 0 4) (c.readS a)) none false [] []) ∧
      (resultRoom s (resultFor d) = true →
        exec (.qrecv d q) s = .next (queued s (.qrecv q.val) (resultFor d) false [] []))) ∧
  (∀ (s : State) (a : SReg), let off := ((here s).readS a).toNat
      slotFree s = true → off % 64 = 0 → inPartition (here s) .dm off 64 = true → noPending s .dm off 64 = true →
      stagedLaunches s < 256 →
      exec (.launch a) s = .next (flown s 1 (.launchRead off) [])) ∧
  (∀ (s : State) (a b : SReg) (msi : Bool) (vec : BitVec 11), let c := here s
      let v := (c.readS a).toNat
      slotFree s = true → segmentOk s v 8 (fun k => k == .plain || k == .pg || k == .host) true = true →
      (msi = true → vec.toNat < (tenantOf s (nodeIds c).1).msix) →
      exec (.signal a b msi vec) s = .next (globalGiven s v 8 true
        (.signal v (bytesOfNat 8 (c.readS b).toNat) (if msi then some vec.toNat else none)) none false)) ∧
  (∀ (s : State) (k v size : Nat) (u : Untimed) (idx : List Nat) (place : Place), u.job = .gather v size idx place →
      let t := performJob s k u
      (∀ x ∈ idx, ∃ p, translate s k (entryAddr v size x) = .hit p ∧ (p.kind = .plain ∨ p.kind = .pg)) →
      IsDone t k u.seq ∧ ∃ byte, BufferWritten s t k place.buf place.off ((idx.length * size + 255) / 256 * 256) byte ∧
        (∀ i j x p, idx[i]? = some x → j < size → translate s k (entryAddr v size x) = .hit p → byte (i * size + j) =
          physRead s (nodeIds (ctxOf s k)).1 (nodeIds (ctxOf s k)).2 (p.paddr + j)) ∧
        ∀ i, idx.length * size ≤ i → byte i = 0) ∧
  (∀ (s : State) (k v size : Nat) (u : Untimed) (idx : List Nat) (place : Place) (home : Nat → Nat), u.job = .scatter v size idx place →
      let t := performJob s k u
      let n := idx.length
      u ∈ (ctxOf s k).allUntimed → u.held = none → logCount s (coreIx k) 2 < 256 →
      (∀ w ∈ (ctxOf s k).allUntimed, w.seq < u.seq → isLogged s k w = false) →
      (∀ i x, idx[i]? = some x → home i + size ≤ Config.durBase ∧ translate s k (entryAddr v size x) = .hit ⟨.plain, 0, home i, true⟩) →
      (∀ i j, i < n → j < n → i ≠ j → home i + size ≤ home j ∨ home j + size ≤ home i) →
      IsDone t k u.seq ∧
      (∀ i b, i < n → b < size → memRead t.mem (home i + b) = memRead (bufPrior s k place.buf place.off (n * size)) (i * size + b)) ∧
      (∀ a, (∀ i, i < n → a < home i ∨ home i + size ≤ a) → memRead t.mem a = memRead s.mem a) ∧
      (∀ c q a, memRead ((coreOf t c).bufMem q) a = memRead ((coreOf s c).bufMem q) a) ∧
      ∀ j, SameRegisters (ctxOf s j) (ctxOf t j)) ∧
  (∀ (s : State) (k v n p : Nat) (u : Untimed) (place : Place) (x : Task), (ctxOf s k).task = some x → x.twin = false →
      let t := performJob s k u
      let piece := fun i => memRead (bufPrior s k place.buf (place.off + 64 * (i / 64)) 64) (i % 64)
      isOutstanding s k u.seq = false →
      (u.job = .dput v place n → piecesAt s k v n p (fun q => q.kind = .dur) → MemoryWritten s t p (64 * n) piece ∧ IsDone t k u.seq) ∧
      (u.job = .fput v place n → x.spec = false →
        (piecesAt s k v (4 * n) p (fun q => q.kind = .rem ∧ q.pkg = s.pkgId ∧ homeAccepts s s.pkgId x.tenant q.paddr 64 = true) →
          MemoryWritten s t p (256 * n) piece ∧ IsDone t k u.seq) ∧
        (∀ g, g ≠ s.pkgId → p + 256 * n ≤ 2 ^ 45 → piecesAt s k v (4 * n) p (fun q => q.kind = .rem ∧ q.pkg = g) → t.mem = s.mem ∧
          t.outbound.map (fun o => (o.dest, o.tr.op.val, o.tr.addr.toNat, o.tr.data)) =
            s.outbound.map (fun o => (o.dest, o.tr.op.val, o.tr.addr.toNat, o.tr.data)) ++
              (List.range (4 * n)).map (fun i => (g, 0, p + 64 * i, (List.range 64).map (fun b => piece (64 * i + b))))))) ∧
  (∀ (s : State) (k v n p : Nat) (u : Untimed) (place : Place), let ids := nodeIds (ctxOf s k)
      let t := performJob s k u
      let read := fun i => physRead s ids.1 ids.2 (p + i)
      (u.job = .dget v place n → piecesAt s k v n p (fun q => isMarked s q.paddr = false) →
        BufferWritten s t k place.buf place.off (64 * n) read ∧ IsDone t k u.seq) ∧
      (u.job = .fget v place n → isOutstanding s k u.seq = false →
        ((nodeOf s ids.1 ids.2).staged = [] → piecesAt s k v (4 * n) p (fun q => q.pkg = s.pkgId ∧ isMarked s q.paddr = false ∧
            homeAccepts s s.pkgId ids.1 q.paddr 64 = true) →
          BufferWritten s t k place.buf place.off (256 * n) read ∧ IsDone t k u.seq) ∧
        (∀ g, g ≠ s.pkgId → p + 256 * n ≤ 2 ^ 45 → piecesAt s k v (4 * n) p (fun q => q.pkg = g) → t.mem = s.mem ∧
          t.outbound.map (fun o => (o.dest, o.tr.op.val, o.tr.addr.toNat, o.tr.data)) =
            s.outbound.map (fun o => (o.dest, o.tr.op.val, o.tr.addr.toNat, o.tr.data)) ++
              (List.range (4 * n)).map (fun i => (g, 1, p + 64 * i, [])))))

/-! ### The walker (R285–R297) -/

/-- The registers of a walk (R285), whole: w0 reads 0 and what is written to it is discarded; a walk starts with w1 at the sB
of its WSTART and every other register 0, whatever an earlier walk left; arithmetic is modulo 2^64 and changes nothing but its
destination and the syllable. -/
def Obligations.WalkerRegisters : Prop :=
  (∀ (w : Walk) (x : W64) (d r : WReg), w.read 0 = 0 ∧ (w.write 0 x) = w ∧
      (w.write d x).read r = if r = d ∧ r ≠ 0 then x else w.read r) ∧
  (∀ (s : State) (a b : SReg) (q : QueueIx), let c := here s
      let w := newWalk s.cur c.seq q.val (c.readS a).toNat (c.readS b)
      (∀ r : WReg, w.read r = if r = 1 then c.readS b else 0) ∧
      (slotFree s = true → walkHeld c = false → exec (.wstart a b q) s =
        .next (modCluster (queued (reserve s [openSpan s 30]) .walk none false [] []) (clusIx s.cur)
          (fun cl => { cl with startQ := cl.startQ ++ [w] })))) ∧
  (∀ (s : State) (w : Walk) (i : Instr) (d : WReg) (x : W64), walkOf s = some w → walkerResult w i = some (d, x) →
      exec i s = .next (setWalk s (some (w.write d x).next)))

/-- The walker's branches and control registers (R287, R289, R291): a branch goes to its own offset plus four times its
displacement, modulo 2^32, where its condition holds and to the next syllable where not; WLOOP counts first; WGETC reads the six
control registers, and WSETC writes WPF alone, 16 at most. Every other number is walker fault 9. WSTOP marks the context's
running walk and every other walk of its that has begun; one still to begin leaves the start queue at once, and where its queue
has room its EOS enters it and its untimed operation has performed (R279, R297). The head of the start queue becomes the walk once it
may start (R286); what waited behind it stays, the walks of its own core behind the others (log 99). -/
def Obligations.WalkerControl : Prop :=
  (∀ (s : State) (clus : Nat) (w : Walk) (r : List Walk), (clusterOf s clus).walk = none → (clusterOf s clus).startQ = w :: r →
      let u := { s with walker := clus }
      mayStart u w = true → w ∉ r → w.pc % 4 = 0 → walkFetch u w w.pc ≠ none →
      exec (.walkStart clus) s = .next (modCluster u clus (fun c => { c with
        startQ := r.filter (fun x => coreIx x.ctx != coreIx w.ctx) ++ r.filter (fun x => coreIx x.ctx == coreIx w.ctx)
        walk := some { w with begun := true } }))) ∧
  (∀ (s : State) (w : Walk) (i : Instr) (taken : Bool) (x : Int), walkOf s = some w → walkerBranch w i = some (taken, x) →
      exec i s = .next (setWalk s (some
        (if taken then { w with pc := (((w.pc : Int) + 4 * x) % 2 ^ 32).toNat } else { w with pc := w.pc + 4 })))) ∧
  (∀ (s : State) (w : Walk) (d : WReg) (i : BitVec 18), walkOf s = some w →
      let u := w.write d (w.read d - 1)
      exec (.wloop d i) s = .next (setWalk s (some (if u.read d ≠ 0 then
        { u with pc := (((w.pc : Int) + 4 * i.toInt) % 2 ^ 32).toNat } else { u with pc := w.pc + 4 })))) ∧
  (∀ (s : State) (w : Walk) (d : WReg) (n : BitVec 14), walkOf s = some w → n.toNat ≤ 5 →
      let x := [BitVec.ofNat 64 w.queue, BitVec.ofNat 64 (w.ctx % 16), w.wtok, w.wpfc, w.wpf, BitVec.ofNat 64 w.pc].getD n.toNat 0
      exec (.wgetc d n) s = .next (setWalk s (some { w.write d x with pc := w.pc + 4 }))) ∧
  (∀ (s : State) (w : Walk) (a : WReg) (n : BitVec 14), walkOf s = some w → n.toNat ≤ 5 →
      exec (.wsetc a n) s = .next (setWalk s (some
        { w with pc := w.pc + 4, wpf := if n.toNat = 4 then BitVec.ofNat 64 (min (w.read a).toNat 16) else w.wpf }))) ∧
  (∀ (s : State) (w : Walk) (d : WReg) (n : BitVec 14), walkOf s = some w → 5 < n.toNat →
      exec (.wgetc d n) s = .next (walkFault s w 9 0) ∧ exec (.wsetc d n) s = .next (walkFault s w 9 0)) ∧
  (∀ (s : State), slotFree s = true → let mark := fun w => if w.ctx = s.cur then { w with stop := true } else w
      let cl := clusterOf s (clusIx s.cur)
      let fresh := cl.startQ.filter (fun w => w.ctx == s.cur && !w.begun)
      let u := modCluster s (clusIx s.cur) (fun cl => { cl with
        walk := cl.walk.map mark, startQ := cl.startQ.map (fun w => if w.begun then mark w else w) })
      (fresh = [] → exec .wstop s = .next u) ∧
      (∀ w, fresh = [w] → queueFull s (clusIx s.cur) w.queue = false → cl.full.get w.queue [] = [] →
        ∃ t, exec .wstop s = .next t ∧ (clusterOf t (clusIx s.cur)).walk = cl.walk.map mark ∧
          (clusterOf t (clusIx s.cur)).startQ = leaveQueue w (clusterOf u (clusIx s.cur)).startQ ∧
          (clusterOf t (clusIx s.cur)).queues.get w.queue [] =
            cl.queues.get w.queue [] ++ [⟨true, s.cur, eosPayload w 1 0 0, some w.seq⟩] ∧
          ∀ x ∈ (ctxOf t s.cur).allUntimed, x.seq = w.seq → x.done = true))

/-- The walker's memory and tokens (R290, R292–R297). WLD and WLDP read eight aligned bytes; WLDP asks for the next WPF lines
besides. WTILE opens its tile, or waits where the lines of an unread token are in its way. WEMIT writes its block and covers 32
runs, WGATH writes one run of 32 gathered elements, WFLUSH writes zeros in the runs not covered and closes the tile with its
token; WEMITZ and WEOS make a token alone, and WHALT ends the walk. -/
def Obligations.WalkerMemory : Prop :=
  (∀ (s : State) (w : Walk) (d a : WReg) (i : BitVec 18) (m : Memory), let v := (w.read a + i.signExtend 64).toNat
      let u := (w.dropLine s v 8).write d (BitVec.ofNat 64 (memReadNat m 0 8))
      walkOf s = some w → v % 8 = 0 → walkRead s w v 8 true = .ok m →
      exec (.wld d a i) s = .next (nextFresh (setWalk s (some u.next)) 1) ∧
      exec (.wldp d a i) s = .next (nextFresh (setWalk s (some
        ((List.range w.wpf.toNat).foldl (fun w j => prefetchLine s w (v / 256 + 1 + j)) u).next)) 1)) ∧
  (∀ (s : State) (w : Walk) (a b : WReg) (fmt : BitVec 5) (first : Bool) (t : TileIx), walkOf s = some w → w.tile = none →
      let line := (w.read a).toNat
      let o : OpenTile := ⟨line, fmt.toNat, first, t.val, (w.read b).setWidth 32, []⟩
      tileFmtOk fmt.toNat = true → inPartition (ctxOf s w.ctx) .ab (line * 256) (16 * tileBits o * 256) = true →
      exec (.wtile a b fmt first t) s = .next (setWalk s (some
        (if tileOverlaps w line (16 * tileBits o) then { w with waitTile := some o }
         else { w with pc := w.pc + 4, tile := some o })))) ∧
  (∀ (s : State) (w : Walk) (a b : WReg) (t : OpenTile) (m : Memory), walkOf s = some w → w.tile = some t →
      let v := (w.read a).toNat
      let y := (w.read b).toNat
      let n := 128 * tileBits t
      let run := y / 4 * 128 + 32 * (y % 4)
      v % 64 = 0 → y < 32 → walkRead s w v n true = .ok m →
      exec (.wemit a b) s = .next (nextFresh (walkWrite (setWalk s (some { w.dropLine s v n with
        pc := w.pc + 4, tile := some { t with runs := t.runs ++ (List.range 32).map (fun i => run + i) } }))
          w (t.line * 256 + run * 4 * tileBits t) n m) 1)) ∧
  (∀ (s : State) (w : Walk) (d a b : WReg) (t : OpenTile) (ixs : Memory), walkOf s = some w → w.tile = some t →
      let v := (w.read d).toNat
      let y := (w.read b).toNat
      let bits := tileBits t
      let element := fun j => memReadNat ixs (4 * j) 4
      let from_ := fun j => (w.read a).toNat + (elementSpan bits (element j)).1
      let bytes := fun j => (elementSpan bits (element j)).2
      v % 4 = 0 → y < 1024 → walkRead s w v 128 true = .ok ixs → 2 ≤ bits → bits ≤ 16 →
      (∀ j, j < 32 → ∃ m, walkRead s w (from_ j) (bytes j) false = .ok m) →
      let u := (List.range 32).foldl (fun w j => w.dropLine s (from_ j) (bytes j)) (w.dropLine s v 128)
      ∃ run, exec (.wgath d a b) s = .next (nextFresh (walkWrite (setWalk s (some { u with
          pc := w.pc + 4, tile := some { t with runs := t.runs ++ [y] } })) w (t.line * 256 + y * 4 * bits) (4 * bits) run) 1) ∧
        ∀ j m, j < 32 → walkRead s w (from_ j) (bytes j) false = .ok m →
          elementAt run bits j = elementAt m bits (if bits = 2 ∨ bits = 6 then element j % 4 else if bits = 4 then element j % 2 else 0)) ∧
  ((∀ (s : State) (w : Walk) (t : OpenTile), walkOf s = some w → w.tile = some t →
      exec .wflush s = .next (setWalk (zeroRuns s w t) (some { w with
        tile := none
        busy := w.busy ++ [(t.line, 16 * tileBits t)]
        pend := some (⟨false, w.ctx, tilePayload t, some w.seq⟩, false) }))) ∧
    (∀ (s : State) (w : Walk) (a : Nat) (t : OpenTile), a < 16 * tileBits t * 256 →
      let at_ := (ctxOf s w.ctx).base .ab + t.line * 256 + a
      memRead (coreOf (zeroRuns s w t) (coreIx w.ctx)).ab at_ =
        if t.runs.contains (a / (4 * tileBits t)) then memRead (coreOf s (coreIx w.ctx)).ab at_ else 0)) ∧
  (∀ (s : State) (w : Walk) (t : TileIx), walkOf s = some w →
      exec (.wemitz t) s = .next (setWalk s (some { w with
        pend := some (⟨false, w.ctx, BitVec.ofNat 64 (2 ^ 63 + t.val * 2 ^ 60), some w.seq⟩, false) })) ∧
      (w.tile = none → exec .weos s = .next (setWalk s (some { w with
        tile := none, waitTile := none, pend := some (⟨true, w.ctx, eosPayload w 0 0 (w.pc / 4), some w.seq⟩, true) }))) ∧
      exec .whalt s = .next (endWalk s w))

/-! ### Events of contexts (R16, R20–R35, R89, R136, R176, R178, R185–R194, R281, R286, R341, R342, R349–R351) -/

/-- Untimed work performs by the event of its kind where nothing before it holds it and, for a GATHER or DGET, its typed buffer
has no write in this cycle (R28, R30, R75, R92, R111); the causes it raises stay on the context, unless the operation stands in a
snapshot. A store of plain memory writes its bytes, and no others; a load takes the bytes that its node sees (R207): the last
write of an earlier cycle that is final or its own, not another node's staged one (R94, R99), else what memory held before this
cycle, or, where other nodes' writes to HBM are uncommitted, one of the values of R87; what the host wrote over a region in use may
read otherwise (R359). An arrival counts at its barrier, and the
last of COUNT advances the phase (R178, R179); an entry held at a full queue enters it (R281); a walk goes on once its page is
mapped or the lines of its tile are free, and enqueues its token (R286, R292, R295, R299). -/
def Obligations.UntimedPerforms : Prop :=
  (∀ (s : State) (k i : Nat) (u : Untimed), (ctxOf s k).allUntimed[i]? = some u → mayPerform s k u = true →
      meetsWrite s k u.job = false →
      let t := deferCauses s (performJob s k u) k u.seq
      (classOfJob u.job = .other → exec (.untimedOperationPerform k i) s = .next t) ∧
      (classOfJob u.job = .madder → exec (.madderGatherReturn k i) s = .next t) ∧
      (classOfJob u.job = .mmag → exec (.mmagStart k i) s = .next t) ∧
      (classOfJob u.job = .mmas → exec (.mmasTokenTake k i) s = .next t) ∧
      (classOfJob u.job = .arrive → exec (.barrierArrivalCount k i) s = .next t)) ∧
  (∀ (s t : State) (k seq : Nat), (ctxOf s k).snapU.any (fun u => u.seq == seq) = false → deferCauses s t k seq = t) ∧
  (∀ (s : State) (k v : Nat) (u : Untimed) (p : Spot), translate s k v = .hit p → p.kind = .plain →
      p.paddr + 8 ≤ Config.durBase →
      (∀ bytes, u.job = .store v bytes → bytes.length ≤ 8 → p.write = true → isOutstanding s k u.seq = false →
        let t := performJob s k u
        (∀ a, memRead t.mem a =
          if p.paddr ≤ a ∧ a < p.paddr + bytes.length then bytes.getD (a - p.paddr) 0 else memRead s.mem a) ∧
        ∀ w ∈ (ctxOf t k).allUntimed, w.seq = u.seq → w.done = true) ∧
      (∀ n sx, u.job = .load v n sx → n ≤ 8 → isMarked s p.paddr = false →
        let t := performJob s k u
        t.mem = s.mem ∧ ∀ w ∈ (ctxOf t k).allUntimed, w.seq = u.seq →
          w.done = true ∧ ∀ r, w.result = some r → r.x = some (extend sx n
            (natOfBytes (physReadList s (nodeIds (ctxOf s k)).1 (nodeIds (ctxOf s k)).2 p.paddr n))))) ∧
  (∀ (s : State) (tenant node a : Nat),
      let own := ownWrites s tenant node
      let others := tentativeBytes s (fun t n => t == tenant && n == node) own a
      let writes := s.uncommitted.filter (fun e => e.addr == a)
      (isClouded s tenant node a = false → (others = [] → physRead s tenant node a = openByte s own a) ∧
        physRead s tenant node a ∈ openByte s own a :: others) ∧
      (∀ l e, writes = l ++ [e] → e.at_ < s.gcc → (∀ w, e.by_ = some w → own w = true) → openByte s own a = e.byte) ∧
      (∀ e l, writes = e :: l → e.at_ = 0 → e.by_ = none →
        (∀ x ∈ l, ∃ w, x.by_ = some w ∧ w.fabric = false ∧ own w = false) → openByte s own a = e.byte) ∧
      (writes = [] → openByte s own a =
        ((s.written.find? (fun w => w.1 == a)).map (fun w => w.2)).getD (memRead s.mem a))) ∧
  (∀ (s : State) (k bar : Nat) (u : Untimed) (b : Barrier), u.job = .arrive bar →
      (coreOf s (bar / 64)).barriers.get (bar % 64) ⟨0, 0, 0⟩ = b → b.count ≠ 0 →
      (coreOf (performJob s k u) (bar / 64)).barriers.get (bar % 64) ⟨0, 0, 0⟩ =
        if b.arr + 1 = b.count then ⟨b.count, 0, b.phase + 1⟩ else ⟨b.count, b.arr + 1, b.phase⟩) ∧
  (∀ (s : State) (clus q k seq : Nat) (e : QEntry) (r : List (Nat × Nat × QEntry)),
      (clusterOf s clus).full.get q [] = (k, seq, e) :: r → queueFull s clus q = false →
      ∃ t, exec (.queueEntryEnter clus q) s = .next t ∧ (clusterOf t clus).full.get q [] = r ∧
        (clusterOf t clus).queues.get q [] = (clusterOf s clus).queues.get q [] ++ [e] ∧
        ∀ x ∈ (ctxOf t k).allUntimed, x.seq = seq → x.done = true) ∧
  (∀ (s : State) (clus : Nat) (w : Walk), (clusterOf s clus).walk = some w → let u := { s with walker := clus }
      (∀ p, w.held = some p → pageMapped u w.ctx p = true →
        exec (.walkResume clus) s = .next (setWalk u (some { w with held := none }))) ∧
      (∀ o, w.waitTile = some o → tileOverlaps w o.line (16 * tileBits o) = false →
        exec (.wtileOpen clus) s = .next (setWalk u (some { w with pc := w.pc + 4, tile := some o, waitTile := none }))) ∧
      (∀ e last, w.pend = some (e, last) → queueFull s clus w.queue = false →
        exec (.walkerTokenEnqueue clus) s = .next (if last then endWalk (enqueue u clus w.queue e) w
          else setWalk (enqueue u clus w.queue e) (some { w with pc := w.pc + 4, pend := none, wtok := w.wtok + 1 }))))

/-- Waits end and the width moves (R20–R26, R30–R33, R135, R136, R176, R192). A wait that has drained completes: its results are
written in issue order, and the next bundle issues one cycle later at TTC 0; an RTE whose handler left no fault fixes its
resumption cycle instead. END leaves the context free. A CSYNC releases the whole gang at once. A hand-over gives the width to the
incoming context, and one that ran past RUNLEN is to be pre-empted; a full fault buffer holds that back. A WAITM, one that a trap
interrupted too, compares again or times out. A post applies 16 cycles after its posting; of several for one core the latest, at
one posting the lower allowance or STRICT, wins, a target being at most 8,000 q, or 7,200 q above 700 MHz. -/
def Obligations.WaitsAndWidth : Prop :=
  (∀ (s : State) (k : Nat) (w : Wait), let c := ctxOf s k
      c.wait = some w → c.freeze = none → hasWidth s k = true → w.at_ < s.gcc → canComplete s k = true →
      (w.kind ≠ .endTask → w.kind ≠ .rte → ∃ t, exec (.waitCompletion k) s = .next t ∧ (ctxOf t k).wait = none ∧
        (ctxOf t k).ttc = 0 ∧ (ctxOf t k).resume = s.gcc + 1 ∧ (ctxOf t k).untimed = [] ∧ (ctxOf t k).flights = [] ∧
        (w.kind = .waite → ∀ r, (ctxOf t k).readS r = (writeResults c).readS r)) ∧
      (w.kind = .rte → c.causes = [] → c.untimed.all (fun u => u.fault.isNone) = true →
        ∃ t, exec (.waitCompletion k) s = .next t ∧ (ctxOf t k).untimed = [] ∧
          (ctxOf t k).wait = some { w with kind := .resumeAt (resumeCycle c w.at_ (s.gcc - 1)) })) ∧
  (∀ (c : Ctx) (l r : List Untimed) (u : Untimed) (d : SReg) (x : W64), c.untimed = l ++ u :: r →
      u.result = some ⟨d, some x⟩ → isHacc u = false → d ≠ 0 →
      (∀ v ∈ r, ∀ y, v.result = some y → y.reg ≠ d) → (writeResults c).readS d = x) ∧
  (∀ (s : State) (k a : Nat) (pc : W64) (x : Task), (ctxOf s k).wait = some ⟨.endTask, a, pc⟩ → (ctxOf s k).task = some x →
      endsNow s k a = true → (ctxOf s k).untimed.all (fun u => u.fault.isNone) = true →
      ∃ t, exec (.taskEndComplete k) s = .next t ∧ (ctxOf t k).task = none ∧ (ctxOf t k).flights = [] ∧ (ctxOf t k).wait = none ∧
        (nodeOf t x.tenant x.node).running = (nodeOf s x.tenant x.node).running.filter (· != k) ∧
        (nodeOf t x.tenant x.node).past = (nodeOf s x.tenant x.node).past ++ [(k, (ctxOf s k).lastPersist)]) ∧
  (∀ (s : State) (core : Nat) (i : Fin 4), let k := core * 4 + i.val
      (coreOf s core).incoming = some i → (ctxOf s k).freeze = none → occupied (ctxOf s k) k = true →
      (coreOf s core).handCycles = 1 → paddingOver s core k = true →
      ∃ t, exec (.handOver core) s = .next t ∧ (coreOf t core).width = some i ∧ (coreOf t core).incoming = none ∧
        (ctxOf t k).readyAt = none ∧ (ctxOf t k).promoted = false ∧
        ((ctxOf s k).wait = none → s.gcc + 1 ≤ (ctxOf t k).resume)) ∧
  (∀ (s : State) (k g : Nat), (ctxOf s k).readyAt = some g → g + 2 ^ 20 ≤ s.gcc →
      exec (.lowPriorityPromotion k) s = .next (modCtx s k (fun c => { c with promoted := true }))) ∧
  (∀ (s : State) (k : Nat), hasOverrun s k = true → (ctxOf s k).group = [] → (ctxOf s k).freeze = none → (ctxOf s k).preAt = none →
      let d := dieOf s (dieIx k)
      ∃ t, exec (.runOverrun k) s = .next t ∧ (ctxOf t k).ran = (ctxOf s k).ran + 1 ∧
        (d.faults.length < 4096 → (ctxOf t k).preAt = some (s.gcc + 512) ∧ (dieOf t (dieIx k)).faults.length = d.faults.length + 1) ∧
        (4096 ≤ d.faults.length → (ctxOf t k).preAt = none ∧ (dieOf t (dieIx k)).held.length = d.held.length + 1)) ∧
  (∀ (s : State) (k : Nat), canRelease s k = true →
      ∃ t, exec (.csyncRelease k) s = .next t ∧ ∀ j ∈ liveGang s k, (ctxOf t j).wait = none ∧ (ctxOf t j).ttc = 0 ∧
        (ctxOf t j).resume = s.gcc + 1 ∧ (ctxOf t j).group = liveGang s k) ∧
  (∀ (s : State) (k v a : Nat) (d : SReg) (b pc : W64) (cc : Cmp) (x : Bool) (dl : Option Nat),
      let w := fun hit => (⟨.waitm d v b cc x dl hit, a, pc⟩ : Wait)
      ∃ t, exec (.waitmPoll k) s = .next t ∧ SameRegisters (ctxOf s k) (ctxOf t k) ∧ SameStores s t ∧
        ((ctxOf s k).wait = some (w none) →
          (ctxOf t k).wait = some (w (if monitorHit s k v b cc x then some true else none))) ∧
        ((ctxOf s k).heldWait = some (w none) →
          (ctxOf t k).heldWait = some (w (if monitorHit (nextFresh s 1) k v b cc x then some true else none)))) ∧
  (∀ (s : State) (k v a dl : Nat) (d : SReg) (b pc : W64) (cc : Cmp) (x : Bool), dl ≤ s.gcc →
      let w := fun hit => (⟨.waitm d v b cc x (some dl) hit, a, pc⟩ : Wait)
      ∃ t, exec (.waitmTimeout k) s = .next t ∧ SameRegisters (ctxOf s k) (ctxOf t k) ∧ SameStores s t ∧
        ((ctxOf s k).wait = some (w none) → (ctxOf t k).wait = some (w (some false))) ∧
        ((ctxOf s k).heldWait = some (w none) → (ctxOf t k).heldWait = some (w (some false)))) ∧
  (∀ (s : State) (i : Nat) (p r : Post), s.posts[i]? = some p → p.posted + 16 ≤ s.gcc →
      r ∈ s.posts → p.isRival r s.gcc = true →
      (∀ q ∈ s.posts, p.isRival q s.gcc = true → q = r ∨ q.posted < r.posted ∨ (q.posted = r.posted ∧
        (if p.isMode then r.value.getLsbD 0 = true ∧ q.value.getLsbD 0 = false else r.value.toNat < q.value.toNat))) →
      ∃ t, exec (.allowanceApply i) s = .next t ∧ t.posts = s.posts.filter (fun q => !p.isRival q s.gcc) ∧
        (p.isMode = false → (coreOf t p.core).target = min r.value.toNat (if 700 < s.clock then 7200 else 8000) ∧
          (coreOf t p.core).strict = (coreOf s p.core).strict) ∧
        (p.isMode = true → (coreOf t p.core).strict = r.value.getLsbD 0 ∧ (coreOf t p.core).target = (coreOf s p.core).target))

/-- Traps, freezes and pages of a context (R35, R89, R91, R185, R187, R188, R191, R192, R194, R305, R341, R342, R349–R351). At a
boundary the cause of the lowest code is taken, the pending interrupt among them, and the others are held; a wait behind which
control goes elsewhere keeps that way as a redirect. A deferred page fault freezes the group instead. RTE goes on at TPC, or where
the redirect takes it, with the interrupted wait if one was. A posted freeze, an unmapped page or a miss of code that is not pinned
stops a context that is in no sync group, and the last reason cleared lets it thaw with its core's width. SIDE_LOG_RETRY releases
the reads held for a page that is mapped by now and replays each unit's log in the order in which its entries entered (log 137). PGREQ moves a page, or makes it invalid, unless it is pinned, and then the held units
retry. Model's choices: RTE with RCNT 0 and in a bundle with WT (notes/assumptions/96), the width at a thaw (103), deferred causes,
the pending interrupt and pages (28, 29, 48). -/
def Obligations.TrapsAndFreezes : Prop :=
  ((∀ (cs r : List (Nat × W64)) (x : Nat × W64), lowestCause cs = some (x, r) →
      x ∈ cs ∧ ∀ y ∈ cs, causeCode x.1 ≤ causeCode y.1) ∧
    (∀ (s : State) (k : Nat) (x : Nat × W64) (rest : List (Nat × W64)), let c := ctxOf s k
      trapDue s k = true → lowestCause (c.causes ++ (pendingIrq c).toList) = some (x, rest) →
      (x.1 ≠ 0x10B → exec (.trapEntry k) s = .next (takeTrap (modCtx s k (fun c => { c with
        causes := []
        heldCauses := c.heldCauses ++ rest.filter (fun y => y.1 != 0x12)
        redirect := pendingRedirect s c
        irq := if x.1 = 0x12 then c.irq &&& ~~~((1 : BitVec 3) <<< x.2.toNat) else c.irq }))
          k (causeCode x.1) (some x.2) ((c.wait.map (fun w => w.pc)).getD c.pc) c.wait.isSome (decide (0x100 ≤ x.1)))) ∧
      (x.1 = 0x10B → c.group = [] → ∃ t, exec (.trapEntry k) s = .next t ∧ (ctxOf t k).freeze = some ⟨s.gcc, [.pf], 0⟩ ∧
        (ctxOf t k).causes = c.causes.filter (fun y => y.1 != 0x10B))) ∧
    (∀ (s : State) (c : Ctx),
      (∀ r, c.redirect = some r → pendingRedirect s c = some r) ∧
      (∀ w, c.redirect = none → c.wait = some w →
        pendingRedirect s c = if c.pc = nextBundle s c w.pc then none else some ⟨c.pc, 0, false⟩)) ∧
    (∀ (s : State) (k r a : Nat) (pc : W64), let c := ctxOf s k
      let target := c.tstate.getLsbD 1
      let left := (c.tstate.extractLsb' 2 2).toNat
      c.wait = some ⟨.resumeAt r, a, pc⟩ → canResume s k = true →
      ∃ t, exec (.rteResume k) s = .next t ∧ (ctxOf t k).ttc = c.trttc.toNat ∧ (ctxOf t k).resume = s.gcc ∧
        (ctxOf t k).untimed = c.snapU.map (fun u => { u with late := [] }) ∧
        (ctxOf t k).mode = (if c.tstate.getLsbD 0 then .supervisor else .user) ∧
        (ctxOf t k).redirect = (if target ∧ left ≠ 0 then some ⟨c.trtgt, left, c.heldPops⟩
          else if target ∧ c.tstate.getLsbD 5 = true ∧ (ctxOf t k).wait = none then some ⟨c.trtgt, 1, c.heldPops⟩ else none) ∧
        (c.tstate.getLsbD 5 = false → (ctxOf t k).wait = none ∧
          (ctxOf t k).pc = if target ∧ left = 0 then c.trtgt else c.tpc) ∧
        (∀ w, c.tstate.getLsbD 5 = true → c.heldWait = some w → w.pc = c.tpc →
          (ctxOf t k).wait = some { w with at_ := s.gcc - 1 } ∧
          (target = true → left = 0 → (ctxOf t k).pc = c.trtgt))) ∧
    (∀ (s : State) (k : Nat), exec (.timerInterrupt k) s = .next (modCtx s k (fun c => { c with irq := c.irq ||| 1 })))) ∧
  (∀ (s : State) (k : Nat), let c := ctxOf s k
      c.group = [] →
      (c.freeze = none →
        (∀ p, c.preAt = some p → p ≤ s.gcc → ∃ t, exec (.freezeBoundary k) s = .next t ∧
          (ctxOf t k).freeze = some ⟨s.gcc, [.pre], 0⟩ ∧ (ctxOf t k).preAt = none) ∧
        (c.task ≠ none → isPinnedCode s k = false → ∃ t, exec (.codeFetchMiss k) s = .next t ∧
          (ctxOf t k).freeze = some ⟨s.gcc, [.fe], 0⟩ ∧ (ctxOf t k).missing = some c.pc) ∧
        (isPinnedCode s k = true → exec (.codeFetchMiss k) s = .next s)) ∧
      (canThaw s k = true → ∃ t, exec (.thaw k) s = .next t ∧ (ctxOf t k).freeze = none ∧
        (coreOf t (coreIx k)).width = some (ctxIx k)) ∧
      (c.missing ≠ none → ∃ t, exec (.codeFetchArrival k) s = .next t ∧ (ctxOf t k).missing = none ∧
        (ctxOf t k).freeze = c.freeze.map (fun f =>
          { f with marks := f.marks.filter (· != .fe), soon := max f.soon (s.gcc + 1) })) ∧
      (∀ i v, neededNow s k i = some v →
        (translate s k v = .unmapped → exec (.timedPageFault k i) s =
          .next (postCtxFault (freezeGroup s k .pf) k 0 0x0B (BitVec.ofNat 64 v) 0 c.pc.toNat)) ∧
        (translate s k v ≠ .unmapped → exec (.timedPageFault k i) s =
          .next (if isResolved s k v then s else freezeGroup s k .lk))) ∧
      (∀ f i, c.freeze = some f → .lk ∈ f.marks → ∃ t, exec (.translationResolved k i) s = .next t ∧
        (ctxOf t k).freeze = some { f with marks := f.marks.filter (· != .lk), soon := max f.soon (s.gcc + 1) })) ∧
  (∀ (s : State) (core : Nat), let ks := (List.range 4).map (fun j => core * 4 + j)
      ∃ t, exec (.sideLogRetry core) s = .next t ∧
      (∀ i, i < 4 → ∀ u ∈ (ctxOf t (core * 4 + i)).allUntimed, ∀ p, u.held = some p → isLogHead u = false →
        pageMapped s (core * 4 + i) p = false) ∧
      (replayOrder s ks 0 = [] → replayOrder s ks 2 = [] → t.mem = s.mem)) ∧
  (∀ (s : State) (ks : List Nat) (unit : Nat), let l := replayOrder s ks unit
      l.Pairwise (fun x y => x.at_ < y.at_ ∨ (x.at_ = y.at_ ∧ (x.ctx < y.ctx ∨ (x.ctx = y.ctx ∧ x.seq ≤ y.seq)))) ∧
      (∀ k ∈ ks, ∀ u ∈ (ctxOf s k).allUntimed, (jobUnit u.job).any (·.1 == unit) = true → isReplayable s k u = true →
        ⟨logTime s k u, k, u.seq⟩ ∈ l)) ∧
  (∀ (s t : State) (n : Nat) (e : LogEntry) (r : List LogEntry), replayEntry s e = some t →
      replayLog (n + 1) (e :: r) s = replayLog n r t) ∧
  (∀ (s : State) (k e root : Nat) (v : W64) (u : Untimed) (p : Nat × Bool), let t := reqTenant v
      let page := reqPage v
      pageRequest s k v = some u → rootOf s t = some root → pageWalk s.mem root (page * 65536) = some p →
      entryOf s.mem root (page * 65536) = some e →
      (isPinned s t page = true → (v.getLsbD 63 = false → exec (.pgreqEvict k v) s = .next (endRequest s k u 1)) ∧
        (v.getLsbD 63 = true → exec (.pgreqMigrate k v) s = .next (endRequest s k u 1))) ∧
      (isPinned s t page = false → v.getLsbD 63 = false → ∃ r, exec (.pgreqEvict k v) s = .next (endRequest r k u 0) ∧
        memReadNat r.mem e 8 = memReadNat s.mem e 8 / 2 * 2 ∧
        ∀ n, ∀ x ∈ (clusterOf r n).tlb, ¬(x.1 = t ∧ x.2.1 = page)) ∧
      (∀ a, isPinned s t page = false → v.getLsbD 63 = true → stackServes s t page (reqStack v) = true →
        freePage s (reqStack v) = some a → MemoryOk s → (e + 8 ≤ a ∨ a + 65536 ≤ e) →
        ∃ r, exec (.pgreqMigrate k v) s = .next (endRequest r k u 0) ∧
          (∀ i, i < 65536 → memRead r.mem (a + i) = memRead s.mem (p.1 + i)) ∧
          memReadNat r.mem e 8 = (a + memReadNat s.mem e 8 % 65536) % 2 ^ 64 ∧
          ∀ n, ∀ x ∈ (clusterOf r n).tlb, ¬(x.1 = t ∧ x.2.1 = page)))

/-! ### The launch unit (R18, R117, R120, R121, R316–R331, R354) -/

/-- The launch unit (R316–R331, R354). A record enters an enabled queue with room by the write of its last byte, or DROP rises. The
head of the queue whose turn it is enters the node table, is counted in BAD where its signal may not be written, or retires
INVALID. A node with no predecessor left is READY, and, without tasks and data, COMMITTING. A node whose turn it is starts a gang
that has not started member by member, its task identity that of R19. A region keeps its bytes as it moves. After PWAIT a lone task
of lower priority is pre-empted, the same one till it is saved, once it stands, or lost where its state reads uncorrectable. A commit with nothing left to write retires the node OK with its signal.
A rollback frees the node's contexts and discards what it staged: with a fate, a program error or a page without backing the node
retires (not while a full buffer holds its entry), else it is WAITING again; without a cause nothing happens. Equal copies of a REDUNDANT task are dismissed, and others roll
the node back, once neither copy runs or stands saved. Teardown sets TDA and empties the queue, and the queue reset clears it once
drained. Model's choices: PWAIT is counted at the present clock (notes/assumptions/78), the entry of cause 0x23 names the context that
ended last (106), and where a rollback or a place is the outside world's (48, 51, 52). -/
def Obligations.LaunchUnit : Prop :=
  (∀ (s : State) (fn : Nat) (bytes : List Byte), let t := tenantOf s fn
      bytes.length = 64 →
      (t.en = true → t.tda = false → t.queue.length < 256 → ∃ u, exec (.launchPortWrite fn 0 bytes) s = .next u ∧
        (tenantOf u fn).queue = t.queue ++ [BitVec.ofNat 512 (natOfBytes bytes)] ∧ (tenantOf u fn).stage = []) ∧
      (t.en = false ∨ t.tda = true ∨ 256 ≤ t.queue.length → ∃ u, exec (.launchPortWrite fn 0 bytes) s = .next u ∧
        (tenantOf u fn).queue = t.queue ∧ (tenantOf u fn).drop = min (t.drop + 1) 0xFFFF)) ∧
  (∀ (s : State) (fn ix : Nat) (r : GWord) (rest : List GWord), let t := tenantOf s fn
      let u := modTenant { s with admitNext := (fn + 1) % 16 } fn (fun t => { t with queue := rest, alloc := (ix + 1) % 1024 })
      t.queue = r :: rest → freeEntry t t.alloc = some ix → queueTurn s fn = true →
      t.nodes.all (fun x => !commitBegun x.2) = true →
      (signalOk t r = false → exec (.nodeAdmission fn) s =
        .next (modNode (modTenant u fn (fun t => { t with bad := min (t.bad + 1) 0xFFFF })) fn ix (fun _ => Node.reset))) ∧
      (signalOk t r = true → admissible u fn r = false → exec (.nodeAdmission fn) s =
        .next (retire (modNode u fn ix (fun _ => { Node.reset with state := .waiting, record := r })) fn ix 2)) ∧
      (signalOk t r = true → admissible u fn r = true → (recMsi r = true → recVec r < t.msix) → recPreds r = [] →
        exec (.nodeAdmission fn) s = .next (modNode u fn ix (fun _ => { newNode u r with preds := [] })))) ∧
  (∀ (s : State) (fn n : Nat), let x := nodeOf s fn n
      x.state = .waiting → x.preds = [] →
      (x.gangs ≠ [] → exec (.nodeReady fn n) s = .next (modNode { s with turns := s.turns + 1 } fn n (fun m =>
        { m with state := .ready, readyAt := s.turns, unplacedSince := some s.gcc }))) ∧
      (x.gangs = [] → kNdata x.desc = 0 → datumOut s fn n = false →
        ∃ t, exec (.nodeReady fn n) s = .next t ∧ (nodeOf t fn n).state = .committing)) ∧
  (∀ (s v u : State) (fn n g : Nat) (place rest : List Nat), let x := nodeOf s fn n
      x.gangs = g :: rest → x.state = .ready → recRedundant x.record = false → nodeTurn s fn n = true →
      savedGang s fn n g = [] → placeOk s fn n g place = true → homesOk s fn x (seatsOf s fn n g place) = true →
      pagesHomed s fn x (seatsOf s fn n g place) = true → x.migrating = [] →
      openNode s fn n = some v → placeCopy fn n g false place v = some u →
      ∃ t, exec (.gangPlacement fn n place) s = .next t ∧ (nodeOf t fn n).gangs = rest ∧ (nodeOf t fn n).state = .running ∧
        (nodeOf t fn n).running = x.running ++ place ∧
        ∀ i (h : i < place.length), (ctxOf t place[i]).pc = 0 ∧ (ctxOf t place[i]).mode = .user ∧
          (ctxOf t place[i]).task.map (fun y => (y.tenant, y.node, y.tid)) =
            some (fn, n, (taskCoords g i (nodeLevels x)).1)) ∧
  (∀ (s : State) (region stack fn a base bytes : Nat), MemoryOk s →
      (allRegions s).find? (fun r => r.2.1 == region && (tenantOf s r.1).nodes.any (fun x => x.2.migrating.contains (region, stack))) =
        some (fn, region, base, bytes) → regionHeld (tenantOf s fn) region = false → placeRegion s stack bytes = some a →
      ∃ t, exec (.regionMigrationComplete region stack) s = .next t ∧
        (tenantOf t fn).regions = (tenantOf s fn).regions.map (fun r => if r.1 = region then (r.1, { r.2 with paddr := a }) else r) ∧
        ∀ i, memRead t.mem i = if a ≤ i ∧ i < a + bytes then memRead s.mem (base + (i - a)) else memRead s.mem i) ∧
  (∀ (s : State) (fn n g : Nat), let x := nodeOf s fn n
      let mine := (tenantOf s fn).preempts.find? (fun p => p.1 == n)
      (∀ p, mine = some p → isPreempted s fn p.2 = true → victimOf s fn n = some p.2) ∧
      (mine = none → x.gangs ≠ [] → x.state = .ready ∨ x.state = .running → x.unplacedSince = some g → (tenantOf s fn).pwait ≠ 0 →
        g + (tenantOf s fn).pwait.toNat * s.clock < s.gcc → victimOf s fn n = chooseVictim (victims s fn (recPrio x.record)))) ∧
  (∀ (s : State) (fn n v : Nat) (y : Task),
      victimOf s fn n = some v → (ctxOf s v).group = [] → (ctxOf s v).task = some y → y.sync = false →
      ((ctxOf s v).freeze = none → (ctxOf s v).preAt = none → ∃ t, exec (.preemptionTimeout fn n) s = .next t ∧
        (ctxOf t v).preAt = some (s.gcc + 512)) ∧
      (∀ f, (ctxOf s v).freeze = some f → .pre ∈ f.marks → canSave s v = true →
        (parityFails s v = false → ∃ t z, exec (.preemptionTimeout fn n) s = .next t ∧
          (ctxOf t v).task = none ∧ t.saved = s.saved ++ [z] ∧ z.ctx = ctxOf s v) ∧
        (parityFails s v = true → exec (.preemptionTimeout fn n) s =
          .next (loseImage (modTenant s fn (fun t => { t with preempts := t.preempts.put n v })) v y 1)))) ∧
  (∀ (s : State) (fn n : Nat), let x := nodeOf s fn n
      x.state = .committing → x.status ≠ 0xFF → x.preds = [] → x.digests = [] → x.fate = 0 → x.mustRoll = false →
      x.staged = [] → remotePackages s x = [] → effectsOut s fn (recSerial x.record) = false → (tenantOf s fn).tda = false →
      ∃ t, exec (.nodeCommit fn n) s = .next t ∧ (nodeOf t fn n).state = .retired ∧
        (nodeOf t fn n).status = 0 ∧ (let a := recSigAddr x.record
          a ≠ 0 → memReadNat t.mem a 8 = recSigVal x.record ∧ memReadNat t.mem (a + 8) 8 = signalWord x n 0)) ∧
  (∀ (s : State) (fn n : Nat) (own : Bool), let x := nodeOf s fn n
      let errors := programErrors s fn n
      let freed := fun t => (nodeOf t fn n).running = [] ∧ ∀ k ∈ nodeCtxs s fn n, (ctxOf t k).task = none
      x.state = .running → dependants s fn n = [] → remotePackages s x = [] → effectsOut s fn (recSerial x.record) = false →
      let held := isEntryHeld s fn n
      ((own = true ∧ held = false ∧ x.fate = 0 ∧ errors = [] ∧ x.mustRoll = true) ∨ (own = false ∧ predecessorRolled s fn x = true) →
        (tenantOf s fn).tda = false → x.ownRolls + (if own then 1 else 0) ≤ (tenantOf s fn).rollmax.toNat →
        ∃ t, exec (.nodeRollback fn n own) s = .next t ∧ (nodeOf t fn n).state = .waiting ∧
          (nodeOf t fn n).rolls = min (x.rolls + 1) 255 ∧ (nodeOf t fn n).staged = [] ∧ freed t) ∧
      (own = true → held = false → x.fate ≠ 0 → ∃ t, exec (.nodeRollback fn n own) s = .next t ∧ (nodeOf t fn n).state = .retired ∧
        (nodeOf t fn n).status = x.fate ∧ freed t) ∧
      (own = true → held = true → exec (.nodeRollback fn n own) s = .next s) ∧
      (own = true → held = false → x.fate = 0 → isEntryHeld (errors.foldl postProgramError s) fn n = false →
        errors ≠ [] ∨ (x.mustRoll = false ∧ awaitsPage s fn n = true) →
        ∃ t, exec (.nodeRollback fn n own) s = .next t ∧ (nodeOf t fn n).state = .retired ∧ (nodeOf t fn n).status = 5 ∧ freed t) ∧
      ((own = true ∧ x.fate = 0 ∧ errors = [] ∧ x.mustRoll = false ∧ awaitsPage s fn n = false) ∨
        (own = false ∧ predecessorRolled s fn x = false) → exec (.nodeRollback fn n own) s = .next s)) ∧
  (∀ (s : State) (fn n task : Nat), let x := nodeOf s fn n
      let k := (x.past.getLast?.map (fun p => p.1)).getD 0
      recRedundant x.record = true →
      s.ctxs.any (fun c => c.2.task.any (fun t => t.tenant == fn && t.node == n && taskKey t / 2 == task)) = false →
      s.saved.any (fun z => z.ctx.task.any (fun t => t.tenant == fn && t.node == n && taskKey t / 2 == task)) = false →
      (digestOf x (2 * task) = digestOf x (2 * task + 1) → exec (.redundantCompare fn n task) s =
        .next (modNode s fn n (fun m => { m with digests := m.digests.filter (fun d => d.1 / 2 != task) }))) ∧
      (digestOf x (2 * task) ≠ digestOf x (2 * task + 1) → exec (.redundantCompare fn n task) s =
        .next (rollNode 1025 (postFault s (dieIx k) (faultEntry fn n (coreIx k) (k % 4) 0 0x23 s.gcc 0 0 0)) fn n true))) ∧
  (∀ (s : State) (fn : Nat),
      (∃ t, exec (.qctlTd fn) s = .next t ∧ (tenantOf t fn).tda = true ∧ (tenantOf t fn).queue = []) ∧
      (isDrained (tenantOf s fn) = true → exec (.qctlRst fn) s = .next (modTenant (forgetClouds s fn (fun _ => true)) fn (fun t =>
        { t with nodes := [], alloc := 0, drop := 0, bad := 0, qserial := 0, tda := false }))) ∧
      (isDrained (tenantOf s fn) = false → exec (.qctlRst fn) s = .next s))

/-! ### The host (R311, R332–R335, R339, R356–R362, R370, R379, R383) -/

/-- The host's accesses (R317, R332–R335, R339, R340, R357–R362). An aligned write of a register acts on that register, reserved
bits dropped, an unaligned one on none; QCTL's TD and RST are the events of their names. A doorbell with a known command raises
interrupt source 2 on a system core of die 0; one that finds BUSY sets LOST. A window write changes the region's byte and no
other, a live node that names the region reading an undefined value there (R359), and nothing where the window maps nothing; a window
read answers the byte as a reader outside every node sees it, all ones where the window maps nothing, and zero in the launch port.
An access waits behind those that a migration of its region holds. FLR clears the function's registers, at once where no node is live. FBPOP drops the oldest fault, and a held one follows. -/
def Obligations.HostAccesses : Prop :=
  (∀ (s : State) (fn : Nat) (v : W64), appears s fn = true → let t := tenantOf s fn
      let enabled := modTenant s fn (fun t => { t with en := v.getLsbD 0 })
      (v.getLsbD 1 = false → v.getLsbD 2 = false → exec (.registerWrite fn 0 v) s = .next enabled) ∧
      (v.getLsbD 1 = true → exec (.registerWrite fn 0 v) s = exec (.qctlTd fn) enabled) ∧
      (v.getLsbD 1 = false → v.getLsbD 2 = true → exec (.registerWrite fn 0 v) s = exec (.qctlRst fn) enabled) ∧
      (∀ off, off % 8 ≠ 0 → exec (.registerWrite fn off v) s = .next s) ∧
      (fn = 0 → exec (.registerWrite 0 0x10 v) s =
        .next (modTenant s 0 (fun t => { t with rollmax := v.extractLsb' 24 8, pwait := v.extractLsb' 0 20 }))) ∧
      (fn ≠ 0 → exec (.registerWrite fn 0x10 v) s = .next s) ∧
      exec (.registerWrite fn 0x20 v) s = .next (modTenant s fn (fun t => { t with ntsel := v.extractLsb' 0 10 })) ∧
      exec (.registerWrite fn 0x2000 v) s =
        .next (modTenant s fn (fun t => { t with winRegion := v.extractLsb' 0 16, winEn := v.getLsbD 16 })) ∧
      exec (.registerWrite fn 0x2008 v) s = .next (modTenant s fn (fun t => { t with winOff := v.extractLsb' 16 24 })) ∧
      exec (.registerWrite fn 0x1000 v) s = .next (modTenant s fn (fun t => { t with
        mbLost := t.mbLost && !v.getLsbD 3, mbIe := v.getLsbD 2, mbDone := t.mbDone && !v.getLsbD 1 })) ∧
      (t.mbBusy = true → ∃ u, exec (.registerWrite fn 0x1008 v) s = .next u ∧ (tenantOf u fn).mbLost = true ∧
        (tenantOf u fn).mbBusy = true) ∧
      (t.mbBusy = false → isKnownCmd s (reqCmd t) = true → ∃ u, exec (.registerWrite fn 0x1008 v) s = .next u ∧
        (tenantOf u fn).mbBusy = true ∧ (ctxOf u 1536).irq = (ctxOf s 1536).irq ||| 4) ∧
      (∀ i, i < 32 → t.mbBusy = false → exec (.registerWrite fn (0x1100 + 8 * i) v) s =
        .next (modTenant s fn (fun t => { t with req := memWriteNat t.req (8 * i) 8 v.toNat })))) ∧
  (∀ (s : State) (fn off i : Nat) (bytes : Option (List Byte)) (g : Region), let t := tenantOf s fn
      let b := 65536 * t.winOff.toNat + off + i - 0x1_0000
      t.regions.find? (fun r => r.1 == t.winRegion.toNat) = some (t.winRegion.toNat, g) → 0x1_0000 ≤ off + i →
      windowAddr t (arrive t off 1 bytes) i =
        if t.winEn = true ∧ off + i < t.barSize ∧ b < g.size * 65536 then some (g.paddr + b) else none) ∧
  (∀ (s : State) (fn off a : Nat) (b : Byte), let t := tenantOf s fn
      let x := arrive t off 1 (some [b])
      t.winQueue = [] → awaitsMigration t x = false →
      (windowAddr t x 0 = some a → ∃ u, exec (.hostWindowWrite fn off [b]) s = .next u ∧
        (∀ i, memRead u.mem i = if i = a then b else memRead s.mem i) ∧
        ∀ n ∈ namingNodes t t.winRegion.toNat, isClouded u fn n a = true) ∧
      (windowAddr t x 0 = none → ∃ u, exec (.hostWindowWrite fn off [b]) s = .next u ∧ u.mem = s.mem)) ∧
  (∀ (s : State) (fn off len : Nat), let t := tenantOf s fn
      let x := arrive t off len none
      t.winQueue = [] → awaitsMigration t x = false → ∃ u, exec (.hostWindowRead fn off len) s = .next u ∧ u.mem = s.mem ∧
        u.readData = (List.range len).map (fun i => if off + i < 0x1_0000 then 0
          else match windowAddr t x i with
            | some a => seenByte s (fun _ _ => false) (fun _ => false) a
            | none => 0xFF)) ∧
  (∀ (s : State) (fn off len : Nat) (bytes : List Byte) (y : WinAccess), let t := tenantOf s fn
      let w := arrive t off bytes.length (some bytes)
      let r := arrive t off len none
      ((t.winQueue ++ [w]).head? = some y → awaitsMigration t y = true →
        exec (.hostWindowWrite fn off bytes) s = .next (modTenant s fn (fun t => { t with winQueue := t.winQueue ++ [w] }))) ∧
      ((t.winQueue ++ [r]).head? = some y → awaitsMigration t y = true →
        exec (.hostWindowRead fn off len) s = .next (modTenant s fn (fun t => { t with winQueue := t.winQueue ++ [r] })))) ∧
  (∀ (s : State) (fn : Nat), ((tenantOf s fn).nodes.all (fun x => !isLive x.2)) = true →
      ∃ t, exec (.functionLevelReset fn) s = .next t ∧ (let x := tenantOf t fn
        x.en = false ∧ x.tda = false ∧ x.flr = false ∧ x.queue = [] ∧ x.nodes = [] ∧ x.winEn = false ∧ x.mbBusy = false ∧
        x.mbDone = false ∧ x.req = [] ∧ x.rsp = [])) ∧
  (∀ (s : State) (die : Nat) (e : FaultEntry) (r : List FaultEntry), (dieOf s die).faults = e :: r →
      ((dieOf s die).held = [] → ∃ t, exec (.fbpop die) s = .next t ∧ (dieOf t die).faults = r) ∧
      (∀ h, (dieOf s die).held = [h] → fieldOf h.w0.toNat 0 8 ≠ 0x20 → ∃ t, exec (.fbpop die) s = .next t ∧
        (dieOf t die).faults = r ++ [{ h with w0 := h.w0 ||| (1 <<< 49) }] ∧ (dieOf t die).held = []))

/-- The mailbox commands (R311, R340, R360, R361, R368, R379, R383): a pending command whose request is good is answered with
status 0, its effect and its result; a command for the physical function alone is answered 2 to any other. That TELEMETRY's
answer begins with the cores' counters in order is the model's choice (notes/assumptions/122). -/
def Obligations.MailboxCommands : Prop :=
  (∀ (s : State) (fn : Nat) (i : Instr) (c : Nat × Bool), commandOf fn i = some c → pendingCommand s fn c.1 = true →
      c.2 = true → fn ≠ 0 → exec i s = .next (respond s fn 2 [])) ∧
  (∀ (s : State) (fn st : Nat) (x : List Byte), let t := respond s fn st x
      (tenantOf t fn).mbBusy = false ∧ (tenantOf t fn).mbDone = true ∧
      ((tenantOf s fn).mbIe = true →
        (isMasked (tenantOf s fn) 0 = false → t.msixSent = s.msixSent ++ [(fn, 0)]) ∧
        (isMasked (tenantOf s fn) 0 = true → t.msixSent = s.msixSent ∧ 0 ∈ (tenantOf t fn).msixPending)) ∧
      (x.length < 2 ^ 16 → memReadNat (tenantOf t fn).rsp 0 2 = st % 2 ^ 16 ∧ memReadNat (tenantOf t fn).rsp 2 2 = x.length ∧
        memReadList (tenantOf t fn).rsp 8 x.length = x)) ∧
  (∀ (s : State) (fn i a : Nat), let t := tenantOf s fn
      let q := reqWord t
      (pendingCommand s fn 0x01 = true → q 1 ≠ 0 → unitsUsed t + q 1 ≤ t.hbmUnits → freeRegion t = some i → i < 65536 →
        (List.range 8).findSome? (fun st => placeRegion s st (q 1 * 65536)) = some a → exec (.regionCreate fn) s =
          .next (respond (modTenant s fn (fun t => { t with regions := t.regions.put i ⟨q 1, a⟩ })) fn 0 (bytesOfNat 8 i))) ∧
      (pendingCommand s fn 0x02 = true → t.regions.any (fun r => r.1 == q 1) = true → regionNamed t (q 1) = false →
        ∃ u, exec (.regionFree fn) s = .next (respond u fn 0 []) ∧ u.mem = s.mem ∧
          (tenantOf u fn).regions = t.regions.filter (fun r => r.1 != q 1)) ∧
      (∀ r, pendingCommand s fn 0x03 = true → t.regions.find? (fun r => r.1 == q 1) = some r → q 2 + q 4 ≤ r.2.size * 65536 →
        let host := Config.hostBase + q 3
        let device := r.2.paddr + q 2
        inHost t host (q 4) = true →
        (q 5 % 2 = 1 → exec (.regionDma fn) s =
          .next (respond (noteWrite (putSlice s host (q 4) (memSlice s.mem device (q 4))) host (q 4)) fn 0 [])) ∧
        (q 5 % 2 = 0 → regionNamed t r.1 = false → exec (.regionDma fn) s = .next (respond
          (nextFresh (noteWrite (putSlice s device (q 4) (freeSlice s.fresh (q 4))) device (q 4)) (q 4)) fn 0 []))) ∧
      (pendingCommand s fn 0x04 = true → q 1 % 64 = 0 → inRegions t (q 1) 0x908 = true → inRegions t (q 1) (kBytes s (q 1)) = true →
        inRegions t (q 1 + memReadNat s.mem (q 1 + 0x34) 4) (4 * memReadNat s.mem (q 1 + 0x33) 1) = true →
        let d := memSlice s.mem (q 1) (kBytes s (q 1))
        (∀ n, loaderCheck s t (q 1) d = some n → exec (.kernelLoad fn) s = .next (respond s fn 0 (bytesOfNat 8 n))) ∧
        (loaderCheck s t (q 1) d = none → ∃ u, exec (.kernelLoad fn) s = .next (respond u fn 0 (bytesOfNat 8 0)) ∧
          memReadNat u.mem (q 1 + 0x1A) 2 = kFlags d % 2 ^ 15 + 2 ^ 15)) ∧
      (pendingCommand s fn 0x05 = true → 1 ≤ q 1 → q 1 ≤ 7 →
        let taken := ((s.diesT.flatMap (fun d => d.2.faults.filter (fun e => fieldOf e.w0.toNat 60 4 == fn))).foldl
          (fun acc e => insertFault e acc) []).take (q 1)
        exec (.faultRead fn) s = .next (respond ((s.diesT.map (fun d => d.1)).foldl (fun s die => retireFaults s die taken) s)
          fn 0 (taken.flatMap faultBytes))) ∧
      (∀ x h, let k := q 1 * 4 + q 2
        pendingCommand s fn 0x06 = true → (ctxOf s k).task = some x → q 2 < 4 →
        (ctxOf s k).halted = some h → (ctxOf s k).tcause = 0x13 → fn = 0 ∨ x.tenant = fn →
        (q 3 = 0 → exec (.ctxControl fn) s = .next (respond (modCtx s k (fun c => { c with
          halted := none, freeze := some ⟨h, [], s.gcc + 1⟩ })) fn 0 [])) ∧
        (q 3 = 1 → exec (.ctxControl fn) s = .next (respond (endNode s x.tenant x.node 5) fn 0 []))) ∧
      (pendingCommand s fn 0x07 = true → inHost t (Config.hostBase + q 5) 0x4000 = true →
        let report := attestReport s (memReadList t.req 8 32)
        exec (.attest fn) s = .next (respond (putFinal s (Config.hostBase + q 5) report) fn 0 (bytesOfNat 8 report.length))) ∧
      (pendingCommand s fn 0x08 = true → exec (.healthRead fn) s =
        .next (respond s fn 0 (bytesOfNat 8 (healthWordOf s).toNat ++ bytesOfNat 8 s.logNext))) ∧
      (pendingCommand s fn 0x09 = true → q 1 < 4 → 1 ≤ q 3 → q 3 ≤ 240 → q 2 + q 3 ≤ Config.journalStep → exec (.journalRead fn) s =
        .next (respond s fn 0 ((List.range (q 3)).map (fun j => journalByte s fn (q 1) (q 2 + j))))) ∧
      (pendingCommand s fn 0x14 = true → 1 ≤ q 2 → q 2 ≤ 3 → exec (.healthLogRead fn) s = .next (respond s fn 0
        ((List.range (q 2)).flatMap (fun j => s.healthLog.get ((q 1 + j) % 4096) (List.replicate 64 0))))) ∧
      (pendingCommand s fn 0x16 = true → 1 ≤ q 2 → q 2 ≤ 8 → q 1 + q 2 ≤ 384 → ∃ x, exec (.telemetry fn) s =
        .next (respond (nextFresh s 1) fn 0 x) ∧
        x.take (24 * q 2) = (List.range (q 2)).flatMap (fun j =>
          (coreOf s (q 1 + j)).ecnt.toList.flatMap (fun w => bytesOfNat 8 w.toNat)))) ∧
  (∀ (s : State) (die : Nat) (taken : List FaultEntry), (dieOf s die).held = [] →
      (dieOf (retireFaults s die taken) die).faults = (dieOf s die).faults.filter (fun e => !taken.contains e)) ∧
  (∀ (s : State), let t := tenantOf s 0
      let q := reqWord t
      (∀ p, pendingCommand s 0 0x10 = true → q 1 < 16 → (tenantOf s (q 1)).live = false → policyFor s (q 1) = some p →
        policyOk s p = true → exec (.tenantCreate 0) s = .next (respond (createTenant s (q 1) p) 0 0 [])) ∧
      (pendingCommand s 0 0x11 = true → q 1 < 16 → (tenantOf s (q 1)).live = true → isDrained (tenantOf s (q 1)) = true →
        ∃ u, exec (.tenantDestroy 0) s = .next (respond u 0 0 []) ∧ (tenantOf u (q 1)).live = false ∧
          (tenantOf u (q 1)).regions = [] ∧ (tenantOf u (q 1)).cores = []) ∧
      (pendingCommand s 0 0x12 = true → q 1 ≤ q 2 → q 2 < 384 → exec (.setAllowCmd 0) s =
        .next (respond (postRange s (q 1) (q 2) (BitVec.ofNat 64 (q 3)) (BitVec.ofNat 64 (q 4))) 0 0 [])) ∧
      (pendingCommand s 0 0x13 = true →
        (q 1 = 0 → exec (.sealSet 0) s = .next (respond { s with sealNext := false } 0 0 [])) ∧
        (q 1 = 1 → exec (.sealSet 0) s = .next (respond (postHealth { s with sealNext := true } 11 0 []) 0 0 []))) ∧
      (pendingCommand s 0 0x15 = true → 1800 ≤ q 1 → q 1 ≤ 3000 → let u := { s with pcap := q 1, ilim := q 2 }
        (s.brown = none → exec (.powerSet 0) s = .next (respond u 0 0 [])) ∧
        (∀ mv, s.brown = some mv → exec (.powerSet 0) s = .next (respond (brownPower u mv) 0 0 []))) ∧
      (∀ r, pendingCommand s 0 0x20 = true → recordOf (recordsOf s.mem) 7 = some r → q 2 ≤ (Config.imageSlot r.body 1).2.1 →
        exec (.imageWrite 0) s = .next (respond
          (nextFresh (putSlice s (Config.imageSlot r.body 1).1 (q 2) (freeSlice s.fresh (q 2))) (q 2)) 0 0 [])))

/-! ### The fabric (R117, R363–R367) -/

/-- The ports (R117, R363–R367): acknowledged flits leave the replay buffer, and a NAK resends the others. A flit with a bad CRC is
counted and refused; one with the next SEQ is accepted, one accepted before discarded, and one ahead refused. A write that has
not been applied is applied where domain record and grants admit it and changes nothing else. A flit read back gives its header
fields and its transaction. A port uses the widest group of lanes without a faulted one: a fault or a retest of a port that is up
moves it there, and with no usable pair it retrains; a retrained port meets a listed peer or is disabled; where no path is left,
nothing towards the package stays but what a commit that has begun sends (notes/assumptions/133). Zeros that fill a payload are the model's (notes/assumptions/19). -/
def Obligations.FabricEvents : Prop :=
  (∀ (s : State) (p : Nat) (a : BitVec 12), let left := (portOf s p).replay.filter (fun f => !decide ((a - f.1).toNat < 2048))
      (∃ t, exec (.ackFlit p a) s = .next t ∧ (portOf t p).replay = left) ∧
      (∃ t, exec (.nak p a) s = .next t ∧ (portOf t p).replay = left ∧
        (portOf t p).replays = (portOf s p).replays + BitVec.ofNat 64 left.length)) ∧
  (∀ (s : State) (p : Nat) (f : Flit), let x := portOf s p
      x.state = 2 →
      (flitCrcOk f = false →
        exec (.dataFlit p f) s = .next (modPort s p (fun x => { x with crcerr := x.crcerr + 1, nakSent := true }))) ∧
      (flitCrcOk f = true → flitType f = 0 → flitSeq f = x.rxSeq → ∃ t, exec (.dataFlit p f) s = .next t ∧
        (portOf t p).rxSeq = x.rxSeq + 1 ∧ (portOf t p).nakSent = false) ∧
      (flitCrcOk f = true → flitType f = 0 → flitNak f = false → x.replay = [] → flitSeq f ≠ x.rxSeq → exec (.dataFlit p f) s =
        .next (if (x.rxSeq - flitSeq f).toNat ≤ 2048 then modPort s p (fun x => { x with replay := [] })
          else modPort (modPort s p (fun x => { x with replay := [] })) p (fun x => { x with nakSent := true }))) ∧
      (∀ tr, let payload := x.rxPart ++ flitPayload f
        let data := tr.data.take (transDetail tr % 128)
        flitCrcOk f = true → flitType f = 0 → flitNak f = false → flitSeq f = x.rxSeq → x.replay = [] →
        (takeTrans payload.length payload).1 = [tr] → tr.op = 0 → s.applied.contains (transKey tr) = false →
        ∃ t, exec (.dataFlit p f) s = .next t ∧ ∀ i, memRead t.mem i =
          if homeAccepts s tr.src.val tr.tenant.val tr.addr.toNat data.length = true ∧ tr.addr.toNat ≤ i ∧
            i < tr.addr.toNat + data.length then data.getD (i - tr.addr.toNat) 0 else memRead s.mem i)) ∧
  (∀ (x : Port) (seq : BitVec 12) (o : Outbound) (type : Nat), type < 8 → let f := flitOf x seq type [o]
      flitCrcOk f = true ∧ flitSeq f = seq ∧ flitAck f = x.rxSeq - 1 ∧ flitNak f = x.nakSent ∧ flitType f = type ∧
      flitWidth f = x.width % 4 ∧
      (o.tr.data.length ≤ 224 → o.tr.data ≠ [] ∨ o.tr.op ≠ 0 → f.body.length = 248 ∧ takeTrans 240 (flitPayload f) = ([o.tr], []))) ∧
  (∀ faulted used : BitVec 8, let g := lanesFor faulted used
      (g.2 = 3 ∧ ∀ h ∈ laneGroups, h.1 &&& faulted ≠ 0) ∨
        (g ∈ laneGroups ∧ g.1 &&& faulted = 0 ∧ ∀ h ∈ laneGroups, h.1 &&& faulted = 0 → g.2 ≤ h.2)) ∧
  (∀ (s : State) (p : Nat) (w : Fin 4) (l : Fin 8) (passed : BitVec 8) (peer : Fin 256), let x := portOf s p
      let worse := x.faulted ||| ((1 : BitVec 8) <<< l.val)
      let better := x.faulted &&& ~~~passed
      let moved := fun t g => (portOf t p).lanes = g.1 ∧ (portOf t p).width = g.2 ∧ (portOf t p).markers = x.markers ++ [g.2] ∧
        (portOf t p).replays = x.replays + BitVec.ofNat 64 x.replay.length
      exec (.widthMarkerFlit p w) s = .next (modPort s p (fun x => { x with width := w.val })) ∧
      (∃ t, exec (.laneFault p l) s = .next t ∧ (portOf t p).faulted = worse ∧
        (x.state ≠ 2 → (portOf t p).state = x.state ∧ (portOf t p).width = x.width) ∧
        (x.state = 2 → (lanesFor worse x.lanes).2 = 3 → (portOf t p).state = 1 ∧ (portOf t p).width = 3 ∧
          (portOf t p).retrains = x.retrains + 1) ∧
        (x.state = 2 → (lanesFor worse x.lanes).2 ≠ 3 → (lanesFor worse x.lanes).1 ≠ x.lanes → moved t (lanesFor worse x.lanes))) ∧
      (∃ t, exec (.laneRetest p passed) s = .next t ∧ (portOf t p).faulted = better ∧
        (x.state = 2 → (lanesFor better x.lanes).1 ≠ x.lanes → moved t (lanesFor better x.lanes))) ∧
      (x.state = 1 → let pass := peer.val ≠ s.pkgId ∧ isListed s peer.val = true
        ∃ t, exec (.retrainComplete p peer) s = .next t ∧
        ((lanesFor x.faulted 0).2 = 3 → (portOf t p).state = 1 ∧ (portOf t p).retrains = x.retrains + 1) ∧
        ((lanesFor x.faulted 0).2 ≠ 3 → (portOf t p).state = (if pass then 2 else 3) ∧
          (portOf t p).peer = (if pass then peer.val else 0xFF)))) ∧
  (∀ (s : State) (dest : Fin 128), (hasPath s dest.val = true → exec (.noPathTimeout dest) s = .next s) ∧
      (hasPath s dest.val = false → ∃ t, exec (.noPathTimeout dest) s = .next t ∧
        ∀ o ∈ allOutbound t, o.dest = dest.val → isCommitted t o = true))

/-! ### Power, boot and service (R5, R95, R96, R309, R353, R368–R382) -/

/-- Power and service (R95, R135, R309, R353, R368, R373–R382): detectors trip and are released after 1,024 cycles, the clock stretched
meanwhile, no lower than 350 MHz and never above the set clock; a brown-out takes the highest clock, within wear and the cores' VALUE, whose bound fits, and recovery
restores it; power loss keeps the durable tier but for the journals it writes, empties HBM and leaves no task, node or boot; boot goes
step by step to service or to the code of its failed step; a cluster that loses its parity loses its contexts; the pieces of an
uncorrectable line are marked and posted; a failing cluster is replaced by a spare of its die, taken at once, when its contexts stand saved, or
quarantined; wear never falls and lowers the clock to its ceiling; STATE takes the worst state that applies, and a change is logged.
Model's choices: the steps of boot are events (notes/assumptions/75), a spare comes into service in place (74), durable bytes survive
power loss (79), and so do the divergence log and the ports' marks, and STATE changes by its event alone (88). -/
def Obligations.PowerAndService : Prop :=
  (∀ s : State, effectiveClock s ≤ s.clock ∧ (droopOver s = true → ∃ t, exec .droopRelease s = .next t ∧ t.stretched = none)) ∧
  (∀ (s : State) (clus : Nat), (∃ t, exec (.droopTrip clus) s = .next t ∧ (clusterOf t clus).tripped = some s.gcc ∧
        (350 ≤ s.clock → (∀ g, s.stretched = some g → 350 ≤ g) → ∃ f, t.stretched = some f ∧ 350 ≤ f ∧ f ≤ s.clock)) ∧
      (∃ t, exec .droopRelease s = .next t ∧ (clusterOf t clus).tripped =
        (if (clusterOf s clus).tripped.any (fun g => decide (g + 1024 ≤ s.gcc)) then none else (clusterOf s clus).tripped) ∧
        t.stretched = if t.clusters.any (fun c => c.2.tripped.isSome) then s.stretched else none)) ∧
  (∀ (s : State) (mv : Nat), mv < 44000 → ∃ t, exec (.brownOut mv) s = .next t ∧ t.brown = some mv ∧ t.mem = s.mem ∧
      (s.brownFrozen = [] → t.clock = fitClock s (boostCeiling s (packageCeiling s)) (available s mv))) ∧
  (∀ (s : State) (ceiling avail : Nat), let f := fitClock s ceiling avail
      (350 ≤ f ∧ f ≤ 770 ∧ f % 5 = 0) ∧ (f ≠ 350 → f ≤ ceiling ∧ powerBound s f ≤ avail) ∧
      ∀ g, f < g → g ≤ 770 → g % 5 = 0 → g ≤ ceiling → avail < powerBound s g) ∧
  (∀ (s : State), s.brown ≠ none → ∃ t, exec .brownOutRecovery s = .next t ∧ t.brown = none ∧ t.brownFrozen = [] ∧
      t.clock = boostCeiling s (packageCeiling s)) ∧
  (∀ (s : State), ∃ t, exec .powerLoss s = .next t ∧ t.gcc = 0 ∧ t.booted = false ∧ t.bootStep = 0 ∧ t.ctxs = [] ∧ t.tenants = [] ∧
      t.health = s.health ∧ t.divLog = s.divLog ∧ (∀ p, (portOf t p).bad = (portOf s p).bad ∧ (portOf t p).since = (portOf s p).since) ∧
      (∀ n, (clusterOf t n).wear = (clusterOf s n).wear ∧ (clusterOf t n).losses = (clusterOf s n).losses) ∧
      t.healthLog = (postHealth s 9 0 []).healthLog ∧ (∀ a, a < Config.durBase → memRead t.mem a = 0) ∧
      ∀ a, Config.durBase ≤ a → (∀ d, d < 4 → ¬(Config.journalBase + d * Config.journalStep ≤ a ∧
        a < Config.journalBase + d * Config.journalStep + (journalBytes (postHealth s 9 0 []) d).length)) →
        memRead t.mem a = memRead s.mem a) ∧
  (∀ (s : State), let rs := recordsOf s.mem
      ∃ t, exec .boot s = .next t ∧
        (s.bootStep = 0 → t.bootStep = 1 ∧ t.bootCount = s.bootCount + 1 ∧ t.sealed = s.sealNext ∧ t.testItem = 0) ∧
        (s.bootStep = 1 → t.bootStep = if Config.passes s.fresh then 2 else 0xF1) ∧
        (s.bootStep = 2 → t.bootStep = if (recordOf rs 1).isNone ∨ (recordOf rs 2).isNone then 0xF2 else 3) ∧
        (s.bootStep = 3 → t.bootStep = if (chooseImage s.mem rs).isNone then 0xF3 else 4) ∧
        (s.bootStep = 4 → t.bootStep = 5) ∧ (s.bootStep = 5 → t.bootStep = 6) ∧
        (s.bootStep = 6 → s.sealed = false → t.bootStep = 0x80 ∧ t.booted = true) ∧
        (s.bootStep = 6 → s.sealed = true → t.bootStep = 6 ∧ t.testItem = s.testItem + 1 ∧
          (4 ≤ s.testItem → t.sealed = false ∧ t.sealNext = false)) ∧
        (6 < s.bootStep.toNat → t = s)) ∧
  (∀ (s : State) (clus : Nat), exec (.clusterRetentionExit clus true) s =
        .next (modCluster s clus (fun c => { c with retained := false })) ∧
      ∃ t, exec (.clusterRetentionExit clus false) s = .next t ∧ (clusterOf t clus).retained = false ∧
        ∀ i, i < 16 → (ctxOf t (16 * clus + i)).task = none) ∧
  (∀ (s : State) (line : Nat), let a := line * 64
      let dur := decide (Config.durBase ≤ a)
      let stack := if dur then (a - Config.durBase) / Config.durStack else stackOf a
      let die := if dur then stack % 4 else stack / 2 % 4
      (dieOf s die).scrubPaused.contains (if dur then 8 + stack else stack) = false → (dieOf s die).faults.length < 4096 → ∃ t e, exec (.scrubUncorrectable line) s = .next t ∧
        (∀ x ∈ linePieces a, x ∈ t.marked) ∧ (dieOf t die).faults = (dieOf s die).faults ++ [e] ∧ e.w0.toNat % 256 = 0x25) ∧
  (∀ (s : State) (clus : Nat), clus < 96 → let die := clus / 24
      let replaced := fun t => (clusterOf t clus).spareUsed = true ∧ (clusterOf t clus).swapping = false
      ((clusterOf s clus).swapping = true → (occupants s clus).all (readyToSave s) = true → replaced (finishSwap s clus) ∧
        (dieOf (finishSwap s clus) die).spares = (dieOf s die).spares) ∧
      ((clusterOf s clus).swapping = false → (clusterOf s clus).quarantined = false →
        (0 < (dieOf s die).spares → occupants s clus = [] → ∃ t, exec (.clusterRetire clus 0) s = .next t ∧ replaced t ∧
          (dieOf t die).spares = (dieOf s die).spares - 1) ∧
        (∀ k ∈ occupants s clus, 0 < (dieOf s die).spares → (ctxOf s k).freeze = none → (ctxOf s k).halted = none →
          ∃ t, exec (.clusterRetire clus 0) s = .next t ∧ (clusterOf t clus).swapping = true ∧
            (dieOf t die).spares = (dieOf s die).spares - 1 ∧ (ctxOf t k).preAt ≠ none) ∧
        ((dieOf s die).spares = 0 → ∃ t, exec (.clusterRetire clus 0) s = .next t ∧ (clusterOf t clus).quarantined = true))) ∧
  (∀ (s : State) (clus percent : Nat), ∃ t, exec (.wearCrossing clus percent) s = .next t ∧
      (clusterOf t clus).wear = max (clusterOf s clus).wear (percent * wearPercent) ∧
      t.clock ≤ s.clock ∧ t.clock ≤ packageCeiling t) ∧
  (∀ (s : State), let h := healthNow (latchPorts s)
      ∃ t, exec .healthStateChange s = .next t ∧ t.health = h ∧ (h ≠ s.health → t.logNext = (latchPorts s).logNext + 1))
end

