-- ==== Sys2Proof/Laws/Memory.lean ====
section
/-! SUPPORT. Laws of byte memories: every operation keeps the canonical form, and what each makes an address read as. -/

namespace Sys2Proof.Machine

/-! ### The canonical form -/

theorem wf_nil : Memory.wf [] := ⟨List.Pairwise.nil, by simp⟩

theorem wf_filter {m : Memory} (h : Memory.wf m) (p : Host.Cell → Bool) : Memory.wf (m.filter p) :=
  ⟨h.1.sublist List.filter_sublist, fun c hc => h.2 c (List.mem_of_mem_filter hc)⟩

theorem wf_memErase {m : Memory} (h : Memory.wf m) (a : Nat) : Memory.wf (memErase m a) := wf_filter h _

theorem mem_memErase {m : Memory} {a : Nat} {c : Host.Cell} : c ∈ memErase m a ↔ c ∈ m ∧ c.1 ≠ a := by
  simp [memErase]

theorem mem_memInsert {m : Memory} {a : Nat} {b : Byte} {c : Host.Cell} : c ∈ memInsert m a b ↔ c = (a, b) ∨ c ∈ m := by
  induction m with
  | nil => simp [memInsert]
  | cons d r ih =>
    simp only [memInsert]
    split <;> simp [ih]
    tauto

theorem wf_memInsert {m : Memory} (h : Memory.wf m) {a : Nat} {b : Byte} (hb : b ≠ 0) (ha : ∀ c ∈ m, c.1 ≠ a) :
    Memory.wf (memInsert m a b) := by
  refine ⟨?_, fun c hc => ?_⟩
  · induction m with
    | nil => simp [memInsert]
    | cons d r ih =>
      have hd := List.pairwise_cons.mp h.1
      have hr : Memory.wf r := ⟨hd.2, fun c hc => h.2 c (by simp [hc])⟩
      simp only [memInsert]
      split
      · rename_i hlt
        exact List.pairwise_cons.mpr ⟨fun c hc => by
          rcases List.mem_cons.mp hc with rfl | hc
          · exact hlt
          · exact Nat.lt_trans hlt (hd.1 c hc), h.1⟩
      · rename_i hge
        refine List.pairwise_cons.mpr ⟨fun c hc => ?_, ih hr (fun c hc => ha c (by simp [hc]))⟩
        rcases mem_memInsert.mp hc with rfl | hc
        · have := ha d (by simp)
          show d.1 < a
          omega
        · exact hd.1 c hc
  · rcases mem_memInsert.mp hc with rfl | hc
    · exact hb
    · exact h.2 c hc

theorem wf_memWrite {m : Memory} (h : Memory.wf m) (a : Nat) (b : Byte) : Memory.wf (memWrite m a b) := by
  unfold memWrite
  split
  · exact wf_memErase h a
  · rename_i hb
    exact wf_memInsert (wf_memErase h a) hb (fun c hc => (mem_memErase.mp hc).2)

theorem wf_memWriteList {m : Memory} (h : Memory.wf m) (a : Nat) (bs : List Byte) : Memory.wf (memWriteList m a bs) := by
  induction bs generalizing m a with
  | nil => exact h
  | cons b r ih => exact ih (wf_memWrite h a b) (a + 1)

theorem wf_memWriteNat {m : Memory} (h : Memory.wf m) (a n x : Nat) : Memory.wf (memWriteNat m a n x) :=
  wf_memWriteList h a _

theorem wf_memWriteCells {m : Memory} (h : Memory.wf m) (sl : Memory) : Memory.wf (memWriteCells m sl) := by
  induction sl generalizing m with
  | nil => exact h
  | cons c r ih => exact ih (wf_memWrite h c.1 c.2)

theorem mem_memWrite {m : Memory} {a : Nat} {b : Byte} {c : Host.Cell} (h : c ∈ memWrite m a b) : c.1 = a ∨ c ∈ m := by
  unfold memWrite at h
  split at h
  · exact .inr (mem_memErase.mp h).1
  · rcases mem_memInsert.mp h with rfl | h
    · exact .inl rfl
    · exact .inr (mem_memErase.mp h).1

/-- What is written from nothing lies at the addresses that are written. -/
theorem mem_memWriteCells {m sl : Memory} {c : Host.Cell} (h : c ∈ memWriteCells m sl) :
    c ∈ m ∨ ∃ d ∈ sl, d.1 = c.1 := by
  induction sl generalizing m with
  | nil => exact .inl h
  | cons e r ih =>
    rcases ih h with h | ⟨d, hd, hc⟩
    · rcases mem_memWrite h with h | h
      · exact .inr ⟨e, by simp, h.symm⟩
      · exact .inl h
    · exact .inr ⟨d, by simp [hd], hc⟩

theorem wf_memPlace {m : Memory} (h : Memory.wf m) (lo len : Nat) (sl : Memory) : Memory.wf (memPlace m lo len sl) := by
  have hm : ∀ c ∈ memWriteCells [] ((sl.filter (fun c => decide (c.1 < len))).map (fun c => (lo + c.1, c.2))),
      lo ≤ c.1 ∧ c.1 < lo + len := by
    intro c hc
    rcases mem_memWriteCells hc with hc | ⟨d, hd, hdc⟩
    · simp at hc
    · obtain ⟨e, he, rfl⟩ := List.mem_map.mp hd
      have := (List.mem_filter.mp he).2
      simp at this hdc
      omega
  have h1 := wf_filter h (fun c => decide (c.1 < lo))
  have h2 := wf_memWriteCells wf_nil ((sl.filter (fun c => decide (c.1 < len))).map (fun c => (lo + c.1, c.2)))
  have h3 := wf_filter h (fun c => decide (lo + len ≤ c.1))
  refine ⟨?_, fun c hc => ?_⟩
  · simp only [memPlace, List.append_assoc]
    refine List.pairwise_append.mpr ⟨h1.1, List.pairwise_append.mpr ⟨h2.1, h3.1, fun c hc d hd => ?_⟩, fun c hc d hd => ?_⟩
    · have := hm c hc
      have := (List.mem_filter.mp hd).2
      simp at this
      omega
    · have hc := (List.mem_filter.mp hc).2
      simp at hc
      rcases List.mem_append.mp hd with hd | hd
      · have := hm d hd
        omega
      · have := (List.mem_filter.mp hd).2
        simp at this
        omega
  · simp only [memPlace, List.mem_append] at hc
    rcases hc with (hc | hc) | hc
    · exact h1.2 c hc
    · exact h2.2 c hc
    · exact h3.2 c hc

theorem wf_memSlice {m : Memory} (h : Memory.wf m) (lo len : Nat) : Memory.wf (memSlice m lo len) := by
  have hf := wf_filter h (fun c => decide (lo ≤ c.1 ∧ c.1 < lo + len))
  refine ⟨List.pairwise_map.mpr (hf.1.imp_of_mem fun {c d} hc hd hlt => ?_), fun c hc => ?_⟩
  · have hc := (List.mem_filter.mp hc).2
    have hd := (List.mem_filter.mp hd).2
    simp at hc hd
    show c.1 - lo < d.1 - lo
    omega
  · obtain ⟨d, hd, rfl⟩ := List.mem_map.mp hc
    exact hf.2 d hd

theorem wf_memShift {m : Memory} (h : Memory.wf m) (d : Nat) : Memory.wf (memShift m d) := by
  refine ⟨List.pairwise_map.mpr (h.1.imp fun hlt => by simpa using hlt), fun c hc => ?_⟩
  obtain ⟨e, he, rfl⟩ := List.mem_map.mp hc
  exact h.2 e he

theorem wf_freeSlice (n len : Nat) : Memory.wf (freeSlice n len) := wf_memWriteList wf_nil 0 _

theorem wf_memOfVec (x : VWord) : Memory.wf (memOfVec x) := wf_memWriteList wf_nil 0 _

theorem wf_setElement {m : Memory} (h : Memory.wf m) (b j x : Nat) : Memory.wf (setElement m b j x) := wf_memWriteNat h _ _ _

/-! ### Read after write -/

theorem memRead_memErase (m : Memory) (a i : Nat) : memRead (memErase m a) i = if i = a then 0 else memRead m i := by
  induction m with
  | nil => simp [memErase, memRead]
  | cons c r ih =>
    have e : memErase (c :: r) a = if c.1 = a then memErase r a else c :: memErase r a := by
      simp only [memErase, List.filter_cons]
      split <;> simp_all
    rw [e]
    by_cases hc : c.1 = a
    · simp only [hc, if_true, ih, memRead]
      split <;> simp_all
      omega
    · simp only [hc, if_false, memRead, ih]
      split <;> simp_all

theorem memRead_memInsert {m : Memory} {a : Nat} (ha : ∀ c ∈ m, c.1 ≠ a) (b : Byte) (i : Nat) :
    memRead (memInsert m a b) i = if i = a then b else memRead m i := by
  induction m with
  | nil => simp [memInsert, memRead, eq_comm]
  | cons c r ih =>
    have hc := ha c (by simp)
    simp only [memInsert]
    split
    · simp only [memRead]
      split <;> simp_all
      omega
    · simp only [memRead, ih (fun d hd => ha d (by simp [hd]))]
      split <;> simp_all

@[simp] theorem memRead_memWrite (m : Memory) (a : Nat) (b : Byte) (i : Nat) :
    memRead (memWrite m a b) i = if i = a then b else memRead m i := by
  unfold memWrite
  split
  · rename_i hb
    simp [memRead_memErase, hb]
  · rw [memRead_memInsert (fun c hc => (mem_memErase.mp hc).2), memRead_memErase]
    split <;> simp_all

theorem memRead_memWriteList (m : Memory) (a : Nat) (bs : List Byte) (i : Nat) :
    memRead (memWriteList m a bs) i = if a ≤ i ∧ i < a + bs.length then bs.getD (i - a) 0 else memRead m i := by
  induction bs generalizing m a with
  | nil => simp [memWriteList]
  | cons b r ih =>
    simp only [memWriteList, ih, memRead_memWrite, List.length_cons]
    by_cases h : a + 1 ≤ i ∧ i < a + 1 + r.length
    · rw [if_pos h, if_pos (by omega)]
      obtain ⟨j, rfl⟩ : ∃ j, i = a + 1 + j := ⟨i - (a + 1), by omega⟩
      have e1 : a + 1 + j - (a + 1) = j := by omega
      have e2 : a + 1 + j - a = j + 1 := by omega
      rw [e1, e2, List.getD_cons_succ]
    · rw [if_neg h]
      by_cases hi : i = a
      · subst hi
        simp
      · rw [if_neg hi, if_neg (by omega)]

/-! ### Little-endian numbers (R3) -/

@[simp] theorem length_bytesOfNat (n x : Nat) : (bytesOfNat n x).length = n := by
  induction n generalizing x with
  | zero => rfl
  | succ n ih => simp [bytesOfNat, ih]

theorem natOfBytes_bytesOfNat (n x : Nat) : natOfBytes (bytesOfNat n x) = x % 2 ^ (8 * n) := by
  induction n generalizing x with
  | zero => simp [bytesOfNat, natOfBytes, Nat.mod_one]
  | succ n ih =>
    simp only [bytesOfNat, natOfBytes, ih, BitVec.toNat_ofNat]
    have e : 2 ^ (8 * (n + 1)) = 256 * 2 ^ (8 * n) := by rw [Nat.mul_succ, Nat.pow_add, Nat.mul_comm]
    rw [e, Nat.mod_mul]

theorem natOfBytes_lt (bs : List Byte) : natOfBytes bs < 2 ^ (8 * bs.length) := by
  induction bs with
  | nil => simp [natOfBytes]
  | cons b r ih =>
    have e : 2 ^ (8 * (r.length + 1)) = 256 * 2 ^ (8 * r.length) := by rw [Nat.mul_succ, Nat.pow_add, Nat.mul_comm]
    simp only [natOfBytes, List.length_cons, e]
    have := b.isLt
    omega

theorem memReadList_memWriteList (m : Memory) (a : Nat) (bs : List Byte) :
    memReadList (memWriteList m a bs) a bs.length = bs := by
  refine List.ext_getElem (by simp [memReadList]) fun i h1 h2 => ?_
  simp only [memReadList, List.getElem_map, List.getElem_range, memRead_memWriteList]
  rw [if_pos (by omega)]
  simp [List.getD, h2]

/-- A number written reads back, modulo the width written. -/
theorem memReadNat_memWriteNat (m : Memory) (a n x : Nat) : memReadNat (memWriteNat m a n x) a n = x % 2 ^ (8 * n) := by
  have h := memReadList_memWriteList m a (bytesOfNat n x)
  rw [length_bytesOfNat] at h
  rw [memReadNat, memWriteNat, h, natOfBytes_bytesOfNat]

/-! ### Reading what a slice holds -/

theorem memRead_of_not_mem {m : Memory} {i : Nat} (h : ∀ c ∈ m, c.1 ≠ i) : memRead m i = 0 := by
  induction m with
  | nil => rfl
  | cons c r ih => simp [memRead, h c (by simp), ih (fun d hd => h d (by simp [hd]))]

theorem memRead_filter (m : Memory) (p : Nat → Bool) (i : Nat) :
    memRead (m.filter (fun c => p c.1)) i = if p i then memRead m i else 0 := by
  induction m with
  | nil => simp [memRead]
  | cons c r ih =>
    simp only [List.filter_cons]
    by_cases hc : c.1 = i
    · subst hc
      by_cases hp : p c.1 <;> simp [memRead, hp, ih]
    · by_cases hp : p c.1 <;> simp [memRead, hp, hc, ih]

/-- Cells at different addresses are written each to its own. -/
theorem memRead_memWriteCells (m : Memory) {sl : Memory} (h : sl.Pairwise (fun x y => x.1 ≠ y.1)) (i : Nat) :
    memRead (memWriteCells m sl) i = if ∃ c ∈ sl, c.1 = i then memRead sl i else memRead m i := by
  induction sl generalizing m with
  | nil => simp [memWriteCells]
  | cons c r ih =>
    have hp := List.pairwise_cons.mp h
    simp only [memWriteCells, ih _ hp.2, memRead_memWrite, List.mem_cons, exists_eq_or_imp, memRead]
    by_cases hc : c.1 = i
    · subst hc
      have : ¬ ∃ d ∈ r, d.1 = c.1 := fun ⟨d, hd, he⟩ => hp.1 d hd he.symm
      simp [this]
    · by_cases hr : ∃ d ∈ r, d.1 = i
      · simp [hc, hr]
      · simp [hc, hr, Ne.symm hc]

theorem memRead_append_left {m n : Memory} {i : Nat} (h : ∀ c ∈ m, c.1 ≠ i) : memRead (m ++ n) i = memRead n i := by
  induction m with
  | nil => rfl
  | cons c r ih => simp [memRead, h c (by simp), ih (fun d hd => h d (by simp [hd]))]

theorem memRead_append_right {m n : Memory} {i : Nat} (h : ∀ c ∈ n, c.1 ≠ i) : memRead (m ++ n) i = memRead m i := by
  induction m with
  | nil => simpa [memRead] using memRead_of_not_mem h
  | cons c r ih => simp only [List.cons_append, memRead, ih]

/-- Cells moved up by `lo` read `lo` lower. -/
theorem memRead_moved (q : Memory) (lo i : Nat) :
    memRead (q.map (fun c => (lo + c.1, c.2))) i = if lo ≤ i then memRead q (i - lo) else 0 := by
  induction q with
  | nil => simp [memRead]
  | cons c r ih =>
    simp only [List.map_cons, memRead, ih]
    by_cases hl : lo ≤ i
    · by_cases hc : lo + c.1 = i
      · rw [if_pos hc, if_pos hl, if_pos (by omega)]
      · rw [if_neg hc, if_pos hl, if_pos hl, if_neg (by omega)]
    · rw [if_neg (by omega), if_neg hl, if_neg hl]

/-- A placed range reads as its slice; every other address as before. -/
theorem memRead_memPlace (m : Memory) (lo len : Nat) {sl : Memory} (h : Memory.wf sl) (i : Nat) :
    memRead (memPlace m lo len sl) i = if lo ≤ i ∧ i < lo + len then memRead sl (i - lo) else memRead m i := by
  have hf := wf_filter h (fun c => decide (c.1 < len))
  have hp : ((sl.filter (fun c => decide (c.1 < len))).map (fun c => (lo + c.1, c.2))).Pairwise (fun x y => x.1 ≠ y.1) :=
    List.pairwise_map.mpr (hf.1.imp fun hlt => by show lo + _ ≠ lo + _; omega)
  have low : lo ≤ i → ∀ c ∈ m.filter (fun c => decide (c.1 < lo)), c.1 ≠ i := by
    intro hi c hc
    have := (List.mem_filter.mp hc).2
    simp at this
    omega
  have high : i < lo + len → ∀ c ∈ m.filter (fun c => decide (lo + len ≤ c.1)), c.1 ≠ i := by
    intro hi c hc
    have := (List.mem_filter.mp hc).2
    simp at this
    omega
  have mid : ¬(lo ≤ i ∧ i < lo + len) → ∀ c ∈ memWriteCells []
      ((sl.filter (fun c => decide (c.1 < len))).map (fun c => (lo + c.1, c.2))), c.1 ≠ i := by
    intro hi c hc
    rcases mem_memWriteCells hc with hc | ⟨d, hd, hdc⟩
    · simp at hc
    · obtain ⟨e, he, rfl⟩ := List.mem_map.mp hd
      have := (List.mem_filter.mp he).2
      simp at this hdc
      omega
  by_cases hr : lo ≤ i ∧ i < lo + len
  · rw [memPlace, memRead_append_right (high hr.2), memRead_append_left (low hr.1), memRead_memWriteCells _ hp, memRead_moved,
      memRead_filter sl (fun x => decide (x < len)), if_pos hr, if_pos hr.1, if_pos (c := decide (i - lo < len) = true) (by simp; omega)]
    split
    · rfl
    · rename_i hn
      refine (memRead_of_not_mem fun c hc he => hn ⟨(lo + c.1, c.2), ?_, by show lo + c.1 = i; omega⟩).symm
      exact List.mem_map.mpr ⟨c, List.mem_filter.mpr ⟨hc, by simp; omega⟩, rfl⟩
  · rw [if_neg hr]
    by_cases h1 : i < lo
    · rw [memPlace, memRead_append_right (high (by omega)), memRead_append_right (mid hr),
        memRead_filter m (fun x => decide (x < lo)), if_pos (by simpa using h1)]
    · rw [memPlace, List.append_assoc, memRead_append_left (low (by omega)), memRead_append_left (mid hr),
        memRead_filter m (fun x => decide (lo + len ≤ x)), if_pos (by simp; omega)]

/-- A slice reads as its memory does, counted from its base. -/
theorem memRead_memSlice (m : Memory) (lo len i : Nat) :
    memRead (memSlice m lo len) i = if i < len then memRead m (lo + i) else 0 := by
  have : ∀ q : Memory, (∀ c ∈ q, lo ≤ c.1) → memRead (q.map (fun c => (c.1 - lo, c.2))) i = memRead q (lo + i) := by
    intro q
    induction q with
    | nil => simp [memRead]
    | cons c r ih =>
      intro hq
      have hc := hq c (by simp)
      simp only [List.map_cons, memRead, ih (fun d hd => hq d (by simp [hd]))]
      by_cases he : c.1 = lo + i
      · rw [if_pos (by omega), if_pos he]
      · rw [if_neg (by omega), if_neg he]
  rw [memSlice, this _ (fun c hc => by have := (List.mem_filter.mp hc).2; simp at this; exact this.1),
    memRead_filter m (fun x => decide (lo ≤ x ∧ x < lo + len))]
  by_cases h : i < len
  · rw [if_pos (by simpa using h), if_pos h]
  · rw [if_neg (by simpa using h), if_neg h]

/-- Two memories in canonical form that read the same are the same. -/
theorem memory_ext {m n : Memory} (hm : Memory.wf m) (hn : Memory.wf n) (h : ∀ i, memRead m i = memRead n i) : m = n := by
  induction m generalizing n with
  | nil =>
    cases n with
    | nil => rfl
    | cons d r => exact absurd (by simpa [memRead] using (h d.1).symm) (hn.2 d (by simp))
  | cons c r ih =>
    cases n with
    | nil => exact absurd (by simpa [memRead] using h c.1) (hm.2 c (by simp))
    | cons d q =>
      have pm := List.pairwise_cons.mp hm.1
      have pn := List.pairwise_cons.mp hn.1
      have nc : memRead q c.1 = 0 ∨ d.1 < c.1 := by
        by_cases hl : d.1 < c.1
        · exact .inr hl
        · exact .inl (memRead_of_not_mem fun e he => by have := pn.1 e he; omega)
      have nd : memRead r d.1 = 0 ∨ c.1 < d.1 := by
        by_cases hl : c.1 < d.1
        · exact .inr hl
        · exact .inl (memRead_of_not_mem fun e he => by have := pm.1 e he; omega)
      have e1 : c.1 = d.1 := by
        by_contra hne
        rcases Nat.lt_or_gt_of_ne hne with hl | hl
        · have := h c.1
          simp only [memRead, if_true] at this
          rw [if_neg (by omega), (nc.resolve_right (by omega))] at this
          exact hm.2 c (by simp) this
        · have := h d.1
          simp only [memRead, if_true] at this
          rw [if_neg (by omega), (nd.resolve_right (by omega))] at this
          exact hn.2 d (by simp) this.symm
      have e2 : c = d := by
        have := h c.1
        simp only [memRead, if_true, e1] at this
        exact Prod.ext e1 this
      subst e2
      refine congrArg (c :: ·) (ih ⟨pm.2, fun e he => hm.2 e (by simp [he])⟩ ⟨pn.2, fun e he => hn.2 e (by simp [he])⟩ fun i => ?_)
      by_cases hi : c.1 = i
      · subst hi
        rw [memRead_of_not_mem fun e he => by have := pm.1 e he; omega, memRead_of_not_mem fun e he => by have := pn.1 e he; omega]
      · have := h i
        simpa [memRead, hi] using this

end Sys2Proof.Machine
end

