-- ==== Sys2Proof/Laws/State.lean ====
section
/-! SUPPORT. One lemma for each field of State and each update: the update leaves every field but its own alone. A context
keeps every field but `seq` and `flights` when an effect is put in flight. -/

namespace Sys2Proof.Machine

@[simp] theorem setCtx_inputs (s : State) (k : Nat) (c : Ctx) : (setCtx s k c).inputs = s.inputs := rfl
@[simp] theorem setCtx_phase (s : State) (k : Nat) (c : Ctx) : (setCtx s k c).phase = s.phase := rfl
@[simp] theorem setCtx_agenda (s : State) (k : Nat) (c : Ctx) : (setCtx s k c).agenda = s.agenda := rfl
@[simp] theorem setCtx_cur (s : State) (k : Nat) (c : Ctx) : (setCtx s k c).cur = s.cur := rfl
@[simp] theorem setCtx_slot (s : State) (k : Nat) (c : Ctx) : (setCtx s k c).slot = s.slot := rfl
@[simp] theorem setCtx_walker (s : State) (k : Nat) (c : Ctx) : (setCtx s k c).walker = s.walker := rfl
@[simp] theorem setCtx_issueFault (s : State) (k : Nat) (c : Ctx) : (setCtx s k c).issueFault = s.issueFault := rfl
@[simp] theorem setCtx_refused (s : State) (k : Nat) (c : Ctx) : (setCtx s k c).refused = s.refused := rfl
@[simp] theorem setCtx_fresh (s : State) (k : Nat) (c : Ctx) : (setCtx s k c).fresh = s.fresh := rfl
@[simp] theorem setCtx_gcc (s : State) (k : Nat) (c : Ctx) : (setCtx s k c).gcc = s.gcc := rfl
@[simp] theorem setCtx_cores (s : State) (k : Nat) (c : Ctx) : (setCtx s k c).cores = s.cores := rfl
@[simp] theorem setCtx_clusters (s : State) (k : Nat) (c : Ctx) : (setCtx s k c).clusters = s.clusters := rfl
@[simp] theorem setCtx_diesT (s : State) (k : Nat) (c : Ctx) : (setCtx s k c).diesT = s.diesT := rfl
@[simp] theorem setCtx_tenants (s : State) (k : Nat) (c : Ctx) : (setCtx s k c).tenants = s.tenants := rfl
@[simp] theorem setCtx_ports (s : State) (k : Nat) (c : Ctx) : (setCtx s k c).ports = s.ports := rfl
@[simp] theorem setCtx_mem (s : State) (k : Nat) (c : Ctx) : (setCtx s k c).mem = s.mem := rfl
@[simp] theorem setCtx_written (s : State) (k : Nat) (c : Ctx) : (setCtx s k c).written = s.written := rfl
@[simp] theorem setCtx_clouded (s : State) (k : Nat) (c : Ctx) : (setCtx s k c).clouded = s.clouded := rfl
@[simp] theorem setCtx_noted (s : State) (k : Nat) (c : Ctx) : (setCtx s k c).noted = s.noted := rfl
@[simp] theorem setCtx_marked (s : State) (k : Nat) (c : Ctx) : (setCtx s k c).marked = s.marked := rfl
@[simp] theorem setCtx_posts (s : State) (k : Nat) (c : Ctx) : (setCtx s k c).posts = s.posts := rfl
@[simp] theorem setCtx_uncommitted (s : State) (k : Nat) (c : Ctx) : (setCtx s k c).uncommitted = s.uncommitted := rfl
@[simp] theorem setCtx_atomic (s : State) (k : Nat) (c : Ctx) : (setCtx s k c).atomic = s.atomic := rfl
@[simp] theorem setCtx_routes (s : State) (k : Nat) (c : Ctx) : (setCtx s k c).routes = s.routes := rfl
@[simp] theorem setCtx_domain (s : State) (k : Nat) (c : Ctx) : (setCtx s k c).domain = s.domain := rfl
@[simp] theorem setCtx_packages (s : State) (k : Nat) (c : Ctx) : (setCtx s k c).packages = s.packages := rfl
@[simp] theorem setCtx_applied (s : State) (k : Nat) (c : Ctx) : (setCtx s k c).applied = s.applied := rfl
@[simp] theorem setCtx_outbound (s : State) (k : Nat) (c : Ctx) : (setCtx s k c).outbound = s.outbound := rfl
@[simp] theorem setCtx_awaiting (s : State) (k : Nat) (c : Ctx) : (setCtx s k c).awaiting = s.awaiting := rfl
@[simp] theorem setCtx_tags (s : State) (k : Nat) (c : Ctx) : (setCtx s k c).tags = s.tags := rfl
@[simp] theorem setCtx_admitNext (s : State) (k : Nat) (c : Ctx) : (setCtx s k c).admitNext = s.admitNext := rfl
@[simp] theorem setCtx_turns (s : State) (k : Nat) (c : Ctx) : (setCtx s k c).turns = s.turns := rfl
@[simp] theorem setCtx_msixSent (s : State) (k : Nat) (c : Ctx) : (setCtx s k c).msixSent = s.msixSent := rfl
@[simp] theorem setCtx_journalOwners (s : State) (k : Nat) (c : Ctx) : (setCtx s k c).journalOwners = s.journalOwners := rfl
@[simp] theorem setCtx_saved (s : State) (k : Nat) (c : Ctx) : (setCtx s k c).saved = s.saved := rfl
@[simp] theorem setCtx_images (s : State) (k : Nat) (c : Ctx) : (setCtx s k c).images = s.images := rfl
@[simp] theorem setCtx_pkgId (s : State) (k : Nat) (c : Ctx) : (setCtx s k c).pkgId = s.pkgId := rfl
@[simp] theorem setCtx_clock (s : State) (k : Nat) (c : Ctx) : (setCtx s k c).clock = s.clock := rfl
@[simp] theorem setCtx_stretched (s : State) (k : Nat) (c : Ctx) : (setCtx s k c).stretched = s.stretched := rfl
@[simp] theorem setCtx_elapsed (s : State) (k : Nat) (c : Ctx) : (setCtx s k c).elapsed = s.elapsed := rfl
@[simp] theorem setCtx_trims (s : State) (k : Nat) (c : Ctx) : (setCtx s k c).trims = s.trims := rfl
@[simp] theorem setCtx_era (s : State) (k : Nat) (c : Ctx) : (setCtx s k c).era = s.era := rfl
@[simp] theorem setCtx_divLog (s : State) (k : Nat) (c : Ctx) : (setCtx s k c).divLog = s.divLog := rfl
@[simp] theorem setCtx_bootStep (s : State) (k : Nat) (c : Ctx) : (setCtx s k c).bootStep = s.bootStep := rfl
@[simp] theorem setCtx_testItem (s : State) (k : Nat) (c : Ctx) : (setCtx s k c).testItem = s.testItem := rfl
@[simp] theorem setCtx_booted (s : State) (k : Nat) (c : Ctx) : (setCtx s k c).booted = s.booted := rfl
@[simp] theorem setCtx_measures (s : State) (k : Nat) (c : Ctx) : (setCtx s k c).measures = s.measures := rfl
@[simp] theorem setCtx_bootCount (s : State) (k : Nat) (c : Ctx) : (setCtx s k c).bootCount = s.bootCount := rfl
@[simp] theorem setCtx_sealed (s : State) (k : Nat) (c : Ctx) : (setCtx s k c).sealed = s.sealed := rfl
@[simp] theorem setCtx_sealNext (s : State) (k : Nat) (c : Ctx) : (setCtx s k c).sealNext = s.sealNext := rfl
@[simp] theorem setCtx_pcap (s : State) (k : Nat) (c : Ctx) : (setCtx s k c).pcap = s.pcap := rfl
@[simp] theorem setCtx_ilim (s : State) (k : Nat) (c : Ctx) : (setCtx s k c).ilim = s.ilim := rfl
@[simp] theorem setCtx_brown (s : State) (k : Nat) (c : Ctx) : (setCtx s k c).brown = s.brown := rfl
@[simp] theorem setCtx_brownFrozen (s : State) (k : Nat) (c : Ctx) : (setCtx s k c).brownFrozen = s.brownFrozen := rfl
@[simp] theorem setCtx_health (s : State) (k : Nat) (c : Ctx) : (setCtx s k c).health = s.health := rfl
@[simp] theorem setCtx_readData (s : State) (k : Nat) (c : Ctx) : (setCtx s k c).readData = s.readData := rfl
@[simp] theorem setCtx_logNext (s : State) (k : Nat) (c : Ctx) : (setCtx s k c).logNext = s.logNext := rfl
@[simp] theorem setCtx_healthLog (s : State) (k : Nat) (c : Ctx) : (setCtx s k c).healthLog = s.healthLog := rfl

@[simp] theorem modCtx_inputs (s : State) (k : Nat) (f : Ctx → Ctx) : (modCtx s k f).inputs = s.inputs := rfl
@[simp] theorem modCtx_phase (s : State) (k : Nat) (f : Ctx → Ctx) : (modCtx s k f).phase = s.phase := rfl
@[simp] theorem modCtx_agenda (s : State) (k : Nat) (f : Ctx → Ctx) : (modCtx s k f).agenda = s.agenda := rfl
@[simp] theorem modCtx_cur (s : State) (k : Nat) (f : Ctx → Ctx) : (modCtx s k f).cur = s.cur := rfl
@[simp] theorem modCtx_slot (s : State) (k : Nat) (f : Ctx → Ctx) : (modCtx s k f).slot = s.slot := rfl
@[simp] theorem modCtx_walker (s : State) (k : Nat) (f : Ctx → Ctx) : (modCtx s k f).walker = s.walker := rfl
@[simp] theorem modCtx_issueFault (s : State) (k : Nat) (f : Ctx → Ctx) : (modCtx s k f).issueFault = s.issueFault := rfl
@[simp] theorem modCtx_refused (s : State) (k : Nat) (f : Ctx → Ctx) : (modCtx s k f).refused = s.refused := rfl
@[simp] theorem modCtx_fresh (s : State) (k : Nat) (f : Ctx → Ctx) : (modCtx s k f).fresh = s.fresh := rfl
@[simp] theorem modCtx_gcc (s : State) (k : Nat) (f : Ctx → Ctx) : (modCtx s k f).gcc = s.gcc := rfl
@[simp] theorem modCtx_cores (s : State) (k : Nat) (f : Ctx → Ctx) : (modCtx s k f).cores = s.cores := rfl
@[simp] theorem modCtx_clusters (s : State) (k : Nat) (f : Ctx → Ctx) : (modCtx s k f).clusters = s.clusters := rfl
@[simp] theorem modCtx_diesT (s : State) (k : Nat) (f : Ctx → Ctx) : (modCtx s k f).diesT = s.diesT := rfl
@[simp] theorem modCtx_tenants (s : State) (k : Nat) (f : Ctx → Ctx) : (modCtx s k f).tenants = s.tenants := rfl
@[simp] theorem modCtx_ports (s : State) (k : Nat) (f : Ctx → Ctx) : (modCtx s k f).ports = s.ports := rfl
@[simp] theorem modCtx_mem (s : State) (k : Nat) (f : Ctx → Ctx) : (modCtx s k f).mem = s.mem := rfl
@[simp] theorem modCtx_written (s : State) (k : Nat) (f : Ctx → Ctx) : (modCtx s k f).written = s.written := rfl
@[simp] theorem modCtx_clouded (s : State) (k : Nat) (f : Ctx → Ctx) : (modCtx s k f).clouded = s.clouded := rfl
@[simp] theorem modCtx_noted (s : State) (k : Nat) (f : Ctx → Ctx) : (modCtx s k f).noted = s.noted := rfl
@[simp] theorem modCtx_marked (s : State) (k : Nat) (f : Ctx → Ctx) : (modCtx s k f).marked = s.marked := rfl
@[simp] theorem modCtx_posts (s : State) (k : Nat) (f : Ctx → Ctx) : (modCtx s k f).posts = s.posts := rfl
@[simp] theorem modCtx_uncommitted (s : State) (k : Nat) (f : Ctx → Ctx) : (modCtx s k f).uncommitted = s.uncommitted := rfl
@[simp] theorem modCtx_atomic (s : State) (k : Nat) (f : Ctx → Ctx) : (modCtx s k f).atomic = s.atomic := rfl
@[simp] theorem modCtx_routes (s : State) (k : Nat) (f : Ctx → Ctx) : (modCtx s k f).routes = s.routes := rfl
@[simp] theorem modCtx_domain (s : State) (k : Nat) (f : Ctx → Ctx) : (modCtx s k f).domain = s.domain := rfl
@[simp] theorem modCtx_packages (s : State) (k : Nat) (f : Ctx → Ctx) : (modCtx s k f).packages = s.packages := rfl
@[simp] theorem modCtx_applied (s : State) (k : Nat) (f : Ctx → Ctx) : (modCtx s k f).applied = s.applied := rfl
@[simp] theorem modCtx_outbound (s : State) (k : Nat) (f : Ctx → Ctx) : (modCtx s k f).outbound = s.outbound := rfl
@[simp] theorem modCtx_awaiting (s : State) (k : Nat) (f : Ctx → Ctx) : (modCtx s k f).awaiting = s.awaiting := rfl
@[simp] theorem modCtx_tags (s : State) (k : Nat) (f : Ctx → Ctx) : (modCtx s k f).tags = s.tags := rfl
@[simp] theorem modCtx_admitNext (s : State) (k : Nat) (f : Ctx → Ctx) : (modCtx s k f).admitNext = s.admitNext := rfl
@[simp] theorem modCtx_turns (s : State) (k : Nat) (f : Ctx → Ctx) : (modCtx s k f).turns = s.turns := rfl
@[simp] theorem modCtx_msixSent (s : State) (k : Nat) (f : Ctx → Ctx) : (modCtx s k f).msixSent = s.msixSent := rfl
@[simp] theorem modCtx_journalOwners (s : State) (k : Nat) (f : Ctx → Ctx) : (modCtx s k f).journalOwners = s.journalOwners := rfl
@[simp] theorem modCtx_saved (s : State) (k : Nat) (f : Ctx → Ctx) : (modCtx s k f).saved = s.saved := rfl
@[simp] theorem modCtx_images (s : State) (k : Nat) (f : Ctx → Ctx) : (modCtx s k f).images = s.images := rfl
@[simp] theorem modCtx_pkgId (s : State) (k : Nat) (f : Ctx → Ctx) : (modCtx s k f).pkgId = s.pkgId := rfl
@[simp] theorem modCtx_clock (s : State) (k : Nat) (f : Ctx → Ctx) : (modCtx s k f).clock = s.clock := rfl
@[simp] theorem modCtx_stretched (s : State) (k : Nat) (f : Ctx → Ctx) : (modCtx s k f).stretched = s.stretched := rfl
@[simp] theorem modCtx_elapsed (s : State) (k : Nat) (f : Ctx → Ctx) : (modCtx s k f).elapsed = s.elapsed := rfl
@[simp] theorem modCtx_trims (s : State) (k : Nat) (f : Ctx → Ctx) : (modCtx s k f).trims = s.trims := rfl
@[simp] theorem modCtx_era (s : State) (k : Nat) (f : Ctx → Ctx) : (modCtx s k f).era = s.era := rfl
@[simp] theorem modCtx_divLog (s : State) (k : Nat) (f : Ctx → Ctx) : (modCtx s k f).divLog = s.divLog := rfl
@[simp] theorem modCtx_bootStep (s : State) (k : Nat) (f : Ctx → Ctx) : (modCtx s k f).bootStep = s.bootStep := rfl
@[simp] theorem modCtx_testItem (s : State) (k : Nat) (f : Ctx → Ctx) : (modCtx s k f).testItem = s.testItem := rfl
@[simp] theorem modCtx_booted (s : State) (k : Nat) (f : Ctx → Ctx) : (modCtx s k f).booted = s.booted := rfl
@[simp] theorem modCtx_measures (s : State) (k : Nat) (f : Ctx → Ctx) : (modCtx s k f).measures = s.measures := rfl
@[simp] theorem modCtx_bootCount (s : State) (k : Nat) (f : Ctx → Ctx) : (modCtx s k f).bootCount = s.bootCount := rfl
@[simp] theorem modCtx_sealed (s : State) (k : Nat) (f : Ctx → Ctx) : (modCtx s k f).sealed = s.sealed := rfl
@[simp] theorem modCtx_sealNext (s : State) (k : Nat) (f : Ctx → Ctx) : (modCtx s k f).sealNext = s.sealNext := rfl
@[simp] theorem modCtx_pcap (s : State) (k : Nat) (f : Ctx → Ctx) : (modCtx s k f).pcap = s.pcap := rfl
@[simp] theorem modCtx_ilim (s : State) (k : Nat) (f : Ctx → Ctx) : (modCtx s k f).ilim = s.ilim := rfl
@[simp] theorem modCtx_brown (s : State) (k : Nat) (f : Ctx → Ctx) : (modCtx s k f).brown = s.brown := rfl
@[simp] theorem modCtx_brownFrozen (s : State) (k : Nat) (f : Ctx → Ctx) : (modCtx s k f).brownFrozen = s.brownFrozen := rfl
@[simp] theorem modCtx_health (s : State) (k : Nat) (f : Ctx → Ctx) : (modCtx s k f).health = s.health := rfl
@[simp] theorem modCtx_readData (s : State) (k : Nat) (f : Ctx → Ctx) : (modCtx s k f).readData = s.readData := rfl
@[simp] theorem modCtx_logNext (s : State) (k : Nat) (f : Ctx → Ctx) : (modCtx s k f).logNext = s.logNext := rfl
@[simp] theorem modCtx_healthLog (s : State) (k : Nat) (f : Ctx → Ctx) : (modCtx s k f).healthLog = s.healthLog := rfl

@[simp] theorem setCore_inputs (s : State) (n : Nat) (c : CoreState) : (setCore s n c).inputs = s.inputs := rfl
@[simp] theorem setCore_phase (s : State) (n : Nat) (c : CoreState) : (setCore s n c).phase = s.phase := rfl
@[simp] theorem setCore_agenda (s : State) (n : Nat) (c : CoreState) : (setCore s n c).agenda = s.agenda := rfl
@[simp] theorem setCore_cur (s : State) (n : Nat) (c : CoreState) : (setCore s n c).cur = s.cur := rfl
@[simp] theorem setCore_slot (s : State) (n : Nat) (c : CoreState) : (setCore s n c).slot = s.slot := rfl
@[simp] theorem setCore_walker (s : State) (n : Nat) (c : CoreState) : (setCore s n c).walker = s.walker := rfl
@[simp] theorem setCore_issueFault (s : State) (n : Nat) (c : CoreState) : (setCore s n c).issueFault = s.issueFault := rfl
@[simp] theorem setCore_refused (s : State) (n : Nat) (c : CoreState) : (setCore s n c).refused = s.refused := rfl
@[simp] theorem setCore_fresh (s : State) (n : Nat) (c : CoreState) : (setCore s n c).fresh = s.fresh := rfl
@[simp] theorem setCore_gcc (s : State) (n : Nat) (c : CoreState) : (setCore s n c).gcc = s.gcc := rfl
@[simp] theorem setCore_ctxs (s : State) (n : Nat) (c : CoreState) : (setCore s n c).ctxs = s.ctxs := rfl
@[simp] theorem setCore_clusters (s : State) (n : Nat) (c : CoreState) : (setCore s n c).clusters = s.clusters := rfl
@[simp] theorem setCore_diesT (s : State) (n : Nat) (c : CoreState) : (setCore s n c).diesT = s.diesT := rfl
@[simp] theorem setCore_tenants (s : State) (n : Nat) (c : CoreState) : (setCore s n c).tenants = s.tenants := rfl
@[simp] theorem setCore_ports (s : State) (n : Nat) (c : CoreState) : (setCore s n c).ports = s.ports := rfl
@[simp] theorem setCore_mem (s : State) (n : Nat) (c : CoreState) : (setCore s n c).mem = s.mem := rfl
@[simp] theorem setCore_written (s : State) (n : Nat) (c : CoreState) : (setCore s n c).written = s.written := rfl
@[simp] theorem setCore_clouded (s : State) (n : Nat) (c : CoreState) : (setCore s n c).clouded = s.clouded := rfl
@[simp] theorem setCore_noted (s : State) (n : Nat) (c : CoreState) : (setCore s n c).noted = s.noted := rfl
@[simp] theorem setCore_marked (s : State) (n : Nat) (c : CoreState) : (setCore s n c).marked = s.marked := rfl
@[simp] theorem setCore_posts (s : State) (n : Nat) (c : CoreState) : (setCore s n c).posts = s.posts := rfl
@[simp] theorem setCore_uncommitted (s : State) (n : Nat) (c : CoreState) : (setCore s n c).uncommitted = s.uncommitted := rfl
@[simp] theorem setCore_atomic (s : State) (n : Nat) (c : CoreState) : (setCore s n c).atomic = s.atomic := rfl
@[simp] theorem setCore_routes (s : State) (n : Nat) (c : CoreState) : (setCore s n c).routes = s.routes := rfl
@[simp] theorem setCore_domain (s : State) (n : Nat) (c : CoreState) : (setCore s n c).domain = s.domain := rfl
@[simp] theorem setCore_packages (s : State) (n : Nat) (c : CoreState) : (setCore s n c).packages = s.packages := rfl
@[simp] theorem setCore_applied (s : State) (n : Nat) (c : CoreState) : (setCore s n c).applied = s.applied := rfl
@[simp] theorem setCore_outbound (s : State) (n : Nat) (c : CoreState) : (setCore s n c).outbound = s.outbound := rfl
@[simp] theorem setCore_awaiting (s : State) (n : Nat) (c : CoreState) : (setCore s n c).awaiting = s.awaiting := rfl
@[simp] theorem setCore_tags (s : State) (n : Nat) (c : CoreState) : (setCore s n c).tags = s.tags := rfl
@[simp] theorem setCore_admitNext (s : State) (n : Nat) (c : CoreState) : (setCore s n c).admitNext = s.admitNext := rfl
@[simp] theorem setCore_turns (s : State) (n : Nat) (c : CoreState) : (setCore s n c).turns = s.turns := rfl
@[simp] theorem setCore_msixSent (s : State) (n : Nat) (c : CoreState) : (setCore s n c).msixSent = s.msixSent := rfl
@[simp] theorem setCore_journalOwners (s : State) (n : Nat) (c : CoreState) : (setCore s n c).journalOwners = s.journalOwners := rfl
@[simp] theorem setCore_saved (s : State) (n : Nat) (c : CoreState) : (setCore s n c).saved = s.saved := rfl
@[simp] theorem setCore_images (s : State) (n : Nat) (c : CoreState) : (setCore s n c).images = s.images := rfl
@[simp] theorem setCore_pkgId (s : State) (n : Nat) (c : CoreState) : (setCore s n c).pkgId = s.pkgId := rfl
@[simp] theorem setCore_clock (s : State) (n : Nat) (c : CoreState) : (setCore s n c).clock = s.clock := rfl
@[simp] theorem setCore_stretched (s : State) (n : Nat) (c : CoreState) : (setCore s n c).stretched = s.stretched := rfl
@[simp] theorem setCore_elapsed (s : State) (n : Nat) (c : CoreState) : (setCore s n c).elapsed = s.elapsed := rfl
@[simp] theorem setCore_trims (s : State) (n : Nat) (c : CoreState) : (setCore s n c).trims = s.trims := rfl
@[simp] theorem setCore_era (s : State) (n : Nat) (c : CoreState) : (setCore s n c).era = s.era := rfl
@[simp] theorem setCore_divLog (s : State) (n : Nat) (c : CoreState) : (setCore s n c).divLog = s.divLog := rfl
@[simp] theorem setCore_bootStep (s : State) (n : Nat) (c : CoreState) : (setCore s n c).bootStep = s.bootStep := rfl
@[simp] theorem setCore_testItem (s : State) (n : Nat) (c : CoreState) : (setCore s n c).testItem = s.testItem := rfl
@[simp] theorem setCore_booted (s : State) (n : Nat) (c : CoreState) : (setCore s n c).booted = s.booted := rfl
@[simp] theorem setCore_measures (s : State) (n : Nat) (c : CoreState) : (setCore s n c).measures = s.measures := rfl
@[simp] theorem setCore_bootCount (s : State) (n : Nat) (c : CoreState) : (setCore s n c).bootCount = s.bootCount := rfl
@[simp] theorem setCore_sealed (s : State) (n : Nat) (c : CoreState) : (setCore s n c).sealed = s.sealed := rfl
@[simp] theorem setCore_sealNext (s : State) (n : Nat) (c : CoreState) : (setCore s n c).sealNext = s.sealNext := rfl
@[simp] theorem setCore_pcap (s : State) (n : Nat) (c : CoreState) : (setCore s n c).pcap = s.pcap := rfl
@[simp] theorem setCore_ilim (s : State) (n : Nat) (c : CoreState) : (setCore s n c).ilim = s.ilim := rfl
@[simp] theorem setCore_brown (s : State) (n : Nat) (c : CoreState) : (setCore s n c).brown = s.brown := rfl
@[simp] theorem setCore_brownFrozen (s : State) (n : Nat) (c : CoreState) : (setCore s n c).brownFrozen = s.brownFrozen := rfl
@[simp] theorem setCore_health (s : State) (n : Nat) (c : CoreState) : (setCore s n c).health = s.health := rfl
@[simp] theorem setCore_readData (s : State) (n : Nat) (c : CoreState) : (setCore s n c).readData = s.readData := rfl
@[simp] theorem setCore_logNext (s : State) (n : Nat) (c : CoreState) : (setCore s n c).logNext = s.logNext := rfl
@[simp] theorem setCore_healthLog (s : State) (n : Nat) (c : CoreState) : (setCore s n c).healthLog = s.healthLog := rfl

@[simp] theorem modCore_inputs (s : State) (n : Nat) (f : CoreState → CoreState) : (modCore s n f).inputs = s.inputs := rfl
@[simp] theorem modCore_phase (s : State) (n : Nat) (f : CoreState → CoreState) : (modCore s n f).phase = s.phase := rfl
@[simp] theorem modCore_agenda (s : State) (n : Nat) (f : CoreState → CoreState) : (modCore s n f).agenda = s.agenda := rfl
@[simp] theorem modCore_cur (s : State) (n : Nat) (f : CoreState → CoreState) : (modCore s n f).cur = s.cur := rfl
@[simp] theorem modCore_slot (s : State) (n : Nat) (f : CoreState → CoreState) : (modCore s n f).slot = s.slot := rfl
@[simp] theorem modCore_walker (s : State) (n : Nat) (f : CoreState → CoreState) : (modCore s n f).walker = s.walker := rfl
@[simp] theorem modCore_issueFault (s : State) (n : Nat) (f : CoreState → CoreState) : (modCore s n f).issueFault = s.issueFault := rfl
@[simp] theorem modCore_refused (s : State) (n : Nat) (f : CoreState → CoreState) : (modCore s n f).refused = s.refused := rfl
@[simp] theorem modCore_fresh (s : State) (n : Nat) (f : CoreState → CoreState) : (modCore s n f).fresh = s.fresh := rfl
@[simp] theorem modCore_gcc (s : State) (n : Nat) (f : CoreState → CoreState) : (modCore s n f).gcc = s.gcc := rfl
@[simp] theorem modCore_ctxs (s : State) (n : Nat) (f : CoreState → CoreState) : (modCore s n f).ctxs = s.ctxs := rfl
@[simp] theorem modCore_clusters (s : State) (n : Nat) (f : CoreState → CoreState) : (modCore s n f).clusters = s.clusters := rfl
@[simp] theorem modCore_diesT (s : State) (n : Nat) (f : CoreState → CoreState) : (modCore s n f).diesT = s.diesT := rfl
@[simp] theorem modCore_tenants (s : State) (n : Nat) (f : CoreState → CoreState) : (modCore s n f).tenants = s.tenants := rfl
@[simp] theorem modCore_ports (s : State) (n : Nat) (f : CoreState → CoreState) : (modCore s n f).ports = s.ports := rfl
@[simp] theorem modCore_mem (s : State) (n : Nat) (f : CoreState → CoreState) : (modCore s n f).mem = s.mem := rfl
@[simp] theorem modCore_written (s : State) (n : Nat) (f : CoreState → CoreState) : (modCore s n f).written = s.written := rfl
@[simp] theorem modCore_clouded (s : State) (n : Nat) (f : CoreState → CoreState) : (modCore s n f).clouded = s.clouded := rfl
@[simp] theorem modCore_noted (s : State) (n : Nat) (f : CoreState → CoreState) : (modCore s n f).noted = s.noted := rfl
@[simp] theorem modCore_marked (s : State) (n : Nat) (f : CoreState → CoreState) : (modCore s n f).marked = s.marked := rfl
@[simp] theorem modCore_posts (s : State) (n : Nat) (f : CoreState → CoreState) : (modCore s n f).posts = s.posts := rfl
@[simp] theorem modCore_uncommitted (s : State) (n : Nat) (f : CoreState → CoreState) : (modCore s n f).uncommitted = s.uncommitted := rfl
@[simp] theorem modCore_atomic (s : State) (n : Nat) (f : CoreState → CoreState) : (modCore s n f).atomic = s.atomic := rfl
@[simp] theorem modCore_routes (s : State) (n : Nat) (f : CoreState → CoreState) : (modCore s n f).routes = s.routes := rfl
@[simp] theorem modCore_domain (s : State) (n : Nat) (f : CoreState → CoreState) : (modCore s n f).domain = s.domain := rfl
@[simp] theorem modCore_packages (s : State) (n : Nat) (f : CoreState → CoreState) : (modCore s n f).packages = s.packages := rfl
@[simp] theorem modCore_applied (s : State) (n : Nat) (f : CoreState → CoreState) : (modCore s n f).applied = s.applied := rfl
@[simp] theorem modCore_outbound (s : State) (n : Nat) (f : CoreState → CoreState) : (modCore s n f).outbound = s.outbound := rfl
@[simp] theorem modCore_awaiting (s : State) (n : Nat) (f : CoreState → CoreState) : (modCore s n f).awaiting = s.awaiting := rfl
@[simp] theorem modCore_tags (s : State) (n : Nat) (f : CoreState → CoreState) : (modCore s n f).tags = s.tags := rfl
@[simp] theorem modCore_admitNext (s : State) (n : Nat) (f : CoreState → CoreState) : (modCore s n f).admitNext = s.admitNext := rfl
@[simp] theorem modCore_turns (s : State) (n : Nat) (f : CoreState → CoreState) : (modCore s n f).turns = s.turns := rfl
@[simp] theorem modCore_msixSent (s : State) (n : Nat) (f : CoreState → CoreState) : (modCore s n f).msixSent = s.msixSent := rfl
@[simp] theorem modCore_journalOwners (s : State) (n : Nat) (f : CoreState → CoreState) : (modCore s n f).journalOwners = s.journalOwners := rfl
@[simp] theorem modCore_saved (s : State) (n : Nat) (f : CoreState → CoreState) : (modCore s n f).saved = s.saved := rfl
@[simp] theorem modCore_images (s : State) (n : Nat) (f : CoreState → CoreState) : (modCore s n f).images = s.images := rfl
@[simp] theorem modCore_pkgId (s : State) (n : Nat) (f : CoreState → CoreState) : (modCore s n f).pkgId = s.pkgId := rfl
@[simp] theorem modCore_clock (s : State) (n : Nat) (f : CoreState → CoreState) : (modCore s n f).clock = s.clock := rfl
@[simp] theorem modCore_stretched (s : State) (n : Nat) (f : CoreState → CoreState) : (modCore s n f).stretched = s.stretched := rfl
@[simp] theorem modCore_elapsed (s : State) (n : Nat) (f : CoreState → CoreState) : (modCore s n f).elapsed = s.elapsed := rfl
@[simp] theorem modCore_trims (s : State) (n : Nat) (f : CoreState → CoreState) : (modCore s n f).trims = s.trims := rfl
@[simp] theorem modCore_era (s : State) (n : Nat) (f : CoreState → CoreState) : (modCore s n f).era = s.era := rfl
@[simp] theorem modCore_divLog (s : State) (n : Nat) (f : CoreState → CoreState) : (modCore s n f).divLog = s.divLog := rfl
@[simp] theorem modCore_bootStep (s : State) (n : Nat) (f : CoreState → CoreState) : (modCore s n f).bootStep = s.bootStep := rfl
@[simp] theorem modCore_testItem (s : State) (n : Nat) (f : CoreState → CoreState) : (modCore s n f).testItem = s.testItem := rfl
@[simp] theorem modCore_booted (s : State) (n : Nat) (f : CoreState → CoreState) : (modCore s n f).booted = s.booted := rfl
@[simp] theorem modCore_measures (s : State) (n : Nat) (f : CoreState → CoreState) : (modCore s n f).measures = s.measures := rfl
@[simp] theorem modCore_bootCount (s : State) (n : Nat) (f : CoreState → CoreState) : (modCore s n f).bootCount = s.bootCount := rfl
@[simp] theorem modCore_sealed (s : State) (n : Nat) (f : CoreState → CoreState) : (modCore s n f).sealed = s.sealed := rfl
@[simp] theorem modCore_sealNext (s : State) (n : Nat) (f : CoreState → CoreState) : (modCore s n f).sealNext = s.sealNext := rfl
@[simp] theorem modCore_pcap (s : State) (n : Nat) (f : CoreState → CoreState) : (modCore s n f).pcap = s.pcap := rfl
@[simp] theorem modCore_ilim (s : State) (n : Nat) (f : CoreState → CoreState) : (modCore s n f).ilim = s.ilim := rfl
@[simp] theorem modCore_brown (s : State) (n : Nat) (f : CoreState → CoreState) : (modCore s n f).brown = s.brown := rfl
@[simp] theorem modCore_brownFrozen (s : State) (n : Nat) (f : CoreState → CoreState) : (modCore s n f).brownFrozen = s.brownFrozen := rfl
@[simp] theorem modCore_health (s : State) (n : Nat) (f : CoreState → CoreState) : (modCore s n f).health = s.health := rfl
@[simp] theorem modCore_readData (s : State) (n : Nat) (f : CoreState → CoreState) : (modCore s n f).readData = s.readData := rfl
@[simp] theorem modCore_logNext (s : State) (n : Nat) (f : CoreState → CoreState) : (modCore s n f).logNext = s.logNext := rfl
@[simp] theorem modCore_healthLog (s : State) (n : Nat) (f : CoreState → CoreState) : (modCore s n f).healthLog = s.healthLog := rfl

@[simp] theorem modCluster_inputs (s : State) (n : Nat) (f : ClusterState → ClusterState) : (modCluster s n f).inputs = s.inputs := rfl
@[simp] theorem modCluster_phase (s : State) (n : Nat) (f : ClusterState → ClusterState) : (modCluster s n f).phase = s.phase := rfl
@[simp] theorem modCluster_agenda (s : State) (n : Nat) (f : ClusterState → ClusterState) : (modCluster s n f).agenda = s.agenda := rfl
@[simp] theorem modCluster_cur (s : State) (n : Nat) (f : ClusterState → ClusterState) : (modCluster s n f).cur = s.cur := rfl
@[simp] theorem modCluster_slot (s : State) (n : Nat) (f : ClusterState → ClusterState) : (modCluster s n f).slot = s.slot := rfl
@[simp] theorem modCluster_walker (s : State) (n : Nat) (f : ClusterState → ClusterState) : (modCluster s n f).walker = s.walker := rfl
@[simp] theorem modCluster_issueFault (s : State) (n : Nat) (f : ClusterState → ClusterState) : (modCluster s n f).issueFault = s.issueFault := rfl
@[simp] theorem modCluster_refused (s : State) (n : Nat) (f : ClusterState → ClusterState) : (modCluster s n f).refused = s.refused := rfl
@[simp] theorem modCluster_fresh (s : State) (n : Nat) (f : ClusterState → ClusterState) : (modCluster s n f).fresh = s.fresh := rfl
@[simp] theorem modCluster_gcc (s : State) (n : Nat) (f : ClusterState → ClusterState) : (modCluster s n f).gcc = s.gcc := rfl
@[simp] theorem modCluster_ctxs (s : State) (n : Nat) (f : ClusterState → ClusterState) : (modCluster s n f).ctxs = s.ctxs := rfl
@[simp] theorem modCluster_cores (s : State) (n : Nat) (f : ClusterState → ClusterState) : (modCluster s n f).cores = s.cores := rfl
@[simp] theorem modCluster_diesT (s : State) (n : Nat) (f : ClusterState → ClusterState) : (modCluster s n f).diesT = s.diesT := rfl
@[simp] theorem modCluster_tenants (s : State) (n : Nat) (f : ClusterState → ClusterState) : (modCluster s n f).tenants = s.tenants := rfl
@[simp] theorem modCluster_ports (s : State) (n : Nat) (f : ClusterState → ClusterState) : (modCluster s n f).ports = s.ports := rfl
@[simp] theorem modCluster_mem (s : State) (n : Nat) (f : ClusterState → ClusterState) : (modCluster s n f).mem = s.mem := rfl
@[simp] theorem modCluster_written (s : State) (n : Nat) (f : ClusterState → ClusterState) : (modCluster s n f).written = s.written := rfl
@[simp] theorem modCluster_clouded (s : State) (n : Nat) (f : ClusterState → ClusterState) : (modCluster s n f).clouded = s.clouded := rfl
@[simp] theorem modCluster_noted (s : State) (n : Nat) (f : ClusterState → ClusterState) : (modCluster s n f).noted = s.noted := rfl
@[simp] theorem modCluster_marked (s : State) (n : Nat) (f : ClusterState → ClusterState) : (modCluster s n f).marked = s.marked := rfl
@[simp] theorem modCluster_posts (s : State) (n : Nat) (f : ClusterState → ClusterState) : (modCluster s n f).posts = s.posts := rfl
@[simp] theorem modCluster_uncommitted (s : State) (n : Nat) (f : ClusterState → ClusterState) : (modCluster s n f).uncommitted = s.uncommitted := rfl
@[simp] theorem modCluster_atomic (s : State) (n : Nat) (f : ClusterState → ClusterState) : (modCluster s n f).atomic = s.atomic := rfl
@[simp] theorem modCluster_routes (s : State) (n : Nat) (f : ClusterState → ClusterState) : (modCluster s n f).routes = s.routes := rfl
@[simp] theorem modCluster_domain (s : State) (n : Nat) (f : ClusterState → ClusterState) : (modCluster s n f).domain = s.domain := rfl
@[simp] theorem modCluster_packages (s : State) (n : Nat) (f : ClusterState → ClusterState) : (modCluster s n f).packages = s.packages := rfl
@[simp] theorem modCluster_applied (s : State) (n : Nat) (f : ClusterState → ClusterState) : (modCluster s n f).applied = s.applied := rfl
@[simp] theorem modCluster_outbound (s : State) (n : Nat) (f : ClusterState → ClusterState) : (modCluster s n f).outbound = s.outbound := rfl
@[simp] theorem modCluster_awaiting (s : State) (n : Nat) (f : ClusterState → ClusterState) : (modCluster s n f).awaiting = s.awaiting := rfl
@[simp] theorem modCluster_tags (s : State) (n : Nat) (f : ClusterState → ClusterState) : (modCluster s n f).tags = s.tags := rfl
@[simp] theorem modCluster_admitNext (s : State) (n : Nat) (f : ClusterState → ClusterState) : (modCluster s n f).admitNext = s.admitNext := rfl
@[simp] theorem modCluster_turns (s : State) (n : Nat) (f : ClusterState → ClusterState) : (modCluster s n f).turns = s.turns := rfl
@[simp] theorem modCluster_msixSent (s : State) (n : Nat) (f : ClusterState → ClusterState) : (modCluster s n f).msixSent = s.msixSent := rfl
@[simp] theorem modCluster_journalOwners (s : State) (n : Nat) (f : ClusterState → ClusterState) : (modCluster s n f).journalOwners = s.journalOwners := rfl
@[simp] theorem modCluster_saved (s : State) (n : Nat) (f : ClusterState → ClusterState) : (modCluster s n f).saved = s.saved := rfl
@[simp] theorem modCluster_images (s : State) (n : Nat) (f : ClusterState → ClusterState) : (modCluster s n f).images = s.images := rfl
@[simp] theorem modCluster_pkgId (s : State) (n : Nat) (f : ClusterState → ClusterState) : (modCluster s n f).pkgId = s.pkgId := rfl
@[simp] theorem modCluster_clock (s : State) (n : Nat) (f : ClusterState → ClusterState) : (modCluster s n f).clock = s.clock := rfl
@[simp] theorem modCluster_stretched (s : State) (n : Nat) (f : ClusterState → ClusterState) : (modCluster s n f).stretched = s.stretched := rfl
@[simp] theorem modCluster_elapsed (s : State) (n : Nat) (f : ClusterState → ClusterState) : (modCluster s n f).elapsed = s.elapsed := rfl
@[simp] theorem modCluster_trims (s : State) (n : Nat) (f : ClusterState → ClusterState) : (modCluster s n f).trims = s.trims := rfl
@[simp] theorem modCluster_era (s : State) (n : Nat) (f : ClusterState → ClusterState) : (modCluster s n f).era = s.era := rfl
@[simp] theorem modCluster_divLog (s : State) (n : Nat) (f : ClusterState → ClusterState) : (modCluster s n f).divLog = s.divLog := rfl
@[simp] theorem modCluster_bootStep (s : State) (n : Nat) (f : ClusterState → ClusterState) : (modCluster s n f).bootStep = s.bootStep := rfl
@[simp] theorem modCluster_testItem (s : State) (n : Nat) (f : ClusterState → ClusterState) : (modCluster s n f).testItem = s.testItem := rfl
@[simp] theorem modCluster_booted (s : State) (n : Nat) (f : ClusterState → ClusterState) : (modCluster s n f).booted = s.booted := rfl
@[simp] theorem modCluster_measures (s : State) (n : Nat) (f : ClusterState → ClusterState) : (modCluster s n f).measures = s.measures := rfl
@[simp] theorem modCluster_bootCount (s : State) (n : Nat) (f : ClusterState → ClusterState) : (modCluster s n f).bootCount = s.bootCount := rfl
@[simp] theorem modCluster_sealed (s : State) (n : Nat) (f : ClusterState → ClusterState) : (modCluster s n f).sealed = s.sealed := rfl
@[simp] theorem modCluster_sealNext (s : State) (n : Nat) (f : ClusterState → ClusterState) : (modCluster s n f).sealNext = s.sealNext := rfl
@[simp] theorem modCluster_pcap (s : State) (n : Nat) (f : ClusterState → ClusterState) : (modCluster s n f).pcap = s.pcap := rfl
@[simp] theorem modCluster_ilim (s : State) (n : Nat) (f : ClusterState → ClusterState) : (modCluster s n f).ilim = s.ilim := rfl
@[simp] theorem modCluster_brown (s : State) (n : Nat) (f : ClusterState → ClusterState) : (modCluster s n f).brown = s.brown := rfl
@[simp] theorem modCluster_brownFrozen (s : State) (n : Nat) (f : ClusterState → ClusterState) : (modCluster s n f).brownFrozen = s.brownFrozen := rfl
@[simp] theorem modCluster_health (s : State) (n : Nat) (f : ClusterState → ClusterState) : (modCluster s n f).health = s.health := rfl
@[simp] theorem modCluster_readData (s : State) (n : Nat) (f : ClusterState → ClusterState) : (modCluster s n f).readData = s.readData := rfl
@[simp] theorem modCluster_logNext (s : State) (n : Nat) (f : ClusterState → ClusterState) : (modCluster s n f).logNext = s.logNext := rfl
@[simp] theorem modCluster_healthLog (s : State) (n : Nat) (f : ClusterState → ClusterState) : (modCluster s n f).healthLog = s.healthLog := rfl

@[simp] theorem modDie_inputs (s : State) (n : Nat) (f : DieState → DieState) : (modDie s n f).inputs = s.inputs := rfl
@[simp] theorem modDie_phase (s : State) (n : Nat) (f : DieState → DieState) : (modDie s n f).phase = s.phase := rfl
@[simp] theorem modDie_agenda (s : State) (n : Nat) (f : DieState → DieState) : (modDie s n f).agenda = s.agenda := rfl
@[simp] theorem modDie_cur (s : State) (n : Nat) (f : DieState → DieState) : (modDie s n f).cur = s.cur := rfl
@[simp] theorem modDie_slot (s : State) (n : Nat) (f : DieState → DieState) : (modDie s n f).slot = s.slot := rfl
@[simp] theorem modDie_walker (s : State) (n : Nat) (f : DieState → DieState) : (modDie s n f).walker = s.walker := rfl
@[simp] theorem modDie_issueFault (s : State) (n : Nat) (f : DieState → DieState) : (modDie s n f).issueFault = s.issueFault := rfl
@[simp] theorem modDie_refused (s : State) (n : Nat) (f : DieState → DieState) : (modDie s n f).refused = s.refused := rfl
@[simp] theorem modDie_fresh (s : State) (n : Nat) (f : DieState → DieState) : (modDie s n f).fresh = s.fresh := rfl
@[simp] theorem modDie_gcc (s : State) (n : Nat) (f : DieState → DieState) : (modDie s n f).gcc = s.gcc := rfl
@[simp] theorem modDie_ctxs (s : State) (n : Nat) (f : DieState → DieState) : (modDie s n f).ctxs = s.ctxs := rfl
@[simp] theorem modDie_cores (s : State) (n : Nat) (f : DieState → DieState) : (modDie s n f).cores = s.cores := rfl
@[simp] theorem modDie_clusters (s : State) (n : Nat) (f : DieState → DieState) : (modDie s n f).clusters = s.clusters := rfl
@[simp] theorem modDie_tenants (s : State) (n : Nat) (f : DieState → DieState) : (modDie s n f).tenants = s.tenants := rfl
@[simp] theorem modDie_ports (s : State) (n : Nat) (f : DieState → DieState) : (modDie s n f).ports = s.ports := rfl
@[simp] theorem modDie_mem (s : State) (n : Nat) (f : DieState → DieState) : (modDie s n f).mem = s.mem := rfl
@[simp] theorem modDie_written (s : State) (n : Nat) (f : DieState → DieState) : (modDie s n f).written = s.written := rfl
@[simp] theorem modDie_clouded (s : State) (n : Nat) (f : DieState → DieState) : (modDie s n f).clouded = s.clouded := rfl
@[simp] theorem modDie_noted (s : State) (n : Nat) (f : DieState → DieState) : (modDie s n f).noted = s.noted := rfl
@[simp] theorem modDie_marked (s : State) (n : Nat) (f : DieState → DieState) : (modDie s n f).marked = s.marked := rfl
@[simp] theorem modDie_posts (s : State) (n : Nat) (f : DieState → DieState) : (modDie s n f).posts = s.posts := rfl
@[simp] theorem modDie_uncommitted (s : State) (n : Nat) (f : DieState → DieState) : (modDie s n f).uncommitted = s.uncommitted := rfl
@[simp] theorem modDie_atomic (s : State) (n : Nat) (f : DieState → DieState) : (modDie s n f).atomic = s.atomic := rfl
@[simp] theorem modDie_routes (s : State) (n : Nat) (f : DieState → DieState) : (modDie s n f).routes = s.routes := rfl
@[simp] theorem modDie_domain (s : State) (n : Nat) (f : DieState → DieState) : (modDie s n f).domain = s.domain := rfl
@[simp] theorem modDie_packages (s : State) (n : Nat) (f : DieState → DieState) : (modDie s n f).packages = s.packages := rfl
@[simp] theorem modDie_applied (s : State) (n : Nat) (f : DieState → DieState) : (modDie s n f).applied = s.applied := rfl
@[simp] theorem modDie_outbound (s : State) (n : Nat) (f : DieState → DieState) : (modDie s n f).outbound = s.outbound := rfl
@[simp] theorem modDie_awaiting (s : State) (n : Nat) (f : DieState → DieState) : (modDie s n f).awaiting = s.awaiting := rfl
@[simp] theorem modDie_tags (s : State) (n : Nat) (f : DieState → DieState) : (modDie s n f).tags = s.tags := rfl
@[simp] theorem modDie_admitNext (s : State) (n : Nat) (f : DieState → DieState) : (modDie s n f).admitNext = s.admitNext := rfl
@[simp] theorem modDie_turns (s : State) (n : Nat) (f : DieState → DieState) : (modDie s n f).turns = s.turns := rfl
@[simp] theorem modDie_msixSent (s : State) (n : Nat) (f : DieState → DieState) : (modDie s n f).msixSent = s.msixSent := rfl
@[simp] theorem modDie_journalOwners (s : State) (n : Nat) (f : DieState → DieState) : (modDie s n f).journalOwners = s.journalOwners := rfl
@[simp] theorem modDie_saved (s : State) (n : Nat) (f : DieState → DieState) : (modDie s n f).saved = s.saved := rfl
@[simp] theorem modDie_images (s : State) (n : Nat) (f : DieState → DieState) : (modDie s n f).images = s.images := rfl
@[simp] theorem modDie_pkgId (s : State) (n : Nat) (f : DieState → DieState) : (modDie s n f).pkgId = s.pkgId := rfl
@[simp] theorem modDie_clock (s : State) (n : Nat) (f : DieState → DieState) : (modDie s n f).clock = s.clock := rfl
@[simp] theorem modDie_stretched (s : State) (n : Nat) (f : DieState → DieState) : (modDie s n f).stretched = s.stretched := rfl
@[simp] theorem modDie_elapsed (s : State) (n : Nat) (f : DieState → DieState) : (modDie s n f).elapsed = s.elapsed := rfl
@[simp] theorem modDie_trims (s : State) (n : Nat) (f : DieState → DieState) : (modDie s n f).trims = s.trims := rfl
@[simp] theorem modDie_era (s : State) (n : Nat) (f : DieState → DieState) : (modDie s n f).era = s.era := rfl
@[simp] theorem modDie_divLog (s : State) (n : Nat) (f : DieState → DieState) : (modDie s n f).divLog = s.divLog := rfl
@[simp] theorem modDie_bootStep (s : State) (n : Nat) (f : DieState → DieState) : (modDie s n f).bootStep = s.bootStep := rfl
@[simp] theorem modDie_testItem (s : State) (n : Nat) (f : DieState → DieState) : (modDie s n f).testItem = s.testItem := rfl
@[simp] theorem modDie_booted (s : State) (n : Nat) (f : DieState → DieState) : (modDie s n f).booted = s.booted := rfl
@[simp] theorem modDie_measures (s : State) (n : Nat) (f : DieState → DieState) : (modDie s n f).measures = s.measures := rfl
@[simp] theorem modDie_bootCount (s : State) (n : Nat) (f : DieState → DieState) : (modDie s n f).bootCount = s.bootCount := rfl
@[simp] theorem modDie_sealed (s : State) (n : Nat) (f : DieState → DieState) : (modDie s n f).sealed = s.sealed := rfl
@[simp] theorem modDie_sealNext (s : State) (n : Nat) (f : DieState → DieState) : (modDie s n f).sealNext = s.sealNext := rfl
@[simp] theorem modDie_pcap (s : State) (n : Nat) (f : DieState → DieState) : (modDie s n f).pcap = s.pcap := rfl
@[simp] theorem modDie_ilim (s : State) (n : Nat) (f : DieState → DieState) : (modDie s n f).ilim = s.ilim := rfl
@[simp] theorem modDie_brown (s : State) (n : Nat) (f : DieState → DieState) : (modDie s n f).brown = s.brown := rfl
@[simp] theorem modDie_brownFrozen (s : State) (n : Nat) (f : DieState → DieState) : (modDie s n f).brownFrozen = s.brownFrozen := rfl
@[simp] theorem modDie_health (s : State) (n : Nat) (f : DieState → DieState) : (modDie s n f).health = s.health := rfl
@[simp] theorem modDie_readData (s : State) (n : Nat) (f : DieState → DieState) : (modDie s n f).readData = s.readData := rfl
@[simp] theorem modDie_logNext (s : State) (n : Nat) (f : DieState → DieState) : (modDie s n f).logNext = s.logNext := rfl
@[simp] theorem modDie_healthLog (s : State) (n : Nat) (f : DieState → DieState) : (modDie s n f).healthLog = s.healthLog := rfl

@[simp] theorem modTenant_inputs (s : State) (n : Nat) (f : Tenant → Tenant) : (modTenant s n f).inputs = s.inputs := rfl
@[simp] theorem modTenant_phase (s : State) (n : Nat) (f : Tenant → Tenant) : (modTenant s n f).phase = s.phase := rfl
@[simp] theorem modTenant_agenda (s : State) (n : Nat) (f : Tenant → Tenant) : (modTenant s n f).agenda = s.agenda := rfl
@[simp] theorem modTenant_cur (s : State) (n : Nat) (f : Tenant → Tenant) : (modTenant s n f).cur = s.cur := rfl
@[simp] theorem modTenant_slot (s : State) (n : Nat) (f : Tenant → Tenant) : (modTenant s n f).slot = s.slot := rfl
@[simp] theorem modTenant_walker (s : State) (n : Nat) (f : Tenant → Tenant) : (modTenant s n f).walker = s.walker := rfl
@[simp] theorem modTenant_issueFault (s : State) (n : Nat) (f : Tenant → Tenant) : (modTenant s n f).issueFault = s.issueFault := rfl
@[simp] theorem modTenant_refused (s : State) (n : Nat) (f : Tenant → Tenant) : (modTenant s n f).refused = s.refused := rfl
@[simp] theorem modTenant_fresh (s : State) (n : Nat) (f : Tenant → Tenant) : (modTenant s n f).fresh = s.fresh := rfl
@[simp] theorem modTenant_gcc (s : State) (n : Nat) (f : Tenant → Tenant) : (modTenant s n f).gcc = s.gcc := rfl
@[simp] theorem modTenant_ctxs (s : State) (n : Nat) (f : Tenant → Tenant) : (modTenant s n f).ctxs = s.ctxs := rfl
@[simp] theorem modTenant_cores (s : State) (n : Nat) (f : Tenant → Tenant) : (modTenant s n f).cores = s.cores := rfl
@[simp] theorem modTenant_clusters (s : State) (n : Nat) (f : Tenant → Tenant) : (modTenant s n f).clusters = s.clusters := rfl
@[simp] theorem modTenant_diesT (s : State) (n : Nat) (f : Tenant → Tenant) : (modTenant s n f).diesT = s.diesT := rfl
@[simp] theorem modTenant_ports (s : State) (n : Nat) (f : Tenant → Tenant) : (modTenant s n f).ports = s.ports := rfl
@[simp] theorem modTenant_mem (s : State) (n : Nat) (f : Tenant → Tenant) : (modTenant s n f).mem = s.mem := rfl
@[simp] theorem modTenant_written (s : State) (n : Nat) (f : Tenant → Tenant) : (modTenant s n f).written = s.written := rfl
@[simp] theorem modTenant_clouded (s : State) (n : Nat) (f : Tenant → Tenant) : (modTenant s n f).clouded = s.clouded := rfl
@[simp] theorem modTenant_noted (s : State) (n : Nat) (f : Tenant → Tenant) : (modTenant s n f).noted = s.noted := rfl
@[simp] theorem modTenant_marked (s : State) (n : Nat) (f : Tenant → Tenant) : (modTenant s n f).marked = s.marked := rfl
@[simp] theorem modTenant_posts (s : State) (n : Nat) (f : Tenant → Tenant) : (modTenant s n f).posts = s.posts := rfl
@[simp] theorem modTenant_uncommitted (s : State) (n : Nat) (f : Tenant → Tenant) : (modTenant s n f).uncommitted = s.uncommitted := rfl
@[simp] theorem modTenant_atomic (s : State) (n : Nat) (f : Tenant → Tenant) : (modTenant s n f).atomic = s.atomic := rfl
@[simp] theorem modTenant_routes (s : State) (n : Nat) (f : Tenant → Tenant) : (modTenant s n f).routes = s.routes := rfl
@[simp] theorem modTenant_domain (s : State) (n : Nat) (f : Tenant → Tenant) : (modTenant s n f).domain = s.domain := rfl
@[simp] theorem modTenant_packages (s : State) (n : Nat) (f : Tenant → Tenant) : (modTenant s n f).packages = s.packages := rfl
@[simp] theorem modTenant_applied (s : State) (n : Nat) (f : Tenant → Tenant) : (modTenant s n f).applied = s.applied := rfl
@[simp] theorem modTenant_outbound (s : State) (n : Nat) (f : Tenant → Tenant) : (modTenant s n f).outbound = s.outbound := rfl
@[simp] theorem modTenant_awaiting (s : State) (n : Nat) (f : Tenant → Tenant) : (modTenant s n f).awaiting = s.awaiting := rfl
@[simp] theorem modTenant_tags (s : State) (n : Nat) (f : Tenant → Tenant) : (modTenant s n f).tags = s.tags := rfl
@[simp] theorem modTenant_admitNext (s : State) (n : Nat) (f : Tenant → Tenant) : (modTenant s n f).admitNext = s.admitNext := rfl
@[simp] theorem modTenant_turns (s : State) (n : Nat) (f : Tenant → Tenant) : (modTenant s n f).turns = s.turns := rfl
@[simp] theorem modTenant_msixSent (s : State) (n : Nat) (f : Tenant → Tenant) : (modTenant s n f).msixSent = s.msixSent := rfl
@[simp] theorem modTenant_journalOwners (s : State) (n : Nat) (f : Tenant → Tenant) : (modTenant s n f).journalOwners = s.journalOwners := rfl
@[simp] theorem modTenant_saved (s : State) (n : Nat) (f : Tenant → Tenant) : (modTenant s n f).saved = s.saved := rfl
@[simp] theorem modTenant_images (s : State) (n : Nat) (f : Tenant → Tenant) : (modTenant s n f).images = s.images := rfl
@[simp] theorem modTenant_pkgId (s : State) (n : Nat) (f : Tenant → Tenant) : (modTenant s n f).pkgId = s.pkgId := rfl
@[simp] theorem modTenant_clock (s : State) (n : Nat) (f : Tenant → Tenant) : (modTenant s n f).clock = s.clock := rfl
@[simp] theorem modTenant_stretched (s : State) (n : Nat) (f : Tenant → Tenant) : (modTenant s n f).stretched = s.stretched := rfl
@[simp] theorem modTenant_elapsed (s : State) (n : Nat) (f : Tenant → Tenant) : (modTenant s n f).elapsed = s.elapsed := rfl
@[simp] theorem modTenant_trims (s : State) (n : Nat) (f : Tenant → Tenant) : (modTenant s n f).trims = s.trims := rfl
@[simp] theorem modTenant_era (s : State) (n : Nat) (f : Tenant → Tenant) : (modTenant s n f).era = s.era := rfl
@[simp] theorem modTenant_divLog (s : State) (n : Nat) (f : Tenant → Tenant) : (modTenant s n f).divLog = s.divLog := rfl
@[simp] theorem modTenant_bootStep (s : State) (n : Nat) (f : Tenant → Tenant) : (modTenant s n f).bootStep = s.bootStep := rfl
@[simp] theorem modTenant_testItem (s : State) (n : Nat) (f : Tenant → Tenant) : (modTenant s n f).testItem = s.testItem := rfl
@[simp] theorem modTenant_booted (s : State) (n : Nat) (f : Tenant → Tenant) : (modTenant s n f).booted = s.booted := rfl
@[simp] theorem modTenant_measures (s : State) (n : Nat) (f : Tenant → Tenant) : (modTenant s n f).measures = s.measures := rfl
@[simp] theorem modTenant_bootCount (s : State) (n : Nat) (f : Tenant → Tenant) : (modTenant s n f).bootCount = s.bootCount := rfl
@[simp] theorem modTenant_sealed (s : State) (n : Nat) (f : Tenant → Tenant) : (modTenant s n f).sealed = s.sealed := rfl
@[simp] theorem modTenant_sealNext (s : State) (n : Nat) (f : Tenant → Tenant) : (modTenant s n f).sealNext = s.sealNext := rfl
@[simp] theorem modTenant_pcap (s : State) (n : Nat) (f : Tenant → Tenant) : (modTenant s n f).pcap = s.pcap := rfl
@[simp] theorem modTenant_ilim (s : State) (n : Nat) (f : Tenant → Tenant) : (modTenant s n f).ilim = s.ilim := rfl
@[simp] theorem modTenant_brown (s : State) (n : Nat) (f : Tenant → Tenant) : (modTenant s n f).brown = s.brown := rfl
@[simp] theorem modTenant_brownFrozen (s : State) (n : Nat) (f : Tenant → Tenant) : (modTenant s n f).brownFrozen = s.brownFrozen := rfl
@[simp] theorem modTenant_health (s : State) (n : Nat) (f : Tenant → Tenant) : (modTenant s n f).health = s.health := rfl
@[simp] theorem modTenant_readData (s : State) (n : Nat) (f : Tenant → Tenant) : (modTenant s n f).readData = s.readData := rfl
@[simp] theorem modTenant_logNext (s : State) (n : Nat) (f : Tenant → Tenant) : (modTenant s n f).logNext = s.logNext := rfl
@[simp] theorem modTenant_healthLog (s : State) (n : Nat) (f : Tenant → Tenant) : (modTenant s n f).healthLog = s.healthLog := rfl

@[simp] theorem modNode_inputs (s : State) (t n : Nat) (f : Node → Node) : (modNode s t n f).inputs = s.inputs := rfl
@[simp] theorem modNode_phase (s : State) (t n : Nat) (f : Node → Node) : (modNode s t n f).phase = s.phase := rfl
@[simp] theorem modNode_agenda (s : State) (t n : Nat) (f : Node → Node) : (modNode s t n f).agenda = s.agenda := rfl
@[simp] theorem modNode_cur (s : State) (t n : Nat) (f : Node → Node) : (modNode s t n f).cur = s.cur := rfl
@[simp] theorem modNode_slot (s : State) (t n : Nat) (f : Node → Node) : (modNode s t n f).slot = s.slot := rfl
@[simp] theorem modNode_walker (s : State) (t n : Nat) (f : Node → Node) : (modNode s t n f).walker = s.walker := rfl
@[simp] theorem modNode_issueFault (s : State) (t n : Nat) (f : Node → Node) : (modNode s t n f).issueFault = s.issueFault := rfl
@[simp] theorem modNode_refused (s : State) (t n : Nat) (f : Node → Node) : (modNode s t n f).refused = s.refused := rfl
@[simp] theorem modNode_fresh (s : State) (t n : Nat) (f : Node → Node) : (modNode s t n f).fresh = s.fresh := rfl
@[simp] theorem modNode_gcc (s : State) (t n : Nat) (f : Node → Node) : (modNode s t n f).gcc = s.gcc := rfl
@[simp] theorem modNode_ctxs (s : State) (t n : Nat) (f : Node → Node) : (modNode s t n f).ctxs = s.ctxs := rfl
@[simp] theorem modNode_cores (s : State) (t n : Nat) (f : Node → Node) : (modNode s t n f).cores = s.cores := rfl
@[simp] theorem modNode_clusters (s : State) (t n : Nat) (f : Node → Node) : (modNode s t n f).clusters = s.clusters := rfl
@[simp] theorem modNode_diesT (s : State) (t n : Nat) (f : Node → Node) : (modNode s t n f).diesT = s.diesT := rfl
@[simp] theorem modNode_ports (s : State) (t n : Nat) (f : Node → Node) : (modNode s t n f).ports = s.ports := rfl
@[simp] theorem modNode_mem (s : State) (t n : Nat) (f : Node → Node) : (modNode s t n f).mem = s.mem := rfl
@[simp] theorem modNode_written (s : State) (t n : Nat) (f : Node → Node) : (modNode s t n f).written = s.written := rfl
@[simp] theorem modNode_clouded (s : State) (t n : Nat) (f : Node → Node) : (modNode s t n f).clouded = s.clouded := rfl
@[simp] theorem modNode_noted (s : State) (t n : Nat) (f : Node → Node) : (modNode s t n f).noted = s.noted := rfl
@[simp] theorem modNode_marked (s : State) (t n : Nat) (f : Node → Node) : (modNode s t n f).marked = s.marked := rfl
@[simp] theorem modNode_posts (s : State) (t n : Nat) (f : Node → Node) : (modNode s t n f).posts = s.posts := rfl
@[simp] theorem modNode_uncommitted (s : State) (t n : Nat) (f : Node → Node) : (modNode s t n f).uncommitted = s.uncommitted := rfl
@[simp] theorem modNode_atomic (s : State) (t n : Nat) (f : Node → Node) : (modNode s t n f).atomic = s.atomic := rfl
@[simp] theorem modNode_routes (s : State) (t n : Nat) (f : Node → Node) : (modNode s t n f).routes = s.routes := rfl
@[simp] theorem modNode_domain (s : State) (t n : Nat) (f : Node → Node) : (modNode s t n f).domain = s.domain := rfl
@[simp] theorem modNode_packages (s : State) (t n : Nat) (f : Node → Node) : (modNode s t n f).packages = s.packages := rfl
@[simp] theorem modNode_applied (s : State) (t n : Nat) (f : Node → Node) : (modNode s t n f).applied = s.applied := rfl
@[simp] theorem modNode_outbound (s : State) (t n : Nat) (f : Node → Node) : (modNode s t n f).outbound = s.outbound := rfl
@[simp] theorem modNode_awaiting (s : State) (t n : Nat) (f : Node → Node) : (modNode s t n f).awaiting = s.awaiting := rfl
@[simp] theorem modNode_tags (s : State) (t n : Nat) (f : Node → Node) : (modNode s t n f).tags = s.tags := rfl
@[simp] theorem modNode_admitNext (s : State) (t n : Nat) (f : Node → Node) : (modNode s t n f).admitNext = s.admitNext := rfl
@[simp] theorem modNode_turns (s : State) (t n : Nat) (f : Node → Node) : (modNode s t n f).turns = s.turns := rfl
@[simp] theorem modNode_msixSent (s : State) (t n : Nat) (f : Node → Node) : (modNode s t n f).msixSent = s.msixSent := rfl
@[simp] theorem modNode_journalOwners (s : State) (t n : Nat) (f : Node → Node) : (modNode s t n f).journalOwners = s.journalOwners := rfl
@[simp] theorem modNode_saved (s : State) (t n : Nat) (f : Node → Node) : (modNode s t n f).saved = s.saved := rfl
@[simp] theorem modNode_images (s : State) (t n : Nat) (f : Node → Node) : (modNode s t n f).images = s.images := rfl
@[simp] theorem modNode_pkgId (s : State) (t n : Nat) (f : Node → Node) : (modNode s t n f).pkgId = s.pkgId := rfl
@[simp] theorem modNode_clock (s : State) (t n : Nat) (f : Node → Node) : (modNode s t n f).clock = s.clock := rfl
@[simp] theorem modNode_stretched (s : State) (t n : Nat) (f : Node → Node) : (modNode s t n f).stretched = s.stretched := rfl
@[simp] theorem modNode_elapsed (s : State) (t n : Nat) (f : Node → Node) : (modNode s t n f).elapsed = s.elapsed := rfl
@[simp] theorem modNode_trims (s : State) (t n : Nat) (f : Node → Node) : (modNode s t n f).trims = s.trims := rfl
@[simp] theorem modNode_era (s : State) (t n : Nat) (f : Node → Node) : (modNode s t n f).era = s.era := rfl
@[simp] theorem modNode_divLog (s : State) (t n : Nat) (f : Node → Node) : (modNode s t n f).divLog = s.divLog := rfl
@[simp] theorem modNode_bootStep (s : State) (t n : Nat) (f : Node → Node) : (modNode s t n f).bootStep = s.bootStep := rfl
@[simp] theorem modNode_testItem (s : State) (t n : Nat) (f : Node → Node) : (modNode s t n f).testItem = s.testItem := rfl
@[simp] theorem modNode_booted (s : State) (t n : Nat) (f : Node → Node) : (modNode s t n f).booted = s.booted := rfl
@[simp] theorem modNode_measures (s : State) (t n : Nat) (f : Node → Node) : (modNode s t n f).measures = s.measures := rfl
@[simp] theorem modNode_bootCount (s : State) (t n : Nat) (f : Node → Node) : (modNode s t n f).bootCount = s.bootCount := rfl
@[simp] theorem modNode_sealed (s : State) (t n : Nat) (f : Node → Node) : (modNode s t n f).sealed = s.sealed := rfl
@[simp] theorem modNode_sealNext (s : State) (t n : Nat) (f : Node → Node) : (modNode s t n f).sealNext = s.sealNext := rfl
@[simp] theorem modNode_pcap (s : State) (t n : Nat) (f : Node → Node) : (modNode s t n f).pcap = s.pcap := rfl
@[simp] theorem modNode_ilim (s : State) (t n : Nat) (f : Node → Node) : (modNode s t n f).ilim = s.ilim := rfl
@[simp] theorem modNode_brown (s : State) (t n : Nat) (f : Node → Node) : (modNode s t n f).brown = s.brown := rfl
@[simp] theorem modNode_brownFrozen (s : State) (t n : Nat) (f : Node → Node) : (modNode s t n f).brownFrozen = s.brownFrozen := rfl
@[simp] theorem modNode_health (s : State) (t n : Nat) (f : Node → Node) : (modNode s t n f).health = s.health := rfl
@[simp] theorem modNode_readData (s : State) (t n : Nat) (f : Node → Node) : (modNode s t n f).readData = s.readData := rfl
@[simp] theorem modNode_logNext (s : State) (t n : Nat) (f : Node → Node) : (modNode s t n f).logNext = s.logNext := rfl
@[simp] theorem modNode_healthLog (s : State) (t n : Nat) (f : Node → Node) : (modNode s t n f).healthLog = s.healthLog := rfl

@[simp] theorem modPort_inputs (s : State) (n : Nat) (f : Port → Port) : (modPort s n f).inputs = s.inputs := rfl
@[simp] theorem modPort_phase (s : State) (n : Nat) (f : Port → Port) : (modPort s n f).phase = s.phase := rfl
@[simp] theorem modPort_agenda (s : State) (n : Nat) (f : Port → Port) : (modPort s n f).agenda = s.agenda := rfl
@[simp] theorem modPort_cur (s : State) (n : Nat) (f : Port → Port) : (modPort s n f).cur = s.cur := rfl
@[simp] theorem modPort_slot (s : State) (n : Nat) (f : Port → Port) : (modPort s n f).slot = s.slot := rfl
@[simp] theorem modPort_walker (s : State) (n : Nat) (f : Port → Port) : (modPort s n f).walker = s.walker := rfl
@[simp] theorem modPort_issueFault (s : State) (n : Nat) (f : Port → Port) : (modPort s n f).issueFault = s.issueFault := rfl
@[simp] theorem modPort_refused (s : State) (n : Nat) (f : Port → Port) : (modPort s n f).refused = s.refused := rfl
@[simp] theorem modPort_fresh (s : State) (n : Nat) (f : Port → Port) : (modPort s n f).fresh = s.fresh := rfl
@[simp] theorem modPort_gcc (s : State) (n : Nat) (f : Port → Port) : (modPort s n f).gcc = s.gcc := rfl
@[simp] theorem modPort_ctxs (s : State) (n : Nat) (f : Port → Port) : (modPort s n f).ctxs = s.ctxs := rfl
@[simp] theorem modPort_cores (s : State) (n : Nat) (f : Port → Port) : (modPort s n f).cores = s.cores := rfl
@[simp] theorem modPort_clusters (s : State) (n : Nat) (f : Port → Port) : (modPort s n f).clusters = s.clusters := rfl
@[simp] theorem modPort_diesT (s : State) (n : Nat) (f : Port → Port) : (modPort s n f).diesT = s.diesT := rfl
@[simp] theorem modPort_tenants (s : State) (n : Nat) (f : Port → Port) : (modPort s n f).tenants = s.tenants := rfl
@[simp] theorem modPort_mem (s : State) (n : Nat) (f : Port → Port) : (modPort s n f).mem = s.mem := rfl
@[simp] theorem modPort_written (s : State) (n : Nat) (f : Port → Port) : (modPort s n f).written = s.written := rfl
@[simp] theorem modPort_clouded (s : State) (n : Nat) (f : Port → Port) : (modPort s n f).clouded = s.clouded := rfl
@[simp] theorem modPort_noted (s : State) (n : Nat) (f : Port → Port) : (modPort s n f).noted = s.noted := rfl
@[simp] theorem modPort_marked (s : State) (n : Nat) (f : Port → Port) : (modPort s n f).marked = s.marked := rfl
@[simp] theorem modPort_posts (s : State) (n : Nat) (f : Port → Port) : (modPort s n f).posts = s.posts := rfl
@[simp] theorem modPort_uncommitted (s : State) (n : Nat) (f : Port → Port) : (modPort s n f).uncommitted = s.uncommitted := rfl
@[simp] theorem modPort_atomic (s : State) (n : Nat) (f : Port → Port) : (modPort s n f).atomic = s.atomic := rfl
@[simp] theorem modPort_routes (s : State) (n : Nat) (f : Port → Port) : (modPort s n f).routes = s.routes := rfl
@[simp] theorem modPort_domain (s : State) (n : Nat) (f : Port → Port) : (modPort s n f).domain = s.domain := rfl
@[simp] theorem modPort_packages (s : State) (n : Nat) (f : Port → Port) : (modPort s n f).packages = s.packages := rfl
@[simp] theorem modPort_applied (s : State) (n : Nat) (f : Port → Port) : (modPort s n f).applied = s.applied := rfl
@[simp] theorem modPort_outbound (s : State) (n : Nat) (f : Port → Port) : (modPort s n f).outbound = s.outbound := rfl
@[simp] theorem modPort_awaiting (s : State) (n : Nat) (f : Port → Port) : (modPort s n f).awaiting = s.awaiting := rfl
@[simp] theorem modPort_tags (s : State) (n : Nat) (f : Port → Port) : (modPort s n f).tags = s.tags := rfl
@[simp] theorem modPort_admitNext (s : State) (n : Nat) (f : Port → Port) : (modPort s n f).admitNext = s.admitNext := rfl
@[simp] theorem modPort_turns (s : State) (n : Nat) (f : Port → Port) : (modPort s n f).turns = s.turns := rfl
@[simp] theorem modPort_msixSent (s : State) (n : Nat) (f : Port → Port) : (modPort s n f).msixSent = s.msixSent := rfl
@[simp] theorem modPort_journalOwners (s : State) (n : Nat) (f : Port → Port) : (modPort s n f).journalOwners = s.journalOwners := rfl
@[simp] theorem modPort_saved (s : State) (n : Nat) (f : Port → Port) : (modPort s n f).saved = s.saved := rfl
@[simp] theorem modPort_images (s : State) (n : Nat) (f : Port → Port) : (modPort s n f).images = s.images := rfl
@[simp] theorem modPort_pkgId (s : State) (n : Nat) (f : Port → Port) : (modPort s n f).pkgId = s.pkgId := rfl
@[simp] theorem modPort_clock (s : State) (n : Nat) (f : Port → Port) : (modPort s n f).clock = s.clock := rfl
@[simp] theorem modPort_stretched (s : State) (n : Nat) (f : Port → Port) : (modPort s n f).stretched = s.stretched := rfl
@[simp] theorem modPort_elapsed (s : State) (n : Nat) (f : Port → Port) : (modPort s n f).elapsed = s.elapsed := rfl
@[simp] theorem modPort_trims (s : State) (n : Nat) (f : Port → Port) : (modPort s n f).trims = s.trims := rfl
@[simp] theorem modPort_era (s : State) (n : Nat) (f : Port → Port) : (modPort s n f).era = s.era := rfl
@[simp] theorem modPort_divLog (s : State) (n : Nat) (f : Port → Port) : (modPort s n f).divLog = s.divLog := rfl
@[simp] theorem modPort_bootStep (s : State) (n : Nat) (f : Port → Port) : (modPort s n f).bootStep = s.bootStep := rfl
@[simp] theorem modPort_testItem (s : State) (n : Nat) (f : Port → Port) : (modPort s n f).testItem = s.testItem := rfl
@[simp] theorem modPort_booted (s : State) (n : Nat) (f : Port → Port) : (modPort s n f).booted = s.booted := rfl
@[simp] theorem modPort_measures (s : State) (n : Nat) (f : Port → Port) : (modPort s n f).measures = s.measures := rfl
@[simp] theorem modPort_bootCount (s : State) (n : Nat) (f : Port → Port) : (modPort s n f).bootCount = s.bootCount := rfl
@[simp] theorem modPort_sealed (s : State) (n : Nat) (f : Port → Port) : (modPort s n f).sealed = s.sealed := rfl
@[simp] theorem modPort_sealNext (s : State) (n : Nat) (f : Port → Port) : (modPort s n f).sealNext = s.sealNext := rfl
@[simp] theorem modPort_pcap (s : State) (n : Nat) (f : Port → Port) : (modPort s n f).pcap = s.pcap := rfl
@[simp] theorem modPort_ilim (s : State) (n : Nat) (f : Port → Port) : (modPort s n f).ilim = s.ilim := rfl
@[simp] theorem modPort_brown (s : State) (n : Nat) (f : Port → Port) : (modPort s n f).brown = s.brown := rfl
@[simp] theorem modPort_brownFrozen (s : State) (n : Nat) (f : Port → Port) : (modPort s n f).brownFrozen = s.brownFrozen := rfl
@[simp] theorem modPort_health (s : State) (n : Nat) (f : Port → Port) : (modPort s n f).health = s.health := rfl
@[simp] theorem modPort_readData (s : State) (n : Nat) (f : Port → Port) : (modPort s n f).readData = s.readData := rfl
@[simp] theorem modPort_logNext (s : State) (n : Nat) (f : Port → Port) : (modPort s n f).logNext = s.logNext := rfl
@[simp] theorem modPort_healthLog (s : State) (n : Nat) (f : Port → Port) : (modPort s n f).healthLog = s.healthLog := rfl

@[simp] theorem nextFresh_inputs (s : State) (n : Nat) : (nextFresh s n).inputs = s.inputs := rfl
@[simp] theorem nextFresh_phase (s : State) (n : Nat) : (nextFresh s n).phase = s.phase := rfl
@[simp] theorem nextFresh_agenda (s : State) (n : Nat) : (nextFresh s n).agenda = s.agenda := rfl
@[simp] theorem nextFresh_cur (s : State) (n : Nat) : (nextFresh s n).cur = s.cur := rfl
@[simp] theorem nextFresh_slot (s : State) (n : Nat) : (nextFresh s n).slot = s.slot := rfl
@[simp] theorem nextFresh_walker (s : State) (n : Nat) : (nextFresh s n).walker = s.walker := rfl
@[simp] theorem nextFresh_issueFault (s : State) (n : Nat) : (nextFresh s n).issueFault = s.issueFault := rfl
@[simp] theorem nextFresh_refused (s : State) (n : Nat) : (nextFresh s n).refused = s.refused := rfl
@[simp] theorem nextFresh_gcc (s : State) (n : Nat) : (nextFresh s n).gcc = s.gcc := rfl
@[simp] theorem nextFresh_ctxs (s : State) (n : Nat) : (nextFresh s n).ctxs = s.ctxs := rfl
@[simp] theorem nextFresh_cores (s : State) (n : Nat) : (nextFresh s n).cores = s.cores := rfl
@[simp] theorem nextFresh_clusters (s : State) (n : Nat) : (nextFresh s n).clusters = s.clusters := rfl
@[simp] theorem nextFresh_diesT (s : State) (n : Nat) : (nextFresh s n).diesT = s.diesT := rfl
@[simp] theorem nextFresh_tenants (s : State) (n : Nat) : (nextFresh s n).tenants = s.tenants := rfl
@[simp] theorem nextFresh_ports (s : State) (n : Nat) : (nextFresh s n).ports = s.ports := rfl
@[simp] theorem nextFresh_mem (s : State) (n : Nat) : (nextFresh s n).mem = s.mem := rfl
@[simp] theorem nextFresh_written (s : State) (n : Nat) : (nextFresh s n).written = s.written := rfl
@[simp] theorem nextFresh_clouded (s : State) (n : Nat) : (nextFresh s n).clouded = s.clouded := rfl
@[simp] theorem nextFresh_noted (s : State) (n : Nat) : (nextFresh s n).noted = s.noted := rfl
@[simp] theorem nextFresh_marked (s : State) (n : Nat) : (nextFresh s n).marked = s.marked := rfl
@[simp] theorem nextFresh_posts (s : State) (n : Nat) : (nextFresh s n).posts = s.posts := rfl
@[simp] theorem nextFresh_uncommitted (s : State) (n : Nat) : (nextFresh s n).uncommitted = s.uncommitted := rfl
@[simp] theorem nextFresh_atomic (s : State) (n : Nat) : (nextFresh s n).atomic = s.atomic := rfl
@[simp] theorem nextFresh_routes (s : State) (n : Nat) : (nextFresh s n).routes = s.routes := rfl
@[simp] theorem nextFresh_domain (s : State) (n : Nat) : (nextFresh s n).domain = s.domain := rfl
@[simp] theorem nextFresh_packages (s : State) (n : Nat) : (nextFresh s n).packages = s.packages := rfl
@[simp] theorem nextFresh_applied (s : State) (n : Nat) : (nextFresh s n).applied = s.applied := rfl
@[simp] theorem nextFresh_outbound (s : State) (n : Nat) : (nextFresh s n).outbound = s.outbound := rfl
@[simp] theorem nextFresh_awaiting (s : State) (n : Nat) : (nextFresh s n).awaiting = s.awaiting := rfl
@[simp] theorem nextFresh_tags (s : State) (n : Nat) : (nextFresh s n).tags = s.tags := rfl
@[simp] theorem nextFresh_admitNext (s : State) (n : Nat) : (nextFresh s n).admitNext = s.admitNext := rfl
@[simp] theorem nextFresh_turns (s : State) (n : Nat) : (nextFresh s n).turns = s.turns := rfl
@[simp] theorem nextFresh_msixSent (s : State) (n : Nat) : (nextFresh s n).msixSent = s.msixSent := rfl
@[simp] theorem nextFresh_journalOwners (s : State) (n : Nat) : (nextFresh s n).journalOwners = s.journalOwners := rfl
@[simp] theorem nextFresh_saved (s : State) (n : Nat) : (nextFresh s n).saved = s.saved := rfl
@[simp] theorem nextFresh_images (s : State) (n : Nat) : (nextFresh s n).images = s.images := rfl
@[simp] theorem nextFresh_pkgId (s : State) (n : Nat) : (nextFresh s n).pkgId = s.pkgId := rfl
@[simp] theorem nextFresh_clock (s : State) (n : Nat) : (nextFresh s n).clock = s.clock := rfl
@[simp] theorem nextFresh_stretched (s : State) (n : Nat) : (nextFresh s n).stretched = s.stretched := rfl
@[simp] theorem nextFresh_elapsed (s : State) (n : Nat) : (nextFresh s n).elapsed = s.elapsed := rfl
@[simp] theorem nextFresh_trims (s : State) (n : Nat) : (nextFresh s n).trims = s.trims := rfl
@[simp] theorem nextFresh_era (s : State) (n : Nat) : (nextFresh s n).era = s.era := rfl
@[simp] theorem nextFresh_divLog (s : State) (n : Nat) : (nextFresh s n).divLog = s.divLog := rfl
@[simp] theorem nextFresh_bootStep (s : State) (n : Nat) : (nextFresh s n).bootStep = s.bootStep := rfl
@[simp] theorem nextFresh_testItem (s : State) (n : Nat) : (nextFresh s n).testItem = s.testItem := rfl
@[simp] theorem nextFresh_booted (s : State) (n : Nat) : (nextFresh s n).booted = s.booted := rfl
@[simp] theorem nextFresh_measures (s : State) (n : Nat) : (nextFresh s n).measures = s.measures := rfl
@[simp] theorem nextFresh_bootCount (s : State) (n : Nat) : (nextFresh s n).bootCount = s.bootCount := rfl
@[simp] theorem nextFresh_sealed (s : State) (n : Nat) : (nextFresh s n).sealed = s.sealed := rfl
@[simp] theorem nextFresh_sealNext (s : State) (n : Nat) : (nextFresh s n).sealNext = s.sealNext := rfl
@[simp] theorem nextFresh_pcap (s : State) (n : Nat) : (nextFresh s n).pcap = s.pcap := rfl
@[simp] theorem nextFresh_ilim (s : State) (n : Nat) : (nextFresh s n).ilim = s.ilim := rfl
@[simp] theorem nextFresh_brown (s : State) (n : Nat) : (nextFresh s n).brown = s.brown := rfl
@[simp] theorem nextFresh_brownFrozen (s : State) (n : Nat) : (nextFresh s n).brownFrozen = s.brownFrozen := rfl
@[simp] theorem nextFresh_health (s : State) (n : Nat) : (nextFresh s n).health = s.health := rfl
@[simp] theorem nextFresh_readData (s : State) (n : Nat) : (nextFresh s n).readData = s.readData := rfl
@[simp] theorem nextFresh_logNext (s : State) (n : Nat) : (nextFresh s n).logNext = s.logNext := rfl
@[simp] theorem nextFresh_healthLog (s : State) (n : Nat) : (nextFresh s n).healthLog = s.healthLog := rfl

@[simp] theorem modHere_inputs (s : State) (f : Ctx → Ctx) : (modHere s f).inputs = s.inputs := rfl
@[simp] theorem modHere_phase (s : State) (f : Ctx → Ctx) : (modHere s f).phase = s.phase := rfl
@[simp] theorem modHere_agenda (s : State) (f : Ctx → Ctx) : (modHere s f).agenda = s.agenda := rfl
@[simp] theorem modHere_cur (s : State) (f : Ctx → Ctx) : (modHere s f).cur = s.cur := rfl
@[simp] theorem modHere_slot (s : State) (f : Ctx → Ctx) : (modHere s f).slot = s.slot := rfl
@[simp] theorem modHere_walker (s : State) (f : Ctx → Ctx) : (modHere s f).walker = s.walker := rfl
@[simp] theorem modHere_issueFault (s : State) (f : Ctx → Ctx) : (modHere s f).issueFault = s.issueFault := rfl
@[simp] theorem modHere_refused (s : State) (f : Ctx → Ctx) : (modHere s f).refused = s.refused := rfl
@[simp] theorem modHere_fresh (s : State) (f : Ctx → Ctx) : (modHere s f).fresh = s.fresh := rfl
@[simp] theorem modHere_gcc (s : State) (f : Ctx → Ctx) : (modHere s f).gcc = s.gcc := rfl
@[simp] theorem modHere_cores (s : State) (f : Ctx → Ctx) : (modHere s f).cores = s.cores := rfl
@[simp] theorem modHere_clusters (s : State) (f : Ctx → Ctx) : (modHere s f).clusters = s.clusters := rfl
@[simp] theorem modHere_diesT (s : State) (f : Ctx → Ctx) : (modHere s f).diesT = s.diesT := rfl
@[simp] theorem modHere_tenants (s : State) (f : Ctx → Ctx) : (modHere s f).tenants = s.tenants := rfl
@[simp] theorem modHere_ports (s : State) (f : Ctx → Ctx) : (modHere s f).ports = s.ports := rfl
@[simp] theorem modHere_mem (s : State) (f : Ctx → Ctx) : (modHere s f).mem = s.mem := rfl
@[simp] theorem modHere_written (s : State) (f : Ctx → Ctx) : (modHere s f).written = s.written := rfl
@[simp] theorem modHere_clouded (s : State) (f : Ctx → Ctx) : (modHere s f).clouded = s.clouded := rfl
@[simp] theorem modHere_noted (s : State) (f : Ctx → Ctx) : (modHere s f).noted = s.noted := rfl
@[simp] theorem modHere_marked (s : State) (f : Ctx → Ctx) : (modHere s f).marked = s.marked := rfl
@[simp] theorem modHere_posts (s : State) (f : Ctx → Ctx) : (modHere s f).posts = s.posts := rfl
@[simp] theorem modHere_uncommitted (s : State) (f : Ctx → Ctx) : (modHere s f).uncommitted = s.uncommitted := rfl
@[simp] theorem modHere_atomic (s : State) (f : Ctx → Ctx) : (modHere s f).atomic = s.atomic := rfl
@[simp] theorem modHere_routes (s : State) (f : Ctx → Ctx) : (modHere s f).routes = s.routes := rfl
@[simp] theorem modHere_domain (s : State) (f : Ctx → Ctx) : (modHere s f).domain = s.domain := rfl
@[simp] theorem modHere_packages (s : State) (f : Ctx → Ctx) : (modHere s f).packages = s.packages := rfl
@[simp] theorem modHere_applied (s : State) (f : Ctx → Ctx) : (modHere s f).applied = s.applied := rfl
@[simp] theorem modHere_outbound (s : State) (f : Ctx → Ctx) : (modHere s f).outbound = s.outbound := rfl
@[simp] theorem modHere_awaiting (s : State) (f : Ctx → Ctx) : (modHere s f).awaiting = s.awaiting := rfl
@[simp] theorem modHere_tags (s : State) (f : Ctx → Ctx) : (modHere s f).tags = s.tags := rfl
@[simp] theorem modHere_admitNext (s : State) (f : Ctx → Ctx) : (modHere s f).admitNext = s.admitNext := rfl
@[simp] theorem modHere_turns (s : State) (f : Ctx → Ctx) : (modHere s f).turns = s.turns := rfl
@[simp] theorem modHere_msixSent (s : State) (f : Ctx → Ctx) : (modHere s f).msixSent = s.msixSent := rfl
@[simp] theorem modHere_journalOwners (s : State) (f : Ctx → Ctx) : (modHere s f).journalOwners = s.journalOwners := rfl
@[simp] theorem modHere_saved (s : State) (f : Ctx → Ctx) : (modHere s f).saved = s.saved := rfl
@[simp] theorem modHere_images (s : State) (f : Ctx → Ctx) : (modHere s f).images = s.images := rfl
@[simp] theorem modHere_pkgId (s : State) (f : Ctx → Ctx) : (modHere s f).pkgId = s.pkgId := rfl
@[simp] theorem modHere_clock (s : State) (f : Ctx → Ctx) : (modHere s f).clock = s.clock := rfl
@[simp] theorem modHere_stretched (s : State) (f : Ctx → Ctx) : (modHere s f).stretched = s.stretched := rfl
@[simp] theorem modHere_elapsed (s : State) (f : Ctx → Ctx) : (modHere s f).elapsed = s.elapsed := rfl
@[simp] theorem modHere_trims (s : State) (f : Ctx → Ctx) : (modHere s f).trims = s.trims := rfl
@[simp] theorem modHere_era (s : State) (f : Ctx → Ctx) : (modHere s f).era = s.era := rfl
@[simp] theorem modHere_divLog (s : State) (f : Ctx → Ctx) : (modHere s f).divLog = s.divLog := rfl
@[simp] theorem modHere_bootStep (s : State) (f : Ctx → Ctx) : (modHere s f).bootStep = s.bootStep := rfl
@[simp] theorem modHere_testItem (s : State) (f : Ctx → Ctx) : (modHere s f).testItem = s.testItem := rfl
@[simp] theorem modHere_booted (s : State) (f : Ctx → Ctx) : (modHere s f).booted = s.booted := rfl
@[simp] theorem modHere_measures (s : State) (f : Ctx → Ctx) : (modHere s f).measures = s.measures := rfl
@[simp] theorem modHere_bootCount (s : State) (f : Ctx → Ctx) : (modHere s f).bootCount = s.bootCount := rfl
@[simp] theorem modHere_sealed (s : State) (f : Ctx → Ctx) : (modHere s f).sealed = s.sealed := rfl
@[simp] theorem modHere_sealNext (s : State) (f : Ctx → Ctx) : (modHere s f).sealNext = s.sealNext := rfl
@[simp] theorem modHere_pcap (s : State) (f : Ctx → Ctx) : (modHere s f).pcap = s.pcap := rfl
@[simp] theorem modHere_ilim (s : State) (f : Ctx → Ctx) : (modHere s f).ilim = s.ilim := rfl
@[simp] theorem modHere_brown (s : State) (f : Ctx → Ctx) : (modHere s f).brown = s.brown := rfl
@[simp] theorem modHere_brownFrozen (s : State) (f : Ctx → Ctx) : (modHere s f).brownFrozen = s.brownFrozen := rfl
@[simp] theorem modHere_health (s : State) (f : Ctx → Ctx) : (modHere s f).health = s.health := rfl
@[simp] theorem modHere_readData (s : State) (f : Ctx → Ctx) : (modHere s f).readData = s.readData := rfl
@[simp] theorem modHere_logNext (s : State) (f : Ctx → Ctx) : (modHere s f).logNext = s.logNext := rfl
@[simp] theorem modHere_healthLog (s : State) (f : Ctx → Ctx) : (modHere s f).healthLog = s.healthLog := rfl

@[simp] theorem modHereCore_inputs (s : State) (f : CoreState → CoreState) : (modHereCore s f).inputs = s.inputs := rfl
@[simp] theorem modHereCore_phase (s : State) (f : CoreState → CoreState) : (modHereCore s f).phase = s.phase := rfl
@[simp] theorem modHereCore_agenda (s : State) (f : CoreState → CoreState) : (modHereCore s f).agenda = s.agenda := rfl
@[simp] theorem modHereCore_cur (s : State) (f : CoreState → CoreState) : (modHereCore s f).cur = s.cur := rfl
@[simp] theorem modHereCore_slot (s : State) (f : CoreState → CoreState) : (modHereCore s f).slot = s.slot := rfl
@[simp] theorem modHereCore_walker (s : State) (f : CoreState → CoreState) : (modHereCore s f).walker = s.walker := rfl
@[simp] theorem modHereCore_issueFault (s : State) (f : CoreState → CoreState) : (modHereCore s f).issueFault = s.issueFault := rfl
@[simp] theorem modHereCore_refused (s : State) (f : CoreState → CoreState) : (modHereCore s f).refused = s.refused := rfl
@[simp] theorem modHereCore_fresh (s : State) (f : CoreState → CoreState) : (modHereCore s f).fresh = s.fresh := rfl
@[simp] theorem modHereCore_gcc (s : State) (f : CoreState → CoreState) : (modHereCore s f).gcc = s.gcc := rfl
@[simp] theorem modHereCore_ctxs (s : State) (f : CoreState → CoreState) : (modHereCore s f).ctxs = s.ctxs := rfl
@[simp] theorem modHereCore_clusters (s : State) (f : CoreState → CoreState) : (modHereCore s f).clusters = s.clusters := rfl
@[simp] theorem modHereCore_diesT (s : State) (f : CoreState → CoreState) : (modHereCore s f).diesT = s.diesT := rfl
@[simp] theorem modHereCore_tenants (s : State) (f : CoreState → CoreState) : (modHereCore s f).tenants = s.tenants := rfl
@[simp] theorem modHereCore_ports (s : State) (f : CoreState → CoreState) : (modHereCore s f).ports = s.ports := rfl
@[simp] theorem modHereCore_mem (s : State) (f : CoreState → CoreState) : (modHereCore s f).mem = s.mem := rfl
@[simp] theorem modHereCore_written (s : State) (f : CoreState → CoreState) : (modHereCore s f).written = s.written := rfl
@[simp] theorem modHereCore_clouded (s : State) (f : CoreState → CoreState) : (modHereCore s f).clouded = s.clouded := rfl
@[simp] theorem modHereCore_noted (s : State) (f : CoreState → CoreState) : (modHereCore s f).noted = s.noted := rfl
@[simp] theorem modHereCore_marked (s : State) (f : CoreState → CoreState) : (modHereCore s f).marked = s.marked := rfl
@[simp] theorem modHereCore_posts (s : State) (f : CoreState → CoreState) : (modHereCore s f).posts = s.posts := rfl
@[simp] theorem modHereCore_uncommitted (s : State) (f : CoreState → CoreState) : (modHereCore s f).uncommitted = s.uncommitted := rfl
@[simp] theorem modHereCore_atomic (s : State) (f : CoreState → CoreState) : (modHereCore s f).atomic = s.atomic := rfl
@[simp] theorem modHereCore_routes (s : State) (f : CoreState → CoreState) : (modHereCore s f).routes = s.routes := rfl
@[simp] theorem modHereCore_domain (s : State) (f : CoreState → CoreState) : (modHereCore s f).domain = s.domain := rfl
@[simp] theorem modHereCore_packages (s : State) (f : CoreState → CoreState) : (modHereCore s f).packages = s.packages := rfl
@[simp] theorem modHereCore_applied (s : State) (f : CoreState → CoreState) : (modHereCore s f).applied = s.applied := rfl
@[simp] theorem modHereCore_outbound (s : State) (f : CoreState → CoreState) : (modHereCore s f).outbound = s.outbound := rfl
@[simp] theorem modHereCore_awaiting (s : State) (f : CoreState → CoreState) : (modHereCore s f).awaiting = s.awaiting := rfl
@[simp] theorem modHereCore_tags (s : State) (f : CoreState → CoreState) : (modHereCore s f).tags = s.tags := rfl
@[simp] theorem modHereCore_admitNext (s : State) (f : CoreState → CoreState) : (modHereCore s f).admitNext = s.admitNext := rfl
@[simp] theorem modHereCore_turns (s : State) (f : CoreState → CoreState) : (modHereCore s f).turns = s.turns := rfl
@[simp] theorem modHereCore_msixSent (s : State) (f : CoreState → CoreState) : (modHereCore s f).msixSent = s.msixSent := rfl
@[simp] theorem modHereCore_journalOwners (s : State) (f : CoreState → CoreState) : (modHereCore s f).journalOwners = s.journalOwners := rfl
@[simp] theorem modHereCore_saved (s : State) (f : CoreState → CoreState) : (modHereCore s f).saved = s.saved := rfl
@[simp] theorem modHereCore_images (s : State) (f : CoreState → CoreState) : (modHereCore s f).images = s.images := rfl
@[simp] theorem modHereCore_pkgId (s : State) (f : CoreState → CoreState) : (modHereCore s f).pkgId = s.pkgId := rfl
@[simp] theorem modHereCore_clock (s : State) (f : CoreState → CoreState) : (modHereCore s f).clock = s.clock := rfl
@[simp] theorem modHereCore_stretched (s : State) (f : CoreState → CoreState) : (modHereCore s f).stretched = s.stretched := rfl
@[simp] theorem modHereCore_elapsed (s : State) (f : CoreState → CoreState) : (modHereCore s f).elapsed = s.elapsed := rfl
@[simp] theorem modHereCore_trims (s : State) (f : CoreState → CoreState) : (modHereCore s f).trims = s.trims := rfl
@[simp] theorem modHereCore_era (s : State) (f : CoreState → CoreState) : (modHereCore s f).era = s.era := rfl
@[simp] theorem modHereCore_divLog (s : State) (f : CoreState → CoreState) : (modHereCore s f).divLog = s.divLog := rfl
@[simp] theorem modHereCore_bootStep (s : State) (f : CoreState → CoreState) : (modHereCore s f).bootStep = s.bootStep := rfl
@[simp] theorem modHereCore_testItem (s : State) (f : CoreState → CoreState) : (modHereCore s f).testItem = s.testItem := rfl
@[simp] theorem modHereCore_booted (s : State) (f : CoreState → CoreState) : (modHereCore s f).booted = s.booted := rfl
@[simp] theorem modHereCore_measures (s : State) (f : CoreState → CoreState) : (modHereCore s f).measures = s.measures := rfl
@[simp] theorem modHereCore_bootCount (s : State) (f : CoreState → CoreState) : (modHereCore s f).bootCount = s.bootCount := rfl
@[simp] theorem modHereCore_sealed (s : State) (f : CoreState → CoreState) : (modHereCore s f).sealed = s.sealed := rfl
@[simp] theorem modHereCore_sealNext (s : State) (f : CoreState → CoreState) : (modHereCore s f).sealNext = s.sealNext := rfl
@[simp] theorem modHereCore_pcap (s : State) (f : CoreState → CoreState) : (modHereCore s f).pcap = s.pcap := rfl
@[simp] theorem modHereCore_ilim (s : State) (f : CoreState → CoreState) : (modHereCore s f).ilim = s.ilim := rfl
@[simp] theorem modHereCore_brown (s : State) (f : CoreState → CoreState) : (modHereCore s f).brown = s.brown := rfl
@[simp] theorem modHereCore_brownFrozen (s : State) (f : CoreState → CoreState) : (modHereCore s f).brownFrozen = s.brownFrozen := rfl
@[simp] theorem modHereCore_health (s : State) (f : CoreState → CoreState) : (modHereCore s f).health = s.health := rfl
@[simp] theorem modHereCore_readData (s : State) (f : CoreState → CoreState) : (modHereCore s f).readData = s.readData := rfl
@[simp] theorem modHereCore_logNext (s : State) (f : CoreState → CoreState) : (modHereCore s f).logNext = s.logNext := rfl
@[simp] theorem modHereCore_healthLog (s : State) (f : CoreState → CoreState) : (modHereCore s f).healthLog = s.healthLog := rfl

@[simp] theorem flown_inputs (s : State) (l : Nat) (a : Act) (r : List (Nat × Nat × Nat)) : (flown s l a r).inputs = s.inputs := rfl
@[simp] theorem flown_phase (s : State) (l : Nat) (a : Act) (r : List (Nat × Nat × Nat)) : (flown s l a r).phase = s.phase := rfl
@[simp] theorem flown_agenda (s : State) (l : Nat) (a : Act) (r : List (Nat × Nat × Nat)) : (flown s l a r).agenda = s.agenda := rfl
@[simp] theorem flown_cur (s : State) (l : Nat) (a : Act) (r : List (Nat × Nat × Nat)) : (flown s l a r).cur = s.cur := rfl
@[simp] theorem flown_slot (s : State) (l : Nat) (a : Act) (r : List (Nat × Nat × Nat)) : (flown s l a r).slot = s.slot := rfl
@[simp] theorem flown_walker (s : State) (l : Nat) (a : Act) (r : List (Nat × Nat × Nat)) : (flown s l a r).walker = s.walker := rfl
@[simp] theorem flown_issueFault (s : State) (l : Nat) (a : Act) (r : List (Nat × Nat × Nat)) : (flown s l a r).issueFault = s.issueFault := rfl
@[simp] theorem flown_refused (s : State) (l : Nat) (a : Act) (r : List (Nat × Nat × Nat)) : (flown s l a r).refused = s.refused := rfl
@[simp] theorem flown_fresh (s : State) (l : Nat) (a : Act) (r : List (Nat × Nat × Nat)) : (flown s l a r).fresh = s.fresh := rfl
@[simp] theorem flown_gcc (s : State) (l : Nat) (a : Act) (r : List (Nat × Nat × Nat)) : (flown s l a r).gcc = s.gcc := rfl
@[simp] theorem flown_cores (s : State) (l : Nat) (a : Act) (r : List (Nat × Nat × Nat)) : (flown s l a r).cores = s.cores := rfl
@[simp] theorem flown_clusters (s : State) (l : Nat) (a : Act) (r : List (Nat × Nat × Nat)) : (flown s l a r).clusters = s.clusters := rfl
@[simp] theorem flown_diesT (s : State) (l : Nat) (a : Act) (r : List (Nat × Nat × Nat)) : (flown s l a r).diesT = s.diesT := rfl
@[simp] theorem flown_tenants (s : State) (l : Nat) (a : Act) (r : List (Nat × Nat × Nat)) : (flown s l a r).tenants = s.tenants := rfl
@[simp] theorem flown_ports (s : State) (l : Nat) (a : Act) (r : List (Nat × Nat × Nat)) : (flown s l a r).ports = s.ports := rfl
@[simp] theorem flown_mem (s : State) (l : Nat) (a : Act) (r : List (Nat × Nat × Nat)) : (flown s l a r).mem = s.mem := rfl
@[simp] theorem flown_written (s : State) (l : Nat) (a : Act) (r : List (Nat × Nat × Nat)) : (flown s l a r).written = s.written := rfl
@[simp] theorem flown_clouded (s : State) (l : Nat) (a : Act) (r : List (Nat × Nat × Nat)) : (flown s l a r).clouded = s.clouded := rfl
@[simp] theorem flown_noted (s : State) (l : Nat) (a : Act) (r : List (Nat × Nat × Nat)) : (flown s l a r).noted = s.noted := rfl
@[simp] theorem flown_marked (s : State) (l : Nat) (a : Act) (r : List (Nat × Nat × Nat)) : (flown s l a r).marked = s.marked := rfl
@[simp] theorem flown_posts (s : State) (l : Nat) (a : Act) (r : List (Nat × Nat × Nat)) : (flown s l a r).posts = s.posts := rfl
@[simp] theorem flown_uncommitted (s : State) (l : Nat) (a : Act) (r : List (Nat × Nat × Nat)) : (flown s l a r).uncommitted = s.uncommitted := rfl
@[simp] theorem flown_atomic (s : State) (l : Nat) (a : Act) (r : List (Nat × Nat × Nat)) : (flown s l a r).atomic = s.atomic := rfl
@[simp] theorem flown_routes (s : State) (l : Nat) (a : Act) (r : List (Nat × Nat × Nat)) : (flown s l a r).routes = s.routes := rfl
@[simp] theorem flown_domain (s : State) (l : Nat) (a : Act) (r : List (Nat × Nat × Nat)) : (flown s l a r).domain = s.domain := rfl
@[simp] theorem flown_packages (s : State) (l : Nat) (a : Act) (r : List (Nat × Nat × Nat)) : (flown s l a r).packages = s.packages := rfl
@[simp] theorem flown_applied (s : State) (l : Nat) (a : Act) (r : List (Nat × Nat × Nat)) : (flown s l a r).applied = s.applied := rfl
@[simp] theorem flown_outbound (s : State) (l : Nat) (a : Act) (r : List (Nat × Nat × Nat)) : (flown s l a r).outbound = s.outbound := rfl
@[simp] theorem flown_awaiting (s : State) (l : Nat) (a : Act) (r : List (Nat × Nat × Nat)) : (flown s l a r).awaiting = s.awaiting := rfl
@[simp] theorem flown_tags (s : State) (l : Nat) (a : Act) (r : List (Nat × Nat × Nat)) : (flown s l a r).tags = s.tags := rfl
@[simp] theorem flown_admitNext (s : State) (l : Nat) (a : Act) (r : List (Nat × Nat × Nat)) : (flown s l a r).admitNext = s.admitNext := rfl
@[simp] theorem flown_turns (s : State) (l : Nat) (a : Act) (r : List (Nat × Nat × Nat)) : (flown s l a r).turns = s.turns := rfl
@[simp] theorem flown_msixSent (s : State) (l : Nat) (a : Act) (r : List (Nat × Nat × Nat)) : (flown s l a r).msixSent = s.msixSent := rfl
@[simp] theorem flown_journalOwners (s : State) (l : Nat) (a : Act) (r : List (Nat × Nat × Nat)) : (flown s l a r).journalOwners = s.journalOwners := rfl
@[simp] theorem flown_saved (s : State) (l : Nat) (a : Act) (r : List (Nat × Nat × Nat)) : (flown s l a r).saved = s.saved := rfl
@[simp] theorem flown_images (s : State) (l : Nat) (a : Act) (r : List (Nat × Nat × Nat)) : (flown s l a r).images = s.images := rfl
@[simp] theorem flown_pkgId (s : State) (l : Nat) (a : Act) (r : List (Nat × Nat × Nat)) : (flown s l a r).pkgId = s.pkgId := rfl
@[simp] theorem flown_clock (s : State) (l : Nat) (a : Act) (r : List (Nat × Nat × Nat)) : (flown s l a r).clock = s.clock := rfl
@[simp] theorem flown_stretched (s : State) (l : Nat) (a : Act) (r : List (Nat × Nat × Nat)) : (flown s l a r).stretched = s.stretched := rfl
@[simp] theorem flown_elapsed (s : State) (l : Nat) (a : Act) (r : List (Nat × Nat × Nat)) : (flown s l a r).elapsed = s.elapsed := rfl
@[simp] theorem flown_trims (s : State) (l : Nat) (a : Act) (r : List (Nat × Nat × Nat)) : (flown s l a r).trims = s.trims := rfl
@[simp] theorem flown_era (s : State) (l : Nat) (a : Act) (r : List (Nat × Nat × Nat)) : (flown s l a r).era = s.era := rfl
@[simp] theorem flown_divLog (s : State) (l : Nat) (a : Act) (r : List (Nat × Nat × Nat)) : (flown s l a r).divLog = s.divLog := rfl
@[simp] theorem flown_bootStep (s : State) (l : Nat) (a : Act) (r : List (Nat × Nat × Nat)) : (flown s l a r).bootStep = s.bootStep := rfl
@[simp] theorem flown_testItem (s : State) (l : Nat) (a : Act) (r : List (Nat × Nat × Nat)) : (flown s l a r).testItem = s.testItem := rfl
@[simp] theorem flown_booted (s : State) (l : Nat) (a : Act) (r : List (Nat × Nat × Nat)) : (flown s l a r).booted = s.booted := rfl
@[simp] theorem flown_measures (s : State) (l : Nat) (a : Act) (r : List (Nat × Nat × Nat)) : (flown s l a r).measures = s.measures := rfl
@[simp] theorem flown_bootCount (s : State) (l : Nat) (a : Act) (r : List (Nat × Nat × Nat)) : (flown s l a r).bootCount = s.bootCount := rfl
@[simp] theorem flown_sealed (s : State) (l : Nat) (a : Act) (r : List (Nat × Nat × Nat)) : (flown s l a r).sealed = s.sealed := rfl
@[simp] theorem flown_sealNext (s : State) (l : Nat) (a : Act) (r : List (Nat × Nat × Nat)) : (flown s l a r).sealNext = s.sealNext := rfl
@[simp] theorem flown_pcap (s : State) (l : Nat) (a : Act) (r : List (Nat × Nat × Nat)) : (flown s l a r).pcap = s.pcap := rfl
@[simp] theorem flown_ilim (s : State) (l : Nat) (a : Act) (r : List (Nat × Nat × Nat)) : (flown s l a r).ilim = s.ilim := rfl
@[simp] theorem flown_brown (s : State) (l : Nat) (a : Act) (r : List (Nat × Nat × Nat)) : (flown s l a r).brown = s.brown := rfl
@[simp] theorem flown_brownFrozen (s : State) (l : Nat) (a : Act) (r : List (Nat × Nat × Nat)) : (flown s l a r).brownFrozen = s.brownFrozen := rfl
@[simp] theorem flown_health (s : State) (l : Nat) (a : Act) (r : List (Nat × Nat × Nat)) : (flown s l a r).health = s.health := rfl
@[simp] theorem flown_readData (s : State) (l : Nat) (a : Act) (r : List (Nat × Nat × Nat)) : (flown s l a r).readData = s.readData := rfl
@[simp] theorem flown_logNext (s : State) (l : Nat) (a : Act) (r : List (Nat × Nat × Nat)) : (flown s l a r).logNext = s.logNext := rfl
@[simp] theorem flown_healthLog (s : State) (l : Nat) (a : Act) (r : List (Nat × Nat × Nat)) : (flown s l a r).healthLog = s.healthLog := rfl

@[simp] theorem queued_inputs (s : State) (j : Job) (r : Option Result) (o : Bool) (l : List Nat) (p : List Place) : (queued s j r o l p).inputs = s.inputs := rfl
@[simp] theorem queued_phase (s : State) (j : Job) (r : Option Result) (o : Bool) (l : List Nat) (p : List Place) : (queued s j r o l p).phase = s.phase := rfl
@[simp] theorem queued_agenda (s : State) (j : Job) (r : Option Result) (o : Bool) (l : List Nat) (p : List Place) : (queued s j r o l p).agenda = s.agenda := rfl
@[simp] theorem queued_cur (s : State) (j : Job) (r : Option Result) (o : Bool) (l : List Nat) (p : List Place) : (queued s j r o l p).cur = s.cur := rfl
@[simp] theorem queued_slot (s : State) (j : Job) (r : Option Result) (o : Bool) (l : List Nat) (p : List Place) : (queued s j r o l p).slot = s.slot := rfl
@[simp] theorem queued_walker (s : State) (j : Job) (r : Option Result) (o : Bool) (l : List Nat) (p : List Place) : (queued s j r o l p).walker = s.walker := rfl
@[simp] theorem queued_issueFault (s : State) (j : Job) (r : Option Result) (o : Bool) (l : List Nat) (p : List Place) : (queued s j r o l p).issueFault = s.issueFault := rfl
@[simp] theorem queued_refused (s : State) (j : Job) (r : Option Result) (o : Bool) (l : List Nat) (p : List Place) : (queued s j r o l p).refused = s.refused := rfl
@[simp] theorem queued_fresh (s : State) (j : Job) (r : Option Result) (o : Bool) (l : List Nat) (p : List Place) : (queued s j r o l p).fresh = s.fresh := rfl
@[simp] theorem queued_gcc (s : State) (j : Job) (r : Option Result) (o : Bool) (l : List Nat) (p : List Place) : (queued s j r o l p).gcc = s.gcc := rfl
@[simp] theorem queued_cores (s : State) (j : Job) (r : Option Result) (o : Bool) (l : List Nat) (p : List Place) : (queued s j r o l p).cores = s.cores := rfl
@[simp] theorem queued_clusters (s : State) (j : Job) (r : Option Result) (o : Bool) (l : List Nat) (p : List Place) : (queued s j r o l p).clusters = s.clusters := rfl
@[simp] theorem queued_diesT (s : State) (j : Job) (r : Option Result) (o : Bool) (l : List Nat) (p : List Place) : (queued s j r o l p).diesT = s.diesT := rfl
@[simp] theorem queued_tenants (s : State) (j : Job) (r : Option Result) (o : Bool) (l : List Nat) (p : List Place) : (queued s j r o l p).tenants = s.tenants := rfl
@[simp] theorem queued_ports (s : State) (j : Job) (r : Option Result) (o : Bool) (l : List Nat) (p : List Place) : (queued s j r o l p).ports = s.ports := rfl
@[simp] theorem queued_mem (s : State) (j : Job) (r : Option Result) (o : Bool) (l : List Nat) (p : List Place) : (queued s j r o l p).mem = s.mem := rfl
@[simp] theorem queued_written (s : State) (j : Job) (r : Option Result) (o : Bool) (l : List Nat) (p : List Place) : (queued s j r o l p).written = s.written := rfl
@[simp] theorem queued_clouded (s : State) (j : Job) (r : Option Result) (o : Bool) (l : List Nat) (p : List Place) : (queued s j r o l p).clouded = s.clouded := rfl
@[simp] theorem queued_noted (s : State) (j : Job) (r : Option Result) (o : Bool) (l : List Nat) (p : List Place) : (queued s j r o l p).noted = s.noted := rfl
@[simp] theorem queued_marked (s : State) (j : Job) (r : Option Result) (o : Bool) (l : List Nat) (p : List Place) : (queued s j r o l p).marked = s.marked := rfl
@[simp] theorem queued_posts (s : State) (j : Job) (r : Option Result) (o : Bool) (l : List Nat) (p : List Place) : (queued s j r o l p).posts = s.posts := rfl
@[simp] theorem queued_uncommitted (s : State) (j : Job) (r : Option Result) (o : Bool) (l : List Nat) (p : List Place) : (queued s j r o l p).uncommitted = s.uncommitted := rfl
@[simp] theorem queued_atomic (s : State) (j : Job) (r : Option Result) (o : Bool) (l : List Nat) (p : List Place) : (queued s j r o l p).atomic = s.atomic := rfl
@[simp] theorem queued_routes (s : State) (j : Job) (r : Option Result) (o : Bool) (l : List Nat) (p : List Place) : (queued s j r o l p).routes = s.routes := rfl
@[simp] theorem queued_domain (s : State) (j : Job) (r : Option Result) (o : Bool) (l : List Nat) (p : List Place) : (queued s j r o l p).domain = s.domain := rfl
@[simp] theorem queued_packages (s : State) (j : Job) (r : Option Result) (o : Bool) (l : List Nat) (p : List Place) : (queued s j r o l p).packages = s.packages := rfl
@[simp] theorem queued_applied (s : State) (j : Job) (r : Option Result) (o : Bool) (l : List Nat) (p : List Place) : (queued s j r o l p).applied = s.applied := rfl
@[simp] theorem queued_outbound (s : State) (j : Job) (r : Option Result) (o : Bool) (l : List Nat) (p : List Place) : (queued s j r o l p).outbound = s.outbound := rfl
@[simp] theorem queued_awaiting (s : State) (j : Job) (r : Option Result) (o : Bool) (l : List Nat) (p : List Place) : (queued s j r o l p).awaiting = s.awaiting := rfl
@[simp] theorem queued_tags (s : State) (j : Job) (r : Option Result) (o : Bool) (l : List Nat) (p : List Place) : (queued s j r o l p).tags = s.tags := rfl
@[simp] theorem queued_admitNext (s : State) (j : Job) (r : Option Result) (o : Bool) (l : List Nat) (p : List Place) : (queued s j r o l p).admitNext = s.admitNext := rfl
@[simp] theorem queued_turns (s : State) (j : Job) (r : Option Result) (o : Bool) (l : List Nat) (p : List Place) : (queued s j r o l p).turns = s.turns := rfl
@[simp] theorem queued_msixSent (s : State) (j : Job) (r : Option Result) (o : Bool) (l : List Nat) (p : List Place) : (queued s j r o l p).msixSent = s.msixSent := rfl
@[simp] theorem queued_journalOwners (s : State) (j : Job) (r : Option Result) (o : Bool) (l : List Nat) (p : List Place) : (queued s j r o l p).journalOwners = s.journalOwners := rfl
@[simp] theorem queued_saved (s : State) (j : Job) (r : Option Result) (o : Bool) (l : List Nat) (p : List Place) : (queued s j r o l p).saved = s.saved := rfl
@[simp] theorem queued_images (s : State) (j : Job) (r : Option Result) (o : Bool) (l : List Nat) (p : List Place) : (queued s j r o l p).images = s.images := rfl
@[simp] theorem queued_pkgId (s : State) (j : Job) (r : Option Result) (o : Bool) (l : List Nat) (p : List Place) : (queued s j r o l p).pkgId = s.pkgId := rfl
@[simp] theorem queued_clock (s : State) (j : Job) (r : Option Result) (o : Bool) (l : List Nat) (p : List Place) : (queued s j r o l p).clock = s.clock := rfl
@[simp] theorem queued_stretched (s : State) (j : Job) (r : Option Result) (o : Bool) (l : List Nat) (p : List Place) : (queued s j r o l p).stretched = s.stretched := rfl
@[simp] theorem queued_elapsed (s : State) (j : Job) (r : Option Result) (o : Bool) (l : List Nat) (p : List Place) : (queued s j r o l p).elapsed = s.elapsed := rfl
@[simp] theorem queued_trims (s : State) (j : Job) (r : Option Result) (o : Bool) (l : List Nat) (p : List Place) : (queued s j r o l p).trims = s.trims := rfl
@[simp] theorem queued_era (s : State) (j : Job) (r : Option Result) (o : Bool) (l : List Nat) (p : List Place) : (queued s j r o l p).era = s.era := rfl
@[simp] theorem queued_divLog (s : State) (j : Job) (r : Option Result) (o : Bool) (l : List Nat) (p : List Place) : (queued s j r o l p).divLog = s.divLog := rfl
@[simp] theorem queued_bootStep (s : State) (j : Job) (r : Option Result) (o : Bool) (l : List Nat) (p : List Place) : (queued s j r o l p).bootStep = s.bootStep := rfl
@[simp] theorem queued_testItem (s : State) (j : Job) (r : Option Result) (o : Bool) (l : List Nat) (p : List Place) : (queued s j r o l p).testItem = s.testItem := rfl
@[simp] theorem queued_booted (s : State) (j : Job) (r : Option Result) (o : Bool) (l : List Nat) (p : List Place) : (queued s j r o l p).booted = s.booted := rfl
@[simp] theorem queued_measures (s : State) (j : Job) (r : Option Result) (o : Bool) (l : List Nat) (p : List Place) : (queued s j r o l p).measures = s.measures := rfl
@[simp] theorem queued_bootCount (s : State) (j : Job) (r : Option Result) (o : Bool) (l : List Nat) (p : List Place) : (queued s j r o l p).bootCount = s.bootCount := rfl
@[simp] theorem queued_sealed (s : State) (j : Job) (r : Option Result) (o : Bool) (l : List Nat) (p : List Place) : (queued s j r o l p).sealed = s.sealed := rfl
@[simp] theorem queued_sealNext (s : State) (j : Job) (r : Option Result) (o : Bool) (l : List Nat) (p : List Place) : (queued s j r o l p).sealNext = s.sealNext := rfl
@[simp] theorem queued_pcap (s : State) (j : Job) (r : Option Result) (o : Bool) (l : List Nat) (p : List Place) : (queued s j r o l p).pcap = s.pcap := rfl
@[simp] theorem queued_ilim (s : State) (j : Job) (r : Option Result) (o : Bool) (l : List Nat) (p : List Place) : (queued s j r o l p).ilim = s.ilim := rfl
@[simp] theorem queued_brown (s : State) (j : Job) (r : Option Result) (o : Bool) (l : List Nat) (p : List Place) : (queued s j r o l p).brown = s.brown := rfl
@[simp] theorem queued_brownFrozen (s : State) (j : Job) (r : Option Result) (o : Bool) (l : List Nat) (p : List Place) : (queued s j r o l p).brownFrozen = s.brownFrozen := rfl
@[simp] theorem queued_health (s : State) (j : Job) (r : Option Result) (o : Bool) (l : List Nat) (p : List Place) : (queued s j r o l p).health = s.health := rfl
@[simp] theorem queued_readData (s : State) (j : Job) (r : Option Result) (o : Bool) (l : List Nat) (p : List Place) : (queued s j r o l p).readData = s.readData := rfl
@[simp] theorem queued_logNext (s : State) (j : Job) (r : Option Result) (o : Bool) (l : List Nat) (p : List Place) : (queued s j r o l p).logNext = s.logNext := rfl
@[simp] theorem queued_healthLog (s : State) (j : Job) (r : Option Result) (o : Bool) (l : List Nat) (p : List Place) : (queued s j r o l p).healthLog = s.healthLog := rfl

@[simp] theorem addFlight_task (c : Ctx) (d : Nat) (a : Act) (r : List (Nat × Nat × Nat)) : (c.addFlight d a r).task = c.task := rfl
@[simp] theorem addFlight_mode (c : Ctx) (d : Nat) (a : Act) (r : List (Nat × Nat × Nat)) : (c.addFlight d a r).mode = c.mode := rfl
@[simp] theorem addFlight_pc (c : Ctx) (d : Nat) (a : Act) (r : List (Nat × Nat × Nat)) : (c.addFlight d a r).pc = c.pc := rfl
@[simp] theorem addFlight_ttc (c : Ctx) (d : Nat) (a : Act) (r : List (Nat × Nat × Nat)) : (c.addFlight d a r).ttc = c.ttc := rfl
@[simp] theorem addFlight_s (c : Ctx) (d : Nat) (a : Act) (r : List (Nat × Nat × Nat)) : (c.addFlight d a r).s = c.s := rfl
@[simp] theorem addFlight_v (c : Ctx) (d : Nat) (a : Act) (r : List (Nat × Nat × Nat)) : (c.addFlight d a r).v = c.v := rfl
@[simp] theorem addFlight_p (c : Ctx) (d : Nat) (a : Act) (r : List (Nat × Nat × Nat)) : (c.addFlight d a r).p = c.p := rfl
@[simp] theorem addFlight_g (c : Ctx) (d : Nat) (a : Act) (r : List (Nat × Nat × Nat)) : (c.addFlight d a r).g = c.g := rfl
@[simp] theorem addFlight_prec (c : Ctx) (d : Nat) (a : Act) (r : List (Nat × Nat × Nat)) : (c.addFlight d a r).prec = c.prec := rfl
@[simp] theorem addFlight_heapBase (c : Ctx) (d : Nat) (a : Act) (r : List (Nat × Nat × Nat)) : (c.addFlight d a r).heapBase = c.heapBase := rfl
@[simp] theorem addFlight_heapLim (c : Ctx) (d : Nat) (a : Act) (r : List (Nat × Nat × Nat)) : (c.addFlight d a r).heapLim = c.heapLim := rfl
@[simp] theorem addFlight_heapOff (c : Ctx) (d : Nat) (a : Act) (r : List (Nat × Nat × Nat)) : (c.addFlight d a r).heapOff = c.heapOff := rfl
@[simp] theorem addFlight_vmode (c : Ctx) (d : Nat) (a : Act) (r : List (Nat × Nat × Nat)) : (c.addFlight d a r).vmode = c.vmode := rfl
@[simp] theorem addFlight_vflags (c : Ctx) (d : Nat) (a : Act) (r : List (Nat × Nat × Nat)) : (c.addFlight d a r).vflags = c.vflags := rfl
@[simp] theorem addFlight_flagsSeen (c : Ctx) (d : Nat) (a : Act) (r : List (Nat × Nat × Nat)) : (c.addFlight d a r).flagsSeen = c.flagsSeen := rfl
@[simp] theorem addFlight_padm (c : Ctx) (d : Nat) (a : Act) (r : List (Nat × Nat × Nat)) : (c.addFlight d a r).padm = c.padm := rfl
@[simp] theorem addFlight_tvec (c : Ctx) (d : Nat) (a : Act) (r : List (Nat × Nat × Nat)) : (c.addFlight d a r).tvec = c.tvec := rfl
@[simp] theorem addFlight_tcause (c : Ctx) (d : Nat) (a : Act) (r : List (Nat × Nat × Nat)) : (c.addFlight d a r).tcause = c.tcause := rfl
@[simp] theorem addFlight_tpc (c : Ctx) (d : Nat) (a : Act) (r : List (Nat × Nat × Nat)) : (c.addFlight d a r).tpc = c.tpc := rfl
@[simp] theorem addFlight_tval (c : Ctx) (d : Nat) (a : Act) (r : List (Nat × Nat × Nat)) : (c.addFlight d a r).tval = c.tval := rfl
@[simp] theorem addFlight_tframe (c : Ctx) (d : Nat) (a : Act) (r : List (Nat × Nat × Nat)) : (c.addFlight d a r).tframe = c.tframe := rfl
@[simp] theorem addFlight_tstate (c : Ctx) (d : Nat) (a : Act) (r : List (Nat × Nat × Nat)) : (c.addFlight d a r).tstate = c.tstate := rfl
@[simp] theorem addFlight_trtgt (c : Ctx) (d : Nat) (a : Act) (r : List (Nat × Nat × Nat)) : (c.addFlight d a r).trtgt = c.trtgt := rfl
@[simp] theorem addFlight_trttc (c : Ctx) (d : Nat) (a : Act) (r : List (Nat × Nat × Nat)) : (c.addFlight d a r).trttc = c.trttc := rfl
@[simp] theorem addFlight_winlog (c : Ctx) (d : Nat) (a : Act) (r : List (Nat × Nat × Nat)) : (c.addFlight d a r).winlog = c.winlog := rfl
@[simp] theorem addFlight_lc (c : Ctx) (d : Nat) (a : Act) (r : List (Nat × Nat × Nat)) : (c.addFlight d a r).lc = c.lc := rfl
@[simp] theorem addFlight_sp (c : Ctx) (d : Nat) (a : Act) (r : List (Nat × Nat × Nat)) : (c.addFlight d a r).sp = c.sp := rfl
@[simp] theorem addFlight_mask (c : Ctx) (d : Nat) (a : Act) (r : List (Nat × Nat × Nat)) : (c.addFlight d a r).mask = c.mask := rfl
@[simp] theorem addFlight_hstat (c : Ctx) (d : Nat) (a : Act) (r : List (Nat × Nat × Nat)) : (c.addFlight d a r).hstat = c.hstat := rfl
@[simp] theorem addFlight_loops (c : Ctx) (d : Nat) (a : Act) (r : List (Nat × Nat × Nat)) : (c.addFlight d a r).loops = c.loops := rfl
@[simp] theorem addFlight_redirect (c : Ctx) (d : Nat) (a : Act) (r : List (Nat × Nat × Nat)) : (c.addFlight d a r).redirect = c.redirect := rfl
@[simp] theorem addFlight_heldPops (c : Ctx) (d : Nat) (a : Act) (r : List (Nat × Nat × Nat)) : (c.addFlight d a r).heldPops = c.heldPops := rfl
@[simp] theorem addFlight_branch (c : Ctx) (d : Nat) (a : Act) (r : List (Nat × Nat × Nat)) : (c.addFlight d a r).branch = c.branch := rfl
@[simp] theorem addFlight_skip (c : Ctx) (d : Nat) (a : Act) (r : List (Nat × Nat × Nat)) : (c.addFlight d a r).skip = c.skip := rfl
@[simp] theorem addFlight_maskNext (c : Ctx) (d : Nat) (a : Act) (r : List (Nat × Nat × Nat)) : (c.addFlight d a r).maskNext = c.maskNext := rfl
@[simp] theorem addFlight_loopState (c : Ctx) (d : Nat) (a : Act) (r : List (Nat × Nat × Nat)) : (c.addFlight d a r).loopState = c.loopState := rfl
@[simp] theorem addFlight_idle (c : Ctx) (d : Nat) (a : Act) (r : List (Nat × Nat × Nat)) : (c.addFlight d a r).idle = c.idle := rfl
@[simp] theorem addFlight_wait (c : Ctx) (d : Nat) (a : Act) (r : List (Nat × Nat × Nat)) : (c.addFlight d a r).wait = c.wait := rfl
@[simp] theorem addFlight_heldWait (c : Ctx) (d : Nat) (a : Act) (r : List (Nat × Nat × Nat)) : (c.addFlight d a r).heldWait = c.heldWait := rfl
@[simp] theorem addFlight_halted (c : Ctx) (d : Nat) (a : Act) (r : List (Nat × Nat × Nat)) : (c.addFlight d a r).halted = c.halted := rfl
@[simp] theorem addFlight_resume (c : Ctx) (d : Nat) (a : Act) (r : List (Nat × Nat × Nat)) : (c.addFlight d a r).resume = c.resume := rfl
@[simp] theorem addFlight_seqMark (c : Ctx) (d : Nat) (a : Act) (r : List (Nat × Nat × Nat)) : (c.addFlight d a r).seqMark = c.seqMark := rfl
@[simp] theorem addFlight_untimed (c : Ctx) (d : Nat) (a : Act) (r : List (Nat × Nat × Nat)) : (c.addFlight d a r).untimed = c.untimed := rfl
@[simp] theorem addFlight_snap (c : Ctx) (d : Nat) (a : Act) (r : List (Nat × Nat × Nat)) : (c.addFlight d a r).snap = c.snap := rfl
@[simp] theorem addFlight_snapU (c : Ctx) (d : Nat) (a : Act) (r : List (Nat × Nat × Nat)) : (c.addFlight d a r).snapU = c.snapU := rfl
@[simp] theorem addFlight_frameGcc (c : Ctx) (d : Nat) (a : Act) (r : List (Nat × Nat × Nat)) : (c.addFlight d a r).frameGcc = c.frameGcc := rfl
@[simp] theorem addFlight_frameAt (c : Ctx) (d : Nat) (a : Act) (r : List (Nat × Nat × Nat)) : (c.addFlight d a r).frameAt = c.frameAt := rfl
@[simp] theorem addFlight_frameOrder (c : Ctx) (d : Nat) (a : Act) (r : List (Nat × Nat × Nat)) : (c.addFlight d a r).frameOrder = c.frameOrder := rfl
@[simp] theorem addFlight_causes (c : Ctx) (d : Nat) (a : Act) (r : List (Nat × Nat × Nat)) : (c.addFlight d a r).causes = c.causes := rfl
@[simp] theorem addFlight_heldCauses (c : Ctx) (d : Nat) (a : Act) (r : List (Nat × Nat × Nat)) : (c.addFlight d a r).heldCauses = c.heldCauses := rfl
@[simp] theorem addFlight_irq (c : Ctx) (d : Nat) (a : Act) (r : List (Nat × Nat × Nat)) : (c.addFlight d a r).irq = c.irq := rfl
@[simp] theorem addFlight_group (c : Ctx) (d : Nat) (a : Act) (r : List (Nat × Nat × Nat)) : (c.addFlight d a r).group = c.group := rfl
@[simp] theorem addFlight_freeze (c : Ctx) (d : Nat) (a : Act) (r : List (Nat × Nat × Nat)) : (c.addFlight d a r).freeze = c.freeze := rfl
@[simp] theorem addFlight_preAt (c : Ctx) (d : Nat) (a : Act) (r : List (Nat × Nat × Nat)) : (c.addFlight d a r).preAt = c.preAt := rfl
@[simp] theorem addFlight_readyAt (c : Ctx) (d : Nat) (a : Act) (r : List (Nat × Nat × Nat)) : (c.addFlight d a r).readyAt = c.readyAt := rfl
@[simp] theorem addFlight_promoted (c : Ctx) (d : Nat) (a : Act) (r : List (Nat × Nat × Nat)) : (c.addFlight d a r).promoted = c.promoted := rfl
@[simp] theorem addFlight_started (c : Ctx) (d : Nat) (a : Act) (r : List (Nat × Nat × Nat)) : (c.addFlight d a r).started = c.started := rfl
@[simp] theorem addFlight_ran (c : Ctx) (d : Nat) (a : Act) (r : List (Nat × Nat × Nat)) : (c.addFlight d a r).ran = c.ran := rfl
@[simp] theorem addFlight_lastPersist (c : Ctx) (d : Nat) (a : Act) (r : List (Nat × Nat × Nat)) : (c.addFlight d a r).lastPersist = c.lastPersist := rfl
@[simp] theorem addFlight_missing (c : Ctx) (d : Nat) (a : Act) (r : List (Nat × Nat × Nat)) : (c.addFlight d a r).missing = c.missing := rfl

@[simp] theorem addFlight_seq (c : Ctx) (d : Nat) (a : Act) (r : List (Nat × Nat × Nat)) : (c.addFlight d a r).seq = c.seq + 1 := rfl
@[simp] theorem addFlight_flights (c : Ctx) (d : Nat) (a : Act) (r : List (Nat × Nat × Nat)) :
    (c.addFlight d a r).flights = c.flights ++ [⟨c.seq, d, a, r⟩] := rfl
@[simp] theorem nextFresh_fresh (s : State) (n : Nat) : (nextFresh s n).fresh = s.fresh + n := rfl

end Sys2Proof.Machine
end

