-- ==== Sys2Proof/Laws/Ops.lean ====
section
/-! SUPPORT. What each shared operation can do, said once: tables, parts of the state by number, registers, and the outcome of
an operation at issue. -/

namespace Sys2Proof.Machine

/-! ### Tables -/

@[simp] theorem get_put {α : Type} (t : Table α) (k j : Nat) (v d : α) :
    Table.get (Table.put t k v) j d = if j = k then v else Table.get t j d := by
  induction t with
  | nil => simp [Table.put, Table.get]
  | cons h r ih =>
    obtain ⟨k', v'⟩ := h
    simp only [Table.put]
    split
    · subst_vars
      simp only [Table.get]
      split <;> simp_all
    · split
      · simp [Table.get]
      · simp only [Table.get, ih]
        split <;> split <;> simp_all

theorem get_of_mem {α : Type} {t : Table α} {k : Nat} {d : α} : Table.get t k d = d ∨ (k, Table.get t k d) ∈ t := by
  induction t with
  | nil => exact .inl rfl
  | cons h r ih =>
    obtain ⟨k', v'⟩ := h
    by_cases hk : k = k'
    · subst hk
      simp [Table.get]
    · rcases ih with h | h
      · exact .inl (by simp [Table.get, hk, h])
      · exact .inr (by simp [Table.get, hk, h])

theorem get_map {α : Type} (t : Table α) (f : α → α) (k : Nat) (d : α) :
    Table.get (t.map (fun p => (p.1, f p.2))) k d =
      if t.any (fun p => p.1 == k) then f (Table.get t k d) else d := by
  induction t with
  | nil => simp [Table.get]
  | cons h r ih =>
    obtain ⟨k', v'⟩ := h
    by_cases hk : k = k'
    · simp [Table.get, hk]
    · have : (k' == k) = false := by simp; omega
      simp only [List.map_cons, Table.get, hk, if_false, ih, List.any_cons, this, Bool.false_or]

/-! ### Parts by number -/

@[simp] theorem ctxOf_setCtx (s : State) (k j : Nat) (c : Ctx) : ctxOf (setCtx s k c) j = if j = k then c else ctxOf s j := by
  simp [ctxOf, setCtx]
@[simp] theorem ctxOf_modCtx (s : State) (k j : Nat) (f : Ctx → Ctx) :
    ctxOf (modCtx s k f) j = if j = k then f (ctxOf s k) else ctxOf s j := by simp [modCtx]
@[simp] theorem ctxOf_modHere (s : State) (j : Nat) (f : Ctx → Ctx) :
    ctxOf (modHere s f) j = if j = s.cur then f (here s) else ctxOf s j := by simp [modHere, here]
@[simp] theorem ctxOf_setCore (s : State) (n j : Nat) (c : CoreState) : ctxOf (setCore s n c) j = ctxOf s j := rfl
@[simp] theorem ctxOf_modCore (s : State) (n j : Nat) (f : CoreState → CoreState) : ctxOf (modCore s n f) j = ctxOf s j := rfl
@[simp] theorem ctxOf_modHereCore (s : State) (j : Nat) (f : CoreState → CoreState) : ctxOf (modHereCore s f) j = ctxOf s j := rfl
@[simp] theorem ctxOf_modCluster (s : State) (n j : Nat) (f : ClusterState → ClusterState) :
    ctxOf (modCluster s n f) j = ctxOf s j := rfl
@[simp] theorem ctxOf_modDie (s : State) (n j : Nat) (f : DieState → DieState) : ctxOf (modDie s n f) j = ctxOf s j := rfl
@[simp] theorem ctxOf_modTenant (s : State) (n j : Nat) (f : Tenant → Tenant) : ctxOf (modTenant s n f) j = ctxOf s j := rfl
@[simp] theorem ctxOf_modNode (s : State) (t n j : Nat) (f : Node → Node) : ctxOf (modNode s t n f) j = ctxOf s j := rfl
@[simp] theorem ctxOf_modPort (s : State) (n j : Nat) (f : Port → Port) : ctxOf (modPort s n f) j = ctxOf s j := rfl
@[simp] theorem ctxOf_nextFresh (s : State) (n j : Nat) : ctxOf (nextFresh s n) j = ctxOf s j := rfl

@[simp] theorem coreOf_setCore (s : State) (n j : Nat) (c : CoreState) :
    coreOf (setCore s n c) j = if j = n then c else coreOf s j := by simp [coreOf, setCore]
@[simp] theorem coreOf_modCore (s : State) (n j : Nat) (f : CoreState → CoreState) :
    coreOf (modCore s n f) j = if j = n then f (coreOf s n) else coreOf s j := by simp [modCore]
@[simp] theorem coreOf_modHereCore (s : State) (j : Nat) (f : CoreState → CoreState) :
    coreOf (modHereCore s f) j = if j = coreIx s.cur then f (hereCore s) else coreOf s j := by simp [modHereCore, hereCore]
@[simp] theorem coreOf_setCtx (s : State) (k j : Nat) (c : Ctx) : coreOf (setCtx s k c) j = coreOf s j := rfl
@[simp] theorem coreOf_modCtx (s : State) (k j : Nat) (f : Ctx → Ctx) : coreOf (modCtx s k f) j = coreOf s j := rfl
@[simp] theorem coreOf_modHere (s : State) (j : Nat) (f : Ctx → Ctx) : coreOf (modHere s f) j = coreOf s j := rfl
@[simp] theorem coreOf_modCluster (s : State) (n j : Nat) (f : ClusterState → ClusterState) :
    coreOf (modCluster s n f) j = coreOf s j := rfl
@[simp] theorem coreOf_modDie (s : State) (n j : Nat) (f : DieState → DieState) : coreOf (modDie s n f) j = coreOf s j := rfl
@[simp] theorem coreOf_modTenant (s : State) (n j : Nat) (f : Tenant → Tenant) : coreOf (modTenant s n f) j = coreOf s j := rfl
@[simp] theorem coreOf_modNode (s : State) (t n j : Nat) (f : Node → Node) : coreOf (modNode s t n f) j = coreOf s j := rfl
@[simp] theorem coreOf_nextFresh (s : State) (n j : Nat) : coreOf (nextFresh s n) j = coreOf s j := rfl

@[simp] theorem clusterOf_modCluster (s : State) (n j : Nat) (f : ClusterState → ClusterState) :
    clusterOf (modCluster s n f) j = if j = n then f (clusterOf s n) else clusterOf s j := by simp [clusterOf, modCluster]
@[simp] theorem clusterOf_modCtx (s : State) (k j : Nat) (f : Ctx → Ctx) : clusterOf (modCtx s k f) j = clusterOf s j := rfl
@[simp] theorem clusterOf_modCore (s : State) (n j : Nat) (f : CoreState → CoreState) :
    clusterOf (modCore s n f) j = clusterOf s j := rfl
@[simp] theorem dieOf_modDie (s : State) (n j : Nat) (f : DieState → DieState) :
    dieOf (modDie s n f) j = if j = n then f (dieOf s n) else dieOf s j := by simp [dieOf, modDie]
@[simp] theorem tenantOf_modTenant (s : State) (n j : Nat) (f : Tenant → Tenant) :
    tenantOf (modTenant s n f) j = if j = n then f (tenantOf s n) else tenantOf s j := by simp [tenantOf, modTenant]
@[simp] theorem tenantOf_modCtx (s : State) (k j : Nat) (f : Ctx → Ctx) : tenantOf (modCtx s k f) j = tenantOf s j := rfl
@[simp] theorem tenantOf_modCore (s : State) (n j : Nat) (f : CoreState → CoreState) :
    tenantOf (modCore s n f) j = tenantOf s j := rfl
@[simp] theorem portOf_modPort (s : State) (n j : Nat) (f : Port → Port) :
    portOf (modPort s n f) j = if j = n then f (portOf s n) else portOf s j := by simp [portOf, modPort]
@[simp] theorem nodeOf_modNode (s : State) (t n u j : Nat) (f : Node → Node) :
    nodeOf (modNode s t n f) u j = if u = t ∧ j = n then f (nodeOf s t n) else nodeOf s u j := by
  by_cases hu : u = t
  · subst hu
    by_cases hj : j = n <;> simp [nodeOf, modNode, hj]
  · simp [nodeOf, modNode, hu]

@[simp] theorem here_modHere (s : State) (f : Ctx → Ctx) : here (modHere s f) = f (here s) := by simp [here, modHere]
@[simp] theorem here_modHereCore (s : State) (f : CoreState → CoreState) : here (modHereCore s f) = here s := rfl
@[simp] theorem here_nextFresh (s : State) (n : Nat) : here (nextFresh s n) = here s := rfl
@[simp] theorem hereCore_modHere (s : State) (f : Ctx → Ctx) : hereCore (modHere s f) = hereCore s := rfl
@[simp] theorem hereCore_modHereCore (s : State) (f : CoreState → CoreState) :
    hereCore (modHereCore s f) = f (hereCore s) := by simp [hereCore]
@[simp] theorem here_flown (s : State) (l : Nat) (a : Act) (r : List (Nat × Nat × Nat)) :
    here (flown s l a r) = (here s).addFlight ((here s).ttc + l) a r := by simp [flown]
@[simp] theorem here_reserve (s : State) (l : List Interval) : here (reserve s l) = here s := rfl
@[simp] theorem fly_eq (s : State) (l : Nat) (a : Act) : fly s l a = flown s l a [] := rfl

/-! ### Registers -/

@[simp] theorem readS_zero (c : Ctx) : c.readS 0 = 0 := rfl
@[simp] theorem readP_zero (c : Ctx) : c.readP 0 = BitVec.allOnes 128 := rfl

@[simp] theorem readS_writeS (c : Ctx) (r q : SReg) (x : W64) :
    (c.writeReg (.s r x)).readS q = if q = r ∧ q ≠ 0 then x else c.readS q := by
  by_cases hr : r = 0
  · subst hr
    by_cases hq : q = 0 <;> simp [Ctx.writeReg, Ctx.readS, hq]
  · by_cases hq : q = 0
    · simp [Ctx.readS, hq]
    · by_cases he : q = r
      · subst he
        simp [Ctx.writeReg, Ctx.readS, hq]
      · have : r.val ≠ q.val := fun h => he (Fin.ext h.symm)
        simp [Ctx.writeReg, Ctx.readS, hr, hq, he, this]

@[simp] theorem readP_writeP (c : Ctx) (r q : PReg) (x : PWord) :
    (c.writeReg (.p r x)).readP q = if q = r ∧ q ≠ 0 then x else c.readP q := by
  by_cases hr : r = 0
  · subst hr
    by_cases hq : q = 0 <;> simp [Ctx.writeReg, Ctx.readP, hq]
  · by_cases hq : q = 0
    · simp [Ctx.readP, hq]
    · by_cases he : q = r
      · subst he
        simp [Ctx.writeReg, Ctx.readP, hq]
      · have : r.val ≠ q.val := fun h => he (Fin.ext h.symm)
        simp [Ctx.writeReg, Ctx.readP, hr, hq, he, this]

@[simp] theorem readV_writeV (c : Ctx) (r q : VReg) (m x : VWord) :
    (c.writeReg (.v r m x)).readV q = if q = r then (c.readV r &&& ~~~m) ||| (x &&& m) else c.readV q := by
  by_cases he : q = r
  · subst he
    simp [Ctx.writeReg, Ctx.readV]
  · have : r.val ≠ q.val := fun h => he (Fin.ext h.symm)
    simp [Ctx.writeReg, Ctx.readV, he, this]

@[simp] theorem readG_writeG (c : Ctx) (r q : GReg) (m x : GWord) :
    (c.writeReg (.g r m x)).readG q = if q = r then (c.readG r &&& ~~~m) ||| (x &&& m) else c.readG q := by
  by_cases he : q = r
  · subst he
    simp [Ctx.writeReg, Ctx.readG]
  · have : r.val ≠ q.val := fun h => he (Fin.ext h.symm)
    simp [Ctx.writeReg, Ctx.readG, he, this]

/-! ### The outcome of an operation at issue -/

/-- An operation of a slot always answers a next state. -/
theorem finish_next (s : State) (r : Issue) : ∃ t, finish s r = .next t := by
  cases r
  · exact ⟨_, rfl⟩
  · exact ⟨_, rfl⟩

@[simp] theorem finish_ok (s t : State) : finish s (.ok t) = .next t := rfl
@[simp] theorem finish_trap (s : State) (c : Nat) (v : Option W64) : finish s (.trap c v) = .next (raiseAtIssue s c v) := rfl
@[simp] theorem andThen_ok (s : State) (f : State → Issue) : (Issue.ok s).andThen f = f s := rfl
@[simp] theorem andThen_trap (c : Nat) (v : Option W64) (f : State → Issue) : (Issue.trap c v).andThen f = .trap c v := rfl
@[simp] theorem unless_false (r : Issue) (c : Nat) (v : Option W64) : r.unless false c v = r := rfl
@[simp] theorem ok_unless_true (s : State) (c : Nat) (v : Option W64) : (Issue.ok s).unless true c v = .trap c v := rfl

/-- A further check passes exactly where it finds nothing. -/
theorem unless_ok {r : Issue} {bad : Bool} {c : Nat} {v : Option W64} {t : State} :
    r.unless bad c v = .ok t ↔ r = .ok t ∧ bad = false := by
  cases bad <;> cases r <;> simp [Issue.unless]
  split <;> simp

@[simp] theorem guardIssue_true (s : State) (c : Nat) (v : Option W64) : guardIssue s true c v = .ok s := rfl
@[simp] theorem guardIssue_false (s : State) (c : Nat) (v : Option W64) : guardIssue s false c v = .trap c v := rfl

theorem withSlot_free {s : State} (h : slotFree s = true) (f : State → Issue) : withSlot s f = f s := by simp [withSlot, h]
theorem withSlot_busy {s : State} (h : slotFree s = false) (f : State → Issue) :
    withSlot s f = .trap 0x03 (some (BitVec.ofNat 64 s.slot.code)) := by simp [withSlot, h]

theorem timedAt_ok {s : State} {a : BitVec 16} (h : (here s).ttc ≤ a.toNat) (f : State → Issue) : timedAt s a f = f s := by
  have : decide (a.toNat < (here s).ttc) = false := by simpa using h
  simp [timedAt, this]

/-- Where a register effect goes: it is put in flight where no other result of its register lands in the same cycle, and
otherwise raises a write collision (R102). -/
theorem flyTo_ok {s : State} {d : Option (Nat × Nat)} {lat reg : Nat} {act : Act}
    (h : d.all (fun d => !(here s).collides d.1 d.2 ((here s).ttc + reg)) = true) :
    flyTo s d lat reg act = .ok (flown s lat act (d.toList.map (fun d => (d.1, d.2, (here s).ttc + reg)))) := by
  cases d with
  | none => rfl
  | some d =>
    have hc : (here s).collides d.1 d.2 ((here s).ttc + reg) = false := by simpa using h
    simp only [flyTo, hc]
    rfl

theorem flyTo_collides {s : State} {file index lat reg : Nat} {act : Act}
    (h : (here s).collides file index ((here s).ttc + reg) = true) :
    flyTo s (some (file, index)) lat reg act = .trap 0x0A (some (collisionVal file index)) := by simp [flyTo, h]

theorem resultF_ok {s : State} {lat : Nat} {w : RegWrite} {fl : Flags} {sh : Option (Nat × Ty)}
    (h : noCollision s lat w = true) : resultF s lat w fl sh = .ok (scheduled s lat w fl sh) := flyTo_ok h

theorem result_ok {s : State} {lat : Nat} {w : RegWrite} (h : noCollision s lat w = true) :
    result s lat w = .ok (scheduled s lat w 0 none) := flyTo_ok h

/-- Whether a result collides does not depend on its value. -/
theorem noCollision_dest {s : State} {lat : Nat} {w x : RegWrite} (h : regDest w = regDest x) :
    noCollision s lat w = noCollision s lat x := by simp [noCollision, h]

/-- An operation that reads registers and schedules one result (R163, R164). -/
theorem lands_next {s : State} {lat : Nat} {w x : RegWrite} (h : Lands s lat x) (hd : regDest w = regDest x) :
    finish s (withSlot s (fun s => result s lat w)) = .next (scheduled s lat w 0 none) := by
  rw [withSlot_free h.1, result_ok (by rw [noCollision_dest hd]; exact h.2)]
  rfl

theorem issueUntimed_ok {s : State} {j : Job} {r : Option Result} {o : Bool} {l : List Nat} {p : List Place}
    (h : resultRoom s r = true) : issueUntimed s j r o l p = .ok (queued s j r o l p) := by
  have : (r.isSome && decide (16 ≤ (here s).resultCount)) = false := by
    simp only [resultRoom, Bool.or_eq_true, Bool.not_eq_true', decide_eq_true_eq] at h
    rcases h with h | h
    · simp [h]
    · simp
      intro _
      omega
  unfold issueUntimed
  rw [this]
  rfl

/-- An operation that needs no result-buffer entry always joins the untimed work. -/
theorem issueUntimed_none (s : State) (j : Job) (o : Bool) (l : List Nat) (p : List Place) :
    issueUntimed s j none o l p = .ok (queued s j none o l p) := issueUntimed_ok rfl

theorem commandRead_ok {s : State} {off len al : Nat} (h : portReadable s off len al = true) (f : Memory → Issue) :
    commandRead s off len al f = f (bufPrior s s.cur .dm off len) := by
  simp only [portReadable, noPending, Bool.and_eq_true, beq_iff_eq, Option.isNone_iff_eq_none] at h
  obtain ⟨⟨⟨h1, h2⟩, h3⟩, h4⟩ := h
  simp [commandRead, checkPort, Issue.andThen, h1, h2, h3, h4]

/-! ### Slots and scalar operations (R164) -/

@[simp] theorem here_occupy_ttc (s : State) (n : Nat) : (here (occupy s n)).ttc = (here s).ttc := by
  unfold occupy
  split <;> simp

theorem collides_occupy (s : State) (n a b c : Nat) : (here (occupy s n)).collides a b c = (here s).collides a b c := by
  unfold occupy
  split <;> simp [Ctx.collides]

theorem scalarOp_next {s : State} {lat occ : Nat} {d : SReg} {x : W64} (h : Lands s lat (.s d x)) :
    scalarOp lat occ d x s = .next (scheduled (occupy s occ) lat (.s d x) 0 none) := by
  have hc : noCollision (occupy s occ) lat (.s d x) = true := by
    simpa [noCollision, collides_occupy] using h.2
  simp only [scalarOp]
  rw [withSlot_free h.1, result_ok hc]
  rfl

/-! ### Typed buffers and device memory -/

@[simp] theorem bufMem_setBuf (c : CoreState) (b q : Buf) (m : Memory) :
    (c.setBuf b m).bufMem q = if q = b then m else c.bufMem q := by
  cases b <;> cases q <;> rfl

/-- A write into a partition: its bytes read as those of the slice, every other byte of every buffer as before. -/
theorem memRead_bufWrite (s : State) (k : Nat) (b : Buf) (off len : Nat) {sl : Memory} (bad : List Nat) (h : Memory.wf sl)
    (n : Nat) (q : Buf) (a : Nat) : let lo := (ctxOf s k).base b + off
    memRead ((coreOf (bufWrite s k b off len sl bad) n).bufMem q) a =
      if n = coreIx k ∧ q = b ∧ lo ≤ a ∧ a < lo + len then memRead sl (a - lo) else memRead ((coreOf s n).bufMem q) a := by
  intro lo
  have e : ∀ (c : CoreState) (w : List (Nat × Nat × Byte)) (p : List (Nat × Nat)),
      ({ c with written := w, parity := p } : CoreState).bufMem q = c.bufMem q := by intros; cases q <;> rfl
  unfold bufWrite
  rw [coreOf_modCore]
  by_cases hn : n = coreIx k
  · subst hn
    simp only [if_true, true_and, e, bufMem_setBuf]
    by_cases hq : q = b
    · subst hq
      simp [memRead_memPlace _ _ _ h, lo]
    · simp [hq]
  · simp [hn]

@[simp] theorem bufWrite_mem (s : State) (k : Nat) (b : Buf) (off len : Nat) (sl : Memory) (bad : List Nat) :
    (bufWrite s k b off len sl bad).mem = s.mem := rfl

@[simp] theorem ctxOf_bufWrite (s : State) (k : Nat) (b : Buf) (off len : Nat) (sl : Memory) (bad : List Nat) (j : Nat) :
    ctxOf (bufWrite s k b off len sl bad) j = ctxOf s j := rfl

/-! ### Taking a trap -/

/-- The trap of a fault at issue leaves memory and time alone. -/
theorem raiseAtIssue_issueFault (s : State) (c : Nat) (v : Option W64) :
    (raiseAtIssue s c v).issueFault = some (c, v.getD (Config.freeWord s.fresh)) := rfl

end Sys2Proof.Machine
end

