-- ==== Sys2Proof/Laws/PerInstr.lean ====
section
/-! SUPPORT. For every constructor of Instr: an event has no word and no slot; every other instruction has one to eight words,
and one word alone where it stands in no slot (a walker syllable). -/

namespace Sys2Proof.Laws.Coded

/-- What the words of an instruction say of it (R144, R147, R160). -/
def Statement (i : Instr) : Prop :=
  (i.isEvent = true → encode i = [] ∧ slotOf i = none) ∧
  (i.isEvent = false → 1 ≤ (encode i).length ∧ (encode i).length ≤ 8 ∧ (slotOf i = none → (encode i).length = 1))

theorem ofEvent {i : Instr} (h : i.isEvent = true) (e : encode i = []) (n : slotOf i = none) : Statement i :=
  ⟨fun _ => ⟨e, n⟩, fun g => by rw [h] at g; cases g⟩

theorem ofSlot {i : Instr} {s : Slot} (h : i.isEvent = false) (n : Nat) (e : (encode i).length = n) (lo : 1 ≤ n) (hi : n ≤ 8)
    (s : slotOf i = some s) : Statement i :=
  ⟨fun g => (by rw [h] at g; cases g), fun _ => ⟨e ▸ lo, e ▸ hi, fun g => (by rw [s] at g; cases g)⟩⟩

theorem ofWalker {i : Instr} (h : i.isEvent = false) (e : (encode i).length = 1) : Statement i :=
  ⟨fun g => (by rw [h] at g; cases g), fun _ => ⟨e ▸ Nat.le_refl 1, e ▸ (by decide), fun _ => e⟩⟩

theorem b (x : BitVec 25) : Statement (.b x) := ofSlot rfl 1 rfl (by decide) (by decide) rfl
theorem bz (a : SReg) (x : BitVec 13) : Statement (.bz a x) := ofSlot rfl 1 rfl (by decide) (by decide) rfl
theorem bnz (a : SReg) (x : BitVec 13) : Statement (.bnz a x) := ofSlot rfl 1 rfl (by decide) (by decide) rfl
theorem beq (a b : SReg) (x : BitVec 13) : Statement (.beq a b x) := ofSlot rfl 1 rfl (by decide) (by decide) rfl
theorem bne (a b : SReg) (x : BitVec 13) : Statement (.bne a b x) := ofSlot rfl 1 rfl (by decide) (by decide) rfl
theorem blt (a b : SReg) (x : BitVec 13) : Statement (.blt a b x) := ofSlot rfl 1 rfl (by decide) (by decide) rfl
theorem bge (a b : SReg) (x : BitVec 13) : Statement (.bge a b x) := ofSlot rfl 1 rfl (by decide) (by decide) rfl
theorem bltn (a b : SReg) (x : BitVec 13) : Statement (.bltn a b x) := ofSlot rfl 1 rfl (by decide) (by decide) rfl
theorem bgen (a b : SReg) (x : BitVec 13) : Statement (.bgen a b x) := ofSlot rfl 1 rfl (by decide) (by decide) rfl
theorem bany (a : PReg) (x : BitVec 13) : Statement (.bany a x) := ofSlot rfl 1 rfl (by decide) (by decide) rfl
theorem bnone (a : PReg) (x : BitVec 13) : Statement (.bnone a x) := ofSlot rfl 1 rfl (by decide) (by decide) rfl
theorem bmz (x : BitVec 25) : Statement (.bmz x) := ofSlot rfl 1 rfl (by decide) (by decide) rfl
theorem call (x : BitVec 25) : Statement (.call x) := ofSlot rfl 1 rfl (by decide) (by decide) rfl
theorem calli (d a : SReg) : Statement (.calli d a) := ofSlot rfl 1 rfl (by decide) (by decide) rfl
theorem jmpi (a : SReg) : Statement (.jmpi a) := ofSlot rfl 1 rfl (by decide) (by decide) rfl
theorem loop (a : SReg) (n : Fin 4) (x : BitVec 13) : Statement (.loop a n x) := ofSlot rfl 1 rfl (by decide) (by decide) rfl
theorem loopp (a : SReg) (n : Fin 4) (x : BitVec 13) (stages : Fin 8) : Statement (.loopp a n x stages) := ofSlot rfl 2 rfl (by decide) (by decide) rfl
theorem sloop (q : QueueIx) (p : PReg) (x : BitVec 13) : Statement (.sloop q p x) := ofSlot rfl 1 rfl (by decide) (by decide) rfl
theorem bsel (a b : SReg) : Statement (.bsel a b) := ofSlot rfl 1 rfl (by decide) (by decide) rfl
theorem mpush (a : PReg) : Statement (.mpush a) := ofSlot rfl 1 rfl (by decide) (by decide) rfl
theorem minv : Statement (.minv) := ofSlot rfl 1 rfl (by decide) (by decide) rfl
theorem mpop : Statement (.mpop) := ofSlot rfl 1 rfl (by decide) (by decide) rfl
theorem idle (n : BitVec 12) : Statement (.idle n) := ofSlot rfl 1 rfl (by decide) (by decide) rfl
theorem endTask : Statement (.endTask) := ofSlot rfl 1 rfl (by decide) (by decide) rfl
theorem yield : Statement (.yield) := ofSlot rfl 1 rfl (by decide) (by decide) rfl
theorem waite : Statement (.waite) := ofSlot rfl 1 rfl (by decide) (by decide) rfl
theorem waitq (q : QueueIx) : Statement (.waitq q) := ofSlot rfl 1 rfl (by decide) (by decide) rfl
theorem waitm (d a b : SReg) (cc : Cmp) (w32 : Bool) (timeout : BitVec 16) : Statement (.waitm d a b cc w32 timeout) := ofSlot rfl 2 rfl (by decide) (by decide) rfl
theorem csync : Statement (.csync) := ofSlot rfl 1 rfl (by decide) (by decide) rfl
theorem barinit (a b : SReg) : Statement (.barinit a b) := ofSlot rfl 1 rfl (by decide) (by decide) rfl
theorem bararr (a : SReg) : Statement (.bararr a) := ofSlot rfl 1 rfl (by decide) (by decide) rfl
theorem barwait (a b : SReg) : Statement (.barwait a b) := ofSlot rfl 1 rfl (by decide) (by decide) rfl
theorem fence (s : Scope) : Statement (.fence s) := ofSlot rfl 1 rfl (by decide) (by decide) rfl
theorem pbar : Statement (.pbar) := ofSlot rfl 1 rfl (by decide) (by decide) rfl
theorem pcommit (a b : SReg) : Statement (.pcommit a b) := ofSlot rfl 1 rfl (by decide) (by decide) rfl
theorem getc (d : SReg) (i : BitVec 13) : Statement (.getc d i) := ofSlot rfl 1 rfl (by decide) (by decide) rfl
theorem setc (a : SReg) (i : BitVec 13) : Statement (.setc a i) := ofSlot rfl 1 rfl (by decide) (by decide) rfl
theorem trap (imm : BitVec 19) : Statement (.trap imm) := ofSlot rfl 1 rfl (by decide) (by decide) rfl
theorem rte : Statement (.rte) := ofSlot rfl 1 rfl (by decide) (by decide) rfl
theorem ipf (a b : SReg) (l : CacheLevel) : Statement (.ipf a b l) := ofSlot rfl 1 rfl (by decide) (by decide) rfl
theorem ipin (a b : SReg) (l2 : Bool) : Statement (.ipin a b l2) := ofSlot rfl 1 rfl (by decide) (by decide) rfl
theorem iunpin (a b : SReg) (l2 : Bool) : Statement (.iunpin a b l2) := ofSlot rfl 1 rfl (by decide) (by decide) rfl
theorem setallow (a b : SReg) (n : Bool) : Statement (.setallow a b n) := ofSlot rfl 1 rfl (by decide) (by decide) rfl
theorem setallowMode (a b : SReg) (n : Bool) : Statement (.setallowMode a b n) := ofSlot rfl 1 rfl (by decide) (by decide) rfl
theorem ctxsave (d a b : SReg) : Statement (.ctxsave d a b) := ofSlot rfl 1 rfl (by decide) (by decide) rfl
theorem ctxload (d a b : SReg) : Statement (.ctxload d a b) := ofSlot rfl 1 rfl (by decide) (by decide) rfl
theorem gfreeze (d a : SReg) : Statement (.gfreeze d a) := ofSlot rfl 1 rfl (by decide) (by decide) rfl
theorem gthaw (a b : SReg) : Statement (.gthaw a b) := ofSlot rfl 1 rfl (by decide) (by decide) rfl
theorem tlbinv (a b : SReg) (k : TlbKind) : Statement (.tlbinv a b k) := ofSlot rfl 1 rfl (by decide) (by decide) rfl
theorem segload (d a b : SReg) : Statement (.segload d a b) := ofSlot rfl 1 rfl (by decide) (by decide) rfl
theorem msgsend (a b : SReg) : Statement (.msgsend a b) := ofSlot rfl 1 rfl (by decide) (by decide) rfl
theorem halt : Statement (.halt) := ofSlot rfl 1 rfl (by decide) (by decide) rfl
theorem add (d a b : SReg) : Statement (.add d a b) := ofSlot rfl 1 rfl (by decide) (by decide) rfl
theorem sub (d a b : SReg) : Statement (.sub d a b) := ofSlot rfl 1 rfl (by decide) (by decide) rfl
theorem addi (d a : SReg) (i : BitVec 13) : Statement (.addi d a i) := ofSlot rfl 1 rfl (by decide) (by decide) rfl
theorem mul (d a b : SReg) : Statement (.mul d a b) := ofSlot rfl 1 rfl (by decide) (by decide) rfl
theorem mulh (d a b : SReg) : Statement (.mulh d a b) := ofSlot rfl 1 rfl (by decide) (by decide) rfl
theorem mulhn (d a b : SReg) : Statement (.mulhn d a b) := ofSlot rfl 1 rfl (by decide) (by decide) rfl
theorem madd (d a b : SReg) : Statement (.madd d a b) := ofSlot rfl 1 rfl (by decide) (by decide) rfl
theorem div (d a b : SReg) : Statement (.div d a b) := ofSlot rfl 1 rfl (by decide) (by decide) rfl
theorem divn (d a b : SReg) : Statement (.divn d a b) := ofSlot rfl 1 rfl (by decide) (by decide) rfl
theorem rem (d a b : SReg) : Statement (.rem d a b) := ofSlot rfl 1 rfl (by decide) (by decide) rfl
theorem remn (d a b : SReg) : Statement (.remn d a b) := ofSlot rfl 1 rfl (by decide) (by decide) rfl
theorem and (d a b : SReg) : Statement (.and d a b) := ofSlot rfl 1 rfl (by decide) (by decide) rfl
theorem or (d a b : SReg) : Statement (.or d a b) := ofSlot rfl 1 rfl (by decide) (by decide) rfl
theorem xor (d a b : SReg) : Statement (.xor d a b) := ofSlot rfl 1 rfl (by decide) (by decide) rfl
theorem andi (d a : SReg) (i : BitVec 13) : Statement (.andi d a i) := ofSlot rfl 1 rfl (by decide) (by decide) rfl
theorem ori (d a : SReg) (i : BitVec 13) : Statement (.ori d a i) := ofSlot rfl 1 rfl (by decide) (by decide) rfl
theorem xori (d a : SReg) (i : BitVec 13) : Statement (.xori d a i) := ofSlot rfl 1 rfl (by decide) (by decide) rfl
theorem shl (d a b : SReg) : Statement (.shl d a b) := ofSlot rfl 1 rfl (by decide) (by decide) rfl
theorem shr (d a b : SReg) : Statement (.shr d a b) := ofSlot rfl 1 rfl (by decide) (by decide) rfl
theorem sar (d a b : SReg) : Statement (.sar d a b) := ofSlot rfl 1 rfl (by decide) (by decide) rfl
theorem shli (d a : SReg) (k : Fin 64) : Statement (.shli d a k) := ofSlot rfl 1 rfl (by decide) (by decide) rfl
theorem shri (d a : SReg) (k : Fin 64) : Statement (.shri d a k) := ofSlot rfl 1 rfl (by decide) (by decide) rfl
theorem sari (d a : SReg) (k : Fin 64) : Statement (.sari d a k) := ofSlot rfl 1 rfl (by decide) (by decide) rfl
theorem slt (d a b : SReg) : Statement (.slt d a b) := ofSlot rfl 1 rfl (by decide) (by decide) rfl
theorem sltn (d a b : SReg) : Statement (.sltn d a b) := ofSlot rfl 1 rfl (by decide) (by decide) rfl
theorem seq (d a b : SReg) : Statement (.seq d a b) := ofSlot rfl 1 rfl (by decide) (by decide) rfl
theorem slti (d a : SReg) (i : BitVec 13) : Statement (.slti d a i) := ofSlot rfl 1 rfl (by decide) (by decide) rfl
theorem sel (d c a b : SReg) : Statement (.sel d c a b) := ofSlot rfl 1 rfl (by decide) (by decide) rfl
theorem min (d a b : SReg) : Statement (.min d a b) := ofSlot rfl 1 rfl (by decide) (by decide) rfl
theorem max (d a b : SReg) : Statement (.max d a b) := ofSlot rfl 1 rfl (by decide) (by decide) rfl
theorem minn (d a b : SReg) : Statement (.minn d a b) := ofSlot rfl 1 rfl (by decide) (by decide) rfl
theorem maxn (d a b : SReg) : Statement (.maxn d a b) := ofSlot rfl 1 rfl (by decide) (by decide) rfl
theorem li (d : SReg) (i : BitVec 19) : Statement (.li d i) := ofSlot rfl 1 rfl (by decide) (by decide) rfl
theorem lih (d : SReg) (i : BitVec 19) : Statement (.lih d i) := ofSlot rfl 1 rfl (by decide) (by decide) rfl
theorem clz (d a : SReg) : Statement (.clz d a) := ofSlot rfl 1 rfl (by decide) (by decide) rfl
theorem popc (d a : SReg) : Statement (.popc d a) := ofSlot rfl 1 rfl (by decide) (by decide) rfl
theorem exts (d a : SReg) (pos len1 : Fin 64) : Statement (.exts d a pos len1) := ofSlot rfl 1 rfl (by decide) (by decide) rfl
theorem extz (d a : SReg) (pos len1 : Fin 64) : Statement (.extz d a pos len1) := ofSlot rfl 1 rfl (by decide) (by decide) rfl
theorem ins (d a : SReg) (pos len1 : Fin 64) : Statement (.ins d a pos len1) := ofSlot rfl 1 rfl (by decide) (by decide) rfl
theorem ceilm (d a b : SReg) : Statement (.ceilm d a b) := ofSlot rfl 1 rfl (by decide) (by decide) rfl
theorem divc (d a b : SReg) : Statement (.divc d a b) := ofSlot rfl 1 rfl (by decide) (by decide) rfl
theorem ld (d a b : SReg) (sx : Bool) (sz : Sz) : Statement (.ld d a b sx sz) := ofSlot rfl 1 rfl (by decide) (by decide) rfl
theorem st (d a b : SReg) (sz : Sz) : Statement (.st d a b sz) := ofSlot rfl 1 rfl (by decide) (by decide) rfl
theorem ldg (d a b : SReg) (sx : Bool) (sz : Sz) : Statement (.ldg d a b sx sz) := ofSlot rfl 1 rfl (by decide) (by decide) rfl
theorem stg (d a b : SReg) (sz : Sz) : Statement (.stg d a b sz) := ofSlot rfl 1 rfl (by decide) (by decide) rfl
theorem amoaddDm (d a b : SReg) (sx : Bool) (sz : Sz) : Statement (.amoaddDm d a b sx sz) := ofSlot rfl 1 rfl (by decide) (by decide) rfl
theorem amoaddGlobal (d a b : SReg) (sc : Scope) (sx : Bool) (sz : Sz) : Statement (.amoaddGlobal d a b sc sx sz) := ofSlot rfl 1 rfl (by decide) (by decide) rfl
theorem amominDm (d a b : SReg) (sx : Bool) (sz : Sz) : Statement (.amominDm d a b sx sz) := ofSlot rfl 1 rfl (by decide) (by decide) rfl
theorem amominGlobal (d a b : SReg) (sc : Scope) (sx : Bool) (sz : Sz) : Statement (.amominGlobal d a b sc sx sz) := ofSlot rfl 1 rfl (by decide) (by decide) rfl
theorem amomaxDm (d a b : SReg) (sx : Bool) (sz : Sz) : Statement (.amomaxDm d a b sx sz) := ofSlot rfl 1 rfl (by decide) (by decide) rfl
theorem amomaxGlobal (d a b : SReg) (sc : Scope) (sx : Bool) (sz : Sz) : Statement (.amomaxGlobal d a b sc sx sz) := ofSlot rfl 1 rfl (by decide) (by decide) rfl
theorem amominnDm (d a b : SReg) (sx : Bool) (sz : Sz) : Statement (.amominnDm d a b sx sz) := ofSlot rfl 1 rfl (by decide) (by decide) rfl
theorem amominnGlobal (d a b : SReg) (sc : Scope) (sx : Bool) (sz : Sz) : Statement (.amominnGlobal d a b sc sx sz) := ofSlot rfl 1 rfl (by decide) (by decide) rfl
theorem amomaxnDm (d a b : SReg) (sx : Bool) (sz : Sz) : Statement (.amomaxnDm d a b sx sz) := ofSlot rfl 1 rfl (by decide) (by decide) rfl
theorem amomaxnGlobal (d a b : SReg) (sc : Scope) (sx : Bool) (sz : Sz) : Statement (.amomaxnGlobal d a b sc sx sz) := ofSlot rfl 1 rfl (by decide) (by decide) rfl
theorem amoandDm (d a b : SReg) (sx : Bool) (sz : Sz) : Statement (.amoandDm d a b sx sz) := ofSlot rfl 1 rfl (by decide) (by decide) rfl
theorem amoandGlobal (d a b : SReg) (sc : Scope) (sx : Bool) (sz : Sz) : Statement (.amoandGlobal d a b sc sx sz) := ofSlot rfl 1 rfl (by decide) (by decide) rfl
theorem amoorDm (d a b : SReg) (sx : Bool) (sz : Sz) : Statement (.amoorDm d a b sx sz) := ofSlot rfl 1 rfl (by decide) (by decide) rfl
theorem amoorGlobal (d a b : SReg) (sc : Scope) (sx : Bool) (sz : Sz) : Statement (.amoorGlobal d a b sc sx sz) := ofSlot rfl 1 rfl (by decide) (by decide) rfl
theorem amoxorDm (d a b : SReg) (sx : Bool) (sz : Sz) : Statement (.amoxorDm d a b sx sz) := ofSlot rfl 1 rfl (by decide) (by decide) rfl
theorem amoxorGlobal (d a b : SReg) (sc : Scope) (sx : Bool) (sz : Sz) : Statement (.amoxorGlobal d a b sc sx sz) := ofSlot rfl 1 rfl (by decide) (by decide) rfl
theorem amoswapDm (d a b : SReg) (sx : Bool) (sz : Sz) : Statement (.amoswapDm d a b sx sz) := ofSlot rfl 1 rfl (by decide) (by decide) rfl
theorem amoswapGlobal (d a b : SReg) (sc : Scope) (sx : Bool) (sz : Sz) : Statement (.amoswapGlobal d a b sc sx sz) := ofSlot rfl 1 rfl (by decide) (by decide) rfl
theorem amocasDm (d a b : SReg) (sx : Bool) (sz : Sz) : Statement (.amocasDm d a b sx sz) := ofSlot rfl 1 rfl (by decide) (by decide) rfl
theorem amocasGlobal (d a b : SReg) (sc : Scope) (sx : Bool) (sz : Sz) : Statement (.amocasGlobal d a b sc sx sz) := ofSlot rfl 1 rfl (by decide) (by decide) rfl
theorem gset (d : GReg) (a b : SReg) : Statement (.gset d a b) := ofSlot rfl 1 rfl (by decide) (by decide) rfl
theorem gsetf (d : GReg) (a : SReg) (f : Fin 27) : Statement (.gsetf d a f) := ofSlot rfl 1 rfl (by decide) (by decide) rfl
theorem gget (d : SReg) (a : GReg) (f : Fin 27) : Statement (.gget d a f) := ofSlot rfl 1 rfl (by decide) (by decide) rfl
theorem gadv (d : GReg) (a : SReg) : Statement (.gadv d a) := ofSlot rfl 1 rfl (by decide) (by decide) rfl
theorem grst (d : GReg) : Statement (.grst d) := ofSlot rfl 1 rfl (by decide) (by decide) rfl
theorem gmask (d : GReg) (a b : SReg) : Statement (.gmask d a b) := ofSlot rfl 1 rfl (by decide) (by decide) rfl
theorem gcopy (d a : GReg) : Statement (.gcopy d a) := ofSlot rfl 1 rfl (by decide) (by decide) rfl
theorem vadd (d : VReg) (a b : VSrc) (p : PReg) (t : Ty) : Statement (.vadd d a b p t) := ofSlot rfl 1 rfl (by decide) (by decide) rfl
theorem vsub (d : VReg) (a b : VSrc) (p : PReg) (t : Ty) : Statement (.vsub d a b p t) := ofSlot rfl 1 rfl (by decide) (by decide) rfl
theorem vmul (d : VReg) (a b : VSrc) (p : PReg) (t : Ty) : Statement (.vmul d a b p t) := ofSlot rfl 1 rfl (by decide) (by decide) rfl
theorem vfma (d : VReg) (a b : VSrc) (p : PReg) (t : Ty) : Statement (.vfma d a b p t) := ofSlot rfl 1 rfl (by decide) (by decide) rfl
theorem vfms (d : VReg) (a b : VSrc) (p : PReg) (t : Ty) : Statement (.vfms d a b p t) := ofSlot rfl 1 rfl (by decide) (by decide) rfl
theorem vfnma (d : VReg) (a b : VSrc) (p : PReg) (t : Ty) : Statement (.vfnma d a b p t) := ofSlot rfl 1 rfl (by decide) (by decide) rfl
theorem vmin (d : VReg) (a b : VSrc) (p : PReg) (t : Ty) : Statement (.vmin d a b p t) := ofSlot rfl 1 rfl (by decide) (by decide) rfl
theorem vmax (d : VReg) (a b : VSrc) (p : PReg) (t : Ty) : Statement (.vmax d a b p t) := ofSlot rfl 1 rfl (by decide) (by decide) rfl
theorem vabs (d : VReg) (a : VSrc) (p : PReg) (t : Ty) : Statement (.vabs d a p t) := ofSlot rfl 1 rfl (by decide) (by decide) rfl
theorem vneg (d : VReg) (a : VSrc) (p : PReg) (t : Ty) : Statement (.vneg d a p t) := ofSlot rfl 1 rfl (by decide) (by decide) rfl
theorem vand (d : VReg) (a b : VSrc) (p : PReg) (t : Ty) : Statement (.vand d a b p t) := ofSlot rfl 1 rfl (by decide) (by decide) rfl
theorem vor (d : VReg) (a b : VSrc) (p : PReg) (t : Ty) : Statement (.vor d a b p t) := ofSlot rfl 1 rfl (by decide) (by decide) rfl
theorem vxor (d : VReg) (a b : VSrc) (p : PReg) (t : Ty) : Statement (.vxor d a b p t) := ofSlot rfl 1 rfl (by decide) (by decide) rfl
theorem vnot (d : VReg) (a : VSrc) (p : PReg) (t : Ty) : Statement (.vnot d a p t) := ofSlot rfl 1 rfl (by decide) (by decide) rfl
theorem vshl (d : VReg) (a b : VSrc) (p : PReg) (t : Ty) : Statement (.vshl d a b p t) := ofSlot rfl 1 rfl (by decide) (by decide) rfl
theorem vshr (d : VReg) (a b : VSrc) (p : PReg) (t : Ty) : Statement (.vshr d a b p t) := ofSlot rfl 1 rfl (by decide) (by decide) rfl
theorem vsar (d : VReg) (a b : VSrc) (p : PReg) (t : Ty) : Statement (.vsar d a b p t) := ofSlot rfl 1 rfl (by decide) (by decide) rfl
theorem vmulh (d : VReg) (a b : VSrc) (p : PReg) (t : Ty) : Statement (.vmulh d a b p t) := ofSlot rfl 1 rfl (by decide) (by decide) rfl
theorem vclamp (d : VReg) (a b c : VSrc) (p : PReg) (t : Ty) : Statement (.vclamp d a b c p t) := ofSlot rfl 2 rfl (by decide) (by decide) rfl
theorem vscale (d : VReg) (a b : VSrc) (p : PReg) (t : Ty) : Statement (.vscale d a b p t) := ofSlot rfl 1 rfl (by decide) (by decide) rfl
theorem vcmpeq (d : PReg) (a b : VSrc) (p : PReg) (t : Ty) : Statement (.vcmpeq d a b p t) := ofSlot rfl 1 rfl (by decide) (by decide) rfl
theorem vcmpne (d : PReg) (a b : VSrc) (p : PReg) (t : Ty) : Statement (.vcmpne d a b p t) := ofSlot rfl 1 rfl (by decide) (by decide) rfl
theorem vcmplt (d : PReg) (a b : VSrc) (p : PReg) (t : Ty) : Statement (.vcmplt d a b p t) := ofSlot rfl 1 rfl (by decide) (by decide) rfl
theorem vcmple (d : PReg) (a b : VSrc) (p : PReg) (t : Ty) : Statement (.vcmple d a b p t) := ofSlot rfl 1 rfl (by decide) (by decide) rfl
theorem vclass (d : PReg) (a : VSrc) (mask : BitVec 6) (p : PReg) (t : Ty) : Statement (.vclass d a mask p t) := ofSlot rfl 1 rfl (by decide) (by decide) rfl
theorem vsel (d : VReg) (a b : VSrc) (p : PReg) (t : Ty) : Statement (.vsel d a b p t) := ofSlot rfl 1 rfl (by decide) (by decide) rfl
theorem vmov (d : VReg) (a : VSrc) (p : PReg) (t : Ty) : Statement (.vmov d a p t) := ofSlot rfl 1 rfl (by decide) (by decide) rfl
theorem vbcast (d : VReg) (a : VReg) (b : Fin 32) (p : PReg) (t : Ty) : Statement (.vbcast d a b p t) := ofSlot rfl 1 rfl (by decide) (by decide) rfl
theorem vins (d : VReg) (a b : Fin 32) (p : PReg) (t : Ty) : Statement (.vins d a b p t) := ofSlot rfl 1 rfl (by decide) (by decide) rfl
theorem vext (d : Fin 32) (a : VReg) (b : Fin 32) (p : PReg) (t : Ty) : Statement (.vext d a b p t) := ofSlot rfl 1 rfl (by decide) (by decide) rfl
theorem viota (d : VReg) (a b : Fin 32) (p : PReg) (t : Ty) : Statement (.viota d a b p t) := ofSlot rfl 1 rfl (by decide) (by decide) rfl
theorem vcvt (d : VReg) (a : VReg) (p : PReg) (t : Ty) (x : CvtArgs) : Statement (.vcvt d a p t x) := ofSlot rfl 2 rfl (by decide) (by decide) rfl
theorem vrcp (d : VReg) (a : VSrc) (p : PReg) (t : Ty) : Statement (.vrcp d a p t) := ofSlot rfl 1 rfl (by decide) (by decide) rfl
theorem vrsq (d : VReg) (a : VSrc) (p : PReg) (t : Ty) : Statement (.vrsq d a p t) := ofSlot rfl 1 rfl (by decide) (by decide) rfl
theorem vsqrt (d : VReg) (a : VSrc) (p : PReg) (t : Ty) : Statement (.vsqrt d a p t) := ofSlot rfl 1 rfl (by decide) (by decide) rfl
theorem vexp2 (d : VReg) (a : VSrc) (p : PReg) (t : Ty) : Statement (.vexp2 d a p t) := ofSlot rfl 1 rfl (by decide) (by decide) rfl
theorem vlog2 (d : VReg) (a : VSrc) (p : PReg) (t : Ty) : Statement (.vlog2 d a p t) := ofSlot rfl 1 rfl (by decide) (by decide) rfl
theorem vtanh (d : VReg) (a : VSrc) (p : PReg) (t : Ty) : Statement (.vtanh d a p t) := ofSlot rfl 1 rfl (by decide) (by decide) rfl
theorem vsin (d : VReg) (a : VSrc) (p : PReg) (t : Ty) : Statement (.vsin d a p t) := ofSlot rfl 1 rfl (by decide) (by decide) rfl
theorem vred (d : VReg) (a : VReg) (op : RedOp) (p : PReg) (t : Ty) : Statement (.vred d a op p t) := ofSlot rfl 1 rfl (by decide) (by decide) rfl
theorem vscan (d : VReg) (a : VReg) (op : RedOp) (exc : Bool) (p : PReg) (t : Ty) : Statement (.vscan d a op exc p t) := ofSlot rfl 1 rfl (by decide) (by decide) rfl
theorem vperm (d : VReg) (a b : VReg) (p : PReg) (t : Ty) : Statement (.vperm d a b p t) := ofSlot rfl 1 rfl (by decide) (by decide) rfl
theorem vrot (d : VReg) (a : VReg) (b : Fin 32) (p : PReg) (t : Ty) : Statement (.vrot d a b p t) := ofSlot rfl 1 rfl (by decide) (by decide) rfl
theorem vzip (d : VReg) (a b : VReg) (p : PReg) (t : Ty) : Statement (.vzip d a b p t) := ofSlot rfl 1 rfl (by decide) (by decide) rfl
theorem vunzip (d : VReg) (a b : VReg) (p : PReg) (t : Ty) : Statement (.vunzip d a b p t) := ofSlot rfl 1 rfl (by decide) (by decide) rfl
theorem vtopk (d : VReg) (a : VReg) (k : BitVec 8) (isMin : Bool) (p : PReg) (t : Ty) : Statement (.vtopk d a k isMin p t) := ofSlot rfl 2 rfl (by decide) (by decide) rfl
theorem vhacc (a : VReg) (b : VSrc) (p : PReg) (t : Ty) (x : HaccArgs) : Statement (.vhacc a b p t x) := ofSlot rfl 2 rfl (by decide) (by decide) rfl
theorem vnest (x : NestArgs) : Statement (.vnest x) := ofSlot rfl 8 rfl (by decide) (by decide) rfl
theorem vunpk (d : VReg) (a : VReg) (p : PReg) (t : Ty) (x : PackArgs) : Statement (.vunpk d a p t x) := ofSlot rfl 2 rfl (by decide) (by decide) rfl
theorem vunpks (d : VReg) (a : VReg) (b : VSrc) (p : PReg) (t : Ty) (x : PackArgs) : Statement (.vunpks d a b p t x) := ofSlot rfl 2 rfl (by decide) (by decide) rfl
theorem vunpkz (d : VReg) (a : VReg) (b : VSrc) (p : PReg) (t : Ty) (x : PackArgs) : Statement (.vunpkz d a b p t x) := ofSlot rfl 2 rfl (by decide) (by decide) rfl
theorem vpack (d : VReg) (a : VReg) (p : PReg) (t : Ty) (x : PackArgs) : Statement (.vpack d a p t x) := ofSlot rfl 2 rfl (by decide) (by decide) rfl
theorem vpacksc (d : VReg) (a : VReg) (p : PReg) (t : Ty) (x : PackArgs) : Statement (.vpacksc d a p t x) := ofSlot rfl 2 rfl (by decide) (by decide) rfl
theorem vpackz (d : VReg) (a : VReg) (p : PReg) (t : Ty) (x : PackArgs) : Statement (.vpackz d a p t x) := ofSlot rfl 2 rfl (by decide) (by decide) rfl
theorem pand (d a b : PReg) : Statement (.pand d a b) := ofSlot rfl 1 rfl (by decide) (by decide) rfl
theorem por (d a b : PReg) : Statement (.por d a b) := ofSlot rfl 1 rfl (by decide) (by decide) rfl
theorem pxor (d a b : PReg) : Statement (.pxor d a b) := ofSlot rfl 1 rfl (by decide) (by decide) rfl
theorem pnot (d a : PReg) : Statement (.pnot d a) := ofSlot rfl 1 rfl (by decide) (by decide) rfl
theorem psetHalf (d : PReg) (a : SReg) (h : Half) : Statement (.psetHalf d a h) := ofSlot rfl 1 rfl (by decide) (by decide) rfl
theorem psetL16 (d : PReg) (a : SReg) : Statement (.psetL16 d a) := ofSlot rfl 1 rfl (by decide) (by decide) rfl
theorem psetL32 (d : PReg) (a : SReg) : Statement (.psetL32 d a) := ofSlot rfl 1 rfl (by decide) (by decide) rfl
theorem pget (d : SReg) (a : PReg) (h : Half) : Statement (.pget d a h) := ofSlot rfl 1 rfl (by decide) (by decide) rfl
theorem pcnt (d : SReg) (a : PReg) (w32 : Bool) : Statement (.pcnt d a w32) := ofSlot rfl 1 rfl (by decide) (by decide) rfl
theorem vld (d : VReg) (p : PReg) (t : Ty) (x : VmArgs) : Statement (.vld d p t x) := ofSlot rfl 2 rfl (by decide) (by decide) rfl
theorem vst (d : VReg) (p : PReg) (t : Ty) (x : VmArgs) : Statement (.vst d p t x) := ofSlot rfl 2 rfl (by decide) (by decide) rfl
theorem vlds (d : VReg) (st : Fin 32) (p : PReg) (t : Ty) (x : VmArgs) : Statement (.vlds d st p t x) := ofSlot rfl 2 rfl (by decide) (by decide) rfl
theorem vsts (d : VReg) (st : Fin 32) (p : PReg) (t : Ty) (x : VmArgs) : Statement (.vsts d st p t x) := ofSlot rfl 2 rfl (by decide) (by decide) rfl
theorem vldx (d : VReg) (a : VReg) (p : PReg) (t : Ty) (x : VmArgs) : Statement (.vldx d a p t x) := ofSlot rfl 2 rfl (by decide) (by decide) rfl
theorem vstx (d : VReg) (a : VReg) (p : PReg) (t : Ty) (x : VmArgs) : Statement (.vstx d a p t x) := ofSlot rfl 2 rfl (by decide) (by decide) rfl
theorem vldb (d : VReg) (p : PReg) (t : Ty) (x : VmArgs) : Statement (.vldb d p t x) := ofSlot rfl 2 rfl (by decide) (by decide) rfl
theorem mma (t : TileIx) (ga gb : GReg) (at_ : BitVec 16) (nk : BitVec 16) : Statement (.mma t ga gb at_ nk) := ofSlot rfl 2 rfl (by decide) (by decide) rfl
theorem mmaz (t : TileIx) (ga gb : GReg) (at_ : BitVec 16) (nk : BitVec 16) : Statement (.mmaz t ga gb at_ nk) := ofSlot rfl 2 rfl (by decide) (by decide) rfl
theorem mmag (d : SReg) (ga gb : GReg) (g : BitVec 12) : Statement (.mmag d ga gb g) := ofSlot rfl 2 rfl (by decide) (by decide) rfl
theorem mmas (q : QueueIx) (ga gb : GReg) : Statement (.mmas q ga gb) := ofSlot rfl 2 rfl (by decide) (by decide) rfl
theorem tdrain (t : TileIx) (rm : RmSel) (b : SReg) (fmt : Fmt) (ov : Ovf) (at_ : BitVec 16) (rows : BitVec 8) : Statement (.tdrain t rm b fmt ov at_ rows) := ofSlot rfl 2 rfl (by decide) (by decide) rfl
theorem tload (t : TileIx) (b : SReg) (fmt : Fmt) (at_ : BitVec 16) (rows : BitVec 8) : Statement (.tload t b fmt at_ rows) := ofSlot rfl 2 rfl (by decide) (by decide) rfl
theorem tclr (t : TileIx) : Statement (.tclr t) := ofSlot rfl 1 rfl (by decide) (by decide) rfl
theorem tmask (t : TileIx) (a b : SReg) : Statement (.tmask t a b) := ofSlot rfl 1 rfl (by decide) (by decide) rfl
theorem precset (x : PrecsetArgs) : Statement (.precset x) := ofSlot rfl 1 rfl (by decide) (by decide) rfl
theorem tstat (d : SReg) (t : TileIx) (c : Bool) : Statement (.tstat d t c) := ofSlot rfl 1 rfl (by decide) (by decide) rfl
theorem copy (d a b : SReg) (e : Bool) (buf : Buf) (out : Bool) (map : Bool) (at_ n : BitVec 16) : Statement (.copy d a b e buf out map at_ n) := ofSlot rfl 2 rfl (by decide) (by decide) rfl
theorem copym (d a b : SReg) (e : Bool) (buf : Buf) (map : Bool) (at_ n : BitVec 16) : Statement (.copym d a b e buf map at_ n) := ofSlot rfl 2 rfl (by decide) (by decide) rfl
theorem gather (d a b : SReg) (lsz : Fin 9) (buf : Buf) (iw : Bool) (n : BitVec 16) : Statement (.gather d a b lsz buf iw n) := ofSlot rfl 2 rfl (by decide) (by decide) rfl
theorem scatter (d a b : SReg) (lsz : Fin 9) (buf : Buf) (iw : Bool) (n : BitVec 16) : Statement (.scatter d a b lsz buf iw n) := ofSlot rfl 2 rfl (by decide) (by decide) rfl
theorem xsend (a b : SReg) (buf : Buf) (at_ n : BitVec 16) : Statement (.xsend a b buf at_ n) := ofSlot rfl 2 rfl (by decide) (by decide) rfl
theorem xrecv (a b : SReg) (buf : Buf) (at_ n : BitVec 16) : Statement (.xrecv a b buf at_ n) := ofSlot rfl 2 rfl (by decide) (by decide) rfl
theorem fput (a b : SReg) (buf : Buf) (n : BitVec 16) : Statement (.fput a b buf n) := ofSlot rfl 2 rfl (by decide) (by decide) rfl
theorem fget (a b : SReg) (buf : Buf) (n : BitVec 16) : Statement (.fget a b buf n) := ofSlot rfl 2 rfl (by decide) (by decide) rfl
theorem fatom (d a b : SReg) (op : AmoOp) (sz64 : Bool) (sx : Bool) (sys : Bool) : Statement (.fatom d a b op sz64 sx sys) := ofSlot rfl 2 rfl (by decide) (by decide) rfl
theorem dput (a b : SReg) (buf : Buf) (n : BitVec 16) : Statement (.dput a b buf n) := ofSlot rfl 2 rfl (by decide) (by decide) rfl
theorem dget (a b : SReg) (n : BitVec 16) : Statement (.dget a b n) := ofSlot rfl 2 rfl (by decide) (by decide) rfl
theorem wstart (a b : SReg) (q : QueueIx) : Statement (.wstart a b q) := ofSlot rfl 2 rfl (by decide) (by decide) rfl
theorem wstop : Statement (.wstop) := ofSlot rfl 2 rfl (by decide) (by decide) rfl
theorem qsend (a b : SReg) (q : QueueIx) (eos : Bool) : Statement (.qsend a b q eos) := ofSlot rfl 2 rfl (by decide) (by decide) rfl
theorem qrecv (d : SReg) (q : QueueIx) : Statement (.qrecv d q) := ofSlot rfl 2 rfl (by decide) (by decide) rfl
theorem launch (a : SReg) : Statement (.launch a) := ofSlot rfl 2 rfl (by decide) (by decide) rfl
theorem signal (a b : SReg) (msi : Bool) (vec : BitVec 11) : Statement (.signal a b msi vec) := ofSlot rfl 2 rfl (by decide) (by decide) rfl
theorem fill (a b : SReg) (e : Bool) (buf : Buf) (at_ n : BitVec 16) : Statement (.fill a b e buf at_ n) := ofSlot rfl 2 rfl (by decide) (by decide) rfl
theorem wld (d a : WReg) (i : BitVec 18) : Statement (.wld d a i) := ofWalker rfl rfl
theorem wldp (d a : WReg) (i : BitVec 18) : Statement (.wldp d a i) := ofWalker rfl rfl
theorem wadd (d a b : WReg) : Statement (.wadd d a b) := ofWalker rfl rfl
theorem waddi (d a : WReg) (i : BitVec 18) : Statement (.waddi d a i) := ofWalker rfl rfl
theorem wsub (d a b : WReg) : Statement (.wsub d a b) := ofWalker rfl rfl
theorem wshli (d a : WReg) (k : Fin 64) : Statement (.wshli d a k) := ofWalker rfl rfl
theorem wshri (d a : WReg) (k : Fin 64) : Statement (.wshri d a k) := ofWalker rfl rfl
theorem wand (d a b : WReg) : Statement (.wand d a b) := ofWalker rfl rfl
theorem wli (d : WReg) (i : BitVec 18) : Statement (.wli d i) := ofWalker rfl rfl
theorem wbeq (a b : WReg) (i : BitVec 14) : Statement (.wbeq a b i) := ofWalker rfl rfl
theorem wbne (a b : WReg) (i : BitVec 14) : Statement (.wbne a b i) := ofWalker rfl rfl
theorem wblt (a b : WReg) (i : BitVec 14) : Statement (.wblt a b i) := ofWalker rfl rfl
theorem wj (i : BitVec 18) : Statement (.wj i) := ofWalker rfl rfl
theorem wloop (d : WReg) (i : BitVec 18) : Statement (.wloop d i) := ofWalker rfl rfl
theorem wemit (a b : WReg) : Statement (.wemit a b) := ofWalker rfl rfl
theorem wemitz (t : TileIx) : Statement (.wemitz t) := ofWalker rfl rfl
theorem wtile (a b : WReg) (fmt : BitVec 5) (first : Bool) (t : TileIx) : Statement (.wtile a b fmt first t) := ofWalker rfl rfl
theorem wgetc (d : WReg) (n : BitVec 14) : Statement (.wgetc d n) := ofWalker rfl rfl
theorem wsetc (a : WReg) (n : BitVec 14) : Statement (.wsetc a n) := ofWalker rfl rfl
theorem wgath (d a b : WReg) : Statement (.wgath d a b) := ofWalker rfl rfl
theorem wflush : Statement (.wflush) := ofWalker rfl rfl
theorem weos : Statement (.weos) := ofWalker rfl rfl
theorem whalt : Statement (.whalt) := ofWalker rfl rfl
theorem timedResultPerform (c k : Nat) : Statement (.timedResultPerform c k) := ofEvent rfl rfl rfl
theorem untimedOperationPerform (c k : Nat) : Statement (.untimedOperationPerform c k) := ofEvent rfl rfl rfl
theorem waitCompletion (c : Nat) : Statement (.waitCompletion c) := ofEvent rfl rfl rfl
theorem taskEndComplete (c : Nat) : Statement (.taskEndComplete c) := ofEvent rfl rfl rfl
theorem handOver (core : Nat) : Statement (.handOver core) := ofEvent rfl rfl rfl
theorem lowPriorityPromotion (c : Nat) : Statement (.lowPriorityPromotion c) := ofEvent rfl rfl rfl
theorem runOverrun (c : Nat) : Statement (.runOverrun c) := ofEvent rfl rfl rfl
theorem csyncRelease (c : Nat) : Statement (.csyncRelease c) := ofEvent rfl rfl rfl
theorem barrierArrivalCount (c k : Nat) : Statement (.barrierArrivalCount c k) := ofEvent rfl rfl rfl
theorem waitmPoll (c : Nat) : Statement (.waitmPoll c) := ofEvent rfl rfl rfl
theorem waitmTimeout (c : Nat) : Statement (.waitmTimeout c) := ofEvent rfl rfl rfl
theorem allowanceApply (k : Nat) : Statement (.allowanceApply k) := ofEvent rfl rfl rfl
theorem trapEntry (c : Nat) : Statement (.trapEntry c) := ofEvent rfl rfl rfl
theorem rteResume (c : Nat) : Statement (.rteResume c) := ofEvent rfl rfl rfl
theorem timerInterrupt (c : Nat) : Statement (.timerInterrupt c) := ofEvent rfl rfl rfl
theorem freezeBoundary (c : Nat) : Statement (.freezeBoundary c) := ofEvent rfl rfl rfl
theorem thaw (c : Nat) : Statement (.thaw c) := ofEvent rfl rfl rfl
theorem codeFetchMiss (c : Nat) : Statement (.codeFetchMiss c) := ofEvent rfl rfl rfl
theorem codeFetchArrival (c : Nat) : Statement (.codeFetchArrival c) := ofEvent rfl rfl rfl
theorem timedPageFault (c k : Nat) : Statement (.timedPageFault c k) := ofEvent rfl rfl rfl
theorem translationResolved (c k : Nat) : Statement (.translationResolved c k) := ofEvent rfl rfl rfl
theorem sideLogRetry (core : Nat) : Statement (.sideLogRetry core) := ofEvent rfl rfl rfl
theorem copyLineLand (c k : Nat) : Statement (.copyLineLand c k) := ofEvent rfl rfl rfl
theorem copymFollowOnStart (c k : Nat) : Statement (.copymFollowOnStart c k) := ofEvent rfl rfl rfl
theorem mmaKgroupUpdate (c k : Nat) : Statement (.mmaKgroupUpdate c k) := ofEvent rfl rfl rfl
theorem xsendLineArrival (c k : Nat) : Statement (.xsendLineArrival c k) := ofEvent rfl rfl rfl
theorem vnestStep (c k : Nat) : Statement (.vnestStep c k) := ofEvent rfl rfl rfl
theorem madderGatherReturn (c k : Nat) : Statement (.madderGatherReturn c k) := ofEvent rfl rfl rfl
theorem mmagStart (c k : Nat) : Statement (.mmagStart c k) := ofEvent rfl rfl rfl
theorem mmasTokenTake (c k : Nat) : Statement (.mmasTokenTake c k) := ofEvent rfl rfl rfl
theorem queueEntryEnter (clus q : Nat) : Statement (.queueEntryEnter clus q) := ofEvent rfl rfl rfl
theorem walkStart (clus : Nat) : Statement (.walkStart clus) := ofEvent rfl rfl rfl
theorem walkResume (clus : Nat) : Statement (.walkResume clus) := ofEvent rfl rfl rfl
theorem wtileOpen (clus : Nat) : Statement (.wtileOpen clus) := ofEvent rfl rfl rfl
theorem walkerTokenEnqueue (clus : Nat) : Statement (.walkerTokenEnqueue clus) := ofEvent rfl rfl rfl
theorem launchPortWrite (fn off : Nat) (bytes : List Byte) : Statement (.launchPortWrite fn off bytes) := ofEvent rfl rfl rfl
theorem nodeAdmission (fn : Nat) : Statement (.nodeAdmission fn) := ofEvent rfl rfl rfl
theorem nodeReady (fn n : Nat) : Statement (.nodeReady fn n) := ofEvent rfl rfl rfl
theorem gangPlacement (fn n : Nat) (place : List Nat) : Statement (.gangPlacement fn n place) := ofEvent rfl rfl rfl
theorem regionMigrationComplete (region stack : Nat) : Statement (.regionMigrationComplete region stack) := ofEvent rfl rfl rfl
theorem preemptionTimeout (fn n : Nat) : Statement (.preemptionTimeout fn n) := ofEvent rfl rfl rfl
theorem nodeCommit (fn n : Nat) : Statement (.nodeCommit fn n) := ofEvent rfl rfl rfl
theorem nodeRollback (fn n : Nat) (own : Bool) : Statement (.nodeRollback fn n own) := ofEvent rfl rfl rfl
theorem redundantCompare (fn n task : Nat) : Statement (.redundantCompare fn n task) := ofEvent rfl rfl rfl
theorem qctlTd (fn : Nat) : Statement (.qctlTd fn) := ofEvent rfl rfl rfl
theorem qctlRst (fn : Nat) : Statement (.qctlRst fn) := ofEvent rfl rfl rfl
theorem registerWrite (fn off : Nat) (v : W64) : Statement (.registerWrite fn off v) := ofEvent rfl rfl rfl
theorem hostWindowWrite (fn off : Nat) (bytes : List Byte) : Statement (.hostWindowWrite fn off bytes) := ofEvent rfl rfl rfl
theorem hostWindowRead (fn off len : Nat) : Statement (.hostWindowRead fn off len) := ofEvent rfl rfl rfl
theorem regionCreate (fn : Nat) : Statement (.regionCreate fn) := ofEvent rfl rfl rfl
theorem regionFree (fn : Nat) : Statement (.regionFree fn) := ofEvent rfl rfl rfl
theorem regionDma (fn : Nat) : Statement (.regionDma fn) := ofEvent rfl rfl rfl
theorem kernelLoad (fn : Nat) : Statement (.kernelLoad fn) := ofEvent rfl rfl rfl
theorem faultRead (fn : Nat) : Statement (.faultRead fn) := ofEvent rfl rfl rfl
theorem ctxControl (fn : Nat) : Statement (.ctxControl fn) := ofEvent rfl rfl rfl
theorem attest (fn : Nat) : Statement (.attest fn) := ofEvent rfl rfl rfl
theorem healthRead (fn : Nat) : Statement (.healthRead fn) := ofEvent rfl rfl rfl
theorem journalRead (fn : Nat) : Statement (.journalRead fn) := ofEvent rfl rfl rfl
theorem tenantCreate (fn : Nat) : Statement (.tenantCreate fn) := ofEvent rfl rfl rfl
theorem tenantDestroy (fn : Nat) : Statement (.tenantDestroy fn) := ofEvent rfl rfl rfl
theorem setAllowCmd (fn : Nat) : Statement (.setAllowCmd fn) := ofEvent rfl rfl rfl
theorem sealSet (fn : Nat) : Statement (.sealSet fn) := ofEvent rfl rfl rfl
theorem healthLogRead (fn : Nat) : Statement (.healthLogRead fn) := ofEvent rfl rfl rfl
theorem powerSet (fn : Nat) : Statement (.powerSet fn) := ofEvent rfl rfl rfl
theorem telemetry (fn : Nat) : Statement (.telemetry fn) := ofEvent rfl rfl rfl
theorem imageWrite (fn : Nat) : Statement (.imageWrite fn) := ofEvent rfl rfl rfl
theorem functionLevelReset (fn : Nat) : Statement (.functionLevelReset fn) := ofEvent rfl rfl rfl
theorem fbpop (die : Nat) : Statement (.fbpop die) := ofEvent rfl rfl rfl
theorem pgreqEvict (c : Nat) (v : W64) : Statement (.pgreqEvict c v) := ofEvent rfl rfl rfl
theorem pgreqMigrate (c : Nat) (v : W64) : Statement (.pgreqMigrate c v) := ofEvent rfl rfl rfl
theorem dataFlit (port : Nat) (f : Flit) : Statement (.dataFlit port f) := ofEvent rfl rfl rfl
theorem ackFlit (port : Nat) (ack : BitVec 12) : Statement (.ackFlit port ack) := ofEvent rfl rfl rfl
theorem nak (port : Nat) (good : BitVec 12) : Statement (.nak port good) := ofEvent rfl rfl rfl
theorem widthMarkerFlit (port : Nat) (width : Fin 4) : Statement (.widthMarkerFlit port width) := ofEvent rfl rfl rfl
theorem laneFault (port : Nat) (lane : Fin 8) : Statement (.laneFault port lane) := ofEvent rfl rfl rfl
theorem laneRetest (port : Nat) (passed : BitVec 8) : Statement (.laneRetest port passed) := ofEvent rfl rfl rfl
theorem retrainComplete (port : Nat) (peer : Fin 256) : Statement (.retrainComplete port peer) := ofEvent rfl rfl rfl
theorem noPathTimeout (dest : Fin 128) : Statement (.noPathTimeout dest) := ofEvent rfl rfl rfl
theorem droopTrip (clus : Nat) : Statement (.droopTrip clus) := ofEvent rfl rfl rfl
theorem droopRelease : Statement (.droopRelease) := ofEvent rfl rfl rfl
theorem brownOut (mv : Nat) : Statement (.brownOut mv) := ofEvent rfl rfl rfl
theorem brownOutRecovery : Statement (.brownOutRecovery) := ofEvent rfl rfl rfl
theorem powerLoss : Statement (.powerLoss) := ofEvent rfl rfl rfl
theorem boot : Statement (.boot) := ofEvent rfl rfl rfl
theorem clusterRetentionExit (clus : Nat) (parityOk : Bool) : Statement (.clusterRetentionExit clus parityOk) := ofEvent rfl rfl rfl
theorem scrubUncorrectable (line : Nat) : Statement (.scrubUncorrectable line) := ofEvent rfl rfl rfl
theorem clusterRetire (clus cause : Nat) : Statement (.clusterRetire clus cause) := ofEvent rfl rfl rfl
theorem wearCrossing (clus : Nat) (percent : Nat) : Statement (.wearCrossing clus percent) := ofEvent rfl rfl rfl
theorem healthStateChange : Statement (.healthStateChange) := ofEvent rfl rfl rfl

end Sys2Proof.Laws.Coded
end

