-- ==== Sys2Proof/Tests/Slice0.lean ====
section
/-! SUPPORT. Tests of one step each: words of the spec's own examples through the decoder, ill-formed terms refused, single
results worked by hand from the spec, and for every statement with hypotheses a state that meets them. -/

namespace Sys2Proof.Tests

open Sys2Proof.Machine

set_option Elab.async false

/-! ### The spec's worked words (the Example lines of each entry, and the code images of its kernels) -/

theorem test_words_branch :
    decodeOp .br [0x0C20BFFA] = .ok (.blt 4 5 (-6)) ∧ decodeOp .br [0x1E07E000] = .ok (.jmpi 63) ∧
    decodeOp .br [0x20302005] = .ok (.loop 6 1 5) ∧ decodeOp .br [0x26004180] = .ok (.bsel 2 3) ∧
    decodeOp .br [0x06180000] = .ok (.bnz 3 0) ∧ decodeOp .br [0x1A000025] = .ok (.call 0x25) ∧
    decodeOp .br [0x2260001D, 2] = .ok (.loopp 12 0 0x1D 2) := by decide

theorem test_words_control :
    decodeOp .br [0x28006000] = .ok (.mpush 3) ∧ decodeOp .br [0x2E000500] = .ok (.idle 10) ∧
    decodeOp .br [0x30000000] = .ok .endTask ∧ decodeOp .br [0x34000000] = .ok .waite ∧
    decodeOp .br [0x3A000000] = .ok .csync ∧ decodeOp .br [0x3E00E000] = .ok (.bararr 7) ∧
    decodeOp .br [0x44000000] = .ok .pbar ∧ decodeOp .br [0x42000002] = .ok (.fence .pkg) ∧
    decodeOp .br [0x4A006050] = .ok (.setc 3 0x50) ∧ decodeOp .br [0x48080010] = .ok (.getc 1 0x10) ∧
    decodeOp .br [0x4C000005] = .ok (.trap 5) ∧ decodeOp .br [0x4E000000] = .ok .rte ∧
    decodeOp .br [0x80008281] = .ok (.setallow 4 5 true) := by decide

theorem test_words_scalar :
    decodeOp .s0 [0x02084180] = .ok (.sub 1 2 3) ∧ decodeOp .s1 [0x44188000] = .ok (.clz 3 4) ∧
    decodeOp .s0 [0x4E084180] = .ok (.ceilm 1 2 3) ∧ decodeOp .s1 [0x04182004] = .ok (.addi 3 1 4) ∧
    decodeOp .s0 [0x04187FFF] = .ok (.addi 3 3 (-1)) ∧ decodeOp .s0 [0x2A104008] = .ok (.shri 2 2 8) ∧
    decodeOp .s0 [0x42280123] = .ok (.lih 5 0x123) ∧ decodeOp .s0 [0x36086202] = .ok (.sel 1 2 3 4) ∧
    decodeOp .s0 [0x4A0840C8] = .ok (.extz 1 2 8 3) ∧ decodeOp .s0 [0x0828C380] = .ok (.mulh 5 6 7) ∧
    decodeOp .s1 [0x0E502100] = .ok (.div 10 1 2) ∧ decodeOp .s0 [0x0C302100] = .ok (.madd 6 1 2) ∧
    decodeOp .s1 [0x402B0000] = .ok (.li 5 0x30000) := by decide

theorem test_words_memory :
    decodeOp .ls [0x0027C281] = .ok (.ld 4 62 5 false .b2) ∧ decodeOp .ls [0x0610A203] = .ok (.stg 2 5 4 .b8) ∧
    decodeOp .ls [0x1A106203] = .ok (.amocasDm 2 3 4 false .b8) ∧
    decodeOp .ls [0x083904D3] = .ok (.amoaddGlobal 7 8 9 .pkg false .b8) := by decide

theorem test_words_stream :
    decodeOp .ag [0x00088000] = .ok (.gset 1 4 0) ∧ decodeOp .ag [0x0210A000] = .ok (.gsetf 2 5 0) ∧
    decodeOp .ag [0x04304011] = .ok (.gget 6 2 17) ∧ decodeOp .ag [0x0610E000] = .ok (.gadv 2 7) ∧
    decodeOp .ag [0x08080000] = .ok (.grst 1) ∧ decodeOp .ag [0x0A090480] = .ok (.gmask 1 8 9) ∧
    decodeOp .ag [0x0C182000] = .ok (.gcopy 3 1) := by decide

theorem test_words_vector :
    decodeOp .v0 [0x06182100] = .ok (.vfma 3 (.vec 1) (.vec 2) 0 .f32) ∧
    decodeOp .v1 [0x0028C391] = .ok (.vadd 5 (.vec 6) (.vec 7) 2 .f16) ∧
    decodeOp .v0 [0x04209280] = .ok (.vmul 4 (.vec 4) (.scal 5) 0 .f32) ∧
    decodeOp .v0 [0x26083200] = .ok (.vscale 1 (.vec 1) (.scal 4) 0 .f32) ∧
    decodeOp .v0 [0x3228C398] = .ok (.vsel 5 (.vec 6) (.vec 7) 3 .f32) ∧
    decodeOp .v0 [0x3C041083] = .ok (.viota 0 0 1 0 .i32) ∧
    decodeOp .v0 [0x24084181, 0x10000000] = .ok (.vclamp 1 (.vec 2) (.vec 3) (.vec 4) 0 .f16) ∧
    decodeOp .v0 [0x2C202100] = .ok (.vcmplt 4 (.vec 1) (.vec 2) 0 .f32) ∧
    decodeOp .v0 [0x3010A080] = .ok (.vclass 2 (.vec 5) 1 0 .f32) ∧
    decodeOp .v0 [0x3E412000, 0x68000000] = .ok (.vcvt 8 9 0 .f32 ⟨.i32, .rtz, .sat, false⟩) ∧
    decodeOp .v0 [0x46104000] = .ok (.vexp2 2 (.vec 2) 0 .f32) := by decide

theorem test_words_lanes :
    decodeOp .v0 [0x4E212000] = .ok (.vred 4 9 .add 0 .f32) ∧
    decodeOp .v0 [0x50188403] = .ok (.vscan 3 4 .add true 0 .i32) ∧
    decodeOp .v0 [0x52084184] = .ok (.vperm 1 2 3 0 .i16) ∧ decodeOp .v0 [0x54085184] = .ok (.vrot 1 2 3 0 .i16) ∧
    decodeOp .v0 [0x3A489103] = .ok (.vext 9 4 2 0 .i32) ∧ decodeOp .v0 [0x56504184] = .ok (.vzip 10 2 3 0 .i16) ∧
    decodeOp .v0 [0x5A328000, 0x08000000] = .ok (.vtopk 6 20 8 false 0 .f32) := by decide

theorem test_words_pack :
    decodeOp .vx [0x00210001, 0x18800000] = .ok (.vunpk 4 8 0 .f16 ⟨.e4m3, 1, .vmode, .sat, 0⟩) ∧
    decodeOp .vx [0x02A14580, 0x18000000] = .ok (.vunpks 20 10 (.vec 11) 0 .f32 ⟨.e4m3, 0, .vmode, .sat, 0⟩) ∧
    decodeOp .vp [0x02504000, 0x18000000] = .ok (.vpacksc 10 2 0 .f32 ⟨.e4m3, 0, .vmode, .sat, 0⟩) ∧
    decodeOp .vp [0x06182100] = .ok (.pand 3 1 2) ∧ decodeOp .vp [0x0E10E002] = .ok (.psetL16 2 7) ∧
    decodeOp .vp [0x12288000] = .ok (.pcnt 5 4 false) ∧
    decodeOp .vm [0x00380000, 0x44000200] = .ok (.vld 7 0 .f32 ⟨.ab, 4, 2⟩) ∧
    decodeOp .vm [0x06181604, 0x89000200] = .ok (.vsts 3 12 0 .i16 ⟨.cb, 9, 2⟩) ∧
    decodeOp .vm [0x02180000, 0x85FFE000] = .ok (.vst 3 0 .f32 ⟨.cb, 5, -32⟩) := by decide

theorem test_words_matrix :
    decodeOp .mx [0x02002100, 0x00280002] = .ok (.mmaz 0 1 2 40 2) ∧
    decodeOp .mx [0x04502100, 3] = .ok (.mmag 10 1 2 3) ∧ decodeOp .mx [0x06282100, 0] = .ok (.mmas 5 1 2) ∧
    decodeOp .mx [0x0A100301, 0x000A0040] = .ok (.tload 2 6 .f16 10 64) ∧
    decodeOp .mx [0x0C100000] = .ok (.tclr 2) ∧ decodeOp .mx [0x0E006200] = .ok (.tmask 0 3 4) ∧
    decodeOp .mx [0x10821000] = .ok (.precset ⟨1, 0, 2, 2, 0, 0, false, false⟩) ∧
    decodeOp .mx [0x10031A20] = .ok (.precset ⟨0, 0, 3, 3, 4, 4, false, false⟩) ∧
    decodeOp .mx [0x12282000] = .ok (.tstat 5 1 false) := by decide

theorem test_words_engine :
    decodeOp .ec [0x00004181, 0x00640040] = .ok (.copy 0 2 3 true .wb false false 100 64) ∧
    decodeOp .ec [0x22004184, 0x00050008] = .ok (.fill 2 3 false .cb 5 8) ∧
    decodeOp .ec [0x04204196, 0x64] = .ok (.gather 4 2 3 6 .ab false 100) ∧
    decodeOp .ec [0x062041A2, 0x10] = .ok (.scatter 4 2 3 2 .cb false 16) ∧
    decodeOp .ec [0x08006201, 0x00140004] = .ok (.xsend 3 4 .ab 20 4) ∧
    decodeOp .ec [0x0A006201, 0x001C0004] = .ok (.xrecv 3 4 .ab 28 4) ∧
    decodeOp .ec [0x0C004182, 2] = .ok (.fput 2 3 .cb 2) ∧ decodeOp .ec [0x0E004181, 1] = .ok (.fget 2 3 .ab 1) ∧
    decodeOp .ec [0x10390490, 0] = .ok (.fatom 7 8 9 .add true false false) ∧
    decodeOp .ec [0x12004182, 4] = .ok (.dput 2 3 .cb 4) ∧ decodeOp .ec [0x14004180, 4] = .ok (.dget 2 3 4) := by decide

theorem test_words_queue :
    decodeOp .ec [0x16004185, 0] = .ok (.wstart 2 3 5) ∧ decodeOp .ec [0x18000000, 0] = .ok .wstop ∧
    decodeOp .ec [0x1A0041A3, 0] = .ok (.qsend 2 3 3 true) ∧ decodeOp .ec [0x1C200003, 0] = .ok (.qrecv 4 3) ∧
    decodeOp .ec [0x1E004000, 0] = .ok (.launch 2) ∧ decodeOp .ec [0x20004181, 7] = .ok (.signal 2 3 true 7) := by decide

theorem test_words_walker :
    decodeWalker 0x0D158000 = some (.wadd 4 5 6) ∧ decodeWalker 0x15DC8000 = some (.wsub 7 7 2) ∧
    decodeWalker 0x224E8000 = some (.wand 9 3 10) ∧ decodeWalker 0x10440010 = some (.waddi 1 1 16) ∧
    decodeWalker 0x19980003 = some (.wshli 6 6 3) ∧ decodeWalker 0x1E0C0020 = some (.wshri 8 3 32) ∧
    decodeWalker 0x2543FFFF = some (.wli 5 (-1)) ∧ decodeWalker 0x51000002 = some (.wgetc 4 2) ∧
    decodeWalker 0x54180004 = some (.wsetc 6 4) ∧ decodeWalker 0x04840000 = some (.wld 2 1 0) ∧
    decodeWalker 0x08C40008 = some (.wldp 3 1 8) ∧ decodeWalker 0x28080009 = some (.wbeq 2 0 9) ∧
    decodeWalker 0x2C08FFFC = some (.wbne 2 3 (-4)) ∧ decodeWalker 0x30114003 = some (.wblt 4 5 3) ∧
    decodeWalker 0x3403FFFA = some (.wj (-6)) ∧ decodeWalker 0x3883FFFC = some (.wloop 2 (-4)) := by decide

theorem test_words_tokens :
    decodeWalker 0x44140014 = some (.wtile 5 0 2 true 0) ∧ decodeWalker 0x3C0D8000 = some (.wemit 3 6) ∧
    decodeWalker 0x5DE24000 = some (.wgath 7 8 9) ∧ decodeWalker 0x48000000 = some .wflush ∧
    decodeWalker 0x40000002 = some (.wemitz 2) ∧ decodeWalker 0x4C000000 = some .weos ∧
    decodeWalker 0x58000000 = some .whalt := by decide

/-- The last bundle of the spec's kernel `trisum`, whole: END and a store under one header, at byte 0x34. -/
theorem test_bundle_trisum :
    decodeBundle [0x00920300, 0x30000000, 0x0610A203] 0x34 false =
      .ok ⟨3, 2, [⟨.br, 1, .endTask, none⟩, ⟨.ls, 2, .stg 2 5 4 .b8, none⟩]⟩ := by decide

/-- Four bundles the checks refuse, with index, slot and reason (R144, R145, R161, R162): a reserved header bit, an OP no slot
assigns, a syllable too many, and a crossing of a 64-byte boundary. -/
theorem test_bundle_refused :
    decodeBundle [0x00110101, 0x30000000] 0 false = .error (0, 0, 1) ∧ decodeBundle [0x00110100, 0x00000000] 0 false = .error (1, 0, 4) ∧
    decodeBundle [0x00120100, 0x30000000, 0] 0 false = .error (0, 0, 2) ∧
    decodeBundle [0x00110100, 0x30000000] 60 false = .error (0, 0, 3) := by decide

/-! ### Ill-formed terms, one for each check of WellFormed.lean -/

theorem test_ill_formed_control :
    (Instr.loop 1 0 0).wf = false ∧ (Instr.loopp 1 0 (-1) 0).wf = false ∧ (Instr.sloop 0 0 1).wf = false ∧
    (Instr.getc 1 8).wf = false ∧ (Instr.setc 1 (-1)).wf = false ∧ (Instr.trap 0x40000).wf = false ∧
    (Instr.setallow 1 2 false).wf = false ∧ (Instr.setallowMode 1 2 false).wf = false := by decide

theorem test_ill_formed_scalar :
    (Instr.exts 1 2 60 4).wf = false ∧ (Instr.extz 1 2 63 1).wf = false ∧ (Instr.ins 1 2 1 63).wf = false ∧
    (Instr.ld 1 2 3 true .b8).wf = false ∧ (Instr.ldg 1 2 3 true .b8).wf = false ∧
    (Instr.amoaddDm 1 2 3 false .b2).wf = false ∧ (Instr.amocasGlobal 1 2 3 .dur false .b8).wf = false := by decide

theorem test_ill_formed_vector :
    (Instr.vabs 1 (.vec 2) 0 .n32).wf = false ∧ (Instr.vneg 1 (.vec 2) 0 .n16).wf = false ∧
    (Instr.vshl 1 (.vec 2) (.vec 3) 0 .f32).wf = false ∧ (Instr.viota 1 2 3 0 .bf16).wf = false ∧
    (Instr.vscale 1 (.vec 2) (.vec 3) 0 .i32).wf = false ∧ (Instr.vclass 1 (.vec 2) 1 0 .i16).wf = false ∧
    (Instr.vcvt 1 2 0 .f32 ⟨.f32, .rne, .sat, false⟩).wf = false ∧ (Instr.vrcp 1 (.vec 2) 0 .n16).wf = false ∧
    (Instr.vred 1 2 .and 0 .f32).wf = false ∧ (Instr.vscan 1 2 .xor false 0 .f16).wf = false ∧
    (Instr.vzip 1 2 3 0 .i16).wf = false ∧ (Instr.vunzip 3 2 3 0 .i16).wf = false ∧
    (Instr.vtopk 2 3 65 false 0 .f32).wf = false ∧ (Instr.vhacc 1 (.vec 2) 0 .f32 ⟨1, false, 4, .cnt⟩).wf = false := by decide

def flatLevel (n : BitVec 10) : NestLevel := ⟨n, 0, 0, 0⟩

theorem test_ill_formed_nest :
    let x : NestArgs := ⟨.vadd, .f32, 0, .ab, .ab, .wb, 0, 0, 0, flatLevel 255, flatLevel 255, flatLevel 0, flatLevel 0, flatLevel 0⟩
    (Instr.vnest x).wf = true ∧ (Instr.vnest { x with bufD := .wb }).wf = false ∧
    (Instr.vnest { x with bufA := .dm }).wf = false ∧ (Instr.vnest { x with l2 := flatLevel 1 }).wf = false := by decide

/-- A nest's operation has the code that R155 gives it in the V slot. -/
theorem test_nest_codes :
    NestOp.ofCode 0x1A = some .vmov ∧ NestOp.ofCode 0x19 = none ∧ NestOp.ofCode (fOp 0x06182100) = some .vfma := by decide

theorem test_ill_formed_pack :
    (Instr.vunpk 1 2 0 .f16 ⟨.e8m0, 0, .vmode, .sat, 0⟩).wf = false ∧ (Instr.vunpk 1 2 0 .f16 ⟨.e4m3, 2, .vmode, .sat, 0⟩).wf = false ∧
    (Instr.vunpk 1 2 0 .f16 ⟨.e4m3, 0, .rne, .sat, 0⟩).wf = false ∧
    (Instr.vunpks 1 2 (.vec 3) 0 .i32 ⟨.i8, 0, .vmode, .sat, 0⟩).wf = false ∧
    (Instr.vunpkz 1 2 (.vec 3) 0 .f32 ⟨.i8, 0, .vmode, .sat, 0⟩).wf = false ∧
    (Instr.vpack 1 2 0 .i32 ⟨.e4m3, 0, .vmode, .sat, 0⟩).wf = false ∧
    (Instr.vpacksc 3 2 0 .f32 ⟨.e4m3, 0, .vmode, .sat, 0⟩).wf = false ∧
    (Instr.vpackz 2 2 0 .f32 ⟨.n8, 0, .vmode, .sat, 2⟩).wf = false := by decide

theorem test_ill_formed_engine :
    (Instr.mma 0 1 1 0 1).wf = false ∧ (Instr.mmaz 0 1 2 0 0).wf = false ∧
    (Instr.tdrain 0 .rne 1 .i8 .sat 0 3).wf = false ∧ (Instr.tload 0 1 .e4m3 0 2).wf = false ∧
    (Instr.copy 1 2 3 false .wb false false 0 1).wf = false ∧ (Instr.copy 1 2 3 false .ab true true 0 1).wf = false ∧
    (Instr.copym 1 2 3 false .wb true 0 0).wf = false ∧ (Instr.gather 1 2 3 0 .wb false 0).wf = false ∧
    (Instr.xsend 1 2 .ab 0 0).wf = false ∧ (Instr.fput 1 2 .ab 0).wf = false ∧ (Instr.dget 1 2 0).wf = false ∧
    (Instr.fatom 1 2 3 .add true true false).wf = false ∧ (Instr.signal 1 2 false 1).wf = false ∧
    (Instr.fill 1 2 false .ab 0 0).wf = false := by decide

/-- What is ill-formed has no word: the encodings that would name these are refused (R161 step 3). -/
theorem test_ill_formed_words :
    decodeOp .br (encode (.loop 1 0 0)) = .error (0, 5) ∧ decodeOp .br (encode (.getc 1 8)) = .error (0, 9) ∧
    decodeOp .s0 (encode (.exts 1 2 60 4)) = .error (0, 5) ∧ decodeOp .v0 (encode (.vzip 1 2 3 0 .i16)) = .error (0, 6) ∧
    decodeOp .v0 (encode (.vshl 1 (.vec 2) (.vec 3) 0 .f32)) = .error (0, 6) := by decide

/-! ### Small states -/

/-- A segment entry of base, size, physical base and attribute bits (R86). -/
def seg (vbase size pbase attrs : Nat) : Segment :=
  ⟨BitVec.ofNat 64 vbase, BitVec.ofNat 64 size, BitVec.ofNat 64 pbase, BitVec.ofNat 64 (2 * attrs + 1)⟩

/-- A task that owns core 0 whole: a plain segment at 0x3_0000, DUR at 0x5_0000, REM at 0x6_0000, host at 0x7_0000, PG at
0x8_0000 and a read-only one at 0x9_0000. -/
def task : Task := { placedTask with segs := [seg 0x30000 0x10000 0x200000 0, seg 0x50000 0x10000 Config.durBase 2,
  seg 0x60000 0x10000 (0x200000 + 2 * 2 ^ 45) 8, seg 0x70000 0x10000 Config.hostBase 4, seg 0x80000 0x10000 0 1,
  seg 0x90000 0x10000 0x300000 16] }

/-- A context with the scalar registers of a list. -/
def withS (c : Ctx) (l : List (SReg × W64)) : Ctx := l.foldl (fun c x => { c with s := c.s.set x.1 x.2 }) c

/-- Context 0 of core 0 in its issue phase, at TTC 5 and GCC 1,000, with some registers set. -/
def at5 (slot : Slot) (regs : List (SReg × W64)) (f : Ctx → Ctx) : State :=
  { State.reset with
    phase := .issue
    slot := slot
    gcc := 1000
    ctxs := [(0, f (withS { Ctx.reset with task := some task, pc := 0x10, ttc := 5 } regs))]
    cores := [(0, { CoreState.reset with width := some 0 })]
    tenants := [(0, { Tenant.reset with live := true, cores := [0, 1] })] }

/-- The same in supervisor mode. -/
def super5 (slot : Slot) (regs : List (SReg × W64)) : State := at5 slot regs (fun c => { c with mode := .supervisor })

/-- The effect that an operation has put in flight last, with its TTC. -/
def lastFlight (o : Host.Outcome State Fault Refusal) : Option (Nat × Act) :=
  match o with
  | .next t => (ctxOf t 0).flights.getLast?.map (fun f => (f.due, f.act))
  | _ => none

/-- The cause that an operation has raised at issue. -/
def raised (o : Host.Outcome State Fault Refusal) : Option (Nat × W64) :=
  match o with
  | .next t => t.issueFault
  | _ => none

/-! ### Single results, worked by hand from the entries -/

theorem test_madd_reads_destination :
    lastFlight (exec (.madd 6 1 2) (at5 .s0 [(1, 3), (2, 5), (6, 100)] id)) = some (8, .result (.s 6 115) 0 none) := by
  decide +kernel

theorem test_mulh_signed :
    lastFlight (exec (.mulh 5 6 7) (at5 .s0 [(6, -1), (7, 2)] id)) = some (8, .result (.s 5 (-1)) 0 none) ∧
    lastFlight (exec (.mulhn 5 6 7) (at5 .s0 [(6, -1), (7, 2)] id)) = some (8, .result (.s 5 1) 0 none) := by decide +kernel

theorem test_div_corners :
    lastFlight (exec (.div 10 1 2) (at5 .s0 [(1, 0x8000000000000000), (2, -1)] id)) =
      some (25, .result (.s 10 0x8000000000000000) 0 none) ∧
    lastFlight (exec (.rem 10 1 2) (at5 .s0 [(1, -7), (2, 2)] id)) = some (25, .result (.s 10 (-1)) 0 none) := by decide +kernel

theorem test_lih_shifts_19 :
    lastFlight (exec (.lih 8 0x36333) (at5 .s0 [(8, 336)] id)) = some (6, .result (.s 8 0x0A836333) 0 none) := by decide +kernel

theorem test_ins_field :
    lastFlight (exec (.ins 3 4 8 3) (at5 .s0 [(3, 0xFFFF), (4, 0x25)] id)) = some (6, .result (.s 3 0xF5FF) 0 none) := by
  decide +kernel

theorem test_ceilm_rounds_up :
    lastFlight (exec (.ceilm 1 2 3) (at5 .s0 [(2, 17), (3, 4)] id)) = some (6, .result (.s 1 32) 0 none) := by decide +kernel

theorem test_load_misaligned_traps :
    (raised (exec (.ld 4 1 2 false .b8) (at5 .ls [(1, 4)] id))).map (fun x => x.1) = some 0x16 := by decide +kernel

theorem test_branch_in_shadow_traps :
    (raised (exec (.b 4) (at5 .br [] (fun c => { c with redirect := some ⟨0, 1, true⟩ })))).map (fun x => x.1) = some 0x04 := by
  decide +kernel

/-! ### States that meet the hypotheses of each statement, clause by clause -/

/-- The answer is a next state in which nothing has faulted at issue. -/
def clean (o : Host.Outcome State Fault Refusal) : Bool :=
  match o with
  | .next t => t.issueFault.isNone
  | _ => false

/-- SUB in a bundle of its own, placed before context 0 at reset. -/
def placed : State := placeBundle State.reset .s0 [0x02084180] 1 .user

theorem test_wit_SpecWordsDecode :
    opLength .br (fOp 0) = none ∧ opLength .ec (fOp 0x24000000) = none ∧ fieldOf 0 26 6 = 0 ∧
    0x17 < fieldOf 0x60000000 26 6 := by decide

theorem test_wit_DecodeOfEncode :
    (Instr.sub 1 2 3).wf = true ∧ standsIn (.sub 1 2 3) .s0 = true ∧ standsIn (.sub 1 2 3) .s1 = true ∧
    (Instr.vadd 1 (.vec 2) (.scal 3) 0 .f32).wf = true ∧ standsIn (.vadd 1 (.vec 2) (.scal 3) 0 .f32) .v1 = true ∧
    (Instr.wadd 1 2 3).wf = true ∧ isWalker (.wadd 1 2 3) = true := by decide

theorem test_wit_EncodeOfDecode :
    (0x3E412000 < 2 ^ 32 ∧ 0x68000000 < 2 ^ 32) ∧ opLength .v0 (fOp 0x3E412000) = some 2 ∧
    decodeOp .v0 [0x3E412000, 0x68000000] = .ok (.vcvt 8 9 0 .f32 ⟨.i32, .rtz, .sat, false⟩) ∧
    decodeWalker 0x58000000 = some .whalt := by decide

theorem test_wit_ResetState : 0 < 1536 ∧ 1535 < 1536 := by decide

theorem test_wit_StepRuns :
    (placed.inputs = [] ∧ placed.phase = .issue ∧ placed.agenda = [0] ∧ (coreOf placed 0).width = some 0 ∧
      canIssue placed 0 = true ∧ (let t := { placed with agenda := [], cur := 0, issueFault := none };
        checkBundle t 0 = .ok ⟨1, 1, [⟨.s0, 1, .sub 1 2 3, none⟩]⟩ ∧
        windowCheck (hereCore t) t.gcc 1 (newDraws t ⟨1, 1, [⟨.s0, 1, .sub 1 2 3, none⟩]⟩) = .fits ∧ endsInDelay (here t) = false)) ∧
    (let s := placeWalker State.reset 0x0D158000;
      s.inputs = [] ∧ s.phase = .walk ∧ s.agenda = [visit 1 0 0] ∧ (clusterOf s 0).walk = some placedWalk ∧
      placedWalk.late = none ∧ (ctxOf s 0).freeze = none ∧ (let t := { s with agenda := [], walker := 0 };
        walkFetch t placedWalk 0 = some 0x0D158000 ∧ decodeWalker 0x0D158000 = some (.wadd 4 5 6) ∧
        meetsWalkWrite t placedWalk = false)) := by
  decide +kernel

theorem test_wit_StepRuns_event : ∃ s : State, ∃ i r, s.inputs = i :: r ∧ Instr.isEvent i = true :=
  ⟨{ State.reset with inputs := [.timerInterrupt 0] }, .timerInterrupt 0, [], rfl, rfl⟩

theorem test_wit_StepRunsInstruction :
    (Instr.sub 1 2 3).wf = true ∧ standsIn (.sub 1 2 3) .s0 = true ∧ opWeight (.sub 1 2 3) ≤ 1 ∧
    (let t := { placed with agenda := [], cur := 0, issueFault := none };
      (here t).mode = .user ∧ codeAddr (here t) (here t).pc = some placeBase ∧
      placeBase % 64 + 4 * ((encode (.sub 1 2 3)).length + 1) ≤ 64 ∧ isCode t (here t) = true ∧
      bundleWords t (here t) = encodeHeader [.s0] 1 1 :: encode (.sub 1 2 3) ∧
      windowCheck (hereCore t) t.gcc 1 (drawsOf t (.sub 1 2 3)) = .fits ∧ endsInDelay (here t) = false ∧
      clean (exec (.sub 1 2 3) { underWay t 1 (drawsOf t (.sub 1 2 3)) with slot := .s0 }) = true) := by decide +kernel

theorem test_wit_NothingStops : clean (step placed) = true ∧ placed.inputs = [] ∧ State.reset.inputs = [] := by decide +kernel

theorem test_wit_MemoryFormKept : MemoryOk placed ∧ placed.mem ≠ [] ∧ clean (step placed) = true := by
  unfold MemoryOk; decide +kernel

theorem test_wit_IssueWritesNothing :
    slotOf (.st 1 2 3 .b8) ≠ none ∧ (at5 .ls [(1, 9)] id).issueFault = none ∧
    clean (exec (.st 1 2 3 .b8) (at5 .ls [(1, 9)] id)) = true ∧
    (let s := modCluster (at5 .ec [] id) 0 (fun c => { c with startQ := [{ placedWalk with begun := true }] });
      clean (exec .wstop s) = true ∧ (∀ w ∈ (clusterOf s (clusIx s.cur)).startQ, w.ctx = s.cur → w.begun = true) ∧
      (clusterOf s (clusIx s.cur)).startQ ≠ []) := by decide +kernel

theorem test_wit_ScalarResults :
    (let s := at5 .s0 [(1, 7), (2, 2)] id;
      (Instr.div 10 1 2).wf = true ∧ scalarResult (here s) (.div 10 1 2) = some (20, 20, 10, 3) ∧ Lands s 20 (.s 10 3) ∧
      scalarResult (here s) (.add 0 1 2) = some (1, 1, 0, 9) ∧ Lands s 1 (.s 0 9)) ∧
    slotFree (at5 .s0 [] (fun c => { c with flights := [⟨0, 8, .occupy 1, []⟩] })) = false ∧
    (let s := at5 .s0 [] (fun c => { c with flights := [⟨0, 6, .result (.s 3 1) 0 none, [(0, 3, 6)]⟩] });
      slotFree s = true ∧ noCollision s 1 (.s 3 0) = false) := by unfold Lands; decide +kernel

theorem test_wit_SelectRule :
    0x36086242 < 2 ^ 32 ∧ fieldOf 0x36086242 25 7 = 0x1B ∧ fieldOf 0x36086242 6 1 = 1 ∧
    Lands (at5 .s1 [(4, 1)] id) 1 (.s 1 0) := by unfold Lands; decide +kernel

theorem test_wit_ScalarValues :
    (0x8000000000000000 : W64).toInt = -2 ^ 63 ∧ (2 : W64) ≠ 0 ∧
    ¬((0x8000000000000000 : W64).toInt = -2 ^ 63 ∧ (2 : W64) = -1) := by decide

/-- CEILM of the largest word to a multiple of 16 wraps to 0 (R197). -/
theorem test_ceilm_wraps : ceilMultiple (-1) 4 = 0 ∧ ceilMultiple 17 4 = 32 ∧ ceilMultiple 16 4 = 16 := by decide

theorem test_wit_Branches :
    (let s := at5 .br [(1, 1), (2, 0x40), (3, 0x42)] id;
      slotFree s = true ∧ (here s).redirect = none ∧ branchOf (here s) (.bz 1 4) = some (false, 16) ∧
      branchOf (here s) (.bnz 1 (-4)) = some (true, -16) ∧ noCollision s 1 (.s 63 0) = true ∧ noCollision s 1 (.s 0 0) = true ∧
      ((here s).readS 2).toNat % 4 = 0 ∧ ((here s).readS 3).toNat % 4 ≠ 0) ∧
    (let s := at5 .br [] (fun c => { c with redirect := some ⟨0x40, 1, true⟩ });
      slotFree s = true ∧ branchOf (here s) (.b 1) = some (true, 4) ∧ (here s).redirect ≠ none) ∧
    noCollision (at5 .br [] id) 1 (.cr 0x60 0) = true ∧
    (let c : Ctx := { Ctx.reset with branch := some ⟨0x40, 2, true⟩ };
      c.branch = some ⟨0x40, 2, true⟩ ∧ c.skip = none) := by decide +kernel

/-- A loop entry that ends at the pc of the states here. -/
def loopAt (k : LoopKind) (n : Fin 4) : LoopEntry := ⟨k, n, 0x08, 0x10, 5, 2, 0, 3⟩

theorem test_wit_LoopsEntered :
    (let s := at5 .br [(1, 5), (2, 0)] id;
      slotFree s = true ∧ (here s).redirect = none ∧ (here s).readS 1 ≠ 0 ∧ loopRoom (here s) (some 0) false = true ∧
      loopRoom (here s) (some 3) true = true ∧ loopRoom (here s) none false = true ∧ (here s).readS 2 = 0 ∧
      (here s).mode = .user ∧ noCollision s 1 (.p 3 0) = true ∧ loopClash (here s) (some 3) false = false ∧
      loopClash (here s) (some 3) true = false) ∧
    (let s := at5 .br [(1, 5)] (fun c => { c with loops := [loopAt .loopp 0] });
      slotFree s = true ∧ (here s).redirect = none ∧ loopRoom (here s) (some 0) false = false ∧
      loopRoom (here s) (some 1) true = false ∧ loopRoom (here s) (some 1) false = true ∧ (here s).readS 2 = 0 ∧
      loopClash (here s) (some 0) false = true ∧ loopClash (here s) (some 1) true = true ∧
      loopClash (here s) (some 1) false = false) ∧
    (let s := at5 .br [(1, 5)] (fun c => { c with loops := [loopAt .loop 0, loopAt .loop 1, loopAt .loop 2, loopAt .sloop 0] });
      loopRoom (here s) (some 3) false = false ∧ loopRoom (here s) none false = false) ∧
    ((here (super5 .br [])).mode = .supervisor ∧ loopRoom (here (super5 .br [])) none false = false) ∧
    (let s := at5 .br [] (fun c => { c with redirect := some ⟨0x40, 1, true⟩ });
      slotFree s = true ∧ (here s).redirect ≠ none) := by decide +kernel

theorem test_wit_LoopsEnd :
    (let s := at5 .br [] (fun c => { c with loops := [loopAt .loop 1], lc := c.lc.set 1 2 });
      (here s).loops = [loopAt .loop 1] ∧ (loopAt .loop 1).stop = (here s).pc ∧ 1 < (here s).lc[(1 : Fin 4)].toNat) ∧
    (let s := at5 .br [] (fun c => { c with loops := [loopAt .loopp 1], lc := c.lc.set 1 1 });
      (here s).loops = [loopAt .loopp 1] ∧ (here s).lc[(1 : Fin 4)].toNat ≤ 1 ∧ ∀ f ∈ ([] : List LoopEntry), f.stop ≠ (here s).pc) ∧
    (let s := at5 .br [] (fun c => { c with loops := [loopAt .sloop 0], p := c.p.set 3 1 });
      (here s).loops = [loopAt .sloop 0] ∧ (here s).readP 3 ≠ BitVec.allOnes 128) ∧
    (here (at5 .br [] (fun c => { c with p := c.p.set 3 (BitVec.allOnes 128) }))).readP 3 = BitVec.allOnes 128 ∧ 2 ≤ 8 ∧
    (let s := at5 .br [] (fun c => { c with loopState := [(0x80, 5)] }); (here s).loops = [] ∧ (here s).loopState ≠ []) ∧
    (let s := at5 .br [] (fun c => { c with loops := [{ loopAt .loop 1 with stop := 0x20 }], loopState := [(0x81, 5)] });
      ∀ e ∈ (here s).loops, e.stop ≠ (here s).pc) ∧
    (here (at5 .br [] id)).mode = .user ∧ (here (super5 .br [])).mode = .supervisor := by
  decide +kernel

/-- Two loops that end at one bundle: the inner at its last pass is popped, and the outer goes round (R167). -/
theorem test_loops_share_end :
    let s := at5 .br [] (fun c => { c with loops := [loopAt .loop 1, { loopAt .loop 2 with start := 4 }], lc := (c.lc.set 1 1).set 2 3 });
    (here s).loops = loopAt .loop 1 :: [{ loopAt .loop 2 with start := 4 }] ∧ (loopAt .loop 1).stop = (here s).pc ∧
    (here s).lc[(1 : Fin 4)].toNat ≤ 1 ∧ (endTest s).2 = some 4 ∧ (here (endTest s).1).loops.length = 1 := by decide +kernel

/-- A BSEL table of two buckets, 8 and 16, at DM 0: targets 0x40 and 0x80, overflow target 0xC0 (R171). -/
def bucketTable : Memory :=
  memWriteNat (memWriteNat (memWriteNat [] 0 8 (0xC0 * 2 ^ 32 + 2)) 8 8 (0x40 * 2 ^ 32 + 8)) 16 8 (0x80 * 2 ^ 32 + 16)

def withBuckets (s : State) : State := modCore s 0 (fun c => { c with dm := bucketTable })

theorem test_wit_BucketSelect :
    let s := withBuckets (at5 .br [(2, 9)] id);
    slotFree s = true ∧ (here s).redirect = none ∧ ((here s).readS 3).toNat % 8 = 0 ∧ inPartition (here s) .dm 0 8 = true ∧
    noPending s .dm 0 8 = true ∧ fieldOf (bselEntry s 0 0 0) 0 32 = 2 ∧ inPartition (ctxOf s 0) .dm 0 (8 * 3) = true ∧
    firstPending s 0 .dm 0 (8 * 3) = none ∧ badBytes s 0 .dm 0 (8 * 3) = [] ∧
    9 ≤ fieldOf (bselEntry s 0 0 2) 0 32 ∧ (∀ i, i < 1 → fieldOf (bselEntry s 0 0 (i + 1)) 0 32 < 9) ∧
    fieldOf (bselEntry s 0 0 2) 32 32 % 4 = 0 ∧ (∀ i, i < 2 → fieldOf (bselEntry s 0 0 (i + 1)) 0 32 < 17) ∧
    fieldOf (bselEntry s 0 0 0) 32 32 % 4 = 0 := by decide +kernel

theorem test_bsel_picks_second_bucket :
    let t := bselRead (withBuckets (at5 .br [] (fun c => { c with redirect := some ⟨0, 2, true⟩ }))) 0 9 0;
    (ctxOf t 0).padm = 7 ∧ (ctxOf t 0).redirect.map (fun r => r.target) = some 0x80 := by decide +kernel

theorem test_wit_MaskStack :
    (let s := at5 .br [] (fun c => { c with mask := List.replicate 15 1 });
      slotFree s = true ∧ (here s).mode = .user ∧ (here s).mask.length < 16 ∧ (here s).mask = 1 :: List.replicate 14 1) ∧
    (here (at5 .br [] (fun c => { c with mask := List.replicate 16 1 }))).mask.length = 16 ∧ (here (at5 .br [] id)).mask = [] ∧
    (here (super5 .br [])).mode = .supervisor ∧ slotFree (super5 .br []) = true ∧
    ({ Ctx.reset with maskNext := some [1] } : Ctx).maskNext = some [1] := by decide +kernel

theorem test_wit_WaitsBegin :
    (let s := at5 .br [(1, 0x30000), (2, 0x50000), (3, 0x105), (4, 0x205)] id;
      slotFree s = true ∧ waitBegun s .endTask = some .endTask ∧ waitMode (here s).mode .endTask = true ∧
      waitBegun s (.barwait 3 0) = some (.barwait 69 0) ∧ waitMode (here s).mode (.barwait 3 0) = true ∧
      (here s).resultCount < 16 ∧ kindOf s 0 0x30000 ≠ none ∧ ((here s).readS 1).toNat % 8 = 0 ∧
      kindOf s 0 0x50000 = some (.dur, true) ∧ ((here s).readS 2).toNat % 64 = 0 ∧ inPartition (here s) .dm 0 64 = true ∧
      noPending s .dm 0 64 = true ∧ barrierOk s ((here s).readS 4) = false ∧
      heldPage s 0x30000 = none ∧ heldPage s 0x80000 = some 8 ∧ kindOf s 0 0x80000 ≠ none ∧ 0x80000 % 8 = 0) ∧
    waitMode (here (super5 .br [])).mode .rte = true ∧ waitBegun (super5 .br []) .rte = some .rte := by decide +kernel

theorem test_wit_ControlOperations :
    let s := at5 .br [(1, 0x105)] id;
    slotFree s = true ∧ barrierOk s ((here s).readS 1) = true ∧ pinnedBytes (hereCore s).pins ≤ 0x20000 ∧
    pinnedBytes ((hereCore s).pins ++ [0x200000].map (fun b => (b, nodeIds (here s)))) ≤ 0x20000 := by decide +kernel

/-- IPIN pins a block for its node once, whatever it pinned before, and IUNPIN of that node alone drops it (R91, R183). -/
theorem test_pins :
    pinBlocks 0x80 (1, 3) [(0x40, (1, 3))] [0x40, 0x80, 0xC0] = [(0x40, (1, 3)), (0x80, (1, 3))] ∧
    unpinBlocks (1, 4) [(0x40, (1, 3))] [0x40] = [(0x40, (1, 3))] ∧ unpinBlocks (1, 3) [(0x40, (1, 3))] [0x40] = [] := by
  decide +kernel

theorem test_wit_ControlRegisterMoves :
    (let s := at5 .br [(1, 3)] id;
      (0xFF : BitVec 13).toNat < 0x100 ∧ Lands s 1 (.s 5 (readCR s 0 1)) ∧ writableCR (here s).mode 0x50 = true ∧
      Lands s 2 (.cr 0x50 3) ∧ writableCR (here s).mode 0x70 = false ∧ slotFree s = true ∧ (here s).mode = .user ∧
      0x100 ≤ (0x100 : BitVec 13).toNat) ∧
    (let s := { super5 .br [] with cur := 1536, ctxs := [(1536, { Ctx.reset with mode := .supervisor })] };
      (here s).mode = .supervisor ∧ slotFree s = true ∧ Config.firstSystemCore ≤ coreIx s.cur) := by
  unfold Lands; decide +kernel

theorem test_wit_ControlRegisters :
    (coreOf State.reset 0).target < 2 ^ 13 ∧ (coreOf State.reset 0).value < 2 ^ 13 ∧ 1535 < 1536 ∧
    (ctxOf State.reset 0).mode = .user ∧
    (let x := { task with tid := [7], text := [9] };
      (ctxOf (at5 .br [] (fun c => { c with task := some x })) 0).task = some x ∧ x.tid[0]? = some 7 ∧ x.text[0]? = some 9) ∧
    (let f : Flight := ⟨0, 5, .result (.cr 0x181 1) 0 none, []⟩; f.act = .result (.cr 0x181 1) 0 none) ∧ 384 ≤ coreIx 1536 ∧
    coreIx 1535 < 384 ∧
    (let s := modDie State.reset 0 (fun d => { d with faults := [⟨1, 2, 3, 4⟩, ⟨5, 6, 7, 8⟩], ovf := true });
      (dieOf s (dieIx 1536)).faults = ⟨1, 2, 3, 4⟩ :: [⟨5, 6, 7, 8⟩] ∧ (dieOf s (dieIx 1536)).held = [] ∧
      (dieOf s (dieIx 1536)).faults.length ≤ 4096) ∧
    (dieOf State.reset (dieIx 1536)).faults = [] ∧ (coreOf State.reset (coreIx 1536)).pgres = none ∧
    (coreOf (modCore State.reset 384 (fun c => { c with pgres := some 1 })) (coreIx 1536)).pgres = some 1 := by
  decide +kernel

theorem test_wit_SupervisorOperations :
    (let s := super5 .br [(1, 7), (2, 383), (3, 8)];
      slotFree s = true ∧ (here s).mode = .supervisor ∧ ((here s).readS 2).toNat % 512 < Config.cores ∧
      namedCtx s ((here s).readS 1) = some 7 ∧ resultRoom s (resultFor 5) = true ∧ namedCtx s ((here s).readS 3) = none ∧
      portReadable s 0 64 1 = true ∧ (ctxOf s 7).freeze = none) ∧
    (let s := modCtx (super5 .br [(1, 7)]) 7 (fun c => { c with halted := some 500 });
      (ctxOf s 7).freeze = none ∧ (ctxOf s 7).halted = some 500) ∧
    (let s := modCtx (super5 .br [(1, 7)]) 7 (fun c => { c with freeze := some ⟨600, [.pf], 0⟩ });
      (ctxOf s 7).freeze = some ⟨600, [.pf], 0⟩ ∧ FreezeMark.pf ∈ [FreezeMark.pf]) ∧
    (let s := modHere (super5 .br []) (fun c => { c with tcause := 0x13 });
      slotFree s = true ∧ (here s).mode = .supervisor ∧ (here s).tcause = 0x13 ∧ (here s).task.isSome = true) := by decide +kernel

theorem test_wit_Privilege :
    isSupervisorOnly .halt = true ∧ slotFree (at5 .br [] id) = true ∧ (here (at5 .br [] id)).mode = .user ∧
    (let b : Bundle := ⟨2, 1, [⟨.br, 1, .halt, none⟩]⟩;
      archWeight b ≤ b.weight ∧ ∃ o ∈ b.ops, isSupervisorOnly o.instr = true) := by decide +kernel

/-- A context in user mode with a result in flight and a redirect one bundle away. -/
def trapped : State :=
  at5 .br [] (fun c => { c with
    tframe := 0x40
    flights := [⟨0, 8, .result (.s 3 1) 0 none, [(0, 3, 8)]⟩]
    redirect := some ⟨0x80, 1, true⟩ })

theorem test_wit_TrapTaken :
    (ctxOf trapped 0).mode = .user ∧ frameFits (ctxOf trapped 0) = true ∧ 0x28 < 256 ∧ 0xFF < 256 := by decide +kernel

theorem test_wit_TrapRoundTrip :
    (ctxOf trapped 0).mode = .user ∧ frameFits (ctxOf trapped 0) = true ∧ (ctxOf trapped 0).ttc < 2 ^ 64 ∧
    (∀ f ∈ (ctxOf trapped 0).flights, (ctxOf trapped 0).ttc ≤ f.due) ∧
    (ctxOf trapped 0).redirect = some ⟨0x80, 1, true⟩ ∧ 0 < (⟨0x80, 1, true⟩ : Redirect).left ∧
    (⟨0x80, 1, true⟩ : Redirect).left < 4 ∧ ((ctxOf trapped 0).untimed.all (fun u => u.late == [])) = true := by decide +kernel

/-- The result three cycles away at the trap is in the snapshot with DELAY 3, and the handler starts at TVEC (R189, R190). -/
theorem test_trap_snapshot :
    let d := ctxOf (takeTrap trapped 0 0x13 (some 5) 0x10 false false) 0;
    d.snap.map (fun e => e.delay) = [3] ∧ d.flights = [] ∧ d.mode = .supervisor ∧ d.trtgt = 0x80 := by decide +kernel

theorem test_wit_DoubleFaults :
    ((ctxOf (super5 .br []) 0).mode = .supervisor ∧ (ctxOf (super5 .br []) 0).group = [] ∧
      (dieOf (super5 .br []) (dieIx 0)).faults.length < 4096) ∧
    frameFits (ctxOf (at5 .br [] (fun c => { c with tframe := 0xFB40 })) 0) = false ∧
    frameFits (ctxOf (at5 .br [] (fun c => { c with tframe := 0xFB00 })) 0) = true := by decide +kernel

/-- An untimed operation that has not performed. -/
def placedUntimed : Untimed := ⟨0, .load 0x30000 8 false, false, false, none, false, [], [], none, none, 0, [], none⟩

theorem test_wit_DmAccesses :
    (let s := at5 .ls [(1, 0xFFF8), (2, 0xFFFC), (4, 1)] id;
      slotFree s = true ∧ dmOk s ((here s).readS 1 + (here s).readS 0).toNat 8 = true ∧ noCollision s 3 (.s 5 0) = true ∧
      amoDmOf (.amocasDm 2 1 4 false .b8) = some (.cas, 2, 1, 4, false, .b8) ∧
      noPending s .dm 0xFFFC 8 = true ∧ (0xFFFC % 8 ≠ 0 ∨ (here s).size .dm < 0xFFFC + 8)) := by decide +kernel

theorem test_wit_DmAccesses_faults :
    (let s := at5 .ls [] (fun c => { c with flights := [⟨0, 8, .result (.s 5 1) 0 none, [(0, 5, 8)]⟩] });
      slotFree s = true ∧ noPending s .dm 0 8 = true ∧ noCollision s 3 (.s 5 0) = false) ∧
    (let s := at5 .ls [] (fun c => { c with untimed := [{ placedUntimed with pending := [⟨.dm, 0xFF00⟩] }] });
      slotFree s = true ∧ firstPending s s.cur .dm 0xFFF8 8 = some 0xFF) := by decide +kernel

theorem test_wit_GlobalAccesses :
    (let s := at5 .ls [(1, 0x3FFF8), (2, 0x90000), (3, 0xA0000), (4, 0x80000)] id;
      slotFree s = true ∧ segmentOk s 0x3FFF8 8 (fun _ => true) true = true ∧ resultRoom s (resultFor 5) = true ∧
      segmentOk s 0x80000 8 (fun _ => true) false = true ∧ (heldPage s 0x80000).isSome = true ∧
      segmentOk s 0x3FFF8 8 (atomicAllowed (here s)) true = true ∧ kindOf s 0 0xA0000 = none ∧ 0xA0000 % 8 = 0 ∧
      kindOf s 0 0x90000 = some (.plain, false)) := by decide +kernel

theorem test_wit_GlobalAtomics :
    amoGlobalOf (.amoaddGlobal 5 1 2 .pkg false .b8) = some (.add, 5, 1, 2, .pkg, false, .b8) := rfl

/-- A misaligned load, a store to a segment that may only be read, and a 17th result. -/
theorem test_wit_GlobalAccesses_faults :
    let refused := fun (s : State) (i : Instr) => slotFree s && (untimedAccessOf (here s) i).any (fun x => resultRoom s x.res &&
      !(kindOf s s.cur x.addr).any (fun k => x.allowed k.1 && (!x.write || k.2)));
    let skewed := fun (s : State) (i : Instr) => slotFree s && (untimedAccessOf (here s) i).any (fun x => resultRoom s x.res &&
      (kindOf s s.cur x.addr).any (fun k => x.allowed k.1 && (!x.write || k.2)) && decide (x.addr % x.size ≠ 0));
    let s := at5 .ls [(1, 0x30004), (2, 0x90000), (3, 0x70000)] id;
    skewed s (.ldg 5 1 0 false .b8) = true ∧ skewed s (.amoaddGlobal 5 1 2 .pkg false .b8) = true ∧
    refused s (.stg 5 2 0 .b8) = true ∧ refused s (.amoaddGlobal 5 2 0 .pkg false .b8) = true ∧
    resultRoom (at5 .ls [] (fun c => { c with untimed := List.replicate 16 { placedUntimed with result := some ⟨5, none⟩ } }))
      (resultFor 6) = false := by decide +kernel

theorem test_wit_MemoryValues : 0 < 8 ∧ 8 ≤ 8 ∧ 0x1FF < 2 ^ (8 * 2) ∧ (0x80 : BitVec 8) = 0x80 := by decide

theorem test_load_extends :
    extend true 1 0x80 = 0xFFFFFFFFFFFFFF80 ∧ extend false 1 0x80 = 0x80 ∧ amoNew .min 4 0xFFFFFFFE 1 0 = some 0xFFFFFFFE ∧
    amoNew .minn 4 0xFFFFFFFE 1 0 = some 1 := by decide +kernel

/-- A context whose one effect is due in this cycle. -/
def dueNow (a : Act) : State := at5 .br [] (fun c => { c with flights := [⟨0, 5, a, []⟩] })

theorem test_wit_FlightsPerform :
    (ctxOf (dueNow (.result (.s 3 1) 0 none)) 0).flights[0]? = some ⟨0, 5, .result (.s 3 1) 0 none, []⟩ ∧
    isRunning (dueNow (.tclr 0)) 0 = true ∧ (ctxOf (dueNow (.tclr 0)) 0).ttc = 5 ∧
    (ctxOf (at5 .br [] (fun c => { c with freeze := some ⟨900, [.pre], 0⟩ })) 0).freeze.isSome = true ∧
    (∀ f, (ctxOf (dueNow (.tclr 0)) 0).flights[1]? = some f → f.due ≠ 5) ∧
    (∀ f, (ctxOf (at5 .br [] (fun c => { c with flights := [⟨0, 6, .tclr 0, []⟩] })) 0).flights[0]? = some f → f.due ≠ 5) ∧
    classOf (.result (.s 3 1) 0 none) = .result ∧
    classOf (.copyLand ⟨0, ⟨.wb, 0⟩, false, 0, 1, 5, 1, 0, none, [], 1, false⟩ 0 [] false) = .copyLine ∧
    classOf (.mmaRead ⟨0, 0x4277, 128, 128, 0, 0, 0, 5, 1, false, false⟩ 0 0 [] [] [] []) = .followOn ∧
    classOf (.mmaUpdate ⟨0, 0x4277, 128, 128, 0, 0, 0, 5, 1, false, false⟩ 0 [] [] [] []) = .group ∧
    classOf (.sendLand 1 0 [] []) = .arrival ∧
    classOf (.nestStep ⟨.vadd, .f32, 0, .ab, .ab, .wb, 0, 0, 0, flatLevel 0, flatLevel 0, flatLevel 0, flatLevel 0, flatLevel 0⟩ 0 5 0 0) =
      .nest := by decide +kernel

theorem test_wit_ResultPerforms :
    let f : Flight := ⟨0, 5, .result (.p 0 7) 3 none, [(2, 0, 5)]⟩;
    f.act = .result (.p 0 7) 3 none ∧ (ctxOf (performFlight State.reset 0 f) 0).readP 0 = BitVec.allOnes 128 ∧
    (ctxOf (performFlight State.reset 0 f) 0).vflags = 3 := by decide +kernel

theorem test_wit_DmPerforms :
    (let s := dueNow (.dmWrite 0xFFFF [7]); let f : Flight := ⟨0, 5, .dmWrite 0xFFFF [7], []⟩;
      f.act = .dmWrite 0xFFFF [7] ∧ lsRefused s 0 = false ∧ s.refused.contains (.flight 0 f.seq) = false ∧
      badBytes s 0 .dm 0xFFF8 8 = []) ∧
    amoNew .cas 8 5 (9 % 2 ^ (8 * 8)) (5 % 2 ^ (8 * 8)) = some 9 ∧
    badBytes (modCore (dueNow (.tclr 0)) 0 (fun c => { c with parity := [(3, 0x10)] })) 0 .dm 0x10 8 ≠ [] := by decide +kernel

theorem test_wit_StreamOperations :
    let s := at5 .ag [(1, 0xFFC0)] id;
    slotFree s = true ∧ ((here s).readS 1 + (here s).readS 0).toNat % 64 = 0 ∧ inPartition (here s) .dm 0xFFC0 64 = true ∧
    noPending s .dm 0xFFC0 64 = true ∧ noCollision s 3 (.g 15 0 0) = true ∧ Lands s 1 (.g 0 0 0) ∧ Lands s 1 (.s 6 0) ∧
    26 < 27 := by unfold Lands; decide +kernel

theorem test_stream_fields :
    (let c := at5 .ag [(5, 0x12345)] id;
      lastFlight (exec (.gsetf 2 5 0) c) = some (6, .result (fieldWrite 2 0 0x12345) 0 none)) ∧
    gField ((Ctx.reset.writeReg (fieldWrite 2 12 0x8001)).readG 2) 12 = 0x8001 ∧
    gFieldInt ((Ctx.reset.writeReg (fieldWrite 2 12 0x8001)).readG 2) 12 = -0x7FFF := by decide +kernel

theorem test_wit_LaneOperations :
    (let s := at5 .v0 [] (fun c => { c with v := c.v.set 1 0x3F800000 });
      ∃ o, laneOp (here s) (.vadd 5 (.vec 1) (.vec 1) 0 .f32) = some o ∧ slotFree s = true ∧ noCollision s o.lat (.v o.d 0 0) = true) ∧
    (let s := at5 .v1 [] id;
      sfuOf (here s) (.vrcp 5 (.vec 1) 0 .f16) = some (.rcp, 5, .vec 1, 0, .f16) ∧ slotFree s = true ∧
      noCollision s 12 (.v 5 0 0) = true) :=
  ⟨⟨_, rfl, by decide +kernel, by decide +kernel⟩, by decide +kernel⟩

/-- 1.0 + 2.0 = 3.0, 1/3 rounds to nearest even with NX, and the smallest normal halved is a subnormal without loss. -/
theorem test_lane_arithmetic :
    laneAdd .f32 0 0x3F800000 0x40000000 = (0x40400000, 0) ∧ laneMul .f32 0 0x00800000 0x3F000000 = (0x00400000, 0) ∧
    laneAdd .i16 0 0xFFFF 2 = (1, 0) ∧ laneSar .i32 0x80000000 31 = (0xFFFFFFFF, 0) ∧
    laneMinMax true .i16 0x8000 1 = (1, 0) ∧ laneMinMax true .n16 0x8000 1 = (0x8000, 0) := by decide +kernel

theorem test_wit_LaneWrites :
    63 < Ty.lanes .f32 ∧ 127 < Ty.lanes .n16 ∧ Ctx.reset.mode = .user ∧ Ctx.reset.mask = [] := by decide

theorem test_wit_ComparesAndPredicates :
    (let s := at5 .v0 [] id;
      (∃ o, compareOp (here s) (.vcmplt 4 (.vec 1) (.vec 2) 0 .f32) = some o) ∧ Lands s 2 (.p 4 0) ∧ Lands s 2 (.p 0 0)) ∧
    (let s := at5 .vp [(7, 5)] id;
      predicateResult (here s) (.psetL16 2 7) = some (2, 0x1F) ∧ Lands s 1 (.p 2 0) ∧ Lands s 1 (.s 5 0)) ∧ 127 < 128 := by
  unfold Lands; exact ⟨⟨⟨_, rfl⟩, by decide +kernel⟩, by decide +kernel⟩

theorem test_wit_SelectionsAndMoves :
    let s := at5 .v0 [] id;
    Lands s 2 (.v 31 0 0) ∧ Lands s 4 (.s 31 0) ∧ Lands s (arithLat .i32) (.v 8 0 0) ∧ 63 < Ty.lanes .i32 := by
  unfold Lands; decide +kernel

theorem test_wit_ReductionsAndScans :
    let s := at5 .v0 [] (fun c => { c with p := c.p.set 3 0 });
    Lands s 6 (.v 4 0 0) ∧ Lands s 8 (.v 3 0 0) ∧ Ty.isFloat .i32 = false ∧
    (∀ i, i < Ty.lanes .f32 → laneBit (activity (here s) 3) .f32 i = false) ∧
    laneBit (activity (here s) 0) .i16 127 = true := by unfold Lands; decide +kernel

theorem test_wit_PairOperations :
    let s := at5 .v0 [] id;
    (30 : VReg).val % 2 = 0 ∧ slotFree s = true ∧ noCollision s 4 (.v 30 0 0) = true ∧
    noCollision s 4 (.v (pairReg 30) 0 0) = true ∧ (64 : BitVec 8).toNat ≤ Ty.lanes .f32 ∧ noCollision s 10 (.v 30 0 0) = true ∧
    noCollision s 10 (.v (pairReg 30) 0 0) = true ∧ Ty.isFloat .n16 = false := by decide +kernel

theorem test_wit_Packs :
    let s := at5 .vp [] id;
    (Instr.vpack 4 8 0 .f32 ⟨.e4m3, 3, .vmode, .sat, 0⟩).wf = true ∧ Lands s 3 (.v 4 0 0) ∧
    (Instr.vpacksc 10 2 0 .f32 ⟨.e4m3, 0, .vmode, .sat, 0⟩).wf = true ∧ slotFree s = true ∧
    noCollision s 3 (.v 10 0 0) = true ∧ noCollision s 3 (.v (pairReg 10) 0 0) = true ∧
    (Instr.vpackz 10 2 0 .bf16 ⟨.n4, 1, .rne, .sat, 2⟩).wf = true := by unfold Lands; decide +kernel

/-- The cells of VLD.F32 of the last line of the AB partition. -/
def lastLine : List (Nat × Nat) := laneCells .f32 (BitVec.allOnes 128) (fun i => 0x17FF00 + i * 4)

theorem test_wit_VectorAccesses :
    (let s := at5 .vm [(4, 0x17FF00)] id;
      ((vecAccessOf (here s) (.vld 7 0 .f32 ⟨.ab, 4, 0⟩)).map (fun m => (m.write, m.aligned, m.cells)) = some (false, true, lastLine)) ∧
      slotFree s = true ∧ vmAllowed .ab false = true ∧ lastLine.all (fun x => inPartition (here s) .ab x.2 1) = true ∧
      cellsPending s .ab lastLine = none ∧ noCollision s 4 (.v 7 0 0) = true) ∧
    vmAllowed .cb true = true ∧ vmAllowed .wb true = false := by decide +kernel

theorem test_wit_VectorAccessPerforms :
    (let s := at5 .vm [] id;
      ∀ c ∈ laneCells .f32 1 (fun i => 4 * i), badBytes s 0 .ab c.2 1 = [] ∧ isRefused s 0 .ab c.2 false = false) ∧
    laneCells .f32 1 (fun i => 4 * i) ≠ [] ∧
    (let cells : List (Nat × Byte) := [(0, 1), (1, 2)];
      (∀ c ∈ cells, isRefused State.reset 0 .cb c.1 true = false) ∧ (cells.map (fun c => c.1)).Nodup) := by decide +kernel

theorem test_wit_HashAndNest :
    (let s := at5 .v0 [(6, 0x8000)] id; let x : HaccArgs := ⟨6, false, 4, .add⟩;
      slotFree s = true ∧ (here s).resultCount < 16 ∧ ((here s).readS x.sb).toNat % 256 = 0 ∧
      inPartition (here s) (haccBuf x) 0x8000 (haccBytes x) = true ∧ haccPending s (haccBuf x) 0x8000 (haccBytes x) = none) ∧
    (let s := at5 .v1 [] id;
      let x : NestArgs := ⟨.vadd, .f32, 0, .ab, .ab, .wb, 0, 8, 0, flatLevel 3, flatLevel 0, flatLevel 0, flatLevel 0, flatLevel 0⟩;
      slotFree s = true ∧ nestBusy s = false ∧ ∀ n, n < x.steps → nestClash (here s) x n = none ∧
        lineOk (here s) x.bufA (nestLineA x n) = true ∧ lineOk (here s) x.bufB (nestLineB x n) = true ∧
        lineOk (here s) x.bufD (nestLineD x n) = true) := by decide +kernel

theorem test_wit_LaneArithmetic :
    0x3F800000 < 2 ^ Fmt.bits .f32 ∧ Ty.isFloat .i32 = false ∧ (∃ n m e, decodeFloat 0x3F800000 .f32 = .fin n m e) ∧
    (∃ n m e, decodeFloat 0x8001 .f16 = .fin n m e) := ⟨by decide, rfl, ⟨_, _, _, rfl⟩, ⟨_, _, _, rfl⟩⟩

/-- Stream g1 of the FP8 example of R255: AB, E4M3, BASE 0, one extent of tiles 128 lines apart; g2 has BASE line 0x108. -/
def streamWord (base : Nat) : GWord := BitVec.ofNat 512 (0x32000 + base + 2 ^ 64 + 0x80 * 2 ^ 128)

/-- The state of the FP8 example: PREC.0 0x6333, g1 and g2, at TTC 30. -/
def fp8 (slot : Slot) (regs : List (SReg × W64)) : State :=
  modHere (at5 slot regs id) (fun c => { c with
    ttc := 30
    prec := c.prec.set 0 0x6333
    g := (c.g.set 1 (streamWord 0)).set 2 (streamWord 0x108)
    task := c.task.map (fun t => { t with half := 300, grant := 1 }) })

/-- The same with engine 0 granted stack 0 at interval 1, and the copy map `m` at DM 0. -/
def copying (m : Nat) (regs : List (SReg × W64)) : State :=
  modCore (modTenant (fp8 .ec regs) 0 (fun t => { t with grants := [(0, 0, 0, 1)], msix := 8 })) 0
    (fun c => { c with dm := memWriteNat [] 0 64 m })

/-- A map of one row of 32 E4M3 elements from 32 bytes in a row, and one with the FOLLOW word of the example (R268). -/
def smallMap : Nat := 3 + 31 * 2 ^ 16 + 31 * 2 ^ 32 + 2 ^ 80 + 2 ^ 96 + 2 ^ 192
def followMap : Nat := smallMap + 0x10214 * 2 ^ 256

theorem test_wit_MatrixCommands :
    (let s := fp8 .mx [];
      slotFree s = true ∧ (here s).ttc ≤ (40 : BitVec 16).toNat ∧ mmaAccepted s 0 1 2 2 40 = true ∧
      masDescFault ((here s).readG 1) = none ∧ masDescFault ((here s).readG 2) = none) ∧
    (let s := modCore (fp8 .mx []) 0 (fun c => { c with dm := memWriteNat [] 0 8 2 });
      (3 : BitVec 12) ≠ 0 ∧ portReadable s 0 (8 * 3) 8 = true ∧
      ((groupTable (bufPrior s 0 .dm 0 (8 * 3)) 3).map groupEntry).findSome? (groupFault (here s) ((here s).readG 1) ((here s).readG 2)) =
        none) := by decide +kernel

/-- The MMAZ of the example, issued at TTC 30 for TTC 40: POS of both streams moves to 2 at TTC 31 (R251). -/
theorem test_mmaz_example :
    (match exec (.mmaz 0 1 2 40 2) (fp8 .mx []) with
      | .next t => (ctxOf t 0).flights.map (fun f => (f.due, f.res))
      | _ => []) = [(31, [(3, 1, 31)]), (31, [(3, 2, 31)]), (40, [])] := by decide +kernel

theorem test_wit_TileCommands :
    (let s := fp8 .mx [(6, 0)];
      slotFree s = true ∧ (here s).ttc ≤ (85 : BitVec 16).toNat ∧ tileTransferOk s 0 0 .f32 128 = true ∧
      (tileOf s 0 0).poison = false ∧ tilePending (here s) 3 = false ∧ ownsTile (here s) 3 = true ∧ Lands s 2 (.cr 0x23 0) ∧
      Lands s 1 (.s 5 0)) ∧ (Act.tmask 0 5 7 = Act.tmask 0 5 7) := by unfold Lands; decide +kernel

theorem test_precset_value :
    precsetValue ⟨1, 0, 2, 2, 0, 0, false, false⟩ = 0x4277 ∧ precsetValue ⟨0, 0, 3, 3, 4, 4, false, false⟩ = 0x6333 ∧
    maskLimit 0 = 128 ∧ maskLimit 5 = 5 ∧ maskLimit 129 = 128 := by decide +kernel

theorem test_wit_Copies :
    (let s := copying smallMap [(5, 0x30000), (6, 0x2000)];
      slotFree s = true ∧ (here s).ttc ≤ (40 : BitVec 16).toNat ∧
      copyAccepted s (copyRun s 0 .ab false 0x2000 0x30000 256 40 none) = true ∧
      portReadable s 0 64 64 = true ∧
      (let g : GWord := BitVec.ofNat 512 (memReadNat (bufPrior s 0 .dm 0 64) 0 64);
        mapFollow g = 0 ∧ copyAccepted s (copyRun s 0 .ab false 0x2000 0x30000 1 40 (some g)) = true)) ∧
    (let s := copying followMap [(5, 0x30000), (6, 0x2000)];
      let g : GWord := BitVec.ofNat 512 (memReadNat (bufPrior s 0 .dm 0 64) 0 64);
      let r := copyRun s 0 .wb false 0x2000 0x30000 1 40 (some g);
      copyAccepted s r = true ∧ followOk (mapFollow g) = true ∧ mmaAccepted s 0 1 2 1 (copyLast r + 1) = true) ∧
    (let s := copying 0 [(5, 0x30000)];
      inPartition (here s) .cb 0x7FF00 256 = true ∧
      engineBusy s 0 ⟨0, 40, .fill ⟨0, ⟨.cb, 0x7FF00⟩, false, 0, 1, 40, 1, 0, none, [], 1, false⟩ 7 0, []⟩ = false) := by
  decide +kernel

theorem test_wit_Copies_peers :
    let s := modHere (at5 .ec [(3, 4)] id) (fun c => { c with group := [0, 4] });
    slotFree s = true ∧ (here s).group.contains (peerKey ((here s).readS 3)) = true ∧
    coreIx (peerKey ((here s).readS 3)) ≠ coreIx s.cur ∧ inPartition (here s) .ab 0 (256 * 4) = true ∧
    (∃ j ∈ (here s).group, coreIx j = 1) ∧ recvBusy (here s) 28 4 = false := by decide +kernel

/-- Element (5, 70) of the convolution example comes from source byte 582 and stands at byte 0x20A6; its tile is 128 lines
(R268, R269). -/
theorem test_map_example :
    let g : GWord := BitVec.ofNat 512 (0x0202023F03FF0F03 + 0x000000070007FFFF * 2 ^ 64 + 0x00000040000001C0 * 2 ^ 128 + 2 ^ 192);
    mapOk g = true ∧ mapSource g 5 70 = some 582 ∧ mapIndex g 5 70 = 0x20A6 ∧ mapSource g 0 0 = none ∧ mapLines g = 128 := by
  decide +kernel

theorem test_wit_EngineWork_gather :
    let s := modCore (at5 .ec [(2, 0x30000), (3, 0x2000)] id) 0 (fun c => { c with dm := memWriteNat [] 0 4 5 });
    slotFree s = true ∧ portReadable s 0 (4 * 2) 4 = true ∧ ((here s).readS 2).toNat % 2 ^ 6 = 0 ∧
    transferOk s .ab 0x2000 (2 * 64) 256 = true ∧ transferOk s .cb 0x2000 (2 * 64) 256 = true ∧
    kindOf s 0 0x30000 = some (.plain, true) := by decide +kernel

theorem test_wit_EngineWork_transfers :
    let s := at5 .ec [(2, 0x60000), (4, 0x50040)] id;
    slotFree s = true ∧ ((here s).readS 2).toNat % 256 = 0 ∧ transferOk s .cb 0 (256 * 2) 256 = true ∧
    runBad s .rem true (runAddrs 0x60000 (4 * 2)) = false ∧ runBad s .rem false (runAddrs 0x60000 4) = false ∧
    ((here s).readS 4).toNat % 64 = 0 ∧ transferOk s .ab 0x40 (64 * 4) 64 = true ∧
    runBad s .dur true (runAddrs 0x50040 4) = false ∧ transferOk s .wb 0 (64 * 4) 64 = true ∧
    runBad s .dur false (runAddrs 0x50040 4) = false := by decide +kernel

theorem test_wit_EngineWork_others :
    let s := modTenant (at5 .ec [(8, 0x60008), (2, 0xFFC0), (3, 0x3FFF8)] id) 0 (fun t => { t with msix := 8 });
    slotFree s = true ∧ segmentOk s 0x60008 8 (fun k => k == .rem && atomicAllowed (here s) k) true = true ∧
    resultRoom s (resultFor 7) = true ∧ ((here s).readS 2).toNat % 64 = 0 ∧ inPartition (here s) .dm 0xFFC0 64 = true ∧
    stagedLaunches s < 256 ∧ segmentOk s 0x3FFF8 8 (fun k => k == .plain || k == .pg || k == .host) true = true ∧
    (7 : BitVec 11).toNat < (tenantOf s (nodeIds (here s)).1).msix := by decide +kernel

/-- A walk of context 0 with w3 = 0x3_0000, w4 = 31 and w5 = 0x2000, on the state of the tests. -/
def walking (f : Walk → Walk) : State :=
  modCluster (at5 .ec [] id) 0 (fun c => { c with
    walk := some (f { placedWalk with w := ((placedWalk.w.set 3 0x30000).set 4 31).set 5 0x20 }) })

def walkerOf (s : State) : Walk := (walkOf s).getD placedWalk

/-- Does a walker read succeed? -/
def readsOk (r : WalkRead) : Bool :=
  match r with
  | .ok _ => true
  | .bad .. => false

/-- A tile of I8, 128 lines from AB line 0x20. -/
def openTile : OpenTile := ⟨0x20, 0x12, true, 0, 0, []⟩

theorem test_wit_WalkerRegisters :
    (slotFree (at5 .ec [] id) = true ∧ walkHeld (here (at5 .ec [] id)) = false) ∧
    (let w := newWalk 0 0 5 0 7; let s := modCluster placed 0 (fun c => { c with startQ := [w], program := [(0, 1)] });
      let u := { s with walker := 0 };
      (clusterOf s 0).walk = none ∧ (clusterOf s 0).startQ = w :: [] ∧ mayStart u w = true ∧ w ∉ ([] : List Walk) ∧ w.pc % 4 = 0 ∧
      walkFetch u w w.pc ≠ none) ∧
    walkOf (walking id) = some (walkerOf (walking id)) ∧
    walkerResult (walkerOf (walking id)) (.waddi 1 4 (-1)) = some (1, 30) := by decide +kernel

theorem test_wit_WalkerControl :
    let w := walkerOf (walking (fun w => { w with pc := 40 }));
    walkOf (walking (fun w => { w with pc := 40 })) = some w ∧ walkerBranch w (.wj (-6)) = some (true, -6) ∧
    0 ≤ (w.pc : Int) + 4 * (-6) ∧ walkerBranch w (.wbeq 3 4 9) = some (false, 9) ∧ (5 : BitVec 14).toNat ≤ 5 ∧
    5 < (6 : BitVec 14).toNat ∧ slotFree (walking id) = true := by decide +kernel

theorem test_wit_WalkerControl_stop :
    let w := newWalk 0 0 5 0 7;
    let s := modCluster (at5 .ec [] id) 0 (fun c => { c with startQ := [w] });
    slotFree s = true ∧ (clusterOf s (clusIx s.cur)).startQ.filter (fun w => w.ctx == s.cur && !w.begun) = [w] ∧
    queueFull s (clusIx s.cur) w.queue = false ∧ (clusterOf s (clusIx s.cur)).full.get w.queue [] = [] ∧
    (clusterOf (at5 .ec [] id) 0).startQ.filter (fun w => w.ctx == 0 && !w.begun) = [] := by decide +kernel

theorem test_wit_WalkerMemory :
    (let s := walking id; let w := walkerOf s;
      walkOf s = some w ∧ (w.read 3 + (8 : BitVec 18).signExtend 64).toNat % 8 = 0 ∧ readsOk (walkRead s w 0x30008 8 true) = true ∧
      w.tile = none ∧ tileFmtOk 0x12 = true ∧ inPartition (ctxOf s 0) .ab (0x20 * 256) (16 * tileBits openTile * 256) = true ∧
      tileOverlaps w 0x20 (16 * tileBits openTile) = false) ∧
    (let s := walking (fun w => { w with tile := some openTile }); let w := walkerOf s;
      w.tile = some openTile ∧ (w.read 3).toNat % 64 = 0 ∧ (w.read 4).toNat < 32 ∧
      readsOk (walkRead s w 0x30000 (128 * tileBits openTile) true) = true ∧ (w.read 3).toNat % 4 = 0 ∧ (w.read 4).toNat < 1024 ∧
      readsOk (walkRead s w 0x30000 128 true) = true ∧ 2 ≤ tileBits openTile ∧ tileBits openTile ≤ 16 ∧
      readsOk (walkRead s w 0x30000 1 false) = true ∧ 127 < 16 * tileBits openTile * 256) ∧
    (let w := walkerOf (walking (fun w => { w with busy := [(0x9F, 1)] }));
      tileOverlaps w 0x20 (16 * tileBits openTile) = true) ∧
    (walkerOf (walking id)).tile = none := by decide +kernel

/-- One untimed operation of context 0, not performed yet. -/
def pendingJob (j : Job) : Untimed := ⟨0, j, false, false, none, false, [], [], none, none, 0, [], none⟩

def withJob (j : Job) : State := at5 .br [] (fun c => { c with untimed := [pendingJob j], seq := 1 })

theorem test_wit_UntimedPerforms :
    (let s := withJob (.store 0x30008 [1, 2]); let u := pendingJob (.store 0x30008 [1, 2]);
      (ctxOf s 0).allUntimed[0]? = some u ∧ mayPerform s 0 u = true ∧ meetsWrite s 0 u.job = false ∧ translate s 0 0x30008 = .hit ⟨.plain, 0, 0x200008, true⟩ ∧
      0x200008 + 8 ≤ Config.durBase ∧ isOutstanding s 0 0 = false ∧ isMarked s 0x200008 = false ∧
      (ctxOf s 0).snapU.any (fun x => x.seq == u.seq) = false ∧ isClouded s 0 0 0x200008 = false) ∧
    (let u := pendingJob (.gather 0x30000 1 [0] ⟨.ab, 0⟩); mayPerform (withJob u.job) 0 u = true ∧ meetsWrite (withJob u.job) 0 u.job = false) ∧
    classOfJob (.store 0 []) = .other ∧ classOfJob (.gather 0 1 [] ⟨.ab, 0⟩) = .madder ∧ classOfJob (.mmag 0 0 0 []) = .mmag ∧
    classOfJob (.mmas 0 0 0 0 [] false) = .mmas ∧ classOfJob (.arrive 3) = .arrive ∧
    (let s := modCore (withJob (.arrive 3)) 0 (fun c => { c with barriers := [(3, ⟨2, 1, 7⟩)] });
      (coreOf s (3 / 64)).barriers.get (3 % 64) ⟨0, 0, 0⟩ = ⟨2, 1, 7⟩) := by decide +kernel

theorem test_wit_UntimedPerforms_walker :
    (let s := modCluster State.reset 0 (fun c => { c with full := [(5, [(0, 7, ⟨true, 0, 9, none⟩)])] });
      (clusterOf s 0).full.get 5 [] = [(0, 7, ⟨true, 0, 9, none⟩)] ∧ queueFull s 0 5 = false) ∧
    (let w := walkerOf (walking (fun w => { w with waitTile := some openTile, pend := some (⟨false, 0, 1, some 0⟩, false) }));
      w.waitTile = some openTile ∧ tileOverlaps w openTile.line (16 * tileBits openTile) = false ∧
      w.pend = some (⟨false, 0, 1, some 0⟩, false) ∧ queueFull (walking id) 0 w.queue = false) ∧
    (let s := walking (fun w => { w with held := some 3 });
      (clusterOf s 0).walk = some (walkerOf s) ∧ (walkerOf s).held = some 3 ∧
      pageMapped { s with walker := 0 } (walkerOf s).ctx 3 = true) := by decide +kernel

/-- A wait of context 0 that began at GCC 990. -/
def waitingFor (k : WaitKind) : State := at5 .br [] (fun c => { c with wait := some ⟨k, 990, 0x10⟩ })

theorem test_wit_WaitsAndWidth :
    (let s := waitingFor .waite;
      (ctxOf s 0).wait = some ⟨.waite, 990, 0x10⟩ ∧ (ctxOf s 0).freeze = none ∧ hasWidth s 0 = true ∧ 990 < s.gcc ∧
      canComplete s 0 = true) ∧
    (let s := waitingFor .rte;
      (ctxOf s 0).wait = some ⟨.rte, 990, 0x10⟩ ∧ canComplete s 0 = true ∧ (ctxOf s 0).causes = [] ∧
      (ctxOf s 0).untimed.all (fun u => u.fault.isNone) = true) ∧
    (let u : Untimed := { pendingJob (.load 0 8 false) with result := some ⟨5, some 7⟩ };
      let v : Untimed := { pendingJob (.load 0 8 false) with result := some ⟨6, some 8⟩ };
      ({ Ctx.reset with untimed := [v, u, v] } : Ctx).untimed = [v] ++ u :: [v] ∧ u.result = some ⟨5, some 7⟩ ∧ isHacc u = false ∧
      (5 : SReg) ≠ 0 ∧ v.result = some ⟨6, some 8⟩) ∧
    (let s := waitingFor .endTask;
      (ctxOf s 0).wait = some ⟨.endTask, 990, 0x10⟩ ∧ (ctxOf s 0).task = some task ∧ endsNow s 0 990 = true ∧
      (ctxOf s 0).untimed.all (fun u => u.fault.isNone) = true) := by decide +kernel

theorem test_wit_WaitsAndWidth_cores :
    (let s := modCore (at5 .br [] id) 0 (fun c => { c with width := some 2, incoming := some 0, handCycles := 1 });
      (coreOf s 0).incoming = some 0 ∧ (ctxOf s 0).freeze = none ∧ occupied (ctxOf s 0) 0 = true ∧
      (coreOf s 0).handCycles = 1 ∧ paddingOver s 0 0 = true) ∧
    (let s := { at5 .br [] (fun c => { c with readyAt := some 5 }) with gcc := 2 ^ 20 + 5 };
      (ctxOf s 0).readyAt = some 5 ∧ 5 + 2 ^ 20 ≤ s.gcc) ∧
    (let s := at5 .br [] (fun c => { c with ran := task.runlen + 1 });
      hasOverrun s 0 = true ∧ (ctxOf s 0).group = [] ∧ (ctxOf s 0).freeze = none ∧ (ctxOf s 0).preAt = none ∧
      (dieOf s (dieIx 0)).faults.length < 4096) ∧
    (let s := modDie (at5 .br [] (fun c => { c with ran := task.runlen + 1 })) 0 (fun d => { d with
        faults := List.replicate 4096 ⟨0, 0, 0, 0⟩ });
      hasOverrun s 0 = true ∧ 4096 ≤ (dieOf s (dieIx 0)).faults.length) ∧
    (let s := modCtx (waitingFor (.csync 990)) 0 (fun c => { c with task := c.task.map (fun t => { t with gang := [0] }) });
      canRelease s 0 = true) ∧
    (let p : Post := ⟨0, 100, false, 9000⟩; let r : Post := ⟨0, 101, false, 8001⟩; let q : Post := ⟨0, 101, false, 8002⟩;
      let s := { State.reset with posts := [p, q, r], gcc := 117 };
      s.posts[0]? = some p ∧ p.posted + 16 ≤ s.gcc ∧ r ∈ s.posts ∧ p.isRival r s.gcc = true ∧
      ∀ q ∈ s.posts, p.isRival q s.gcc = true → q = r ∨ q.posted < r.posted ∨ (q.posted = r.posted ∧ r.value.toNat < q.value.toNat)) ∧
    (let r : Post := ⟨0, 100, true, 1⟩; let q : Post := ⟨0, 100, true, 2⟩;
      q.isRival r 116 = true ∧ q.posted = r.posted ∧ r.value.getLsbD 0 = true ∧ q.value.getLsbD 0 = false) := by decide +kernel

theorem test_wit_WaitsAndWidth_monitor :
    (let s := waitingFor (.waitm 5 0x30000 0 .eq false none none);
      (ctxOf s 0).wait = some ⟨.waitm 5 0x30000 0 .eq false none none, 990, 0x10⟩ ∧
      translate s 0 0x30000 = .hit ⟨.plain, 0, 0x200000, true⟩ ∧ monitorHit s 0 0x30000 0 .eq false = true ∧
      monitorHit s 0 0x30000 0 .ne true = false) ∧
    (let s := waitingFor (.waitm 5 0x30000 0 .ne false (some 1000) none);
      (ctxOf s 0).wait = some ⟨.waitm 5 0x30000 0 .ne false (some 1000) none, 990, 0x10⟩ ∧ 1000 ≤ s.gcc) ∧
    (let s := at5 .br [] (fun c => { c with heldWait := some ⟨.waitm 5 0x30000 0 .eq false (some 1000) none, 990, 0x10⟩ });
      (ctxOf s 0).heldWait = some ⟨.waitm 5 0x30000 0 .eq false (some 1000) none, 990, 0x10⟩ ∧
      monitorHit (nextFresh s 1) 0 0x30000 0 .eq false = true) := by decide +kernel

theorem test_wit_TrapsAndFreezes_traps :
    lowestCause [(0x13, 5), (0x0F, 1)] = some ((0x0F, 1), [(0x13, 5)]) ∧
    (let s := at5 .br [] (fun c => { c with causes := [(0x13, 5)], irq := 1, resume := 1000 });
      trapDue s 0 = true ∧ (ctxOf s 0).mode = .user ∧ (ctxOf s 0).wait = none ∧
      lowestCause ((ctxOf s 0).causes ++ (pendingIrq (ctxOf s 0)).toList) = some ((0x12, 0), [(0x13, 5)])) ∧
    (let s := at5 .br [] (fun c => { c with causes := [(0x13, 5), (0x10B, 0x80000)], resume := 1000 });
      trapDue s 0 = true ∧ lowestCause ((ctxOf s 0).causes ++ (pendingIrq (ctxOf s 0)).toList) = some ((0x10B, 0x80000), [(0x13, 5)]) ∧
      (ctxOf s 0).group = []) ∧
    (let c := ctxOf (waitingFor .waite) 0; c.redirect = none ∧ c.wait = some ⟨.waite, 990, 0x10⟩ ∧
      c.pc ≠ nextBundle (waitingFor .waite) c 0x10) ∧
    (let c : Ctx := { Ctx.reset with redirect := some ⟨0x80, 1, true⟩ }; c.redirect = some ⟨0x80, 1, true⟩) ∧
    (let s := modCtx (waitingFor (.resumeAt 1000)) 0 (fun c => { c with
        mode := .supervisor
        tpc := 0x10
        tstate := 0x20
        heldWait := some ⟨.waite, 900, 0x10⟩ });
      (ctxOf s 0).wait = some ⟨.resumeAt 1000, 990, 0x10⟩ ∧ canResume s 0 = true ∧ (ctxOf s 0).tstate.getLsbD 5 = true ∧
      (ctxOf s 0).heldWait = some ⟨.waite, 900, 0x10⟩ ∧ (⟨.waite, 900, 0x10⟩ : Wait).pc = (ctxOf s 0).tpc ∧
      (ctxOf s 0).tstate.getLsbD 1 = false) ∧
    (let s := modCtx (waitingFor (.resumeAt 1000)) 0 (fun c => { c with mode := .supervisor, tpc := 0x10, tstate := 2 });
      canResume s 0 = true ∧ (ctxOf s 0).tstate.getLsbD 1 = true ∧ ((ctxOf s 0).tstate.extractLsb' 2 2).toNat = 0 ∧
      (ctxOf s 0).tstate.getLsbD 5 = false) ∧
    (let s := modCtx (waitingFor (.resumeAt 1000)) 0 (fun c => { c with mode := .supervisor, tpc := 0x10, tstate := 0xE });
      canResume s 0 = true ∧ (ctxOf s 0).tstate.getLsbD 1 = true ∧ ((ctxOf s 0).tstate.extractLsb' 2 2).toNat = 3) := by decide +kernel

/-- A copy of context 0 whose slot on an address of the PG segment is this cycle. -/
def pagedCopy : State :=
  at5 .br [] (fun c => { c with
    flights := [⟨0, 305, .copySample ⟨0, ⟨.ab, 0⟩, false, 0x80000, 1, 5, 1, 300, none, [], 1, false⟩ 0, []⟩] })

theorem test_wit_TrapsAndFreezes_freezes :
    (let s := at5 .br [] (fun c => { c with preAt := some 1000, missing := some 0x10 });
      (ctxOf s 0).group = [] ∧ (ctxOf s 0).freeze = none ∧ (ctxOf s 0).preAt = some 1000 ∧ 1000 ≤ s.gcc ∧
      (ctxOf s 0).task ≠ none ∧ (ctxOf s 0).missing ≠ none ∧ isPinnedCode s 0 = false) ∧
    (let s := modCore (at5 .br [] id) 0 (fun c => { c with pins := [(placeBase / 64, (0, 0))] });
      isPinnedCode s 0 = true ∧ (ctxOf s 0).freeze = none) ∧
    (let s := at5 .br [] (fun c => { c with freeze := some ⟨1000 - 1000, [], 0⟩ });
      canThaw { s with gcc := 1024 } 0 = true) ∧
    (neededNow pagedCopy 0 0 = some 0x80000 ∧ translate pagedCopy 0 0x80000 = .unmapped) ∧
    FreezeMark.lk ∈ (⟨5, [.lk], 0⟩ : Freeze).marks := by decide +kernel

/-- Page 8 is mapped: its lookup counts as resolved once the cluster holds it, and a store that was logged for it replays. -/
theorem test_wit_TrapsAndFreezes_mapped :
    let tables := memWriteNat (memWriteNat [] 0x400000 8 0x400001) 0x400040 8 0x500003;
    let s := { modTenant pagedCopy 0 (fun t => { t with ptroot := 0x400001 }) with mem := tables };
    let logged := modCtx s 0 (fun c => { c with untimed :=
      [{ pendingJob (.store 0x80000 [1]) with held := some 8, loggedAt := some 900 }] });
    neededNow s 0 0 = some 0x80000 ∧ translate s 0 0x80000 ≠ .unmapped ∧ isResolved s 0 0x80000 = false ∧
    isResolved (modCluster s 0 (fun c => { c with tlb := [(0, 8, 0x500003)] })) 0 0x80000 = true ∧
    (replayOrder logged (List.range 4) 0).length = 1 ∧ replayOrder s (List.range 4) 0 = [] ∧
    replayOrder s (List.range 4) 2 = [] ∧ (replayEntry logged ⟨900, 0, 0⟩).isSome = true ∧
    (ctxOf s 0).allUntimed.all (fun u => !isLogHead u) = true := by decide +kernel

/-- A page table at 0x40_0000 that is its own table of every level, and maps page 9 to physical page 0x50 (R348). -/
def tables : Memory := memWriteNat (memWriteNat [] 0x400000 8 0x400001) 0x400048 8 0x500003

/-- A PGREQ of a system core for page 9 of tenant 0, to stack 1 where `move` is set. -/
def paging (v : W64) : State :=
  { at5 .br [] id with
    mem := tables
    ctxs := [(1536, { Ctx.reset with mode := .supervisor, untimed := [pendingJob (.pgreq v)], seq := 1 })]
    tenants := [(0, { Tenant.reset with live := true, ptroot := 0x400001 })] }

theorem test_wit_TrapsAndFreezes_pages :
    (let v : W64 := 9 * 2 ^ 16; let s := paging v;
      pageRequest s 1536 v = some (pendingJob (.pgreq v)) ∧ reqTenant v = 0 ∧ reqPage v = 9 ∧ rootOf s 0 = some 0x400000 ∧
      pageWalk s.mem 0x400000 (9 * 65536) = some (0x500000, true) ∧ entryOf s.mem 0x400000 (9 * 65536) = some 0x400048 ∧
      isPinned s 0 9 = false ∧ v.getLsbD 63 = false) ∧
    (let v : W64 := 9 * 2 ^ 16; let s := paging v;
      let s := modCtx s 0 (fun c => { c with task := some task, flights := [⟨0, 305, .copySource
        ⟨0, ⟨.ab, 0⟩, false, 0x90000, 1, 305, 1, 300, none, [], 1, false⟩ 0, []⟩] });
      isPinned s 0 9 = true ∧ v.getLsbD 63 = false) ∧
    (let v : W64 := 2 ^ 63 + 1 * 2 ^ 60 + 9 * 2 ^ 16; let s := paging v;
      v.getLsbD 63 = true ∧ reqStack v = 1 ∧ stackServes s 0 9 1 = true ∧ Memory.wf s.mem ∧
      (freePage s 1).any (fun a => decide (0x400048 + 8 ≤ a ∨ a + 65536 ≤ 0x400048)) = true) := by decide +kernel

/-- Function `fn` on a booted machine with registers as `f` sets them. -/
def tenant (fn : Nat) (f : Tenant → Tenant) : State :=
  { State.reset with
    bootStep := 0x80
    gcc := 100000
    tenants := [(fn, f { Tenant.reset with
      live := true
      cores := [0, 1]
      hbmUnits := 8
      en := true
      regions := [(0, ⟨1, 0x100000⟩)]
      host := [(Config.hostBase, 0x10000)] })] }

/-- A kernel descriptor at 0x10_0000: loaded, RUNLEN 1, ACLASS 1, one C level of extent 1, code of 64 bytes in region 0. -/
def kernel : Memory :=
  [(0x08, 64), (0x10, 1), (0x14, 1), (0x1B, 0x80), (0x40, 2), (0x44, 1)].foldl
    (fun m x => memWrite m (0x100000 + x.1) (BitVec.ofNat 8 x.2)) []

/-- Its launch record, of serial 1, with no signal; and one whose signal address is no multiple of 16 (R316). -/
def goodRecord : GWord := BitVec.ofNat 512 (0x100000 + 2 ^ 32 * 2 ^ 128)
def badSignal : GWord := BitVec.ofNat 512 (0x100000 + 2 ^ 32 * 2 ^ 128 + 8 * 2 ^ 320)

/-- Node 3 of function 1, of that kernel. -/
def node (st : NodeState) : Node :=
  { Node.reset with state := st, record := goodRecord, desc := memSlice kernel 0x100000 0x908, gangs := [0] }

def withNode (f : Node → Node) (st : NodeState) : State :=
  { tenant 1 (fun t => { t with nodes := [(3, f (node st))] }) with mem := kernel }

theorem test_wit_LaunchUnit_queue :
    (let t := tenantOf (tenant 1 id) 1;
      t.en = true ∧ t.tda = false ∧ t.queue.length < 256 ∧ (List.replicate 64 (0 : Byte)).length = 64) ∧
    (tenantOf (tenant 1 (fun t => { t with en := false })) 1).en = false ∧
    (let s := { tenant 1 (fun t => { t with queue := [goodRecord] }) with mem := kernel }; let t := tenantOf s 1;
      let u := modTenant { s with admitNext := 2 } 1 (fun t => { t with queue := [], alloc := 1 });
      t.queue = goodRecord :: [] ∧ freeEntry t t.alloc = some 0 ∧ queueTurn s 1 = true ∧
      t.nodes.all (fun x => !commitBegun x.2) = true ∧
      signalOk t badSignal = false ∧ signalOk t goodRecord = true ∧ recMsi goodRecord = false ∧ recPreds goodRecord = [] ∧
      admissible u 1 goodRecord = true ∧ signalOk t (BitVec.ofNat 512 0x100000) = true ∧
      admissible u 1 (BitVec.ofNat 512 0x100000) = false) := by
  decide +kernel

/-- R87: a byte that the running node 3 wrote over 0x10 in an earlier cycle is open to node 2 of its function until it commits. -/
def seenState : State :=
  { physWrite { withNode id .running with mem := [(0x200000, 0x10)] } 1 3 0x200000 [0x22] with gcc := 100001, written := [] }

/-- Writes to one byte of the durable tier: what it held, and one by node 3 of function 1. -/
def openState (by_ : Option Writer) : State :=
  { withNode id .running with uncommitted := [⟨none, 0, Config.durBase, 0x10⟩, ⟨by_, 99999, Config.durBase, 0x22⟩] }

theorem test_wit_UntimedPerforms_seen :
    (tentativeBytes seenState (fun t n => t == 1 && n == 2) (ownWrites seenState 1 2) 0x200000 = [0x10, 0x22] ∧
      tentativeBytes seenState (fun t n => t == 1 && n == 3) (ownWrites seenState 1 3) 0x200000 = [] ∧
      seenState.uncommitted.filter (fun e => e.addr == 0x200000) = [] ∧ physRead seenState 1 3 0x200000 = 0x22 ∧
      tentativeBytes (applyEffects seenState 1 3) (fun t n => t == 1 && n == 2) (ownWrites seenState 1 2) 0x200000 = []) ∧
    (let w : Writer := ⟨false, 0, 1, 3⟩; let s := openState (some w);
      s.uncommitted.filter (fun e => e.addr == Config.durBase) =
        [⟨none, 0, Config.durBase, 0x10⟩] ++ [⟨some w, 99999, Config.durBase, 0x22⟩] ∧ 99999 < s.gcc ∧
      ownWrites s 1 3 w = true ∧ ownWrites s 1 2 w = false ∧ w.fabric = false ∧
      openByte s (ownWrites s 1 3) Config.durBase = 0x22 ∧ openByte s (ownWrites s 1 2) Config.durBase = 0x10) := by decide +kernel

theorem test_wit_LaunchUnit_place :
    (let x := nodeOf (withNode id .waiting) 1 3; x.state = .waiting ∧ x.preds = [] ∧ x.gangs ≠ []) ∧
    (let s := withNode (fun x => { x with gangs := [] }) .waiting; let x := nodeOf s 1 3;
      x.state = .waiting ∧ x.preds = [] ∧ x.gangs = [] ∧ kNdata x.desc = 0 ∧ datumOut s 1 3 = false) ∧
    (let s := withNode id .ready; let x := nodeOf s 1 3;
      x.gangs = 0 :: [] ∧ x.state = .ready ∧ recRedundant x.record = false ∧ nodeTurn s 1 3 = true ∧
      savedGang s 1 3 0 = [] ∧ placeOk s 1 3 0 [4] = true ∧ homesOk s 1 x (seatsOf s 1 3 0 [4]) = true ∧
      pagesHomed s 1 x (seatsOf s 1 3 0 [4]) = true ∧ x.migrating = [] ∧
      ((openNode s 1 3).bind (placeCopy 1 3 0 false [4])).isSome = true) := by decide +kernel

theorem test_wit_LaunchUnit_move :
    (let s := withNode (fun x => { x with migrating := [(0, 2)] }) .ready;
      Memory.wf s.mem ∧ (allRegions s).find? (fun r => r.2.1 == 0 && (tenantOf s r.1).nodes.any (fun x => x.2.migrating.contains (0, 2))) =
        some (1, 0, 0x100000, 0x10000) ∧ regionHeld (tenantOf s 1) 0 = false ∧ placeRegion s 2 0x10000 = some (2 * Config.hbmStack)) ∧
    (let s := { modCtx (withNode (fun x => { x with
        unplacedSince := some 0, record := goodRecord + BitVec.ofNat 512 (2 ^ 128) }) .running) 4 (fun c => { c with
        task := some { task with tenant := 1, node := 3 }
        freeze := some ⟨1000, [.pre], 0⟩ }) with clock := 700 };
      let x := nodeOf s 1 3;
      x.gangs ≠ [] ∧ x.state = .running ∧ x.unplacedSince = some 0 ∧ (tenantOf s 1).pwait ≠ 0 ∧
      0 + (tenantOf s 1).pwait.toNat * s.clock < s.gcc ∧ chooseVictim (victims s 1 (recPrio x.record)) = some 4 ∧ (ctxOf s 4).group = [] ∧
      (ctxOf s 4).freeze = some ⟨1000, [.pre], 0⟩ ∧ canSave s 4 = true ∧ ((ctxOf s 4).task.map (fun y => y.sync)) = some false ∧ ((ctxOf s 4).preAt = none)) := by
  decide +kernel

theorem test_wit_LaunchUnit_end :
    (let s := withNode (fun x => { x with record := goodRecord + BitVec.ofNat 512 (Config.hostBase * 2 ^ 320) }) .committing;
      let x := nodeOf s 1 3;
      x.state = .committing ∧ x.status ≠ 0xFF ∧ x.preds = [] ∧ x.digests = [] ∧ x.fate = 0 ∧ x.mustRoll = false ∧ x.staged = [] ∧
      remotePackages s x = [] ∧ effectsOut s 1 (recSerial x.record) = false ∧ (tenantOf s 1).tda = false ∧
      recSigAddr x.record = Config.hostBase) ∧
    isDrained (tenantOf (tenant 1 (fun t => { t with tda := true })) 1) = true ∧ isDrained (tenantOf (tenant 1 id) 1) = false := by
  decide +kernel

/-- Node 3 rolls back after its own error, after a predecessor's, with a fate, for a program error, for a page; else it does not. -/
theorem test_wit_LaunchUnit_rollback :
    (let s := withNode (fun x => { x with mustRoll := true }) .running; let x := nodeOf s 1 3;
      x.state = .running ∧ dependants s 1 3 = [] ∧ remotePackages s x = [] ∧ effectsOut s 1 (recSerial x.record) = false ∧
      x.fate = 0 ∧ programErrors s 1 3 = [] ∧ x.mustRoll = true ∧ (tenantOf s 1).tda = false ∧
      x.ownRolls + 1 ≤ (tenantOf s 1).rollmax.toNat) ∧
    (let s := withNode (fun x => { x with record := goodRecord + BitVec.ofNat 512 (2 ^ 132), preds := [2] }) .running;
      let s := modNode s 1 2 (fun n => { n with state := .rollingBack }); let x := nodeOf s 1 3;
      x.state = .running ∧ dependants s 1 3 = [] ∧ predecessorRolled s 1 x = true ∧ x.ownRolls + 0 ≤ (tenantOf s 1).rollmax.toNat) ∧
    (nodeOf (withNode (fun x => { x with fate := 4 }) .running) 1 3).fate ≠ 0 ∧
    (let s := modCtx (withNode (fun x => { x with running := [4] }) .running) 4 (fun c => { c with
        task := some { task with tenant := 1, node := 3 }, mode := .supervisor, tcause := 0x0A });
      (nodeOf s 1 3).fate = 0 ∧ programErrors s 1 3 ≠ []) ∧
    (let s := modCtx (withNode (fun x => { x with running := [4] }) .running) 4 (fun c => { c with
        task := some { task with tenant := 1, node := 3 }, freeze := some ⟨5, [.pf], 0⟩ });
      (nodeOf s 1 3).mustRoll = false ∧ awaitsPage s 1 3 = true) ∧
    (let s := withNode id .running; let x := nodeOf s 1 3;
      x.fate = 0 ∧ programErrors s 1 3 = [] ∧ x.mustRoll = false ∧ awaitsPage s 1 3 = false ∧ predecessorRolled s 1 x = false) := by
  decide +kernel

theorem test_wit_LaunchUnit_twins :
    recRedundant (BitVec.ofNat 512 (64 * 2 ^ 128)) = true ∧
    (withNode id .running).ctxs.any (fun c => c.2.task.any (fun t => t.tenant == 1 && t.node == 3 && taskKey t / 2 == 5)) = false ∧
    (withNode id .running).saved.any (fun z => z.ctx.task.any (fun t => t.tenant == 1 && t.node == 3 && taskKey t / 2 == 5)) = false ∧
    digestOf (node .running) (2 * 5) = digestOf (node .running) (2 * 5 + 1) ∧
    (let x := { node .running with digests := [(10, [(0, [1])]), (11, [(0, [2])])] };
      digestOf x (2 * 5) ≠ digestOf x (2 * 5 + 1)) := by decide +kernel

theorem test_wit_HostAccesses :
    (appears (tenant 1 id) 1 = true ∧ (1 : W64).getLsbD 1 = false ∧ (1 : W64).getLsbD 2 = false ∧ (2 : W64).getLsbD 1 = true ∧
      (4 : W64).getLsbD 1 = false ∧ (4 : W64).getLsbD 2 = true ∧ 0x2004 % 8 ≠ 0) ∧
    (let s := tenant 1 (fun t => { t with mbBusy := true }); (tenantOf s 1).mbBusy = true) ∧
    (let s := tenant 1 (fun t => { t with req := [(0, 8)] }); (tenantOf s 1).mbBusy = false ∧ isKnownCmd s (reqCmd (tenantOf s 1)) = true) ∧
    (let t := tenantOf (tenant 1 (fun t => { t with winEn := true })) 1;
      t.regions.find? (fun r => r.1 == t.winRegion.toNat) = some (t.winRegion.toNat, ⟨1, 0x100000⟩) ∧
      windowAddr t (arrive t 0x1FFFF 1 none) 0 = some 0x10FFFF ∧ windowAddr t (arrive t 0x1FFFF 2 none) 1 = none ∧
      windowAddr t (arrive t 0xFFFF 1 none) 0 = none ∧
      t.winQueue = [] ∧ awaitsMigration t (arrive t 0x1FFFF 1 (some [7])) = false) ∧
    (let t := tenantOf (withNode (fun x => { x with migrating := [(0, 2)] }) .running) 1; namingNodes t 0 = [3] ∧
      awaitsMigration { t with winEn := true } (arrive { t with winEn := true } 0x10000 1 (some [7])) = true) ∧
    ((tenantOf (tenant 1 id) 1).nodes.all (fun x => !isLive x.2)) = true ∧
    (let s := modDie State.reset 0 (fun d => { d with faults := [⟨1, 2, 3, 4⟩] });
      (dieOf s 0).faults = [⟨1, 2, 3, 4⟩] ∧ (dieOf s 0).held = []) ∧
    (let s := modDie State.reset 0 (fun d => { d with faults := [⟨1, 2, 3, 4⟩], held := [⟨0x25, 2, 3, 4⟩] });
      (dieOf s 0).held = [⟨0x25, 2, 3, 4⟩] ∧ fieldOf (0x25 : W64).toNat 0 8 ≠ 0x20) := by decide +kernel

/-- A pending request of function `fn`: word 0 is the command, the others its arguments. -/
def asking (fn : Nat) (words : List Nat) : State :=
  { tenant fn (fun t => { t with
      mbBusy := true
      req := (words.zipIdx).foldl (fun m x => memWriteNat m (8 * x.2) 8 x.1) [] }) with mem := kernel }

theorem test_wit_MailboxCommands :
    (commandOf 1 (.sealSet 1) = some (0x13, true) ∧ pendingCommand (asking 1 [0x13]) 1 0x13 = true) ∧
    (let s := asking 1 [0x01, 2]; let t := tenantOf s 1;
      pendingCommand s 1 0x01 = true ∧ reqWord t 1 = 2 ∧ reqWord t 1 ≠ 0 ∧ unitsUsed t + 2 ≤ t.hbmUnits ∧ freeRegion t = some 1 ∧
      (List.range 8).findSome? (fun st => placeRegion s st (2 * 65536)) = some 0) ∧
    (let s := asking 1 [0x02, 0]; pendingCommand s 1 0x02 = true ∧ (tenantOf s 1).regions.any (fun r => r.1 == 0) = true ∧
      regionNamed (tenantOf s 1) 0 = false) ∧
    (let s := asking 1 [0x03, 0, 0xFFF0, 0, 16, 1]; let q := reqWord (tenantOf s 1);
      pendingCommand s 1 0x03 = true ∧ (tenantOf s 1).regions.find? (fun r => r.1 == q 1) = some (0, ⟨1, 0x100000⟩) ∧
      q 2 + q 4 ≤ 1 * 65536 ∧ inHost (tenantOf s 1) (Config.hostBase + q 3) (q 4) = true ∧ q 5 % 2 = 1) ∧
    (let s := asking 1 [0x03, 0, 0xFFF0, 0, 16, 0];
      pendingCommand s 1 0x03 = true ∧ reqWord (tenantOf s 1) 5 % 2 = 0 ∧ regionNamed (tenantOf s 1) 0 = false) ∧
    (let s := tenant 1 (fun t => { t with mbIe := true }); (tenantOf s 1).mbIe = true ∧ (bytesOfNat 8 5).length < 2 ^ 16 ∧
      isMasked (tenantOf s 1) 0 = false ∧ isMasked { tenantOf s 1 with msixTable := memWriteNat [] 12 4 1 } 0 = true) := by
  decide +kernel

theorem test_wit_MailboxCommands_load :
    (let s := asking 1 [0x04, 0x100000]; let t := tenantOf s 1;
      pendingCommand s 1 0x04 = true ∧ 0x100000 % 64 = 0 ∧ inRegions t 0x100000 0x908 = true ∧
      inRegions t 0x100000 (kBytes s 0x100000) = true ∧
      inRegions t (0x100000 + memReadNat s.mem 0x100034 4) (4 * memReadNat s.mem 0x100033 1) = true ∧
      loaderCheck s t 0x100000 (memSlice (memWrite kernel 0x100014 0) 0x100000 (kBytes s 0x100000)) = some 2) ∧
    (let s := asking 1 [0x05, 7]; pendingCommand s 1 0x05 = true ∧ 1 ≤ reqWord (tenantOf s 1) 1 ∧ reqWord (tenantOf s 1) 1 ≤ 7) ∧
    (dieOf State.reset 0).held = [] ∧
    (let s := modCtx (asking 1 [0x06, 1, 2, 0]) 6 (fun c => { c with task := some { task with tenant := 1 }, halted := some 9, tcause := 0x13 });
      let q := reqWord (tenantOf s 1);
      pendingCommand s 1 0x06 = true ∧ (ctxOf s (q 1 * 4 + q 2)).task = some { task with tenant := 1 } ∧ q 2 < 4 ∧
      (ctxOf s (q 1 * 4 + q 2)).halted = some 9 ∧ (ctxOf s (q 1 * 4 + q 2)).tcause = 0x13 ∧ task.tenant = 0 ∧ q 3 = 0) ∧
    reqWord (tenantOf (asking 1 [0x06, 1, 2, 1]) 1) 3 = 1 ∧
    (let s := asking 1 [0x07, 0, 0, 0, 0, 0]; pendingCommand s 1 0x07 = true ∧ inHost (tenantOf s 1) (Config.hostBase + 0) 0x4000 = true) ∧
    pendingCommand (asking 1 [0x08]) 1 0x08 = true ∧
    (pendingCommand (asking 1 [0x09, 3, 0, 240]) 1 0x09 = true ∧ 0 + 240 ≤ Config.journalStep) ∧
    pendingCommand (asking 1 [0x14, 4095, 3]) 1 0x14 = true ∧ pendingCommand (asking 1 [0x16, 376, 8]) 1 0x16 = true ∧ 376 + 8 ≤ 384 := by
  decide +kernel

theorem test_wit_MailboxCommands_physical :
    (let s := asking 0 [0x10, 15]; pendingCommand s 0 0x10 = true ∧ (tenantOf s 15).live = false) ∧
    (let s := { asking 0 [0x11, 1] with tenants := (asking 0 [0x11, 1]).tenants ++ [(1, { Tenant.reset with live := true, tda := true })] };
      pendingCommand s 0 0x11 = true ∧ (tenantOf s 1).live = true ∧ isDrained (tenantOf s 1) = true) ∧
    pendingCommand (asking 0 [0x12, 5, 383, 7200, 0]) 0 0x12 = true ∧ pendingCommand (asking 0 [0x13, 0]) 0 0x13 = true ∧
    (pendingCommand (asking 0 [0x13, 1]) 0 0x13 = true ∧ reqWord (tenantOf (asking 0 [0x13, 1]) 0) 1 = 1) ∧
    (pendingCommand (asking 0 [0x15, 1800, 60]) 0 0x15 = true ∧ (asking 0 [0x15, 1800, 60]).brown = none ∧
      ({ asking 0 [0x15, 3000, 60] with brown := some 43000 } : State).brown = some 43000) ∧
    pendingCommand { asking 0 [0x20, 0, 0] with bootStep := 0xF3 } 0 0x20 = true := by decide +kernel

/-- A kernel with a DM partition of 4 KiB, whose image is asked to be loaded. -/
def loading : State := { asking 1 [0x04, 0x100000] with mem := memWrite kernel 0x100022 4 }

/-- Where the loader's bound of R133 holds for it, no check fails. -/
theorem test_wit_MailboxCommands_loaded (h : boundHolds loading 0x100000 (memSlice loading.mem 0x100000 0x908) 0x100000 = true) :
    loaderCheck loading (tenantOf loading 1) 0x100000 (memSlice loading.mem 0x100000 0x908) = none := by
  unfold loaderCheck
  rw [show (tenantOf loading 1).regions.find? (fun r => r.1 == kCodeReg (memSlice loading.mem 0x100000 0x908)) =
    some (0, ⟨1, 0x100000⟩) by decide +kernel]
  simp only [h]
  decide +kernel

/-- A configuration record of TYPE 7 with an empty body (R369). -/
def record7 : Memory := memWriteNat (memWriteNat [] Config.configBase 4 0x4A584352) (Config.configBase + 4) 2 7

def parsed7 : ConfigRecord := ⟨Config.configBase, 7, 0, [], memReadList record7 Config.configBase 2436⟩

theorem test_record_parsed : record7.filterMap (fun c =>
    if Config.configBase ≤ c.1 ∧ c.1 < Config.configBase + 0x4000_0000 ∧ c.1 % 64 = 0 then recordAt record7 c.1 else none) =
      [parsed7] := by decide +kernel

/-- Where its signature holds, it is the record that applies. -/
theorem test_wit_MailboxCommands_image (v : recordValid parsed7 = true) :
    recordOf (recordsOf record7) 7 = some parsed7 := by
  unfold recordsOf; rw [test_record_parsed]; simp [recordOf, v, show parsed7.kind = 7 from rfl]

/-- A write of two bytes from package 5, and the flit that brings it. -/
def incoming : Outbound := ⟨0, 0, 0, 0, ⟨0, 5, 1, 0, 9, 0x1000, 2 * 2 ^ 32, [1, 2]⟩⟩

def incomingFlit : Flit := flitOf Port.reset 0 0 [incoming]

theorem test_wit_FabricEvents :
    (let s := modPort State.reset 3 (fun p => { p with state := 2 });
      (portOf s 3).state = 2 ∧ (portOf s 3).replay = [] ∧ (portOf s 3).rxSeq = 0 ∧ (portOf s 3).rxPart = [] ∧
      s.applied.contains (transKey incoming.tr) = false ∧ transDetail incoming.tr % 128 = 2) ∧
    (portOf (modPort State.reset 3 (fun p => { p with state := 1 })) 3).state = 1 ∧
    lanesFor 0x11 0x0F = (0x0C, 2) ∧ lanesFor 0x10 0x0F = (0x0F, 1) ∧ lanesFor 0x55 0 = (0, 3) ∧
    hasPath State.reset 5 = false ∧
    hasPath { modPort State.reset 3 (fun p => { p with state := 2 }) with routes := [(5, 0, 3)] } 5 = true := by decide +kernel

theorem test_wit_FabricEvents_flits :
    flitCrcOk incomingFlit = true ∧ flitCrcOk { incomingFlit with crc := incomingFlit.crc + 1 } = false ∧
    flitType incomingFlit = 0 ∧ flitSeq incomingFlit = 0 ∧ flitNak incomingFlit = false ∧
    (takeTrans (flitPayload incomingFlit).length (flitPayload incomingFlit)).1 = [incoming.tr] ∧
    flitSeq (flitOf Port.reset 4095 0 []) ≠ (portOf State.reset 3).rxSeq := by
  refine ⟨by simp [incomingFlit, flitCrcOk, flitOf], ?_, by decide +kernel⟩
  have h : (Config.crc64 incomingFlit.body) ≠ Config.crc64 incomingFlit.body + 1 := by simp
  simpa [incomingFlit, flitCrcOk, flitOf, beq_eq_false_iff_ne] using h.symm

theorem test_wit_PowerAndService :
    43999 < 44000 ∧ ({ State.reset with brown := some 43000 } : State).brown ≠ none ∧ State.reset.booted = false ∧
    State.reset.bootStep = 0 ∧ State.reset.brownFrozen = [] ∧ 350 ≤ State.reset.clock ∧ (∀ g, State.reset.stretched = some g → 350 ≤ g) ∧
    (6 < (0x80 : BitVec 8).toNat) ∧ (dieOf State.reset 0).scrubPaused.contains 0 = false ∧ (dieOf State.reset 0).faults.length < 4096 ∧
    healthNow (latchPorts { State.reset with ports := [(3, { Port.reset with bad := true })] }) ≠ State.reset.health := by decide +kernel

theorem test_wit_PowerAndService_boot :
    let at6 := fun b n => ({ State.reset with bootStep := 6, sealed := b, testItem := n } : State);
    (at6 true 0).sealed = true ∧ (at6 true 4).testItem = 4 ∧ (at6 false 0).sealed = false ∧
    (recordOf (recordsOf (at6 true 4).mem) 1).isNone = true := by decide +kernel

theorem test_wit_PowerAndService_spares :
    0 < (dieOf State.reset 3).spares ∧ 95 / 24 = 3 ∧ occupants State.reset 95 = [] ∧
    (clusterOf State.reset 95).swapping = false ∧ (clusterOf State.reset 95).quarantined = false ∧
    (dieOf (modDie State.reset 3 (fun d => { d with spares := 0 })) 3).spares = 0 ∧
    (let s := at5 .br [] id; 0 ∈ occupants s 0 ∧ (ctxOf s 0).freeze = none ∧ (ctxOf s 0).halted = none) ∧
    (let s := modCluster (at5 .br [] (fun c => { c with freeze := some ⟨9, [.pre], 0⟩ })) 0 (fun c => { c with swapping := true });
      (clusterOf s 0).swapping = true ∧ occupants s 0 = [0] ∧ (occupants s 0).all (readyToSave s) = true) := by decide +kernel


/-- A configuration record of TYPE 3 with an empty body. -/
def record3 : Memory := memWriteNat (memWriteNat [] Config.configBase 4 0x4A584352) (Config.configBase + 4) 2 3

def parsed3 : ConfigRecord := ⟨Config.configBase, 3, 0, [], memReadList record3 Config.configBase 2436⟩

theorem test_policy_parsed : record3.filterMap (fun c =>
    if Config.configBase ≤ c.1 ∧ c.1 < Config.configBase + 0x4000_0000 ∧ c.1 % 64 = 0 then recordAt record3 c.1 else none) =
      [parsed3] := by decide +kernel

/-- A policy of one core with a grant of every second cycle, and one whose durable range is the configuration region (R80, R88). -/
def onePolicy : Config.Policy := ⟨[5], [(5, 0, 1, 2)], 8, [(Config.durBase, 0x10000)], [], [], 64, 0, 0⟩

theorem test_policy_checked :
    policyOk (asking 0 [0x10, 15]) onePolicy = true ∧
    policyOk (asking 0 [0x10, 15]) { onePolicy with durable := [(Config.configBase, 64)] } = false ∧
    policyOk (asking 0 [0x10, 15]) { onePolicy with grants := [(5, 0, 1, 3)] } = false ∧
    policyOk (asking 0 [0x10, 15]) { onePolicy with cores := [1] } = false := by decide +kernel

/-- Where its signature holds and it gives function 15 that policy, the function has it, and it may be used. -/
theorem test_wit_MailboxCommands_policy (v : recordValid parsed3 = true)
    (h : (Config.policyOf []).find? (fun x => x.1 == 15) = some (15, onePolicy)) :
    let s := { asking 0 [0x10, 15] with mem := record3 };
    policyFor s 15 = some onePolicy ∧ policyOk s onePolicy = true := by
  refine ⟨?_, by decide +kernel⟩
  simp only [policyFor, recordsOf]; rw [test_policy_parsed]
  simp [recordOf, v, show parsed3.kind = 3 from rfl, show parsed3.body = [] from rfl, h]

/-! ### Worked examples of the spec -/

/-- The values and flags of the vector results in flight. -/
def vectorResults (o : Host.Outcome State Fault Refusal) : List (Nat × Nat × Flags) :=
  match o with
  | .next t => (ctxOf t 0).flights.filterMap (fun f => match f.act with
    | .result (.v r _ x) fl _ => some (r.val, x.toNat % 2 ^ 64, fl)
    | _ => none)
  | _ => []

/-- The MX round trip: 3.0, −0.1, 0.375 and 2^−17 pack to 0x7C, 0xD5, 0x64 and 0, with E = 0x78 in block 0 and 0x7F in the
empty block 1; NX and UF are raised (R235–R237). -/
theorem test_pack_example :
    vectorResults (exec (.vpacksc 10 2 0 .f32 ⟨.e4m3, 0, .vmode, .sat, 0⟩) (at5 .vp [] (fun c =>
      { c with v := c.v.set 2 (BitVec.ofNat 2048 (0x40400000 + 0xBDCCCCCD * 2 ^ 32 + 0x3EC00000 * 2 ^ 64 + 0x37000000 * 2 ^ 96)) }))) =
      [(10, 0x0064D57C, 0x18), (11, 0x7F00000078, 0)] := by decide +kernel

theorem test_vhacc_word : decodeOp .v0 [0x5C015288, 0x18800000] = .ok (.vhacc 10 (.scal 5) 1 .f32 ⟨6, false, 4, .add⟩) := by decide

/-- The refused bundle of the energy chapter: seven cycles of 741 q under ALLOW 5,900, a bundle of 21 q and 720 q of draws
give SUM 5,928 (R122, R128). -/
theorem test_refused_bundle :
    windowCheck { CoreState.reset with value := 5900, window := List.replicate 7 (21, 741), resv := [⟨0, 0, none, 720, none⟩] } 100 21 [] =
      .refused 0x170C000000001728 0 := by decide +kernel

/-- The SHA3-256 digest of the empty message, as FIPS 202's examples give it (a7ffc6f8…8434a, byte 0 first). -/
theorem test_sha3_empty : sha3 [] = 0x4a43f8804b0ad882fa493be44dff80f562d661a05647c15166d71ebff8c6ffa7 := by decide +kernel

/-- An interrupted copy of the trap chapter: engine 0, AB line 8, five cycles away (R190). -/
theorem test_descriptor_example :
    (descriptor ⟨⟨0, 621, .copySource ⟨0, ⟨.ab, 0x800⟩, false, 0x30000, 4, 621, 1, 300, none, [], 4, false⟩ 0, []⟩, 5, none⟩).1 =
      0x0500000500000008 := by decide +kernel

/-! ### Performing: states that meet the hypotheses of the clauses on what effects read and write -/

/-- A NaN that a reduction meets as its lone lane is canonical, and raises NV where it signalled (R52). -/
theorem test_wit_ReductionsAndScans_nan :
    Ty.isFloat .f32 = true ∧ (laneValue .f32 0x7F800001).isNaN = true ∧ (laneValue .f32 0x3F800000).isNaN = false ∧
    reduced .add .f32 (some 0x7F800001, 0) = (0x7FC00000, flagNV) := by decide +kernel

/-- A VHACC of one active lane with key 7 and value 3 on a table of two empty entries (R226). -/
def haccJob : Untimed :=
  pendingJob (.vhacc .i32 ⟨6, false, 1, .add⟩ 0x8000 (ofLanes 32 64 (fun i => if i = 0 then 7 else 0xFFFF_FFFF)) 3
    (BitVec.allOnes 128) 0 6)

/-- The table: entry 1, which the hash of key 7 names, as `a`, and entry 0 as `b`. -/
def haccTable (a b : Nat) : Memory := memWriteNat (memWriteNat [] 0 8 b) 8 8 a

theorem test_wit_HashAndNest_performs :
    haccStopped (ctxOf (withJob haccJob.job) 0) haccJob.seq = false ∧
    Memory.wf ((coreOf (withJob haccJob.job) (coreIx 0)).bufMem (haccBuf ⟨6, false, 1, .add⟩)) ∧ 63 < 64 ∧
    haccProbe (haccTable 0xFFFF_FFFF 0xFFFF_FFFF) 1 7 1 = some (1, false) ∧ haccProbe (haccTable 0x5_0000_0007 0) 1 7 1 = some (1, true) ∧
    haccProbe (haccTable 9 8) 1 7 1 = none ∧ laneBit (BitVec.allOnes 128) .i32 0 = true ∧ laneBit 1 .i32 1 = false := by
  decide +kernel

/-- Key 7 finds its entry, whose value 5 the lane's 3 makes 8; an empty entry takes the key and the value (R226). -/
theorem test_hacc_updates :
    let run := fun m => (haccRun .i32 ⟨6, false, 1, .add⟩ (BitVec.ofNat 2048 7) 3 (BitVec.ofNat 128 0xF) 0 1 m).mem;
    let last := fun m => (haccRun .i32 ⟨6, false, 1, .add⟩ (BitVec.ofNat 2048 (7 * 2 ^ (32 * 63))) (BitVec.ofNat 2048 (3 * 2 ^ (32 * 63)))
      (BitVec.allOnes 128) 0 1 m).mem;
    run (haccTable 9 9) = haccTable 9 9 ∧ last (haccTable 0x5_0000_0007 0) = haccTable 0x8_0000_0007 0 ∧
    last (haccTable 0xFFFF_FFFF 0) = haccTable 0x3_0000_0007 0 := by decide +kernel

/-- A VNEST VADD.I32 of four steps: AB line 1 and WB line 0 to AB line 0. -/
def nestArgs : NestArgs := ⟨.vadd, .i32, 0, .ab, .ab, .wb, 0, 1, 0, flatLevel 3, flatLevel 0, flatLevel 0, flatLevel 0, flatLevel 0⟩

theorem test_wit_HashAndNest_steps :
    (let s := dueNow (.nestStep nestArgs 6 (BitVec.allOnes 128) 0 0);
      nestReads nestArgs 0 = [(11, .ab, 1), (12, .wb, 0)] ∧ ∀ r ∈ nestReads nestArgs 0,
        pendingLine s 0 r.2.1 r.2.2 = false ∧ isRefused s 0 r.2.1 (r.2.2 * 256) false = false ∧ badBytes s 0 r.2.1 (r.2.2 * 256) 256 = []) ∧
    (let s := dueNow (.nestWrite nestArgs 6 1 0 7 0 false);
      pendingLine s 0 .ab 0 = false ∧ isRefused s 0 .ab (0 * 256) true = false) := by decide +kernel

/-- The run of the FP8 example as its second k-group updates tile 0. -/
def fpRun : MmaRun := ⟨0, 0x6333, 128, 128, streamWord 0, streamWord 0x108, 0, 40, 2, false, false⟩

theorem test_wit_MatrixCommands_performs :
    (dueNow (.mmaUpdate fpRun 1 [] [] [] [])).refused = [] ∧ fpRun.rows ≤ 128 ∧ fpRun.cols ≤ 128 ∧
    (let d := runSides fpRun;
      isPoisoned d.1 true [0] = true ∧ isPoisoned d.1 true [] = false ∧ d.1.fmt = .e4m3 ∧
      (fullValue d.1 [(0, 0xFF)] false 0 0).any Num.isNaN = true) ∧
    (precOf 0x6333).accf = 0 ∧ (precOf 0x125277).accf = 1 ∧ (precOf 0x225277).accf = 2 ∧
    (let d := runSides { fpRun with prec := 0x125277 }; d.1.fmt.isFloat = false ∧ d.2.fmt.isFloat = false) := by decide +kernel

/-- A drain of tile 0 as F16 to CB 0x100, at its first line. -/
theorem test_wit_TileCommands_performs :
    (let s := dueNow (.drain 0 .f16 0 .ieee false 0x100 128 0 false);
      updateAhead s 0 0 .f16 0 = none ∧ Fmt.bits .f16 = 16 ∧ Fmt.bits .i8 = 8 ∧ Fmt.bits .f32 = 32) ∧
    (let s := dueNow (.drainWrite 0 0x100 [(1, 7)]);
      Memory.wf ([(1, 7)] : Memory) ∧ pendingLine s 0 .cb (0x100 / 256) = false ∧ isRefused s 0 .cb 0x100 true = false) ∧
    (let s := dueNow (.tloadRead 0 .i8 0x100 128 1 false); let off := 0x100 + 256 * 1;
      0x100 % 256 = 0 ∧ pendingLine s 0 .cb (off / 256) = false ∧ landingAhead s 0 .cb (off / 256) = false ∧
      isRefused s 0 .cb off false = false ∧ badBytes s 0 .cb off 256 = []) ∧
    (dueNow (.tloadWrite 0 .i8 128 1 [] false)).refused = [] ∧ 0 < elementsPerLine .i8 ∧ (dueNow (.tclr 3)).refused = [] := by
  decide +kernel

/-- The FP32 one drains as the BF16 one, and comes back (R259, R260). -/
theorem test_tile_elements :
    drainElement false .bf16 0 .ieee 0x3F800000 = (0x3F80, 0) ∧ loadElement .bf16 0x3F80 = 0x3F800000 ∧
    loadElement .i8 0x80 = 0xFFFFFF80 ∧ drainElement true .i8 0 .sat 300 = (127, flagOF ||| flagNX) := by decide +kernel

/-- A copy of two lines between AB line 0 and device address `v`, with map `m`. -/
def copyOf (v : Nat) (out : Bool) (m : Option GWord) : CopyRun := ⟨0, ⟨.ab, 0⟩, out, v, 2, 5, 1, 300, m, [], 1, false⟩

theorem test_wit_Copies_performs :
    (let r := copyOf 0x30000 false none; let s := dueNow (.copySample r 1);
      translate s 0 (copyAddr r 1) = .hit ⟨.plain, 0, 0x200100, true⟩ ∧ pendingLine s 0 .ab (256 / 256) = false ∧
      copyRefused s 0 ⟨.ab, 256⟩ 0 true = false ∧ copyRefused s 0 ⟨.ab, 256⟩ 0 false = false ∧ landingAhead s 0 .ab (256 / 256) = false ∧
      r.place.off % 256 = 0) ∧
    (let r := copyOf 0x30000 true none;
      translate (dueNow (.copyPerform r 1 [] false)) 0 (copyAddr r 1) = .hit ⟨.plain, 0, 0x200100, true⟩ ∧
      0x200100 + 256 ≤ Config.durBase) ∧
    Memory.wf (mapTile ((copyOf 0x30000 false (some (BitVec.ofNat 512 smallMap))).map.getD 0) 0x30000 [] []) ∧
    (let s := dueNow (.sendRead 4 ⟨.ab, 0⟩ 2 1 16 false);
      isRefused s 0 .ab 256 false = false ∧ recvPlace s 4 0 = none) ∧
    (let s := modCtx (dueNow (.sendLand 4 0 [(1, 7)] [])) 4 (fun c => { c with ttc := 9, flights := [⟨0, 12, .recv 0 ⟨.wb, 0⟩ 4 8, []⟩] });
      recvPlace s 4 0 = some ⟨.wb, 256⟩ ∧ pendingLine s 4 .wb (256 / 256) = false ∧ isRefused s 4 .wb 256 true = false) := by
  decide +kernel

/-- The mapped copy puts the 32 bytes of its source row into row 0 of its tile (R268, R269). -/
theorem test_mapped_bytes :
    let r := copyOf 0 false (some (BitVec.ofNat 512 smallMap));
    let tile := mapTile (BitVec.ofNat 512 smallMap) 0 (mapSourceLines (BitVec.ofNat 512 smallMap) 0) (memWriteList [] 0 [1, 2, 3]);
    r.map.isSome = true ∧ memRead tile 0 = 1 ∧ memRead tile 2 = 3 := by decide +kernel

/-- The AB line 0 of core 0 holds bytes 1, 2, 3, …; a job stands in context 0. -/
def feeding (j : Job) : State :=
  modCore (withJob j) 0 (fun c => { c with ab := memWriteList [] 0 ((List.range 64).map (fun i => BitVec.ofNat 8 (i + 1))) })

theorem test_wit_EngineWork_performs :
    (let j := Job.gather 0x30000 2 [5, 1] ⟨.ab, 0x100⟩; let s := withJob j;
      translate s 0 (entryAddr 0x30000 2 5) = .hit ⟨.plain, 0, 0x20000A, true⟩ ∧
      translate s 0 (entryAddr 0x30000 2 1) = .hit ⟨.plain, 0, 0x200002, true⟩) ∧
    (let j := Job.scatter 0x30000 2 [5, 1] ⟨.ab, 0⟩; let s := feeding j; let u := pendingJob j;
      u ∈ (ctxOf s 0).allUntimed ∧ u.held = none ∧ logCount s (coreIx 0) 2 < 256 ∧
      (∀ w ∈ (ctxOf s 0).allUntimed, w.seq < u.seq → isLogged s 0 w = false) ∧
      (0x200002 + 2 ≤ 0x20000A ∨ 0x20000A + 2 ≤ 0x200002) ∧ 0x20000A + 2 ≤ Config.durBase) ∧
    task.twin = false ∧ task.spec = false ∧ (ctxOf (feeding .walk) 0).task = some task ∧
    isOutstanding (feeding .walk) 0 0 = false ∧
    (∀ i, i < 2 → translate (feeding .walk) 0 (0x50040 + 64 * i) = .hit ⟨.dur, 0, Config.durBase + 64 + 64 * i, true⟩) ∧
    (∀ i, i < 4 → translate (feeding .walk) 0 (0x60000 + 64 * i) = .hit ⟨.rem, 2, 0x200000 + 64 * i, true⟩) ∧
    (feeding .walk).pkgId = 0 ∧ 0x200000 + 256 ≤ 2 ^ 45 ∧ isMarked (feeding .walk) Config.durBase = false ∧
    (nodeOf (feeding .walk) 0 0).staged = [] ∧
    (let s := modTenant { feeding .walk with pkgId := 2, domain := [(2, 0, 0)] } 0 (fun t => { t with regions := [(0, ⟨1, 0x200000⟩)] });
      ∀ i, i < 4 → homeAccepts s s.pkgId task.tenant (0x200000 + 64 * i) 64 = true) := by decide +kernel

/-- A SCATTER writes its packed elements in list order, and a GATHER packs them again (R274). -/
theorem test_gather_scatter :
    (let j := Job.scatter 0x30000 2 [5, 1] ⟨.ab, 0⟩;
      (performJob (feeding j) 0 (pendingJob j)).mem = [(0x200002, 3), (0x200003, 4), (0x20000A, 1), (0x20000B, 2)]) ∧
    (let j := Job.gather 0x30000 2 [5, 1] ⟨.wb, 0x100⟩;
      (coreOf (performJob { withJob j with mem := [(0x200002, 3), (0x20000B, 2)] } 0 (pendingJob j)) 0).wb = [(0x101, 2), (0x102, 3)]) := by
  decide +kernel

/-- The node of function 1 that waits for a place while context 4 is to go, has begun to go, or cannot be read (R325, R347). -/
theorem test_wit_LaunchUnit_victims :
    (let s := { modCtx (withNode (fun x => { x with
        unplacedSince := some 0, record := goodRecord + BitVec.ofNat 512 (2 ^ 128) }) .running) 4 (fun c => { c with
        task := some { task with tenant := 1, node := 3 } }) with clock := 700 };
      (tenantOf s 1).preempts.find? (fun p => p.1 == 3) = none ∧ victimOf s 1 3 = some 4 ∧
      (let s := modTenant s 1 (fun t => { t with preempts := [(3, 4)] });
        (tenantOf s 1).preempts.find? (fun p => p.1 == 3) = some (3, 4) ∧
        isPreempted (modCtx s 4 (fun c => { c with preAt := some 100512 })) 1 4 = true) ∧
      (let t := modCtx s 4 (fun c => { c with freeze := some ⟨1000, [.pre], 0⟩ });
        canSave t 4 = true ∧ parityFails t 4 = false ∧
        parityFails (modCore t 1 (fun c => { c with parity := [(3, 0x10)] })) 4 = true)) ∧
    (let s := withNode (fun x => { x with fate := 4 }) .running;
      isEntryHeld s 1 3 = false ∧
      isEntryHeld (modDie s 0 (fun d => { d with held := [⟨BitVec.ofNat 64 (2 ^ 60 + 3 * 2 ^ 50 + 0x22), 0, 0, 0⟩] })) 1 3 = true) ∧
    (let s := modCtx (withNode (fun x => { x with running := [4] }) .running) 4 (fun c => { c with
        task := some { task with tenant := 1, node := 3 }, mode := .supervisor, tcause := 0x0A });
      isEntryHeld ((programErrors s 1 3).foldl postProgramError s) 1 3 = false) := by decide +kernel

theorem test_wit_PowerAndService_droop :
    droopOver { State.reset with stretched := some 400 } = true ∧
    droopOver (modCluster { State.reset with stretched := some 400, gcc := 1500 } 7 (fun c => { c with tripped := some 1000 })) = false ∧
    effectiveClock { State.reset with stretched := some 5000 } = State.reset.clock ∧
    (dieOf State.reset 3).scrubPaused.contains (8 + 3) = false := by decide +kernel

theorem test_wit_FabricEvents_paths :
    let o : Outbound := { incoming with dest := 5, tr := ⟨0, 0, 1, 0, 9, 0x1000, 2 * 2 ^ 32 + 1, [1, 2]⟩ };
    let s := fun n => { withNode (fun x => { x with status := n }) .committing with outbound := [o] };
    hasPath (s 0xFF) 5 = false ∧ isCommitted (s 0xFF) o = true ∧ isCommitted (s 0) o = false ∧
    (∃ t, exec (.noPathTimeout 5) (s 0xFF) = .next t ∧ t.outbound = [o]) := by
  refine ⟨by decide +kernel, by decide +kernel, by decide +kernel, _, rfl, by decide +kernel⟩

end Sys2Proof.Tests
end

