-- ==== Sys2Proof/Proofs/MemoryValues.lean ====
section
/-! PROOFS. The values that loads and atomics make, against the operations of bit vectors (R3, R204, R209). -/

namespace Sys2Proof.Machine

/-! ### Extension of a loaded value (R204) -/

/-- The top bit of an n-byte number, as `extend` tests it, is the sign of the word. -/
theorem testBit_toNat_top {n : Nat} (x : BitVec (8 * n)) : x.toNat.testBit (8 * n - 1) = x.msb := by
  rw [BitVec.msb_eq_getLsbD_last, BitVec.testBit_toNat]

theorem extend_false_toNat {n : Nat} (x : BitVec (8 * n)) : extend false n x.toNat = x.setWidth 64 := by
  simp [extend, BitVec.ofNat_toNat]

theorem extend_true_toNat {n : Nat} (x : BitVec (8 * n)) : extend true n x.toNat = x.signExtend 64 := by
  simp only [extend, Nat.mod_eq_of_lt x.isLt, testBit_toNat_top, Bool.true_and]
  cases h : x.msb with
  | false => simp [BitVec.signExtend_eq_setWidth_of_msb_false h]
  | true => simp [BitVec.signExtend, BitVec.toInt_eq_msb_cond, h]

/-! ### Reading numbers byte by byte (R3) -/

theorem memReadList_succ (m : Memory) (a n : Nat) :
    memReadList m a (n + 1) = memRead m a :: memReadList m (a + 1) n := by
  simp [memReadList, List.range_succ_eq_map, Nat.add_assoc, Nat.add_comm 1]

theorem memReadNat_succ (m : Memory) (a n : Nat) :
    memReadNat m a (n + 1) = (memRead m a).toNat + 256 * memReadNat m (a + 1) n := by
  rw [memReadNat, memReadList_succ, natOfBytes, memReadNat]

theorem memReadNat_memWriteNat_of_lt (m : Memory) (a : Nat) {n x : Nat} (h : x < 2 ^ (8 * n)) :
    memReadNat (memWriteNat m a n x) a n = x := by
  rw [memReadNat_memWriteNat, Nat.mod_eq_of_lt h]

/-! ### New values of the atomics (R209) -/

/-- The two's complement reading that `amoNew` compares by is `BitVec.toInt`. -/
theorem toInt_eq_halfCond {w : Nat} (hw : 0 < w) (x : BitVec (8 * w)) :
    (if x.toNat < 2 ^ (8 * w) / 2 then (x.toNat : Int) else x.toNat - (2 ^ (8 * w) : Nat)) = x.toInt := by
  have even : 2 ^ (8 * w - 1) * 2 = 2 ^ (8 * w) := Nat.two_pow_pred_mul_two (by omega)
  have half : x.toNat < 2 ^ (8 * w) / 2 ↔ 2 * x.toNat < 2 ^ (8 * w) := by omega
  simp only [BitVec.toInt_eq_toNat_cond, half]

section
variable {w : Nat} (old v : BitVec (8 * w)) (c : Nat)

theorem amoNew_add : amoNew .add w old.toNat v.toNat c = some (old + v).toNat := by
  rw [BitVec.toNat_add, amoNew]

theorem amoNew_min (hw : 0 < w) :
    amoNew .min w old.toNat v.toNat c = some (if old.toInt ≤ v.toInt then old else v).toNat := by
  simp only [amoNew, toInt_eq_halfCond hw, apply_ite BitVec.toNat]

theorem amoNew_max (hw : 0 < w) :
    amoNew .max w old.toNat v.toNat c = some (if v.toInt ≤ old.toInt then old else v).toNat := by
  simp only [amoNew, toInt_eq_halfCond hw, apply_ite BitVec.toNat]

theorem amoNew_minn : amoNew .minn w old.toNat v.toNat c = some (min old.toNat v.toNat) := by
  rw [amoNew, Nat.min_def]

theorem amoNew_maxn : amoNew .maxn w old.toNat v.toNat c = some (max old.toNat v.toNat) := by
  rw [amoNew, Nat.max_comm, Nat.max_def]

theorem amoNew_and : amoNew .and w old.toNat v.toNat c = some (old &&& v).toNat := by
  rw [BitVec.toNat_and, amoNew]

theorem amoNew_or : amoNew .or w old.toNat v.toNat c = some (old ||| v).toNat := by
  rw [BitVec.toNat_or, amoNew]

theorem amoNew_xor : amoNew .xor w old.toNat v.toNat c = some (old ^^^ v).toNat := by
  rw [BitVec.toNat_xor, amoNew]

theorem amoNew_swap : amoNew .swap w old.toNat v.toNat c = some v.toNat := rfl

theorem amoNew_cas (e : BitVec (8 * w)) :
    amoNew .cas w old.toNat v.toNat e.toNat = if old = e then some v.toNat else none := by
  simp only [amoNew, BitVec.toNat_inj]

end

/-- Settles O30: a load's value by its sign bit, its bytes one by one, and one equation for each atomic. -/
theorem memoryValues : Obligations.MemoryValues := by
  unfold Obligations.MemoryValues
  refine ⟨⟨fun n x _ _ => ⟨extend_true_toNat x, extend_false_toNat x⟩, memReadNat_succ,
    fun m a n x h => memReadNat_memWriteNat_of_lt m a h⟩, fun w old v c hw => ?_⟩
  exact ⟨amoNew_add old v _, amoNew_min old v _ hw, amoNew_max old v _ hw, amoNew_minn old v _, amoNew_maxn old v _,
    amoNew_and old v _, amoNew_or old v _, amoNew_xor old v _, amoNew_swap old v _, amoNew_cas old v c⟩

end Sys2Proof.Machine
end

section
/-! PROOFS. Branches, hardware loops, BSEL and the mask stack (R36–R43, R165–R172). -/

namespace Sys2Proof.Machine

/-! ### The arms of `exec`

`simp only [exec]` needs the equations of `exec`, which are costly to derive. An example derives them before any theorem needs
them: else each proof that does, being elaborated on a thread of its own, holds the thread and its stack till they are there. -/

example (s : State) (fn : Nat) : exec (.qctlRst fn) s = execQctlRst fn s := by
  simp only [exec]

section
variable {s : State}

/-! ### Where control goes after a bundle (R40, R42, R165) -/

/-- The bundle after a taken branch is the first delay bundle. -/
theorem advancePc_of_branch {c : Ctx} {b : Redirect} (hb : c.branch = some b) (hs : c.skip = none) (n : Nat) :
    (advancePc c n none).pc = c.pc + BitVec.ofNat 64 (4 * (n + 1)) ∧ (advancePc c n none).redirect = some b ∧
    (advancePc c n none).branch = none ∧ (advancePc c n none).skip = none := by
  simp [advancePc, hb, hs]

/-- A delay bundle is followed by the next one while the redirect has one left. -/
theorem advancePc_of_delay {c : Ctx} {r : Redirect} (hb : c.branch = none) (hr : c.redirect = some r) (hl : 1 < r.left)
    (hs : c.skip = none) (n : Nat) :
    (advancePc c n none).pc = c.pc + BitVec.ofNat 64 (4 * (n + 1)) ∧
    (advancePc c n none).redirect = some { r with left := r.left - 1 } ∧
    (advancePc c n none).branch = none ∧ (advancePc c n none).skip = none := by
  have : ¬r.left ≤ 1 := by omega
  simp [advancePc, hb, hs, hr, this]

/-- The last delay bundle is followed by the target. -/
theorem advancePc_of_last {c : Ctx} {r : Redirect} (hb : c.branch = none) (hr : c.redirect = some r) (hl : r.left ≤ 1) (n : Nat) :
    (advancePc c n none).pc = r.target ∧ (advancePc c n none).redirect = none := by
  simp [advancePc, goTo, hb, hr, hl]

/-- Without a branch bundles follow in fall-through order. -/
theorem advancePc_of_none {c : Ctx} (hb : c.branch = none) (hr : c.redirect = none) (hs : c.skip = none) (n : Nat) :
    (advancePc c n none).pc = c.pc + BitVec.ofNat 64 (4 * (n + 1)) ∧ (advancePc c n none).redirect = none ∧
    (advancePc c n none).branch = none ∧ (advancePc c n none).skip = none := by
  simp [advancePc, hb, hs, hr]

/-! ### Taken branches (R40, R41, R165, R166) -/

theorem takeBranch_ok (h : (here s).redirect = none) (target : W64) (pops : Bool) :
    takeBranch s target pops = .ok (redirected s target pops) := by
  simp [takeBranch, inDelay, h, redirected]

theorem takeBranch_inDelay (h : (here s).redirect ≠ none) (target : W64) (pops : Bool) :
    takeBranch s target pops = .trap 0x04 none := by
  simp [takeBranch, inDelay, Option.isSome_iff_ne_none.mpr h]

/-- Every relative branch of R165 is a `branchIf` of its condition and displacement. -/
theorem exec_of_branchOf {i : Instr} {taken : Bool} {disp : W64} (h : branchOf (here s) i = some (taken, disp)) :
    ∃ (n : Nat) (x : BitVec n), disp = 4 * sext64 x ∧ exec i s = finish s (branchIf taken x s) := by
  unfold branchOf at h
  split at h
  case h_13 => cases h
  all_goals
    obtain ⟨rfl, rfl⟩ := Prod.mk.inj (Option.some.inj h)
    refine ⟨_, _, rfl, ?_⟩
  · rfl
  · rfl
  · exact congrArg (fun t => finish s (branchIf t _ s)) (by simp [bne, beq_eq_decide])
  · rfl
  · exact congrArg (fun t => finish s (branchIf t _ s)) (by simp [bne, beq_eq_decide])
  · rfl
  · exact congrArg (fun t => finish s (branchIf t _ s)) (by simp [BitVec.slt, ← decide_not])
  · rfl
  · exact congrArg (fun t => finish s (branchIf t _ s)) (by simp [BitVec.ult, ← decide_not])
  · exact congrArg (fun t => finish s (branchIf t _ s)) (by simp [bne, beq_eq_decide])
  · rfl
  · rfl

theorem branchIf_untaken (h : slotFree s = true) {n : Nat} (x : BitVec n) : branchIf false x s = .ok s := by
  simp [branchIf, withSlot_free h]

theorem branchIf_taken (h : slotFree s = true) {n : Nat} (x : BitVec n) :
    branchIf true x s = takeBranch s ((here s).pc + 4 * sext64 x) true := by
  simp [branchIf, withSlot_free h]

/-! ### Calls, jumps and BSEL (R40, R41, R166, R171) -/

@[simp] theorem here_redirected (target : W64) (pops : Bool) :
    here (redirected s target pops) = { here s with branch := some ⟨target, 2, pops⟩ } := by simp [redirected]

/-- A taken branch of the bundle does not move its return offset. -/
theorem returnOffset_redirected (target : W64) (pops : Bool) :
    returnOffset (redirected s target pops) (here (redirected s target pops)) = returnOffset s (here s) := by
  rw [here_redirected]
  rfl

theorem noCollision_redirected (target : W64) (pops : Bool) (lat : Nat) (w : RegWrite) :
    noCollision (redirected s target pops) lat w = noCollision s lat w := by
  simp [noCollision, Ctx.collides]

/-- The link register of a call receives the offset behind its delay bundles. -/
theorem result_redirected {d : SReg} (h : noCollision s 1 (.s d 0) = true) (target : W64) (pops : Bool) :
    let t := redirected s target pops
    result t 1 (.s d (returnOffset t (here t))) = .ok (scheduled t 1 (.s d (returnOffset s (here s))) 0 none) := by
  intro t
  rw [returnOffset_redirected]
  exact result_ok ((noCollision_redirected ..).trans ((noCollision_dest rfl).trans h))

theorem jumpTo_ok (h : (here s).redirect = none) {target : W64} (ht : target.toNat % 4 = 0) (pops : Bool) :
    jumpTo s target pops = .ok (redirected s target pops) := by
  simp [jumpTo, takeBranch_ok h, ht]

theorem jumpTo_misaligned (h : (here s).redirect = none) {target : W64} (ht : target.toNat % 4 ≠ 0) (pops : Bool) :
    jumpTo s target pops = .trap 0x16 none := by
  simp [jumpTo, takeBranch_ok h, Issue.unless, ht]

/-- The shadow branch comes before the access fault of the target (R187). -/
theorem jumpTo_inDelay (h : (here s).redirect ≠ none) (target : W64) (pops : Bool) : jumpTo s target pops = .trap 0x04 none := by
  simp [jumpTo, takeBranch_inDelay h, Issue.unless]

theorem exec_call (h : slotFree s = true) (hr : (here s).redirect = none) (x : BitVec 25)
    (hc : noCollision s 1 (.s 63 0) = true) : exec (.call x) s =
      .next (scheduled (redirected s ((here s).pc + 4 * x.signExtend 64) false) 1 (.s 63 (returnOffset s (here s))) 0 none) := by
  simp only [exec, execCall, withSlot_free h, takeBranch_ok hr, andThen_ok, result_redirected hc, finish_ok]
  rfl

theorem exec_calli (h : slotFree s = true) (hr : (here s).redirect = none) (d a : SReg)
    (hc : noCollision s 1 (.s d 0) = true) (ht : ((here s).readS a).toNat % 4 = 0) : exec (.calli d a) s =
      .next (scheduled (redirected s ((here s).readS a) false) 1 (.s d (returnOffset s (here s))) 0 none) := by
  simp only [exec, execCalli, withSlot_free h, jumpTo_ok hr ht, andThen_ok, result_redirected hc, finish_ok]

theorem exec_jmpi (h : slotFree s = true) (hr : (here s).redirect = none) (a : SReg)
    (ht : ((here s).readS a).toNat % 4 = 0) : exec (.jmpi a) s = .next (redirected s ((here s).readS a) true) := by
  simp only [exec, execJmpi, withSlot_free h, jumpTo_ok hr ht, finish_ok]

theorem exec_jump_misaligned (h : slotFree s = true) (hr : (here s).redirect = none) (d a : SReg)
    (ht : ((here s).readS a).toNat % 4 ≠ 0) :
    exec (.jmpi a) s = .next (raiseAtIssue s 0x16 none) ∧ exec (.calli d a) s = .next (raiseAtIssue s 0x16 none) := by
  simp only [exec, execJmpi, execCalli, withSlot_free h, jumpTo_misaligned hr ht, andThen_trap, finish_trap, and_self]

/-- A command port read that no pending line stops. -/
theorem checkPort_ok {off len : Nat} (h : noPending s .dm off len = true) : checkPort s off len = .ok s := by
  simp only [noPending, Option.isNone_iff_eq_none] at h
  simp [checkPort, h]

theorem exec_bsel (h : slotFree s = true) (hr : (here s).redirect = none) (a b : SReg)
    (h8 : ((here s).readS b).toNat % 8 = 0) (hp : inPartition (here s) .dm ((here s).readS b).toNat 8 = true)
    (hn : noPending s .dm ((here s).readS b).toNat 8 = true) (hc : noCollision s 1 (.cr 0x60 0) = true) :
    exec (.bsel a b) s = .next (flown (redirected s 0 true) 1 (.bselRead (((here s).readS a).setWidth 32) ((here s).readS b).toNat)
      (landingOf s 1 (.cr 0x60 0))) := by
  have hn' : noPending (redirected s 0 true) .dm ((here s).readS b).toNat 8 = true := by
    rw [← hn]
    simp [noPending, firstPending, pendingLine, walkHolds, redirected, modHere, here, clusterOf]
  have hf : (some ((4 : Nat), (0x60 : Nat))).all
      (fun d => !(here (redirected s 0 true)).collides d.1 d.2 ((here (redirected s 0 true)).ttc + 1)) = true := by
    have := (noCollision_redirected (s := s) 0 true 1 (.cr 0x60 0)).trans hc
    simpa [noCollision, regDest] using this
  simp only [exec, execBsel, withSlot_free h, h8, hp, takeBranch_ok hr, andThen_ok, checkPort_ok hn', flyTo_ok hf,
    finish_ok, bne_self_eq_false, Bool.not_true, Bool.or_self, Bool.false_eq_true, if_false]
  simp [landingOf, regDest]

/-- In a delay bundle calls, jumps and BSEL raise the shadow branch, whatever else is wrong (R41). -/
theorem exec_call_inDelay (h : slotFree s = true) (hr : (here s).redirect ≠ none) {i : Instr}
    (hi : (∃ x, i = .call x) ∨ (∃ d a, i = .calli d a) ∨ (∃ a, i = .jmpi a) ∨ (∃ a b, i = .bsel a b)) :
    exec i s = .next (raiseAtIssue s 0x04 none) := by
  rcases hi with ⟨x, rfl⟩ | ⟨d, a, rfl⟩ | ⟨a, rfl⟩ | ⟨a, b, rfl⟩
  · simp only [exec, execCall, withSlot_free h, takeBranch_inDelay hr, andThen_trap, finish_trap]
  · simp only [exec, execCalli, withSlot_free h, jumpTo_inDelay hr, andThen_trap, finish_trap]
  · simp only [exec, execJmpi, withSlot_free h, jumpTo_inDelay hr, finish_trap]
  · simp only [exec, execBsel, withSlot_free h, takeBranch_inDelay hr, andThen_trap, Issue.unless, if_true, ite_self,
      Nat.reduceLT, finish_trap]

end

/-- Settles O14: branches by their condition, the other instructions one lemma each, the delay bundles by `advancePc`. -/
theorem branches : Obligations.Branches := by
  unfold Obligations.Branches
  refine ⟨fun s i taken disp hi h => ?_, fun s h hr => ⟨fun x hc => exec_call h hr x hc, fun d a hc ht => exec_calli h hr d a hc ht,
    fun a ht => exec_jmpi h hr a ht, fun a b h8 hp hn hc => exec_bsel h hr a b h8 hp hn hc,
    fun d a ht => exec_jump_misaligned h hr d a ht⟩, fun s i h hr hi => exec_call_inDelay h hr hi, ?_, ?_⟩
  · obtain ⟨n, x, rfl, he⟩ := exec_of_branchOf hi
    rw [he]
    refine ⟨?_, ?_, ?_⟩
    · rintro rfl
      rw [branchIf_untaken h, finish_ok]
    · rintro rfl hr
      rw [branchIf_taken h, takeBranch_ok hr, finish_ok]
    · rintro rfl hr
      rw [branchIf_taken h, takeBranch_inDelay hr, finish_trap]
  · intro c target pops m n k hb hs c1 c2 c3
    obtain ⟨p1, r1, b1, s1⟩ := advancePc_of_branch hb hs m
    obtain ⟨p2, r2, b2, s2⟩ := advancePc_of_delay b1 r1 (by simp) s1 n
    obtain ⟨p3, r3⟩ := advancePc_of_last b2 r2 (by simp) k
    exact ⟨p1, p2, p3, r1, r2, r3⟩
  · intro c m n hb hr hs c1 c2
    obtain ⟨p1, r1, b1, s1⟩ := advancePc_of_none hb hr hs m
    obtain ⟨p2, r2, _, _⟩ := advancePc_of_none b1 r1 s1 n
    exact ⟨p1, p2, r1, r2⟩

section
variable {s : State}

/-! ### The mask stack (R43, R172) -/

/-- In supervisor mode the mask instructions do nothing (R172). -/
theorem exec_mask_supervisor (h : slotFree s = true) (hm : (here s).mode = .supervisor) :
    (∀ a : PReg, exec (.mpush a) s = .next s) ∧ exec .minv s = .next s ∧ exec .mpop s = .next s := by
  simp [exec, execMpush, execMinv, execMpop, withSlot_free h, hm]

theorem exec_mpush_of_room (h : slotFree s = true) (hm : (here s).mode = .user) (a : PReg) (hl : (here s).mask.length < 16) :
    exec (.mpush a) s = .next (masked s (((here s).mt &&& (here s).readP a) :: (here s).mask)) := by
  have hf : ¬16 ≤ (here s).mask.length := by omega
  simp only [exec, execMpush, withSlot_free h, hm, hf, if_false, reduceCtorEq]
  rfl

theorem exec_mpush_full (h : slotFree s = true) (hm : (here s).mode = .user) (a : PReg) (hl : (here s).mask.length = 16) :
    exec (.mpush a) s = .next (raiseAtIssue s 0x0E none) := by
  simp [exec, execMpush, withSlot_free h, hm, hl]

theorem exec_mpop_cons (h : slotFree s = true) (hm : (here s).mode = .user) {m : PWord} {r : List PWord}
    (hs : (here s).mask = m :: r) : exec .mpop s = .next (masked s r) := by
  simp [exec, execMpop, withSlot_free h, hm, hs, masked]

theorem exec_minv_cons (h : slotFree s = true) (hm : (here s).mode = .user) {m : PWord} {r : List PWord}
    (hs : (here s).mask = m :: r) :
    exec .minv s = .next (masked s (((r.head?).getD (BitVec.allOnes 128) &&& ~~~m) :: r)) := by
  simp [exec, execMinv, withSlot_free h, hm, hs, masked, maskParent]

theorem exec_mpop_minv_empty (h : slotFree s = true) (hm : (here s).mode = .user) (hs : (here s).mask = []) :
    exec .mpop s = .next (raiseAtIssue s 0x0E none) ∧ exec .minv s = .next (raiseAtIssue s 0x0E none) := by
  simp [exec, execMpop, execMinv, withSlot_free h, hm, hs]

/-- The next bundle has the mask stack that this one asked for (R43). -/
theorem advancePc_mask (c : Ctx) {m : List PWord} (n : Nat) (h : c.maskNext = some m) : (advancePc c n none).mask = m := by
  unfold advancePc goTo
  cases hb : c.branch with
  | some b => simp [h]
  | none =>
    cases hr : c.redirect with
    | none => simp [h]
    | some r => by_cases hl : r.left ≤ 1 <;> simp [h, hl]

end

/-- Settles O18: one lemma for each clause, by mode and depth of the stack. -/
theorem maskStack : Obligations.MaskStack := by
  unfold Obligations.MaskStack
  refine fun s h => ⟨fun hm => ⟨fun a hl => exec_mpush_of_room h hm a hl, fun a hl => exec_mpush_full h hm a hl,
    fun m r hs => ⟨exec_mpop_cons h hm hs, exec_minv_cons h hm hs⟩, exec_mpop_minv_empty h hm⟩,
    exec_mask_supervisor h, fun c m n => advancePc_mask c n⟩

/-! ### Numbers packed from fields of one width -/

/-- Fields of width `w`, field `i` of them at bit `w * i`, as `ofLanes`, `ofLaneBits` and `stageBits` add them up. -/
def packFields (w n : Nat) (g : Nat → Nat) : Nat := (List.range n).foldl (fun acc i => acc + g i * 2 ^ (w * i)) 0

theorem packFields_succ (w n : Nat) (g : Nat → Nat) : packFields w (n + 1) g = packFields w n g + g n * 2 ^ (w * n) := by
  simp [packFields, List.range_succ]

theorem packFields_lt {w : Nat} {g : Nat → Nat} (hg : ∀ i, g i < 2 ^ w) (n : Nat) : packFields w n g < 2 ^ (w * n) := by
  induction n with
  | zero => simp [packFields]
  | succ n ih =>
    rw [packFields_succ, Nat.mul_succ, Nat.pow_add, Nat.mul_comm (2 ^ (w * n))]
    have : (g n + 1) * 2 ^ (w * n) ≤ 2 ^ w * 2 ^ (w * n) := Nat.mul_le_mul_right _ (hg n)
    rw [Nat.add_mul, Nat.one_mul] at this
    omega

/-- Each field reads back. -/
theorem packFields_field {w : Nat} {g : Nat → Nat} (hg : ∀ i, g i < 2 ^ w) {n i : Nat} (hi : i < n) :
    packFields w n g / 2 ^ (w * i) % 2 ^ w = g i := by
  induction n with
  | zero => omega
  | succ n ih =>
    rw [packFields_succ]
    by_cases h : i = n
    · subst h
      rw [Nat.add_mul_div_right _ _ (Nat.two_pow_pos _), Nat.div_eq_of_lt (packFields_lt hg i), Nat.zero_add,
        Nat.mod_eq_of_lt (hg i)]
    · obtain ⟨k, rfl⟩ : ∃ k, n = i + 1 + k := ⟨n - i - 1, by omega⟩
      have he : w * (i + 1 + k) = w * i + (w + w * k) := by ring
      rw [he, Nat.pow_add, Nat.mul_comm (2 ^ (w * i)), ← Nat.mul_assoc, Nat.add_mul_div_right _ _ (Nat.two_pow_pos _),
        Nat.pow_add, Nat.mul_comm (2 ^ w), ← Nat.mul_assoc, Nat.add_mul_mod_self_right]
      exact ih (by omega)

theorem testBit_packFields {w : Nat} {g : Nat → Nat} (hg : ∀ i, g i < 2 ^ w) {n i j : Nat} (hi : i < n) (hj : j < w) :
    (packFields w n g).testBit (w * i + j) = (g i).testBit j := by
  rw [← packFields_field hg hi, Nat.testBit_mod_two_pow, Nat.testBit_div_two_pow]
  simp [hj, Nat.add_comm]

/-! ### Stage bits (R37) -/

theorem stageBits_eq (trip stages p : Nat) :
    stageBits trip stages p = BitVec.ofNat 8 (packFields 1 stages (fun st => if st ≤ p ∧ p - st < trip then 1 else 0)) := by
  simp [stageBits, packFields]

/-- Bit `st` of the stage bits says that stage `st` runs in pass `p`. -/
theorem getLsbD_stageBits {stages : Nat} (h : stages ≤ 8) (trip p st : Nat) :
    (stageBits trip stages p).getLsbD st = (decide (st < stages) && decide (st ≤ p) && decide (p - st < trip)) := by
  have hg : ∀ i, (if i ≤ p ∧ p - i < trip then 1 else 0) < 2 ^ 1 := by intro i; split <;> simp
  rw [stageBits_eq, BitVec.getLsbD_ofNat]
  by_cases hs : st < stages
  · have hb := testBit_packFields hg hs (Nat.zero_lt_one)
    rw [Nat.one_mul, Nat.add_zero] at hb
    rw [hb]
    have : st < 8 := by omega
    rw [Bool.and_assoc, ← Bool.decide_and]
    by_cases hc : st ≤ p ∧ p - st < trip <;> simp [hs, this, hc]
  · have : (packFields 1 stages (fun st => if st ≤ p ∧ p - st < trip then 1 else 0)).testBit st = false := by
      refine Nat.testBit_lt_two_pow (Nat.lt_of_lt_of_le (packFields_lt hg stages) ?_)
      exact Nat.pow_le_pow_right (by decide) (by omega)
    simp [hs, this]

/-- In the first pass stage 0 alone runs. -/
theorem stageBits_first {trip stages : Nat} (ht : 0 < trip) (hs : 0 < stages) (h : stages ≤ 8) : stageBits trip stages 0 = 1 := by
  refine BitVec.eq_of_getLsbD_eq fun i hi => ?_
  rw [getLsbD_stageBits h]
  rcases i with _ | i
  · simp [ht, hs]
  · simp [BitVec.getLsbD_one]

/-! ### Entering a loop (R36, R37, R167–R170) -/

theorem loopClash_some (c : Ctx) (n : Fin 4) (b : Bool) : loopClash c (some n) b = (holdsLc c n || (b && hasLoopp c)) := by
  have : ∀ e : LoopEntry, (some n == some e.lc) = (e.lc == n) := fun e => by
    simp [beq_eq_decide, eq_comm]
  simp [loopClash, holdsLc, hasLoopp, this]

theorem loopRoom_eq (c : Ctx) (lc : Option (Fin 4)) (b : Bool) : loopRoom c lc b =
    !(decide (c.mode = .supervisor) || decide (4 ≤ c.loops.length) || lc.any (holdsLc c) || (b && hasLoopp c)) := by
  have hm : (c.mode == .user) = !decide (c.mode = .supervisor) := by cases c.mode <;> rfl
  have hl : decide (c.loops.length < 4) = !decide (4 ≤ c.loops.length) := by
    rw [← decide_not]; exact decide_eq_decide.mpr (by omega)
  cases lc with
  | none =>
    have hn : (c.loops.any fun _ => false) = false := List.any_eq_false.mpr (by simp)
    simp [loopRoom, loopClash, hasLoopp, hm, hl, hn, Bool.and_assoc]
  | some n => simp [loopRoom, loopClash_some, hm, hl, Bool.and_assoc]

section
variable {s : State}

theorem enterLoop_inDelay (h : (here s).redirect ≠ none) (lc : Option (Fin 4)) (b : Bool) (f : State → Issue) :
    enterLoop s lc b f = .trap 0x04 none := by simp [enterLoop, inDelay, Option.isSome_iff_ne_none.mpr h]

theorem enterLoop_room (h : (here s).redirect = none) {lc : Option (Fin 4)} {b : Bool} (hr : loopRoom (here s) lc b = true)
    (f : State → Issue) : enterLoop s lc b f = f s := by
  rw [loopRoom_eq, Bool.not_eq_true'] at hr
  simp only [enterLoop, inDelay, h, Option.isSome_none, Bool.false_eq_true, if_false, hr]

theorem enterLoop_full (h : (here s).redirect = none) {lc : Option (Fin 4)} {b : Bool} (hr : loopRoom (here s) lc b = false)
    (f : State → Issue) : enterLoop s lc b f = .trap 0x15 none := by
  rw [loopRoom_eq, Bool.not_eq_false'] at hr
  simp only [enterLoop, inDelay, h, Option.isSome_none, Bool.false_eq_true, if_false, hr, if_true]

theorem skipLoop_inDelay (h : (here s).redirect ≠ none) (n : Fin 4) (b : Bool) (x : BitVec 13) :
    skipLoop s n b x = .trap 0x04 none := by simp [skipLoop, inDelay, Option.isSome_iff_ne_none.mpr h]

theorem skipLoop_ok (h : (here s).redirect = none) {n : Fin 4} {b : Bool} (hm : (here s).mode = .user)
    (hc : loopClash (here s) (some n) b = false) (x : BitVec 13) : skipLoop s n b x = .ok (skipped s x) := by
  rw [loopClash_some] at hc
  simp only [Bool.or_eq_false_iff, Bool.and_eq_false_iff] at hc
  have : ¬((here s).mode = .supervisor ∨ holdsLc (here s) n = true ∨ (b = true ∧ hasLoopp (here s) = true)) := by
    rcases hc with ⟨hl, hb | hb⟩ <;> simp [hm, hl, hb]
  simp only [skipLoop, inDelay, h, Option.isSome_none, Bool.false_eq_true, if_false, this]
  rfl

theorem skipLoop_clash (h : (here s).redirect = none) {n : Fin 4} {b : Bool}
    (hc : (here s).mode = .supervisor ∨ loopClash (here s) (some n) b = true) (x : BitVec 13) :
    skipLoop s n b x = .trap 0x15 none := by
  rw [loopClash_some] at hc
  simp only [Bool.or_eq_true, Bool.and_eq_true] at hc
  simp only [skipLoop, inDelay, h, Option.isSome_none, Bool.false_eq_true, if_false, hc, if_true]

/-- LOOP and LOOPP by their trip count: 0 skips, another enters (R168, R169). -/
theorem exec_loop_eq (h : slotFree s = true) (a : SReg) (n : Fin 4) (x : BitVec 13) :
    ((here s).readS a = 0 → exec (.loop a n x) s = finish s (skipLoop s n false x)) ∧
    ((here s).readS a ≠ 0 → exec (.loop a n x) s = finish s (enterLoop s (some n) false
      (fun s' => .ok (startLoop (pushLoop s' .loop n x ((here s).readS a) 1 0 0) [(0x80 + n.val, (here s).readS a)])))) := by
  constructor <;> intro ht <;> simp only [exec, execLoop, withSlot_free h, ht, if_true, if_false]

theorem exec_loopp_eq (h : slotFree s = true) (a : SReg) (n : Fin 4) (x : BitVec 13) (st : Fin 8) :
    ((here s).readS a = 0 → exec (.loopp a n x st) s = finish s (skipLoop s n true x)) ∧
    ((here s).readS a ≠ 0 → exec (.loopp a n x st) s = finish s (enterLoop s (some n) true
      (fun s' => .ok (startLoop (pushLoop s' .loopp n x ((here s).readS a) (st.val + 1) 0 0)
        [(0x80 + n.val, (here s).readS a + BitVec.ofNat 64 st.val), (0x88, 1)])))) := by
  constructor <;> intro ht
  · simp only [exec, execLoopp, withSlot_free h, ht, if_true]
  · have hp : 0 < ((here s).readS a).toNat := Nat.pos_of_ne_zero fun h0 => ht (BitVec.eq_of_toNat_eq (by simpa using h0))
    have hb : (stageBits ((here s).readS a).toNat (st.val + 1) 0).setWidth 64 = (1 : W64) := by
      rw [stageBits_first hp (by omega) (by omega)]; rfl
    simp only [exec, execLoopp, withSlot_free h, ht, if_false, hb]

/-- SLOOP clears its predicate where it enters its loop (R170). -/
theorem exec_sloop_room (h : slotFree s = true) (hr : (here s).redirect = none) {q : QueueIx} {p : PReg} {x : BitVec 13}
    (hc : noCollision s 1 (.p p 0) = true) (hl : loopRoom (here s) none false = true) :
    exec (.sloop q p x) s = .next (scheduled (entered s .sloop 0 x 0 1 q.val p) 1 (.p p 0) 0 none) := by
  have hc' : noCollision (pushLoop s .sloop 0 x 0 1 q.val p) 1 (.p p 0) = true := by
    rw [← hc]
    simp [noCollision, pushLoop, Ctx.collides]
  simp only [exec, execSloop, withSlot_free h, enterLoop_room hr hl, result_ok hc', finish_ok]
  rfl

theorem exec_loop_inDelay (h : slotFree s = true) (hr : (here s).redirect ≠ none) {i : Instr}
    (hi : (∃ a n x, i = .loop a n x) ∨ (∃ a n x st, i = .loopp a n x st) ∨ (∃ q p x, i = .sloop q p x)) :
    exec i s = .next (raiseAtIssue s 0x04 none) := by
  rcases hi with ⟨a, n, x, rfl⟩ | ⟨a, n, x, st, rfl⟩ | ⟨q, p, x, rfl⟩
  · by_cases ht : (here s).readS a = 0
    · rw [(exec_loop_eq h a n x).1 ht, skipLoop_inDelay hr, finish_trap]
    · rw [(exec_loop_eq h a n x).2 ht, enterLoop_inDelay hr, finish_trap]
  · by_cases ht : (here s).readS a = 0
    · rw [(exec_loopp_eq h a n x st).1 ht, skipLoop_inDelay hr, finish_trap]
    · rw [(exec_loopp_eq h a n x st).2 ht, enterLoop_inDelay hr, finish_trap]
  · simp only [exec, execSloop, withSlot_free h, enterLoop_inDelay hr, finish_trap]

end

/-- Settles O15: by the trip count and the room on the loop stack. -/
theorem loopsEntered : Obligations.LoopsEntered := by
  unfold Obligations.LoopsEntered
  refine ⟨fun s i h hr hi => exec_loop_inDelay h hr hi, fun s h hr => ⟨fun a n x => ?_, fun a n x st => ?_, fun q p x hc => ?_⟩⟩
  · obtain ⟨zero, other⟩ := exec_loop_eq h a n x
    refine ⟨fun ht hl => ?_, fun ht hm hc => ?_, fun ht hc => ?_, fun ht hl => ?_⟩
    · rw [other ht, enterLoop_room hr hl]; rfl
    · rw [zero ht, skipLoop_ok hr hm hc, finish_ok]
    · rw [zero ht, skipLoop_clash hr hc, finish_trap]
    · rw [other ht, enterLoop_full hr hl, finish_trap]
  · obtain ⟨zero, other⟩ := exec_loopp_eq h a n x st
    refine ⟨fun ht hl => ?_, fun ht hm hc => ?_, fun ht hc => ?_, fun ht hl => ?_⟩
    · rw [other ht, enterLoop_room hr hl]; rfl
    · rw [zero ht, skipLoop_ok hr hm hc, finish_ok]
    · rw [zero ht, skipLoop_clash hr hc, finish_trap]
    · rw [other ht, enterLoop_full hr hl, finish_trap]
  · refine ⟨fun hl => exec_sloop_room h hr hc hl, fun hl => ?_⟩
    simp only [exec, execSloop, withSlot_free h, enterLoop_full hr hl, finish_trap]

/-! ### One update after another -/

theorem put_put {α : Type} (t : Table α) (k : Nat) (v w : α) : Table.put (Table.put t k v) k w = Table.put t k w := by
  induction t with
  | nil => simp [Table.put]
  | cons x r ih =>
    obtain ⟨j, u⟩ := x
    by_cases he : k = j
    · simp [Table.put, he]
    · by_cases hl : k < j
      · simp [Table.put, he, hl]
      · simp [Table.put, he, hl, ih]

theorem setCtx_setCtx (s : State) (k : Nat) (c d : Ctx) : setCtx (setCtx s k c) k d = setCtx s k d := by
  simp [setCtx, put_put]

theorem modHere_modHere (s : State) (f g : Ctx → Ctx) : modHere (modHere s f) g = modHere s (fun c => g (f c)) := by
  show setCtx (setCtx s s.cur (f (here s))) s.cur (g (here (modHere s f))) = _
  rw [setCtx_setCtx, here_modHere]
  rfl

/-! ### The end of a loop (R36, R37, R167–R170) -/

/-- The end test of a state: the scan of its stack, and what the bundle's loop instruction sets with it. -/
theorem endTest_eq (s : State) : endTest s = (ending s (endScan (here s) (here s).loops).1
    ((here s).loopState ++ (endScan (here s) (here s).loops).2.1), (endScan (here s) (here s).loops).2.2) := rfl

theorem endTest_cur (s : State) : (endTest s).1.cur = s.cur := by
  have hf : ∀ (us : List (Nat × W64)) (t : State), (us.foldl (fun s u => counted s u.1 u.2) t).cur = t.cur := by
    intro us
    induction us with
    | nil => exact fun _ => rfl
    | cons u us ih => exact fun t => ih _
  rw [endTest_eq]
  exact hf _ _

theorem endScan_other {c : Ctx} {l : List LoopEntry} (h : ∀ e ∈ l, e.stop ≠ c.pc) : endScan c l = (l, [], none) := by
  cases l with
  | nil => rfl
  | cons e r => simp [endScan, h e (by simp)]

theorem endScan_round {c : Ctx} {e : LoopEntry} {r : List LoopEntry} (h : e.stop = c.pc) (hc : loopContinues c e = true) :
    endScan c (e :: r) = (e :: r, loopUpdates c e, some e.start) := by simp [endScan, h, hc]

theorem endScan_pop {c : Ctx} {e : LoopEntry} {r : List LoopEntry} (h : e.stop = c.pc) (hc : loopContinues c e = false) :
    endScan c (e :: r) = ((endScan c r).1, loopUpdates c e ++ (endScan c r).2.1, (endScan c r).2.2) := by simp [endScan, h, hc]

/-- The scan looks at nothing of a context but its pc, its loop counters and its predicates. -/
theorem endScan_congr {c d : Ctx} (hpc : c.pc = d.pc) (hlc : c.lc = d.lc) (hp : c.p = d.p) (l : List LoopEntry) :
    endScan c l = endScan d l := by
  have hr : ∀ p, c.readP p = d.readP p := fun p => by simp [Ctx.readP, hp]
  induction l with
  | nil => rfl
  | cons e r ih => simp [endScan, loopUpdates, loopContinues, hpc, hlc, hr, ih]

theorem ending_popped (s : State) (l m : List LoopEntry) (us vs : List (Nat × W64)) :
    ending (popped s l us) m vs = ending s m vs := by
  simp only [ending, popped, modHere_modHere]

/-- The end test of the state in which an entry has been popped. -/
theorem endTest_popped (s : State) (r : List LoopEntry) (us : List (Nat × W64)) :
    endTest (popped s r us) = (ending s (endScan (here s) r).1 (us ++ (endScan (here s) r).2.1), (endScan (here s) r).2.2) := by
  have hh : here (popped s r us) = { here s with loops := r, loopState := us } := by simp [popped]
  have hs : endScan (here (popped s r us)) r = endScan (here s) r := by
    refine endScan_congr ?_ ?_ ?_ r <;> rw [hh]
  rw [endTest_eq, ending_popped, show (here (popped s r us)).loops = r by rw [hh],
    show (here (popped s r us)).loopState = us by rw [hh], hs]

section
variable {s : State} {e : LoopEntry} {r : List LoopEntry}

theorem endTest_round (hl : (here s).loops = e :: r) (h : e.stop = (here s).pc) (hc : loopContinues (here s) e = true) :
    endTest s = (ending s (e :: r) ((here s).loopState ++ loopUpdates (here s) e), some e.start) := by
  rw [endTest_eq, hl, endScan_round h hc]

/-- An entry whose loop ends is popped, and the next one is tested. -/
theorem endTest_pop (hl : (here s).loops = e :: r) (h : e.stop = (here s).pc) (hc : loopContinues (here s) e = false) :
    endTest s = endTest (popped s r ((here s).loopState ++ loopUpdates (here s) e)) ∧
    ((∀ f ∈ r, f.stop ≠ (here s).pc) → endTest s = (ending s r ((here s).loopState ++ loopUpdates (here s) e), none)) := by
  have h1 : endTest s = endTest (popped s r ((here s).loopState ++ loopUpdates (here s) e)) := by
    rw [endTest_popped, endTest_eq, hl, endScan_pop h hc, List.append_assoc]
  refine ⟨h1, fun hr => ?_⟩
  rw [h1, endTest_popped, endScan_other hr, List.append_nil]

theorem endTest_loop (hl : (here s).loops = e :: r) (h : e.stop = (here s).pc) (hk : e.kind = .loop) :
    let us := (here s).loopState
    let n := (here s).lc[e.lc]
    (1 < n.toNat → endTest s = (ending s (e :: r) (us ++ [(0x80 + e.lc.val, n - 1)]), some e.start)) ∧
    (n.toNat ≤ 1 → endTest s = endTest (popped s r (us ++ [(0x80 + e.lc.val, 0)])) ∧
      ((∀ f ∈ r, f.stop ≠ (here s).pc) → endTest s = (ending s r (us ++ [(0x80 + e.lc.val, 0)]), none))) := by
  refine ⟨fun hn => ?_, fun hn => ?_⟩
  · have hc : loopContinues (here s) e = true := by simpa [loopContinues, hk] using hn
    have hu : loopUpdates (here s) e = [(0x80 + e.lc.val, (here s).lc[e.lc] - 1)] := by simp [loopUpdates, hk, hc]
    rw [endTest_round hl h hc, hu]
  · have hc : loopContinues (here s) e = false := by simpa [loopContinues, hk] using hn
    have hu : loopUpdates (here s) e = [(0x80 + e.lc.val, 0)] := by simp [loopUpdates, hk, hc]
    exact hu ▸ endTest_pop hl h hc

theorem endTest_loopp (hl : (here s).loops = e :: r) (h : e.stop = (here s).pc) (hk : e.kind = .loopp) :
    let us := (here s).loopState
    let n := (here s).lc[e.lc]
    (1 < n.toNat → endTest s = (ending s (e :: r) (us ++ [(0x80 + e.lc.val, n - 1),
      (0x88, (stageBits e.trip.toNat e.stages (e.trip.toNat + e.stages - n.toNat)).setWidth 64)]), some e.start)) ∧
    (n.toNat ≤ 1 → endTest s = endTest (popped s r (us ++ [(0x80 + e.lc.val, 0), (0x88, 0)])) ∧
      ((∀ f ∈ r, f.stop ≠ (here s).pc) → endTest s = (ending s r (us ++ [(0x80 + e.lc.val, 0), (0x88, 0)]), none))) := by
  refine ⟨fun hn => ?_, fun hn => ?_⟩
  · have hc : loopContinues (here s) e = true := by simpa [loopContinues, hk] using hn
    have hu : loopUpdates (here s) e = [(0x80 + e.lc.val, (here s).lc[e.lc] - 1), (0x88,
        (stageBits e.trip.toNat e.stages (e.trip.toNat + e.stages - (here s).lc[e.lc].toNat)).setWidth 64)] := by
      simp [loopUpdates, hk, hc]
    rw [endTest_round hl h hc, hu]
  · have hc : loopContinues (here s) e = false := by simpa [loopContinues, hk] using hn
    have hu : loopUpdates (here s) e = [(0x80 + e.lc.val, 0), (0x88, 0)] := by simp [loopUpdates, hk, hc]
    exact hu ▸ endTest_pop hl h hc

theorem endTest_sloop (hl : (here s).loops = e :: r) (h : e.stop = (here s).pc) (hk : e.kind = .sloop) :
    let us := (here s).loopState
    ((here s).readP e.pred ≠ BitVec.allOnes 128 → endTest s = (ending s (e :: r) us, some e.start)) ∧
    ((here s).readP e.pred = BitVec.allOnes 128 → endTest s = endTest (popped s r us) ∧
      ((∀ f ∈ r, f.stop ≠ (here s).pc) → endTest s = (ending s r us, none))) := by
  have hu : (here s).loopState ++ loopUpdates (here s) e = (here s).loopState := by simp [loopUpdates, hk]
  refine ⟨fun hp => ?_, fun hp => ?_⟩
  · have hc : loopContinues (here s) e = true := by simpa [loopContinues, hk] using hp
    rw [endTest_round hl h hc, hu]
  · have hc : loopContinues (here s) e = false := by simpa [loopContinues, hk] using hp
    have := endTest_pop hl h hc
    rwa [hu] at this

end

/-- Settles O16: by the kind of the innermost entry and whether its loop goes round; a bundle in supervisor mode has no end test. -/
theorem loopsEnd : Obligations.LoopsEnd := by
  unfold Obligations.LoopsEnd
  refine ⟨?_, fun s hl => ?_, ?_, fun trip stages p st h => getLsbD_stageBits h trip p st⟩
  · intro s e r c us lc hl
    refine ⟨fun h => ?_, endTest_loop hl, endTest_loopp hl, endTest_sloop hl⟩
    have hx : endScan (here s) (e :: r) = (e :: r, [], none) := by simp [endScan, show e.stop ≠ (here s).pc from h]
    rw [endTest_eq, hl, hx, List.append_nil]
  · rw [endTest_eq, hl]
    simp [endScan]
  · intro t w vw n done
    refine ⟨fun hm => ?_, fun hm => ?_⟩
    · simp only [commitBundle, hm, if_true, done, modCore_cur, endTest_cur]
    · simp only [commitBundle, hm, reduceCtorEq, if_false, done, modCore_cur]

/-! ### What BSEL selects (R39, R171) -/

/-- A range without a bad byte has none in its first part. -/
theorem badBytes_eq_nil_of_le {s : State} {k : Nat} {b : Buf} {off n m : Nat} (hm : m ≤ n) (h : badBytes s k b off n = []) :
    badBytes s k b off m = [] := by
  simp only [badBytes, List.map_eq_nil_iff, List.filter_eq_nil_iff, Bool.and_eq_true, decide_eq_true_eq] at h ⊢
  rintro p hp ⟨hb, hlo, hhi⟩
  exact h p hp ⟨hb, hlo, by omega⟩

/-- The read of a table of `nb` buckets which neither pends nor fails its parity: PADM and the target of what is picked. -/
theorem bselRead_ok {s : State} {k off nb : Nat} {v : BitVec 32} {hit : Option Nat}
    (hnb : fieldOf (bselEntry s k off 0) 0 32 = nb) (h64 : nb ≤ 64)
    (hp : inPartition (ctxOf s k) .dm off (8 * (nb + 1)) = true) (hn : firstPending s k .dm off (8 * (nb + 1)) = none)
    (hb : badBytes s k .dm off (8 * (nb + 1)) = []) (hh : bselPick s k off nb v.toNat = hit)
    (ht : bselTarget s k off hit % 4 = 0) :
    (ctxOf (bselRead s k v off) k).padm = bselPadm s k off v.toNat hit ∧
    (ctxOf (bselRead s k v off) k).redirect =
      (ctxOf s k).redirect.map (fun r => { r with target := BitVec.ofNat 64 (bselTarget s k off hit) }) := by
  have hb8 : badBytes s k .dm off 8 = [] := badBytes_eq_nil_of_le (by omega) hb
  have hle : ¬64 < nb := by omega
  simp [bselRead, hnb, Nat.min_eq_left h64, hh, hb8, hle, hp, hn, hb, ht]

/-- The first bucket at or above `v` is picked. -/
theorem bselPick_first {s : State} {k off nb j v : Nat} (hj : j < nb) (hv : v ≤ fieldOf (bselEntry s k off (j + 1)) 0 32)
    (hf : ∀ i, i < j → fieldOf (bselEntry s k off (i + 1)) 0 32 < v) : bselPick s k off nb v = some j := by
  rw [bselPick, List.find?_range_eq_some]
  exact ⟨by simpa using hv, by simpa using hj, fun i hi => by simpa using hf i hi⟩

/-- Where every bucket lies below `v`, none is picked. -/
theorem bselPick_none {s : State} {k off nb v : Nat} (hf : ∀ i, i < nb → fieldOf (bselEntry s k off (i + 1)) 0 32 < v) :
    bselPick s k off nb v = none := by
  rw [bselPick, List.find?_range_eq_none]
  exact fun i hi => by simpa using hf i hi

/-- Settles O17: the table's read picks the first bucket at or above v, or none. -/
theorem bucketSelect : Obligations.BucketSelect := by
  unfold Obligations.BucketSelect
  constructor
  · intro s k off nb j v hnb h64 hp hn hb hj hv hf ht
    obtain ⟨hpad, hred⟩ := bselRead_ok hnb h64 hp hn hb (bselPick_first hj hv hf) ht
    refine ⟨?_, hred⟩
    have : fieldOf (bselEntry s k off (j + 1)) 0 32 < 2 ^ 32 := Nat.mod_lt _ (by decide)
    rw [hpad, bselPadm, BitVec.toNat_ofNat, Nat.mod_eq_of_lt (by omega)]
  · intro s k off nb v hnb h64 hp hn hb hf ht
    exact bselRead_ok hnb h64 hp hn hb (bselPick_none hf) ht

end Sys2Proof.Machine
end

section
/-! PROOFS. Global accesses and waits at issue (R30–R31, R89, R174–R180, R205–R211). -/

namespace Sys2Proof.Machine

section
variable {s : State}

/-! ### Untimed accesses at issue (R30, R89, R97, R205, R207, R211) -/

/-- Posting a page changes no context. -/
@[simp] theorem postPage_ctxs (s : State) (k : Nat) (job : Job) (v sub : Nat) : (postPage s k job v sub).ctxs = s.ctxs := by
  unfold postPage
  split <;> rfl

@[simp] theorem postPage_cur (s : State) (k : Nat) (job : Job) (v sub : Nat) : (postPage s k job v sub).cur = s.cur := by
  unfold postPage
  split <;> rfl

@[simp] theorem here_postHeld (s : State) (job : Job) (v sub : Nat) : here (postHeld s job v sub) = here s := by
  unfold postHeld
  split
  · simp [here, ctxOf]
  · rfl

theorem postHeld_mapped {v : Nat} (h : heldPage s v = none) (job : Job) (sub : Nat) : postHeld s job v sub = s := by
  simp [postHeld, h]

theorem postPage_slot (s : State) (k : Nat) (job : Job) (v sub : Nat) : (postPage s k job v sub).slot = s.slot := by
  unfold postPage
  split <;> rfl

theorem postHeld_slot (s : State) (job : Job) (v sub : Nat) : (postHeld s job v sub).slot = s.slot := by
  unfold postHeld
  split
  · exact postPage_slot ..
  · rfl

/-- A 17th register result is slot busy (R30). -/
theorem issueUntimed_full {j : Job} {r : Option Result} {o : Bool} {l : List Nat} {p : List Place} (h : resultRoom s r = false) :
    issueUntimed s j r o l p = .trap 0x03 (some (BitVec.ofNat 64 s.slot.code)) := by
  have : (r.isSome && decide (16 ≤ (here s).resultCount)) = true := by
    simp only [resultRoom, Bool.or_eq_false_iff, Bool.not_eq_false', decide_eq_false_iff_not] at h
    simp [h.1]
    omega
  simp [issueUntimed, this]

/-- Of a trap and a further fault of a higher code the trap is raised (R187). -/
theorem trap_unless_of_lt {c d : Nat} (h : c < d) (v w : Option W64) (bad : Bool) : (Issue.trap c v).unless bad d w = .trap c v := by
  cases bad <;> simp [Issue.unless, h]

section
variable {v n : Nat} {allowed : MemKind → Bool} {write : Bool} {job : Job} {res : Option Result} {ordered : Bool}

/-- What the checks of an access say of its segment: it is there, may be named, and may be written where the access writes. -/
def segmentAllows (s : State) (v : Nat) (allowed : MemKind → Bool) (write : Bool) : Bool :=
  (kindOf s s.cur v).any (fun k => allowed k.1 && (!write || k.2))

theorem globalAccess_eq (s : State) (v n : Nat) (allowed : MemKind → Bool) (write : Bool) (job : Job) (res : Option Result)
    (ordered : Bool) : globalAccess s v n allowed write job res ordered =
      (((issueUntimed (postHeld s job v (if write then 2 else 1)) job res ordered (lines64 v n) []).andThen
        (fun t => .ok (markHeld t (heldPage s v)))).unless (!segmentAllows s v allowed write) 0x0C none).unless
          (v % n != 0) 0x16 none := by
  unfold globalAccess segmentAllows
  cases hk : kindOf s s.cur v with
  | none => simp
  | some k => obtain ⟨k, w⟩ := k; cases write <;> simp

theorem resultRoom_postHeld (job : Job) (v sub : Nat) : resultRoom (postHeld s job v sub) res = resultRoom s res := by
  simp [resultRoom]

theorem globalAccess_ok (hs : segmentOk s v n allowed write = true) (hr : resultRoom s res = true) :
    globalAccess s v n allowed write job res ordered = .ok (globalGiven s v n write job res ordered) := by
  simp only [segmentOk, Bool.and_eq_true, beq_iff_eq] at hs
  obtain ⟨ha, hk⟩ := hs
  rw [globalAccess_eq, issueUntimed_ok ((resultRoom_postHeld job v _).trans hr)]
  simp [segmentAllows, hk, ha, globalGiven]

theorem globalAccess_full (hr : resultRoom s res = false) :
    globalAccess s v n allowed write job res ordered = .trap 0x03 (some (BitVec.ofNat 64 s.slot.code)) := by
  rw [globalAccess_eq, issueUntimed_full ((resultRoom_postHeld job v _).trans hr), andThen_trap,
    trap_unless_of_lt (by decide), trap_unless_of_lt (by decide), postHeld_slot]

theorem globalAccess_segment (hr : resultRoom s res = true) (hs : segmentAllows s v allowed write = false) :
    globalAccess s v n allowed write job res ordered = .trap 0x0C none := by
  rw [globalAccess_eq, issueUntimed_ok ((resultRoom_postHeld job v _).trans hr), andThen_ok, hs, Bool.not_false,
    ok_unless_true, trap_unless_of_lt (by decide)]

theorem globalAccess_misaligned (hr : resultRoom s res = true) (hs : segmentAllows s v allowed write = true) (ha : v % n ≠ 0) :
    globalAccess s v n allowed write job res ordered = .trap 0x16 none := by
  rw [globalAccess_eq, issueUntimed_ok ((resultRoom_postHeld job v _).trans hr), andThen_ok, hs, Bool.not_true,
    unless_false, bne_iff_ne.mpr ha, ok_unless_true]

end

/-- Every global atomic of R211 is an `amoGlobal` of its operands. -/
theorem exec_of_amoGlobalOf {i : Instr} {op : AmoOp} {d a b : SReg} {sc : Scope} {sx : Bool} {sz : Sz}
    (h : amoGlobalOf i = some (op, d, a, b, sc, sx, sz)) (s : State) : exec i s = amoGlobal op d a b sc sx sz s := by
  unfold amoGlobalOf at h
  split at h
  case h_11 => cases h
  all_goals
    simp only [Option.some.injEq, Prod.mk.injEq] at h
    obtain ⟨rfl, rfl, rfl, rfl, rfl, rfl, rfl⟩ := h
    rfl

/-- What an untimed access comes to: the checks of `globalAccess` on its address, with some job and order. -/
theorem exec_of_untimedAccessOf {i : Instr} {x : UntimedAccess} (hx : untimedAccessOf (here s) i = some x) (h : slotFree s = true) :
    ∃ job ordered, exec i s = finish s (globalAccess s x.addr x.size x.allowed x.write job x.res ordered) := by
  unfold untimedAccessOf at hx
  split at hx
  case h_1 =>
    obtain rfl := Option.some.inj hx
    exact ⟨_, _, congrArg (finish s) (withSlot_free h _)⟩
  case h_2 =>
    obtain rfl := Option.some.inj hx
    exact ⟨_, _, congrArg (finish s) (withSlot_free h _)⟩
  case h_3 =>
    obtain ⟨⟨op, d, a, b, sc, sx, sz⟩, ha, rfl⟩ := Option.map_eq_some_iff.mp hx
    exact ⟨_, _, (exec_of_amoGlobalOf ha s).trans (congrArg (finish s) (withSlot_free h _))⟩

end

/-- Settles O29: the accesses by `globalAccess` where nothing is wrong, their faults by its checks in order. -/
theorem globalAccesses : Obligations.GlobalAccesses := by
  unfold Obligations.GlobalAccesses
  refine ⟨⟨?_, ?_, ?_⟩, ?_⟩
  · intro s d a b sx sz v h hs hr
    simp only [exec, execLdg, withSlot_free h]
    rw [globalAccess_ok hs hr, finish_ok]
  · intro s d a b sz v h hs
    simp only [exec, execStg, withSlot_free h]
    rw [globalAccess_ok hs rfl, finish_ok]
  · intro s i op d a b sc sx sz hi v h hs hr
    rw [exec_of_amoGlobalOf hi, amoGlobal, withSlot_free h]
    simp only
    rw [globalAccess_ok hs hr, finish_ok]
  · intro s i x hx h allowed
    obtain ⟨job, ordered, he⟩ := exec_of_untimedAccessOf hx h
    refine ⟨fun hr => ?_, fun hr hs => ?_, fun hr hs ha => ?_⟩
    · rw [he, globalAccess_full hr, finish_trap]
    · rw [he, globalAccess_segment hr hs, finish_trap]
    · rw [he, globalAccess_misaligned hr hs ha, finish_trap]

section
variable {s : State}

/-! ### Waits begin (R31, R174–R180, R192) -/

theorem userOnly_user (h : (here s).mode = .user) (w : Nat) (f : State → Issue) : userOnly s w f = f s := by simp [userOnly, h]

theorem supervisorOnly_supervisor (h : (here s).mode = .supervisor) (f : State → Issue) : supervisorOnly s f = f s := by
  simp [supervisorOnly, h]

/-- A wait instruction whose operands are accepted begins its wait in a mode in which it may. -/
theorem exec_waitBegun {i : Instr} {k : WaitKind} (hk : waitBegun s i = some k) (h : slotFree s = true)
    (hm : waitMode (here s).mode i = true) : exec i s = .next (waiting s k) := by
  unfold waitBegun at hk
  split at hk
  case h_1 =>
    obtain rfl := Option.some.inj hk
    simp only [exec, execEndTask, withSlot_free h, userOnly_user (by simpa [waitMode] using hm)]
    rfl
  case h_2 =>
    obtain rfl := Option.some.inj hk
    simp only [exec, execYield, withSlot_free h, userOnly_user (by simpa [waitMode] using hm)]
    rfl
  case h_3 =>
    obtain rfl := Option.some.inj hk
    simp only [exec, execWaite, withSlot_free h]
    rfl
  case h_4 =>
    obtain rfl := Option.some.inj hk
    simp only [exec, execWaitq, withSlot_free h]
    rfl
  case h_5 =>
    obtain rfl := Option.some.inj hk
    simp only [exec, execCsync, withSlot_free h, userOnly_user (by simpa [waitMode] using hm)]
    rfl
  case h_6 a b =>
    cases hb : barrierOk s ((here s).readS a) with
    | false => simp [hb] at hk
    | true =>
      rw [hb, if_pos rfl] at hk
      obtain rfl := Option.some.inj hk
      simp only [exec, execBarwait, withSlot_free h, hb, if_true]
      rfl
  case h_7 =>
    obtain rfl := Option.some.inj hk
    simp only [exec, execPbar, withSlot_free h]
    rfl
  case h_8 =>
    obtain rfl := Option.some.inj hk
    simp only [exec, execRte, withSlot_free h, supervisorOnly_supervisor (by simpa [waitMode] using hm)]
    rfl
  case h_9 => cases hk

/-- WAITM begins its wait, where its word's page is not mapped with the page posted for it (R89, R176). -/
theorem exec_waitm (d a b : SReg) (cc : Cmp) (w32 : Bool) (timeout : BitVec 16) (h : slotFree s = true)
    (hd : d = 0 ∨ (here s).resultCount < 16) (hk : kindOf s s.cur ((here s).readS a).toNat ≠ none)
    (ha : ((here s).readS a).toNat % (if w32 then 4 else 8) = 0) : let v := ((here s).readS a).toNat
    exec (.waitm d a b cc w32 timeout) s = .next (nextFresh (waiting (postMonitor s v (if w32 then 4 else 8))
      (.waitm d v ((here s).readS b) cc w32 (if timeout = 0 then none else some (s.gcc + 1024 * timeout.toNat))
        (if monitorHit s s.cur v ((here s).readS b) cc w32 then some true else none))) 1) := by
  have hd' : ¬(d ≠ 0 ∧ 16 ≤ (here s).resultCount) := by
    rintro ⟨h0, hc⟩
    rcases hd with rfl | hl
    · exact h0 rfl
    · omega
  simp only [exec, execWaitm, withSlot_free h, hd', hk, ha, if_false, ne_eq, not_true]
  rfl

theorem exec_pcommit (a b : SReg) (h : slotFree s = true)
    (hk : kindOf s s.cur ((here s).readS a).toNat = some (.dur, true)) (hv : ((here s).readS a).toNat % 64 = 0)
    (h8 : ((here s).readS b).toNat % 8 = 0) (hp : inPartition (here s) .dm ((here s).readS b).toNat 64 = true)
    (hn : noPending s .dm ((here s).readS b).toNat 64 = true) :
    exec (.pcommit a b) s =
      .next (flown (waiting s .pcommit) 1 (.pcommitRead ((here s).readS a).toNat ((here s).readS b).toNat) []) := by
  simp only [exec, execPcommit, withSlot_free h, hk, hv, h8, hp, checkPort_ok hn, bne_self_eq_false, BEq.rfl, Bool.and_true,
    Bool.not_true, Bool.or_false, if_true, unless_false, andThen_ok, fly_eq, finish_ok]
  rfl

theorem exec_barrier_outside (a b : SReg) (h : slotFree s = true) (hb : barrierOk s ((here s).readS a) = false) :
    exec (.barwait a b) s = .next (raiseAtIssue s 0x16 none) ∧ exec (.bararr a) s = .next (raiseAtIssue s 0x16 none) := by
  constructor
  · simp only [exec, execBarwait, withSlot_free h, hb, Bool.false_eq_true, if_false, finish_trap]
  · simp only [exec, execBararr, withSlot_free h, hb, Bool.false_eq_true, if_false, finish_trap]

end

/-! ### The comparison of WAITM (R176) -/

/-- The two's complement reading that `compareWord` compares by is `BitVec.toInt`. -/
theorem toInt_eq_signedReading {n : Nat} (y : BitVec (n + 1)) :
    (if y.toNat < 2 ^ (n + 1 - 1) then (y.toNat : Int) else (y.toNat : Int) - 2 ^ (n + 1)) = y.toInt := by
  have half : y.toNat < 2 ^ (n + 1 - 1) ↔ 2 * y.toNat < 2 ^ (n + 1) := by
    rw [Nat.add_sub_cancel, Nat.pow_succ]
    omega
  simp only [BitVec.toInt_eq_toNat_cond, half]
  push_cast
  rfl

theorem compareWord_whole (x y : W64) :
    compareWord .eq false x y = decide (x = y) ∧ compareWord .ne false x y = decide (x ≠ y) ∧
    compareWord .lt false x y = decide (x.toInt < y.toInt) ∧ compareWord .ge false x y = decide (y.toInt ≤ x.toInt) ∧
    compareWord .ltn false x y = decide (x.toNat < y.toNat) ∧ compareWord .gen false x y = decide (y.toNat ≤ x.toNat) := by
  have hx := toInt_eq_signedReading (n := 63) x
  have hy := toInt_eq_signedReading (n := 63) y
  have mx := Nat.mod_eq_of_lt x.isLt
  have my := Nat.mod_eq_of_lt y.isLt
  simp only [Nat.reduceAdd, Nat.add_one_sub_one] at hx hy
  simp only [compareWord, Bool.false_eq_true, if_false, mx, my, hx, hy, BitVec.toNat_eq, bne, beq_eq_decide, decide_not,
    ne_eq, and_self]

theorem compareWord_low (x y : W64) : let a := x.setWidth 32
    let b := y.setWidth 32
    compareWord .eq true x y = decide (a = b) ∧ compareWord .ne true x y = decide (a ≠ b) ∧
    compareWord .lt true x y = decide (a.toInt < b.toInt) ∧ compareWord .ge true x y = decide (b.toInt ≤ a.toInt) ∧
    compareWord .ltn true x y = decide (a.toNat < b.toNat) ∧ compareWord .gen true x y = decide (b.toNat ≤ a.toNat) := by
  intro a b
  have hx := toInt_eq_signedReading (n := 31) a
  have hy := toInt_eq_signedReading (n := 31) b
  have mx : x.toNat % 2 ^ 32 = a.toNat := (BitVec.toNat_setWidth 32 x).symm
  have my : y.toNat % 2 ^ 32 = b.toNat := (BitVec.toNat_setWidth 32 y).symm
  simp only [Nat.reduceAdd, Nat.add_one_sub_one] at hx hy
  simp only [compareWord, if_true, mx, my, hx, hy, BitVec.toNat_eq, bne, beq_eq_decide, decide_not, ne_eq, and_self]

/-- Settles O19: the waits that begin at once by `waitBegun`, WAITM and PCOMMIT by their checks, and the comparison by its width. -/
theorem waitsBegin : Obligations.WaitsBegin := by
  unfold Obligations.WaitsBegin
  refine ⟨⟨fun s i k hk h hm => exec_waitBegun hk h hm, ?_, ?_, fun s a b h hb => exec_barrier_outside a b h hb⟩, fun x y => ?_⟩
  · intro s d a b cc w32 timeout v n begun h hd hk ha
    have he := exec_waitm d a b cc w32 timeout h hd hk ha
    refine ⟨fun hp => ?_, fun _ => he⟩
    rw [he, postMonitor, postHeld_mapped hp]
  · intro s a b v off h hk hv h8 hp hn
    exact exec_pcommit a b h hk hv h8 hp hn
  · obtain ⟨w1, w2, w3, w4, w5, w6⟩ := compareWord_whole x y
    exact ⟨w1, w2, w3, w4, w5, w6, compareWord_low x y⟩

end Sys2Proof.Machine
end

section
/-! PROOFS. Lanes, timed effects, control registers and the reset state (R17, R29, R43, R54, R129, R150, R188, R339, R349). -/

namespace Sys2Proof.Machine

/-! ### Lanes (R43, R54, R212, R213) -/

/-- The lanes of every type fill a register (R212). -/
theorem lanes_fill (t : Ty) : t.width * t.lanes = 2048 := by cases t <;> rfl

theorem testBit_laneOf (x : VWord) (w i j : Nat) : (laneOf x w i).testBit j = (decide (j < w) && x.getLsbD (w * i + j)) := by
  rw [laneOf, BitVec.testBit_toNat, BitVec.getLsbD_extractLsb']

/-- Bit `j` of lane `i` of a register made of lanes. -/
theorem getLsbD_ofLanes (t : Ty) (f : Nat → Nat) {i j : Nat} (hi : i < t.lanes) (hj : j < t.width) :
    (ofLanes t.width t.lanes f).getLsbD (t.width * i + j) = (f i % 2 ^ t.width).testBit j := by
  have hb : t.width * i + j < 2048 := by
    have := Nat.mul_le_mul_left t.width (show i + 1 ≤ t.lanes from hi)
    rw [lanes_fill, Nat.mul_succ] at this
    omega
  have := testBit_packFields (w := t.width) (g := fun i => f i % 2 ^ t.width) (fun i => Nat.mod_lt _ (Nat.two_pow_pos _)) hi hj
  rw [ofLanes, BitVec.getLsbD_ofNat]
  simpa [hb, packFields] using this

/-- Every bit of an active lane is of the mask, none of an inactive one. -/
theorem getLsbD_laneMask (t : Ty) (act : PWord) {i j : Nat} (hi : i < t.lanes) (hj : j < t.width) :
    (laneMask t act).getLsbD (t.width * i + j) = laneBit act t i := by
  rw [laneMask, getLsbD_ofLanes t _ hi hj]
  cases laneBit act t i with
  | true => simp [Nat.mod_eq_of_lt (Nat.sub_lt (Nat.two_pow_pos t.width) Nat.one_pos), hj]
  | false => simp

/-- A masked write gives an active lane its value and leaves an inactive one its own. -/
theorem laneOf_masked (t : Ty) (act : PWord) (old : VWord) (f : Nat → Nat) {i : Nat} (hi : i < t.lanes) :
    laneOf ((old &&& ~~~laneMask t act) ||| (ofLanes t.width t.lanes f &&& laneMask t act)) t.width i =
      if laneBit act t i then f i % 2 ^ t.width else laneOf old t.width i := by
  refine Nat.eq_of_testBit_eq fun j => ?_
  by_cases hj : j < t.width
  · have hb : t.width * i + j < 2048 := by
      have := Nat.mul_le_mul_left t.width (show i + 1 ≤ t.lanes from hi)
      rw [lanes_fill, Nat.mul_succ] at this
      omega
    rw [testBit_laneOf]
    simp only [BitVec.getLsbD_or, BitVec.getLsbD_and, BitVec.getLsbD_not, getLsbD_laneMask t act hi hj, getLsbD_ofLanes t f hi hj]
    cases laneBit act t i with
    | true => simp [hj, hb]
    | false => simp [hj, hb, testBit_laneOf]
  · rw [testBit_laneOf]
    cases laneBit act t i with
    | true => simp [hj]
    | false => simp [hj, testBit_laneOf]

/-- The flags raised are those of the active lanes. -/
theorem getLsbD_laneFlags (t : Ty) (act : PWord) (g : Nat → Flags) (b : Nat) : (laneFlags t act g).getLsbD b = true ↔
    ∃ i, i < t.lanes ∧ laneBit act t i = true ∧ (g i).getLsbD b = true := by
  have hf : ∀ (l : List Nat) (x : Flags),
      (l.foldl (fun acc i => if laneBit act t i then acc ||| g i else acc) x).getLsbD b = true ↔
        x.getLsbD b = true ∨ ∃ i ∈ l, laneBit act t i = true ∧ (g i).getLsbD b = true := by
    intro l
    induction l with
    | nil => simp
    | cons i l ih =>
      intro x
      rw [List.foldl_cons, ih]
      cases hi : laneBit act t i <;> simp [hi, or_assoc]
  rw [laneFlags, hf]
  simp

theorem laneBit_activity (c : Ctx) (p : PReg) (t : Ty) (i : Nat) :
    laneBit (activity c p) t i = (laneBit (c.readP p) t i && laneBit c.mt t i) := BitVec.getLsbD_and ..

/-- Settles O36: bit by bit of the lane, and by an induction over the lanes whose flags are raised. -/
theorem laneWrites : Obligations.LaneWrites := by
  unfold Obligations.LaneWrites
  refine ⟨fun t act old f i hi => laneOf_masked t act old f hi, getLsbD_laneFlags, laneBit_activity, fun c hm hs => ?_⟩
  simp [activity, Ctx.mt, hm, hs]

/-! ### Timed effects perform (R29, R35) -/

theorem isRunning_frozen {s : State} {k : Nat} (h : (ctxOf s k).freeze.isSome = true) : isRunning s k = false := by
  simp [isRunning, Option.isNone_eq_false_iff.mpr h]

/-- A flight that is due leaves its context and performs. -/
theorem performAt_due {s : State} {k i : Nat} {f : Flight} (hf : (ctxOf s k).flights[i]? = some f) (hr : isRunning s k = true)
    (hd : f.due = (ctxOf s k).ttc) :
    performAt s k i = performFlight (setCtx s k { ctxOf s k with flights := (ctxOf s k).flights.eraseIdx i }) k f := by
  simp [performAt, hf, hr, hd]

/-- One that is not due, or of a context that does not run, waits. -/
theorem performAt_waits {s : State} {k i : Nat}
    (h : isRunning s k = false ∨ ∀ f, (ctxOf s k).flights[i]? = some f → f.due ≠ (ctxOf s k).ttc) : performAt s k i = s := by
  unfold performAt
  cases hf : (ctxOf s k).flights[i]? with
  | none => simp [hf]
  | some f =>
    rcases h with h | h
    · simp [hf, h]
    · simp [hf, h f hf]

theorem performClass_due {s : State} {k i : Nat} {f : Flight} (hf : (ctxOf s k).flights[i]? = some f) (hr : isRunning s k = true)
    (hd : f.due = (ctxOf s k).ttc) {cl : ActClass} (hc : classOf f.act = cl) : performClass cl k i s =
      .next (performFlight (setCtx s k { ctxOf s k with flights := (ctxOf s k).flights.eraseIdx i }) k f) := by
  simp only [performClass, hf, hc, if_true, performAt_due hf hr hd]

theorem performClass_waits {s : State} {k i : Nat}
    (h : isRunning s k = false ∨ ∀ f, (ctxOf s k).flights[i]? = some f → f.due ≠ (ctxOf s k).ttc) (cl : ActClass) :
    performClass cl k i s = .next s := by
  unfold performClass
  split
  · rfl
  · rw [performAt_waits h, ite_self]

/-- Settles O31: each event is `performClass` of its class. -/
theorem flightsPerform : Obligations.FlightsPerform := by
  unfold Obligations.FlightsPerform
  refine ⟨fun s k i f hf hr hd => ?_, fun s k i h => ?_, fun s k h => isRunning_frozen h⟩
  · exact ⟨performClass_due hf hr hd, performClass_due hf hr hd, performClass_due hf hr hd, performClass_due hf hr hd,
      performClass_due hf hr hd, performClass_due hf hr hd⟩
  · have w := performClass_waits h
    exact ⟨w .result, w .copyLine, w .followOn, w .group, w .arrival, w .nest⟩

/-! ### What GETC reads of the numbered registers (R17, R37, R57, R137, R150) -/

section
variable (s : State) (k : Nat)

theorem readCR_tid (i : Fin 5) : readCR s k (0x10 + i.val) =
    BitVec.ofNat 64 (((ctxOf s k).task.bind (fun t => t.tid[i.val]?)).getD 0) := by
  simp only [readCR]
  rw [if_neg (by omega), if_pos (by omega), Nat.add_sub_cancel_left]

theorem readCR_text (i : Fin 5) : readCR s k (0x18 + i.val) =
    BitVec.ofNat 64 (((ctxOf s k).task.bind (fun t => t.text[i.val]?)).getD 1) := by
  simp only [readCR]
  rw [if_neg (by omega), if_neg (by omega), if_pos (by omega), Nat.add_sub_cancel_left]

theorem toList_getD {α : Type} {n : Nat} (v : Vector α n) (i : Fin n) (d : α) : v.toList.getD i.val d = v[i] := by
  simp [List.getD]

theorem readCR_prec (i : Fin 4) : readCR s k (0x20 + i.val) = ((ctxOf s k).prec[i]).setWidth 64 := by
  simp only [readCR]
  rw [if_neg (by omega), if_neg (by omega), if_neg (by omega), if_pos (by omega), Nat.add_sub_cancel_left, toList_getD]

theorem readCR_winlog (i : Fin 8) : readCR s k (0x76 + i.val) = ((ctxOf s k).winlog[i]).setWidth 64 := by
  simp only [readCR]
  rw [if_neg (by omega), if_neg (by omega), if_neg (by omega), if_neg (by omega), if_pos (by omega), Nat.add_sub_cancel_left,
    toList_getD]

theorem readCR_lc (i : Fin 4) : readCR s k (0x80 + i.val) = (ctxOf s k).lc[i] := by
  simp only [readCR]
  rw [if_neg (by omega), if_neg (by omega), if_neg (by omega), if_neg (by omega), if_neg (by omega), if_pos (by omega),
    Nat.add_sub_cancel_left, toList_getD]

theorem readCR_ecnt (i : Fin 3) : readCR s k (0x110 + i.val) = (coreOf s (coreIx k)).ecnt[i] := by
  simp only [readCR]
  rw [if_neg (by omega), if_neg (by omega), if_neg (by omega), if_neg (by omega), if_neg (by omega), if_neg (by omega),
    if_pos (by omega), Nat.add_sub_cancel_left, toList_getD]

theorem readCR_ids (h : k < 1536) : readCR s k 3 = BitVec.ofNat 64 (k / 4) ∧ readCR s k 4 = BitVec.ofNat 64 (k / 16) ∧
    readCR s k 5 = BitVec.ofNat 64 (k / 384) := by
  have : k / 4 < Config.firstSystemCore := by
    show k / 4 < 384
    omega
  refine ⟨rfl, rfl, ?_⟩
  show BitVec.ofNat 64 (dieIx k) = _
  rw [dieIx, if_pos this]

theorem readCR_tid_text (x : Task) (i : Fin 5) (v : Nat) (hx : (ctxOf s k).task = some x) :
    (x.tid[i.val]? = some v → readCR s k (0x10 + i.val) = BitVec.ofNat 64 v) ∧
    (x.text[i.val]? = some v → readCR s k (0x18 + i.val) = BitVec.ofNat 64 v) := by
  rw [readCR_tid, readCR_text, hx]
  exact ⟨fun h => by simp [h], fun h => by simp [h]⟩

theorem readCR_allow (ht : (coreOf s (coreIx k)).target < 2 ^ 13) (hv : (coreOf s (coreIx k)).value < 2 ^ 13) :
    readCR s k 0x30 = BitVec.ofNat 64 ((coreOf s (coreIx k)).target * 2 ^ 32 + (coreOf s (coreIx k)).value) := by
  show readAllow (coreOf s (coreIx k)) = _
  rw [readAllow, Nat.mod_eq_of_lt ht, Nat.mod_eq_of_lt hv]

/-- SP reads all ones in supervisor mode (R37, R185). -/
theorem readCR_sp : readCR s k 0x88 = if (ctxOf s k).mode = .supervisor then 0xFF else (ctxOf s k).sp.setWidth 64 := by
  show (ctxOf s k).readSP.setWidth 64 = _
  unfold Ctx.readSP
  split <;> rfl

end

/-! ### What SETC writes: the reserved bits drop (R17, R53, R54, R57, R150, R188) -/

/-- A masked narrow copy of a word is the word under the mask. -/
theorem setWidth_and_setWidth {w : Nat} (x : W64) (m : BitVec w) :
    (x.setWidth w &&& m).setWidth 64 = x &&& m.setWidth 64 := by
  refine BitVec.eq_of_getLsbD_eq fun i hi => ?_
  by_cases hj : i < w
  · simp [hi, hj]
  · simp [hi, hj, BitVec.getLsbD_of_ge m i (by omega)]

theorem setWidth_setWidth_64 (w : Nat) (x : W64) :
    (x.setWidth w).setWidth 64 = x &&& (BitVec.allOnes w).setWidth 64 := by
  rw [← setWidth_and_setWidth, BitVec.and_allOnes]

/-- A narrow register under the low bits of a mask. -/
theorem and_setWidth_setWidth {w : Nat} (t : BitVec w) (m : W64) : (t &&& m.setWidth w).setWidth 64 = t.setWidth 64 &&& m := by
  refine BitVec.eq_of_getLsbD_eq fun i hi => ?_
  by_cases hj : i < w
  · simp [hi, hj]
  · simp [hi, BitVec.getLsbD_of_ge t i (by omega)]

section
variable (s : State) (k : Nat) (x : W64)

/-- The state after a control register of a context has been written. -/
def afterCR (i : Nat) : State := setCtx s k ((ctxOf s k).writeCR i x)

@[simp] theorem ctxOf_afterCR (i : Nat) : ctxOf (afterCR s k x i) k = (ctxOf s k).writeCR i x := by simp [afterCR]

theorem prec_writeCR (c : Ctx) (i : Fin 4) : (c.writeCR (0x20 + i.val) x).prec[i] = x.setWidth 32 &&& 0x0FFF_FFFF := by
  fin_cases i <;> simp [Ctx.writeCR]

theorem lc_writeCR (c : Ctx) (i : Fin 4) : (c.writeCR (0x80 + i.val) x).lc[i] = x := by
  fin_cases i <;> simp [Ctx.writeCR]

theorem readCR_afterCR_indexed (i : Fin 4) :
    readCR (afterCR s k x (0x20 + i.val)) k (0x20 + i.val) = x &&& 0x0FFF_FFFF ∧
    readCR (afterCR s k x (0x80 + i.val)) k (0x80 + i.val) = x := by
  rw [readCR_prec, readCR_lc, ctxOf_afterCR, ctxOf_afterCR, prec_writeCR, lc_writeCR, setWidth_and_setWidth]
  exact ⟨rfl, rfl⟩

/-- Of TSTATE, a write changes the bits of 0xEE alone (R188). -/
theorem readCR_afterCR_tstate : readCR (afterCR s k x 0x75) k 0x75 = (readCR s k 0x75 &&& ~~~0xEE) ||| (x &&& 0xEE) := by
  show ((ctxOf (afterCR s k x 0x75) k).tstate).setWidth 64 = ((ctxOf s k).tstate.setWidth 64 &&& ~~~0xEE) ||| (x &&& 0xEE)
  rw [ctxOf_afterCR]
  show (((ctxOf s k).tstate &&& (~~~0xEE : W64).setWidth 16) ||| (x.setWidth 16 &&& 0x00EE)).setWidth 64 = _
  rw [BitVec.setWidth_or, and_setWidth_setWidth, setWidth_and_setWidth]
  rfl

theorem readCR_afterCR_narrow :
    readCR (afterCR s k x 0x50) k 0x50 = x &&& 3 ∧ readCR (afterCR s k x 0x51) k 0x51 = x &&& 0x1F ∧
    readCR (afterCR s k x 0x71) k 0x71 = x &&& 0xFF ∧
    ((ctxOf s k).mode = .user → readCR (afterCR s k x 0x88) k 0x88 = x &&& 0xFF) := by
  refine ⟨?_, ?_, ?_, fun hm => ?_⟩
  · show (ctxOf (afterCR s k x 0x50) k).vmode.setWidth 64 = _
    rw [ctxOf_afterCR]
    exact setWidth_setWidth_64 _ x
  · show (ctxOf (afterCR s k x 0x51) k).flagsSeen.setWidth 64 = _
    rw [ctxOf_afterCR]
    exact setWidth_setWidth_64 _ x
  · show (ctxOf (afterCR s k x 0x71) k).tcause.setWidth 64 = _
    rw [ctxOf_afterCR]
    exact setWidth_setWidth_64 _ x
  · rw [readCR_sp, ctxOf_afterCR, if_neg (by simp [Ctx.writeCR, hm])]
    exact setWidth_setWidth_64 _ x

/-- The registers whose every bit is written. -/
theorem readCR_afterCR_whole : ∀ i ∈ [0x60, 0x70, 0x72, 0x73, 0x74, 0x100, 0x101], readCR (afterCR s k x i) k i = x := by
  simp [readCR, Ctx.writeCR]

theorem readCR_afterCR_hstat : readCR (afterCR s k x 0xA0) k 0xA0 = x &&& 0xFF_FF01 := by
  simp [readCR, Ctx.writeCR]

/-- An index of no writable register of the context changes nothing. -/
theorem writeCR_other (c : Ctx) (i : Nat) (h : i ∉ [0x20, 0x21, 0x22, 0x23, 0x50, 0x51, 0x60, 0x70, 0x71, 0x72, 0x73, 0x74, 0x75,
    0x80, 0x81, 0x82, 0x83, 0x88, 0xA0, 0x100, 0x101]) : c.writeCR i x = c := by
  unfold Ctx.writeCR
  split
  case h_22 => rfl
  all_goals exact absurd (by decide) h

end

/-! ### Registers of the core and of system cores (R137, R339, R349) -/

section
variable {s : State} {k i : Nat} {f : Flight} {x : W64}

/-- A landed SETC writes the shared register, or pops the fault buffer, and the context's own. -/
theorem performFlight_cr (h : f.act = .result (.cr i x) 0 none) : performFlight s k f =
    modCtx (if i = 0x181 then (if 384 ≤ coreIx k then popFault s (dieIx k) else s) else writeSharedCR s k i x) k
      (fun c => (c.writeCR i x).orFlags 0) := by
  simp only [performFlight, h, performResult, Ctx.writeReg]
  rfl

theorem setc_ecnt (h : f.act = .result (.cr i x) 0 none) (j : Fin 3) (hi : i = 0x110 + j.val) :
    (coreOf (performFlight s k f) (coreIx k)).ecnt = (coreOf s (coreIx k)).ecnt.set j x ∧
    (performFlight s k f).diesT = s.diesT ∧ (performFlight s k f).tenants = s.tenants := by
  subst hi
  rw [performFlight_cr h]
  fin_cases j <;> simp [writeSharedCR]

theorem setc_faultStatus (h : f.act = .result (.cr 0x180 x) 0 none) (hk : 384 ≤ coreIx k) :
    dieOf (performFlight s k f) (dieIx k) = { dieOf s (dieIx k) with
      ovf := if x.getLsbD 63 ∧ (dieOf s (dieIx k)).held = [] then false else (dieOf s (dieIx k)).ovf } := by
  have hs : Config.firstSystemCore ≤ coreIx k := hk
  rw [performFlight_cr h]
  show dieOf (writeSharedCR s k 0x180 x) (dieIx k) = _
  cases hx : x.getLsbD 63 with
  | false => simp only [writeSharedCR, hx, Bool.and_false, Bool.false_eq_true, if_false, false_and]
  | true =>
    by_cases hh : (dieOf s (dieIx k)).held = []
    · simp only [writeSharedCR, hs, hx, hh, decide_true, Bool.and_self, if_true, dieOf_modDie, and_self]
    · simp only [writeSharedCR, hs, hx, hh, decide_true, Bool.and_self, if_true, dieOf_modDie, and_false, if_false]

theorem setc_pop (h : f.act = .result (.cr 0x181 x) 0 none) (hk : 384 ≤ coreIx k) :
    (∀ e r, (dieOf s (dieIx k)).faults = e :: r → (dieOf s (dieIx k)).held = [] →
      dieOf (performFlight s k f) (dieIx k) = { dieOf s (dieIx k) with faults := r }) ∧
    ((dieOf s (dieIx k)).faults = [] → (performFlight s k f).diesT = s.diesT) := by
  rw [performFlight_cr h, if_pos rfl, if_pos hk]
  refine ⟨fun e r hf hh => ?_, fun hf => ?_⟩
  · show dieOf (popFault s (dieIx k)) (dieIx k) = _
    simp [popFault, postWaiting, hf, hh]
  · show (popFault s (dieIx k)).diesT = _
    simp [popFault, hf]

theorem setc_pages (h : f.act = .result (.cr i x) 0 none) (hk : 384 ≤ coreIx k) :
    (i = 0x190 → (coreOf (performFlight s k f) (coreIx k)).ptsel = x.setWidth 4) ∧
    (i = 0x192 → (coreOf (performFlight s k f) (coreIx k)).pgreq = x &&& 0xFFFF_FFFF_FFFF_0000) ∧
    (i = 0x191 → (tenantOf (performFlight s k f) (coreOf s (coreIx k)).ptsel.toNat).ptroot = x &&& 0x1FFF_FFFF_E001) := by
  have hs : Config.firstSystemCore ≤ coreIx k := hk
  rw [performFlight_cr h]
  refine ⟨?_, ?_, ?_⟩ <;> rintro rfl <;> simp [writeSharedCR, hs]

/-- On a compute core the registers of system cores ignore writes. -/
theorem setc_compute (h : f.act = .result (.cr i x) 0 none) (hk : coreIx k < 384)
    (hi : i ∈ [0x180, 0x181, 0x184, 0x185, 0x186, 0x187, 0x190, 0x191, 0x192, 0x193]) :
    (performFlight s k f).diesT = s.diesT ∧ (performFlight s k f).tenants = s.tenants ∧ (performFlight s k f).cores = s.cores := by
  have hs : ¬Config.firstSystemCore ≤ coreIx k := by
    show ¬384 ≤ coreIx k
    omega
  have hs' : ¬384 ≤ coreIx k := hs
  rw [performFlight_cr h]
  fin_cases hi <;> simp [writeSharedCR, hs, hs']

/-- The registers that a system core alone has (R339, R349). -/
theorem readCR_eq_system (hi : i ∈ [0x180, 0x181, 0x184, 0x185, 0x186, 0x187, 0x190, 0x191, 0x192, 0x193]) :
    readCR s k i = readSystemCR s k i := by
  fin_cases hi <;> simp [readCR]

theorem readSystemCR_compute (hk : coreIx k < 384) : readSystemCR s k i = 0 := if_pos hk

theorem readCR_faultStatus (hk : 384 ≤ coreIx k) (hh : (dieOf s (dieIx k)).held.length < 2 ^ 16)
    (hf : (dieOf s (dieIx k)).faults.length ≤ 4096) : let d := dieOf s (dieIx k)
    readCR s k 0x180 = BitVec.ofNat 64 ((if d.ovf then 2 ^ 63 else 0) + d.held.length * 2 ^ 32 + d.faults.length) := by
  have hs : ¬coreIx k < Config.firstSystemCore := by
    show ¬coreIx k < 384
    omega
  have hl : (dieOf s (dieIx k)).faults.length < 2 ^ 13 := by omega
  rw [readCR_eq_system (by decide)]
  simp only [readSystemCR, hs, if_false, faultStatus, Nat.mod_eq_of_lt hh, Nat.mod_eq_of_lt hl]

theorem readCR_faultHead (hk : 384 ≤ coreIx k) {e : FaultEntry} {r : List FaultEntry} (hf : (dieOf s (dieIx k)).faults = e :: r) :
    readCR s k 0x184 = e.w0 ∧ readCR s k 0x185 = e.w1 ∧ readCR s k 0x186 = e.w2 ∧ readCR s k 0x187 = e.w3 := by
  have hs : ¬coreIx k < Config.firstSystemCore := by
    show ¬coreIx k < 384
    omega
  refine ⟨?_, ?_, ?_, ?_⟩ <;> rw [readCR_eq_system (by decide)] <;> simp [readSystemCR, hs, hf]

theorem readCR_faultHead_empty (hk : 384 ≤ coreIx k) (hf : (dieOf s (dieIx k)).faults = []) (j : Fin 4) :
    readCR s k (0x184 + j.val) = 0 := by
  have hs : ¬coreIx k < Config.firstSystemCore := by
    show ¬coreIx k < 384
    omega
  fin_cases j <;> rw [readCR_eq_system (by decide)] <;> simp [readSystemCR, hs, hf]

theorem readCR_pages (hk : 384 ≤ coreIx k) : let n := coreOf s (coreIx k)
    readCR s k 0x190 = n.ptsel.setWidth 64 ∧ readCR s k 0x191 = (tenantOf s n.ptsel.toNat).ptroot ∧ readCR s k 0x192 = n.pgreq ∧
    (n.pgres = none → readCR s k 0x193 = 0) ∧
    (∀ r, n.pgres = some r → readCR s k 0x193 = r.setWidth 64 ||| ((1 : W64) <<< 63)) := by
  have hs : ¬coreIx k < Config.firstSystemCore := by
    show ¬coreIx k < 384
    omega
  refine ⟨?_, ?_, ?_, fun h => ?_, fun r h => ?_⟩ <;> rw [readCR_eq_system (by decide)]
  · simp [readSystemCR, hs]
  · simp [readSystemCR, hs]
  · simp [readSystemCR, hs]
  · simp [readSystemCR, hs, h]
  · simp [readSystemCR, hs, h]

end

/-- Settles O22: GETC register by register, SETC by its mask, the shared registers by the landing of their SETC. -/
theorem controlRegisters : Obligations.ControlRegisters := by
  unfold Obligations.ControlRegisters
  refine ⟨?_, ?_, ?_, ?_⟩
  · intro s k c n
    exact ⟨rfl, rfl, rfl, readCR_ids s k, rfl, rfl, fun x i v hx => readCR_tid_text s k x i v hx, rfl,
      fun i => ⟨readCR_prec s k i, readCR_lc s k i⟩, readCR_allow s k, rfl, rfl, rfl, rfl, rfl, rfl, rfl, rfl, rfl, rfl, rfl, rfl,
      rfl, readCR_winlog s k, readCR_sp s k, rfl, rfl, rfl, rfl, readCR_ecnt s k⟩
  · intro s k x after
    obtain ⟨vmode, flags, cause, sp⟩ := readCR_afterCR_narrow s k x
    have whole := readCR_afterCR_whole s k x
    exact ⟨readCR_afterCR_indexed s k x, vmode, flags, whole 0x60 (by decide), whole 0x70 (by decide), cause,
      whole 0x72 (by decide), whole 0x73 (by decide), whole 0x74 (by decide), readCR_afterCR_tstate s k x, sp,
      readCR_afterCR_hstat s k x, whole 0x100 (by decide), whole 0x101 (by decide), writeCR_other x (ctxOf s k)⟩
  · intro s k i f x h t n m d
    refine ⟨setc_ecnt h, fun hk => ?_, setc_compute h⟩
    obtain ⟨ptsel, pgreq, root⟩ := setc_pages h hk
    refine ⟨?_, ?_, ptsel, pgreq, root⟩
    · rintro rfl
      exact setc_faultStatus h hk
    · rintro rfl
      exact setc_pop h hk
  · intro s k n d
    refine ⟨fun hk => ?_, fun hk i hi => ?_⟩
    · exact ⟨readCR_faultStatus hk, fun e r hf => readCR_faultHead hk hf, readCR_faultHead_empty hk, readCR_pages hk⟩
    · rw [readCR_eq_system hi, readSystemCR_compute hk]

/-! ### The state after reset -/

theorem ctxOf_reset (k : Nat) : ctxOf State.reset k = Ctx.reset := rfl
theorem coreOf_reset (n : Nat) : coreOf State.reset n = CoreState.reset := rfl
theorem portOf_reset (p : Nat) : portOf State.reset p = Port.reset := rfl

theorem readS_reset (r : SReg) : Ctx.reset.readS r = 0 := by
  simp [Ctx.readS, Ctx.reset]

/-- Without a task every extent reads 1 (R17). -/
theorem readCR_text_reset (k : Nat) (t : Fin 5) : readCR State.reset k (0x18 + t.val) = 1 := by
  have h1 : ¬0x18 + t.val < 8 := by omega
  have h2 : ¬(0x10 ≤ 0x18 + t.val ∧ 0x18 + t.val ≤ 0x14) := by omega
  have h3 : 0x18 ≤ 0x18 + t.val ∧ 0x18 + t.val ≤ 0x1C := by omega
  simp only [readCR, h1, h2, h3, if_false, if_true, and_self, ctxOf_reset]
  rfl

/-- Every status word of a port at reset is 0 (R366). -/
theorem portWord_reset (w : Nat) : portWord Port.reset w = 0 := by
  unfold portWord
  split <;> rfl

/-- Settles O4: each table of the reset state is empty, so every part of the machine is its own reset value. -/
theorem resetState : Obligations.ResetState := by
  unfold Obligations.ResetState
  refine ⟨rfl, rfl, rfl, rfl, rfl, rfl, fun k => ?_, fun n => ?_, fun k _ t => readCR_text_reset k t, fun d => ⟨rfl, rfl⟩,
    fun p w => portWord_reset w, fun f => ⟨rfl, rfl, rfl, rfl, rfl, rfl, rfl, rfl, rfl, rfl, rfl, rfl⟩⟩
  · rw [ctxOf_reset]
    exact ⟨rfl, rfl, rfl, rfl, rfl, rfl, readS_reset, fun t => by simp [Ctx.reset], rfl, rfl, rfl, rfl, rfl, rfl, rfl, rfl,
      fun i => by simp [Ctx.reset]⟩
  · rw [coreOf_reset]
    exact ⟨rfl, rfl, rfl, rfl, rfl, fun i => by simp [CoreState.reset]⟩

end Sys2Proof.Machine
end

section
/-! PROOFS. An operation at issue puts effects in flight and writes nothing (R29, R100, R101). -/

namespace Sys2Proof.Machine

/-! ### What an operation at issue leaves alone (R29, R100, R101) -/

theorem SameRegisters.refl (c : Ctx) : SameRegisters c c := by constructor <;> simp

theorem SameRegisters.trans {c d e : Ctx} (h : SameRegisters c d) (g : SameRegisters d e) : SameRegisters c e := by
  constructor <;> simp [h.s, h.v, h.p, h.g, h.prec, h.heap, h.vmode, h.vflags, h.padm, h.trap, h.winlog, h.loop, h.mask, h.hstat,
    h.place, g.s, g.v, g.p, g.g, g.prec, g.heap, g.vmode, g.vflags, g.padm, g.trap, g.winlog, g.loop, g.mask, g.hstat, g.place]

theorem SameStores.refl (s : State) : SameStores s s := by constructor <;> simp

theorem SameStores.trans {s t u : State} (h : SameStores s t) (g : SameStores t u) : SameStores s u := by
  constructor <;> simp [h.mem, h.buf, h.tiles, h.barriers, h.allow, h.queues, h.program, g.mem, g.buf, g.tiles, g.barriers, g.allow,
    g.queues, g.program]

/-- `t` is `s` but for what is in flight: every register and every store as before, at the same GCC. -/
structure IssueKept (s t : State) : Prop where
  regs : ∀ k, SameRegisters (ctxOf s k) (ctxOf t k)
  stores : SameStores s t
  gcc : t.gcc = s.gcc

theorem IssueKept.refl (s : State) : IssueKept s s := ⟨fun _ => .refl _, .refl s, rfl⟩

theorem IssueKept.trans {s t u : State} (h : IssueKept s t) (g : IssueKept t u) : IssueKept s u :=
  ⟨fun k => (h.regs k).trans (g.regs k), h.stores.trans g.stores, g.gcc.trans h.gcc⟩

/-- An update of a context that keeps its registers. -/
theorem issueKept_modCtx {s : State} {k : Nat} {f : Ctx → Ctx} (h : SameRegisters (ctxOf s k) (f (ctxOf s k))) :
    IssueKept s (modCtx s k f) := by
  refine ⟨fun j => ?_, ⟨fun _ => rfl, fun _ _ _ => rfl, fun _ => rfl, fun _ => rfl, fun _ => ⟨rfl, rfl, rfl, rfl⟩, fun _ => rfl,
    fun _ _ => rfl⟩, rfl⟩
  rw [ctxOf_modCtx]
  split
  · next hj => rwa [hj]
  · exact .refl _

theorem issueKept_modHere {s : State} {f : Ctx → Ctx} (h : SameRegisters (here s) (f (here s))) : IssueKept s (modHere s f) :=
  issueKept_modCtx h

/-- An update of a core that keeps its buffers, tiles, barriers and energy state. -/
theorem issueKept_modCore {s : State} {n : Nat} {f : CoreState → CoreState} (hb : ∀ c b, (f c).bufMem b = c.bufMem b)
    (ht : ∀ c, (f c).tiles = c.tiles ∧ (f c).barriers = c.barriers)
    (ha : ∀ c, (f c).target = c.target ∧ (f c).value = c.value ∧ (f c).strict = c.strict ∧ (f c).ecnt = c.ecnt) :
    IssueKept s (modCore s n f) := by
  refine ⟨fun _ => .refl _, ⟨fun _ => rfl, fun m b a => ?_, fun m => ?_, fun m => ?_, fun m => ?_, fun _ => rfl, fun _ _ => rfl⟩, rfl⟩ <;>
    rw [coreOf_modCore] <;> split <;> next hm => simp [hm, hb, ht, ha]

/-- An update of a cluster that keeps its queues and its walker program. -/
theorem issueKept_modCluster {s : State} {n : Nat} {f : ClusterState → ClusterState}
    (h : (f (clusterOf s n)).queues = (clusterOf s n).queues ∧ (f (clusterOf s n)).program = (clusterOf s n).program) :
    IssueKept s (modCluster s n f) := by
  refine ⟨fun _ => .refl _, ⟨fun _ => rfl, fun _ _ _ => rfl, fun _ => rfl, fun _ => rfl, fun _ => ⟨rfl, rfl, rfl, rfl⟩, fun m => ?_,
    fun m a => ?_⟩, rfl⟩ <;>
    rw [clusterOf_modCluster] <;> split <;> next hm => simp [hm, h]

theorem issueKept_modDie (s : State) (n : Nat) (f : DieState → DieState) : IssueKept s (modDie s n f) :=
  ⟨fun _ => .refl _, ⟨fun _ => rfl, fun _ _ _ => rfl, fun _ => rfl, fun _ => rfl, fun _ => ⟨rfl, rfl, rfl, rfl⟩, fun _ => rfl,
    fun _ _ => rfl⟩, rfl⟩

theorem issueKept_foldl {α : Type} {f : State → α → State} (h : ∀ s x, IssueKept s (f s x)) (l : List α) (s : State) :
    IssueKept s (l.foldl f s) := by
  induction l generalizing s with
  | nil => exact .refl s
  | cons x r ih => exact (h s x).trans (ih _)

theorem issueKept_flown (s : State) (lat : Nat) (a : Act) (r : List (Nat × Nat × Nat)) : IssueKept s (flown s lat a r) :=
  issueKept_modHere (by constructor <;> simp [Ctx.addFlight])

theorem issueKept_fly (s : State) (lat : Nat) (a : Act) : IssueKept s (fly s lat a) := issueKept_flown s lat a []

theorem issueKept_queued (s : State) (j : Job) (r : Option Result) (o : Bool) (l : List Nat) (p : List Place) :
    IssueKept s (queued s j r o l p) := issueKept_modHere (by constructor <;> simp)

theorem issueKept_occupy (s : State) (n : Nat) : IssueKept s (occupy s n) := by
  unfold occupy
  split
  · exact .refl s
  · exact issueKept_fly ..

theorem issueKept_reserve (s : State) (l : List Interval) : IssueKept s (reserve s l) := by
  unfold reserve modHereCore
  exact issueKept_modCore (fun _ b => by cases b <;> rfl) (fun _ => ⟨rfl, rfl⟩) (fun _ => ⟨rfl, rfl, rfl, rfl⟩)

theorem issueKept_pauseResv (s : State) (k : Nat) : IssueKept s (pauseResv s k) := by
  unfold pauseResv
  exact issueKept_modCore (fun _ b => by cases b <;> rfl) (fun _ => ⟨rfl, rfl⟩) (fun _ => ⟨rfl, rfl, rfl, rfl⟩)

theorem issueKept_freezeCtx (s : State) (k : Nat) (m : FreezeMark) : IssueKept s (freezeCtx s k m) := by
  unfold freezeCtx
  split
  · exact issueKept_modCtx (by constructor <;> simp)
  · exact (issueKept_modCtx (by constructor <;> simp)).trans (issueKept_pauseResv _ k)

theorem issueKept_postPre (s : State) (k : Nat) : IssueKept s (postPre s k) := by
  refine issueKept_foldl (fun s j => ?_) _ s
  split
  · exact issueKept_freezeCtx ..
  · exact issueKept_modCtx (by constructor <;> simp)

theorem issueKept_clearMark (s : State) (k : Nat) (m : FreezeMark) (soon : Nat) : IssueKept s (clearMark s k m soon) :=
  issueKept_modCtx (by constructor <;> simp)

theorem issueKept_clearGroup (s : State) (k : Nat) (m : FreezeMark) (soon : Nat) : IssueKept s (clearGroup s k m soon) :=
  issueKept_foldl (fun s j => issueKept_clearMark s j m soon) _ s

theorem issueKept_postCtxFault (s : State) (k sub cause : Nat) (addr : W64) (syl off : Nat) :
    IssueKept s (postCtxFault s k sub cause addr syl off) := by
  unfold postCtxFault postFault
  exact issueKept_modDie ..

theorem issueKept_postHeld (s : State) (job : Job) (v sub : Nat) : IssueKept s (postHeld s job v sub) := by
  unfold postHeld postPage
  split
  · split
    · exact .refl s
    · exact issueKept_postCtxFault ..
  · exact .refl s

theorem issueKept_markHeld (s : State) (page : Option Nat) : IssueKept s (markHeld s page) :=
  issueKept_modHere (by constructor <;> simp)

/-- An operation that, where it proceeds, leaves registers, stores and time alone. -/
structure Quiet (s : State) (r : Issue) : Prop where
  kept : ∀ t, r = .ok t → IssueKept s t

section
variable {s : State}

theorem quiet_ok {t : State} (h : IssueKept s t) : Quiet s (.ok t) :=
  ⟨fun _ hu => by cases hu; exact h⟩

theorem quiet_self : Quiet s (.ok s) := quiet_ok (.refl s)

theorem quiet_trap (c : Nat) (v : Option W64) : Quiet s (.trap c v) := ⟨fun _ h => by cases h⟩

/-- What is quiet from a later state is quiet from an earlier one. -/
theorem quiet_after {t : State} (h : IssueKept s t) {r : Issue} (hr : Quiet t r) : Quiet s r :=
  ⟨fun u hu => h.trans (hr.kept u hu)⟩

theorem quiet_ite {p : Prop} [Decidable p] {a b : Issue} (ha : Quiet s a) (hb : Quiet s b) : Quiet s (if p then a else b) := by
  split
  · exact ha
  · exact hb

theorem quiet_unless {r : Issue} (h : Quiet s r) (bad : Bool) (c : Nat) (v : Option W64) : Quiet s (r.unless bad c v) :=
  ⟨fun t ht => h.kept t (unless_ok.mp ht).1⟩

theorem quiet_andThen {r : Issue} (h : Quiet s r) {f : State → Issue} (hf : ∀ t, Quiet t (f t)) : Quiet s (r.andThen f) := by
  cases r with
  | ok t => exact quiet_after (h.kept t rfl) (hf t)
  | trap c v => exact quiet_trap c v

theorem quiet_flyTo (d : Option (Nat × Nat)) (lat reg : Nat) (a : Act) : Quiet s (flyTo s d lat reg a) := by
  unfold flyTo
  split
  · exact quiet_ok (issueKept_fly ..)
  · exact quiet_ite (quiet_trap ..) (quiet_ok (issueKept_flown ..))

theorem quiet_result (lat : Nat) (w : RegWrite) : Quiet s (result s lat w) := quiet_flyTo ..

theorem quiet_resultF (lat : Nat) (w : RegWrite) (fl : Flags) (sh : Option (Nat × Ty)) : Quiet s (resultF s lat w fl sh) :=
  quiet_flyTo ..

theorem quiet_issueUntimed (j : Job) (r : Option Result) (o : Bool) (l : List Nat) (p : List Place) :
    Quiet s (issueUntimed s j r o l p) := quiet_ite (quiet_trap ..) (quiet_ok (issueKept_queued ..))

theorem quiet_checkPending (b : Buf) (off len : Nat) (w : Bool) (agent : Nat) : Quiet s (checkPending s b off len w agent) := by
  unfold checkPending
  split
  · exact quiet_self
  · exact quiet_trap ..

theorem quiet_checkPort (off len : Nat) : Quiet s (checkPort s off len) := by
  unfold checkPort
  split
  · exact quiet_self
  · exact quiet_trap ..

theorem quiet_commandRead (off len al : Nat) {f : Memory → Issue} (hf : ∀ m, Quiet s (f m)) :
    Quiet s (commandRead s off len al f) := by
  refine quiet_ite (quiet_trap ..) ?_
  unfold checkPort
  split
  · exact quiet_ite (quiet_trap ..) (hf _)
  · exact quiet_trap ..

theorem quiet_timedAt (a : BitVec 16) {f : State → Issue} (hf : Quiet s (f s)) : Quiet s (timedAt s a f) := quiet_unless hf ..

theorem quiet_userOnly (w : Nat) {f : State → Issue} (hf : Quiet s (f s)) : Quiet s (userOnly s w f) :=
  quiet_ite (quiet_trap ..) hf

theorem quiet_supervisorOnly {f : State → Issue} (hf : Quiet s (f s)) : Quiet s (supervisorOnly s f) :=
  quiet_ite hf (quiet_trap ..)

theorem quiet_startWait (k : WaitKind) : Quiet s (.ok (startWait s k)) := quiet_ok (issueKept_modHere (by constructor <;> simp))

end

/-- The outcome of an operation of a slot: `finish` of an operation that is quiet. -/
def AtIssue (s : State) (o : Host.Outcome State Fault Refusal) : Prop := ∃ r, o = finish s r ∧ Quiet s r

theorem atIssue_slot {s : State} {f : State → Issue} (h : Quiet s (f s)) : AtIssue s (finish s (withSlot s f)) :=
  ⟨_, rfl, quiet_ite h (quiet_trap ..)⟩

/-! ### The operations of the slots, class by class -/

section
variable {s : State}

theorem issueKept_registers {f : Ctx → Ctx} (h : ∀ c, SameRegisters c (f c)) : IssueKept s (modHere s f) := issueKept_modHere (h _)

theorem issueKept_posts (l : List Post) : IssueKept s { s with posts := l } :=
  ⟨fun _ => .refl _, ⟨fun _ => rfl, fun _ _ _ => rfl, fun _ => rfl, fun _ => rfl, fun _ => ⟨rfl, rfl, rfl, rfl⟩, fun _ => rfl,
    fun _ _ => rfl⟩, rfl⟩

theorem quiet_takeBranch (target : W64) (pops : Bool) : Quiet s (takeBranch s target pops) :=
  quiet_ite (quiet_trap _ _) (quiet_ok (issueKept_registers (fun _ => by constructor <;> simp)))

theorem quiet_jumpTo (target : W64) (pops : Bool) : Quiet s (jumpTo s target pops) := quiet_unless (quiet_takeBranch _ _) _ _ _

theorem atIssue_branchIf {n : Nat} (cond : Bool) (x : BitVec n) : AtIssue s (finish s (branchIf cond x s)) :=
  atIssue_slot (quiet_ite (quiet_takeBranch _ _) quiet_self)

theorem atIssue_call (x : BitVec 25) : AtIssue s (execCall x s) :=
  atIssue_slot (quiet_andThen (quiet_takeBranch _ _) fun _ => quiet_result _ _)

theorem atIssue_calli (d a : SReg) : AtIssue s (execCalli d a s) :=
  atIssue_slot (quiet_andThen (quiet_jumpTo _ _) fun _ => quiet_result _ _)

theorem atIssue_bsel (a b : SReg) : AtIssue s (execBsel a b s) := by
  refine atIssue_slot (quiet_ite (quiet_unless (quiet_andThen (quiet_takeBranch _ _) fun t => ?_) _ _ _)
    (quiet_andThen (quiet_andThen (quiet_takeBranch _ _) fun _ => quiet_checkPort _ _) fun t => ?_)) <;> exact quiet_flyTo _ _ _ _

theorem quiet_skipLoop (n : Fin 4) (p : Bool) (x : BitVec 13) : Quiet s (skipLoop s n p x) :=
  quiet_ite (quiet_trap _ _) (quiet_ite (quiet_trap _ _) (quiet_ok (issueKept_registers fun _ => by constructor <;> simp)))

theorem quiet_enterLoop (u : Option (Fin 4)) (p : Bool) {f : State → Issue} (hf : Quiet s (f s)) : Quiet s (enterLoop s u p f) :=
  quiet_ite (quiet_trap _ _) (quiet_ite (quiet_trap _ _) hf)

theorem issueKept_pushLoop (kd : LoopKind) (lc : Fin 4) (x : BitVec 13) (trip : W64) (st q : Nat) (p : PReg) :
    IssueKept s (pushLoop s kd lc x trip st q p) := issueKept_registers fun _ => by constructor <;> simp

theorem issueKept_startLoop (us : List (Nat × W64)) : IssueKept s (startLoop s us) :=
  issueKept_registers fun _ => by constructor <;> simp

theorem quiet_loopStarted (kd : LoopKind) (lc : Fin 4) (x : BitVec 13) (trip : W64) (st q : Nat) (p : PReg) (us : List (Nat × W64)) :
    Quiet s (.ok (startLoop (pushLoop s kd lc x trip st q p) us)) :=
  quiet_ok ((issueKept_pushLoop ..).trans (issueKept_startLoop _))

theorem atIssue_loop (a : SReg) (n : Fin 4) (x : BitVec 13) : AtIssue s (execLoop a n x s) :=
  atIssue_slot (quiet_ite (quiet_skipLoop _ _ _) (quiet_enterLoop _ _ (quiet_loopStarted ..)))

theorem atIssue_loopp (a : SReg) (n : Fin 4) (x : BitVec 13) (st : Fin 8) : AtIssue s (execLoopp a n x st s) :=
  atIssue_slot (quiet_ite (quiet_skipLoop _ _ _) (quiet_enterLoop _ _ (quiet_loopStarted ..)))

theorem atIssue_sloop (q : QueueIx) (p : PReg) (x : BitVec 13) : AtIssue s (execSloop q p x s) :=
  atIssue_slot (quiet_enterLoop _ _ (quiet_after (issueKept_pushLoop ..) (quiet_result _ _)))

/-- What sets the mask stack of the next bundle leaves the one of this bundle. -/
theorem quiet_maskNext (l : Option (List PWord)) : Quiet s (.ok (modHere s fun c => { c with maskNext := l })) :=
  quiet_ok (issueKept_registers fun _ => by constructor <;> simp)

theorem atIssue_mpush (a : PReg) : AtIssue s (execMpush a s) :=
  atIssue_slot (quiet_ite quiet_self (quiet_ite (quiet_trap _ _) (quiet_ok (issueKept_registers fun _ => by constructor <;> simp))))

theorem atIssue_minv : AtIssue s (execMinv s) := by
  refine atIssue_slot (quiet_ite quiet_self ?_)
  split
  · exact quiet_trap _ _
  · exact quiet_maskNext _

theorem atIssue_mpop : AtIssue s (execMpop s) := by
  refine atIssue_slot (quiet_ite quiet_self ?_)
  split
  · exact quiet_trap _ _
  · exact quiet_maskNext _

theorem atIssue_idle (n : BitVec 12) : AtIssue s (execIdle n s) :=
  atIssue_slot (quiet_ok (issueKept_registers fun _ => by constructor <;> simp))

theorem issueKept_startWait (k : WaitKind) : IssueKept s (startWait s k) := issueKept_registers fun _ => by constructor <;> simp

theorem atIssue_barinit (a b : SReg) : AtIssue s (execBarinit a b s) := atIssue_slot (quiet_ok (issueKept_fly _ _ _))

theorem atIssue_bararr (a : SReg) : AtIssue s (execBararr a s) :=
  atIssue_slot (quiet_ite (quiet_issueUntimed _ _ _ _ _) (quiet_trap _ _))

theorem atIssue_barwait (a b : SReg) : AtIssue s (execBarwait a b s) :=
  atIssue_slot (quiet_ite (quiet_startWait _) (quiet_trap _ _))

theorem issueKept_postMonitor (v n : Nat) : IssueKept s (postMonitor s v n) := issueKept_postHeld ..

theorem issueKept_nextFresh (n : Nat) : IssueKept s (nextFresh s n) :=
  ⟨fun _ => .refl _, ⟨fun _ => rfl, fun _ _ _ => rfl, fun _ => rfl, fun _ => rfl, fun _ => ⟨rfl, rfl, rfl, rfl⟩, fun _ => rfl,
    fun _ _ => rfl⟩, rfl⟩

theorem atIssue_waitm (d a b : SReg) (cc : Cmp) (w : Bool) (t : BitVec 16) : AtIssue s (execWaitm d a b cc w t s) :=
  atIssue_slot (quiet_ite (quiet_trap _ _) (quiet_ite (quiet_trap _ _) (quiet_ite (quiet_trap _ _)
    (quiet_ok (((issueKept_postMonitor ..).trans (issueKept_startWait _)).trans (issueKept_nextFresh _))))))

theorem atIssue_pcommit (a b : SReg) : AtIssue s (execPcommit a b s) :=
  atIssue_slot (quiet_andThen (quiet_unless (quiet_unless (quiet_ite (quiet_checkPort _ _) quiet_self) _ _ _) _ _ _)
    fun _ => quiet_ok ((issueKept_startWait _).trans (issueKept_fly _ _ _)))

theorem atIssue_getc (d : SReg) (i : BitVec 13) : AtIssue s (execGetc d i s) :=
  atIssue_slot (quiet_ite (quiet_trap _ _) (quiet_result _ _))

theorem atIssue_setc (a : SReg) (i : BitVec 13) : AtIssue s (execSetc a i s) :=
  atIssue_slot (quiet_ite (quiet_trap _ _) (quiet_ite
    (quiet_ite quiet_self (quiet_andThen (quiet_issueUntimed _ _ _ _ _) fun _ => quiet_result _ _))
    (quiet_ite (quiet_result _ _) quiet_self)))

theorem atIssue_trap (imm : BitVec 19) : AtIssue s (execTrap imm s) :=
  atIssue_slot (quiet_ok (issueKept_modCtx (by constructor <;> simp)))

theorem issueKept_modPins (l2 : Bool) (f : List (Nat × Nat × Nat) → List (Nat × Nat × Nat)) : IssueKept s (modPins s l2 f) := by
  unfold modPins
  split
  · exact issueKept_modCluster ⟨rfl, rfl⟩
  · exact issueKept_modCore (fun _ b => by cases b <;> rfl) (fun _ => ⟨rfl, rfl⟩) (fun _ => ⟨rfl, rfl, rfl, rfl⟩)

theorem atIssue_postAllow (m : Bool) (a b : SReg) (n : Bool) : AtIssue s (postAllow m a b n s) :=
  atIssue_slot (quiet_supervisorOnly (quiet_ite (quiet_trap _ _) (quiet_ok (issueKept_posts _))))

theorem atIssue_onCtx (a : SReg) {f : State → Nat → Issue} (hf : ∀ k, Quiet s (f s k)) : AtIssue s (onCtx a s f) := by
  refine atIssue_slot (quiet_supervisorOnly ?_)
  split
  · exact quiet_trap _ _
  · exact hf _

theorem atIssue_gfreeze (d a : SReg) : AtIssue s (execGfreeze d a s) :=
  atIssue_onCtx a fun k => quiet_andThen (quiet_issueUntimed _ _ _ _ _) fun _ => quiet_ok (issueKept_postPre _ k)

theorem issueKept_thawHalted (k from_ : Nat) : IssueKept s (thawHalted s k from_) := by
  unfold thawHalted
  split
  · exact issueKept_modCtx (by constructor <;> simp)
  · exact .refl s

theorem atIssue_gthaw (a b : SReg) : AtIssue s (execGthaw a b s) := by
  refine atIssue_onCtx a fun k => ?_
  simp only
  split
  · exact quiet_ite (quiet_ok ((issueKept_clearGroup ..).trans (issueKept_clearGroup ..))) quiet_self
  · exact quiet_ok (issueKept_thawHalted _ _)

theorem atIssue_tlbinv (a b : SReg) (k : TlbKind) : AtIssue s (execTlbinv a b k s) :=
  atIssue_slot (quiet_supervisorOnly (quiet_issueUntimed _ _ _ _ _))

theorem atIssue_msgsend (a b : SReg) : AtIssue s (execMsgsend a b s) :=
  atIssue_slot (quiet_supervisorOnly (quiet_commandRead _ _ _ fun _ => quiet_issueUntimed _ _ _ _ _))

theorem issueKept_postTrapHalt (k : Nat) : IssueKept s (postTrapHalt s k) := by
  unfold postTrapHalt
  simp only
  split
  · exact issueKept_postCtxFault ..
  · exact .refl s

theorem atIssue_halt : AtIssue s (execHalt s) :=
  atIssue_slot (quiet_supervisorOnly (quiet_ok ((issueKept_registers fun _ => by constructor <;> simp).trans
    (issueKept_postTrapHalt _))))

theorem atIssue_scalarOp (lat occ : Nat) (d : SReg) (x : W64) : AtIssue s (scalarOp lat occ d x s) :=
  atIssue_slot (quiet_after (issueKept_occupy _ _) (quiet_result _ _))

theorem quiet_dmAccess (addr n : Nat) (w : Bool) {f : State → Issue} (hf : ∀ t, Quiet t (f t)) : Quiet s (dmAccess s addr n w f) :=
  quiet_unless (quiet_andThen (quiet_checkPending _ _ _ _ _) hf) _ _ _

theorem atIssue_ld (d a b : SReg) (sx : Bool) (sz : Sz) : AtIssue s (execLd d a b sx sz s) :=
  atIssue_slot (quiet_dmAccess _ _ _ fun _ => quiet_flyTo _ _ _ _)

theorem atIssue_st (d a b : SReg) (sz : Sz) : AtIssue s (execSt d a b sz s) :=
  atIssue_slot (quiet_dmAccess _ _ _ fun _ => quiet_ok (issueKept_fly _ _ _))

theorem atIssue_amoDm (op : AmoOp) (d a b : SReg) (sx : Bool) (sz : Sz) : AtIssue s (amoDm op d a b sx sz s) :=
  atIssue_slot (quiet_dmAccess _ _ _ fun _ => quiet_flyTo _ _ _ _)

theorem quiet_globalAccess (v n : Nat) (al : MemKind → Bool) (w : Bool) (j : Job) (r : Option Result) (o : Bool) :
    Quiet s (globalAccess s v n al w j r o) :=
  quiet_unless (quiet_unless (quiet_andThen (quiet_after (issueKept_postHeld ..) (quiet_issueUntimed _ _ _ _ _))
    fun _ => quiet_ok (issueKept_markHeld _ _)) _ _ _) _ _ _

theorem atIssue_ldg (d a b : SReg) (sx : Bool) (sz : Sz) : AtIssue s (execLdg d a b sx sz s) :=
  atIssue_slot (quiet_globalAccess _ _ _ _ _ _ _)

theorem atIssue_stg (d a b : SReg) (sz : Sz) : AtIssue s (execStg d a b sz s) := atIssue_slot (quiet_globalAccess _ _ _ _ _ _ _)

theorem atIssue_amoGlobal (op : AmoOp) (d a b : SReg) (sc : Scope) (sx : Bool) (sz : Sz) :
    AtIssue s (amoGlobal op d a b sc sx sz s) := atIssue_slot (quiet_globalAccess _ _ _ _ _ _ _)

theorem atIssue_fatom (d a b : SReg) (op : AmoOp) (z sx sys : Bool) : AtIssue s (execFatom d a b op z sx sys s) :=
  atIssue_slot (quiet_after (issueKept_reserve _ _) (quiet_globalAccess _ _ _ _ _ _ _))

theorem atIssue_gset (d : GReg) (a b : SReg) : AtIssue s (execGset d a b s) :=
  atIssue_slot (quiet_unless (quiet_andThen (quiet_checkPending _ _ _ _ _) fun _ => quiet_flyTo _ _ _ _) _ _ _)

theorem atIssue_vecOp (d : VReg) (t : Ty) (p : PReg) (lat : Nat) (sh : Bool) (f : Ctx → Nat → Nat × Flags) :
    AtIssue s (vecOp d t p lat sh f s) := atIssue_slot (quiet_resultF _ _ _ _)

theorem atIssue_predOp (d : PReg) (t : Ty) (p : PReg) (f : Ctx → Nat → Bool × Flags) : AtIssue s (predOp d t p f s) :=
  atIssue_slot (quiet_resultF _ _ _ _)

theorem atIssue_vsel (d : VReg) (a b : VSrc) (p : PReg) (t : Ty) : AtIssue s (execVsel d a b p t s) :=
  atIssue_slot (quiet_resultF _ _ _ _)

theorem atIssue_vcvt (d a : VReg) (p : PReg) (t : Ty) (x : CvtArgs) : AtIssue s (execVcvt d a p t x s) :=
  atIssue_slot (quiet_resultF _ _ _ _)

theorem atIssue_sfuOp (op : Sfu) (d : VReg) (a : VSrc) (p : PReg) (t : Ty) : AtIssue s (sfuOp op d a p t s) :=
  atIssue_slot (quiet_after (issueKept_occupy _ _) (quiet_resultF _ _ _ _))

theorem atIssue_vred (d a : VReg) (op : RedOp) (p : PReg) (t : Ty) : AtIssue s (execVred d a op p t s) :=
  atIssue_slot (quiet_resultF _ _ _ _)

theorem atIssue_vscan (d a : VReg) (op : RedOp) (e : Bool) (p : PReg) (t : Ty) : AtIssue s (execVscan d a op e p t s) :=
  atIssue_slot (quiet_resultF _ _ _ _)

theorem atIssue_vins (d : VReg) (a b : Fin 32) (p : PReg) (t : Ty) : AtIssue s (execVins d a b p t s) :=
  atIssue_slot (quiet_result _ _)

theorem atIssue_vext (d : Fin 32) (a : VReg) (b : Fin 32) (p : PReg) (t : Ty) : AtIssue s (execVext d a b p t s) :=
  atIssue_slot (quiet_result _ _)

theorem atIssue_pairWrite (d : VReg) (p : PReg) (t : Ty) (f g : Ctx → Nat → Nat) : AtIssue s (pairWrite d p t f g s) :=
  atIssue_slot (quiet_andThen (quiet_result _ _) fun _ => quiet_result _ _)

theorem atIssue_vtopk (d a : VReg) (k : BitVec 8) (m : Bool) (p : PReg) (t : Ty) : AtIssue s (execVtopk d a k m p t s) :=
  atIssue_slot (quiet_andThen (quiet_after (issueKept_occupy _ _) (quiet_resultF _ _ _ _)) fun _ => quiet_result _ _)

theorem atIssue_vhacc (a : VReg) (b : VSrc) (p : PReg) (t : Ty) (x : HaccArgs) : AtIssue s (execVhacc a b p t x s) :=
  atIssue_slot (quiet_unless (quiet_unless (quiet_issueUntimed _ _ _ _ _) _ _ _) _ _ _)

theorem atIssue_vnest (x : NestArgs) : AtIssue s (execVnest x s) := by
  refine atIssue_slot (quiet_ite (quiet_trap _ _) ?_)
  extract_lets steps
  split
  · exact quiet_trap _ _
  · exact quiet_ite (quiet_trap _ _)
      (quiet_ok ((issueKept_reserve _ _).trans (issueKept_registers fun _ => by constructor <;> simp)))

theorem atIssue_unpackOp (d a : VReg) (p : PReg) (t : Ty) (x : PackArgs) (f : Ctx → Nat → Nat → Nat × Flags) :
    AtIssue s (unpackOp d a p t x f s) := atIssue_slot (quiet_resultF _ _ _ _)

theorem quiet_packResult (d : VReg) (x : VWord) (fl : Flags) : Quiet s (packResult s d x fl) := quiet_resultF _ _ _ _

theorem atIssue_vpack (d a : VReg) (p : PReg) (t : Ty) (x : PackArgs) : AtIssue s (execVpack d a p t x s) :=
  atIssue_slot (quiet_packResult _ _ _)

theorem atIssue_packPair (d a : VReg) (p : PReg) (t : Ty) (x : PackArgs) (n : Nat)
    (f : Ctx → List Num → Nat × List (Nat × Flags)) : AtIssue s (packPair d a p t x n f s) :=
  atIssue_slot (quiet_andThen (quiet_packResult _ _ _) fun _ => quiet_packResult _ _ _)

theorem atIssue_predResult (d : PReg) (f : Ctx → PWord) : AtIssue s (predResult d f s) := atIssue_slot (quiet_result _ _)

theorem quiet_vmAccess (d : VReg) (b : Buf) (w al : Bool) (cells : List (Nat × Nat)) : Quiet s (vmAccess s d b w al cells) := by
  refine quiet_unless ?_ _ _ _
  split
  · exact quiet_trap _ _
  · exact quiet_ite (quiet_ok (issueKept_fly _ _ _)) (quiet_flyTo _ _ _ _)

theorem atIssue_vmPlain (w : Bool) (d : VReg) (p : PReg) (t : Ty) (x : VmArgs) : AtIssue s (vmPlain w d p t x s) :=
  atIssue_slot (quiet_vmAccess _ _ _ _ _)

theorem atIssue_vmStrided (w : Bool) (d : VReg) (st : Fin 32) (p : PReg) (t : Ty) (x : VmArgs) :
    AtIssue s (vmStrided w d st p t x s) := atIssue_slot (quiet_vmAccess _ _ _ _ _)

theorem atIssue_vmIndexed (w : Bool) (d a : VReg) (p : PReg) (t : Ty) (x : VmArgs) : AtIssue s (vmIndexed w d a p t x s) :=
  atIssue_slot (quiet_vmAccess _ _ _ _ _)

theorem atIssue_vldb (d : VReg) (p : PReg) (t : Ty) (x : VmArgs) : AtIssue s (execVldb d p t x s) :=
  atIssue_slot (quiet_vmAccess _ _ _ _ _)

theorem quiet_mmaStart (t : TileIx) (ga gb : GReg) (nk start : Nat) (z : Bool) (slot : Nat) :
    Quiet s (mmaStart s t ga gb nk start z slot) :=
  quiet_unless (quiet_unless (quiet_unless (quiet_unless (quiet_unless (quiet_andThen (quiet_result _ _) fun _ =>
    quiet_andThen (quiet_result _ _) fun _ => quiet_ok ((issueKept_reserve _ _).trans (issueKept_fly _ _ _))) _ _ _) _ _ _) _ _ _)
      _ _ _) _ _ _

theorem atIssue_mma (t : TileIx) (ga gb : GReg) (a n : BitVec 16) : AtIssue s (execMma t ga gb a n s) :=
  atIssue_slot (quiet_timedAt _ (quiet_mmaStart _ _ _ _ _ _ _))

theorem atIssue_mmaz (t : TileIx) (ga gb : GReg) (a n : BitVec 16) : AtIssue s (execMmaz t ga gb a n s) :=
  atIssue_slot (quiet_timedAt _ (quiet_mmaStart _ _ _ _ _ _ _))

theorem atIssue_mmag (d : SReg) (ga gb : GReg) (g : BitVec 12) : AtIssue s (execMmag d ga gb g s) := by
  refine atIssue_slot (quiet_ite quiet_self (quiet_commandRead _ _ _ fun m => ?_))
  simp only
  split
  · exact quiet_trap _ _
  · exact quiet_after (issueKept_reserve _ _) (quiet_issueUntimed _ _ _ _ _)

theorem atIssue_mmas (q : QueueIx) (ga gb : GReg) : AtIssue s (execMmas q ga gb s) :=
  atIssue_slot (quiet_unless (quiet_unless (quiet_after (issueKept_reserve _ _) (quiet_issueUntimed _ _ _ _ _)) _ _ _) _ _ _)

theorem quiet_drainChecks (t : TileIx) (off : Nat) (f : Fmt) (rows : Nat) (w : Bool) (agent : Nat) (poison : Bool) {r : Issue}
    (hr : Quiet s r) : Quiet s (drainChecks s t off f rows w agent poison r) :=
  quiet_unless (quiet_unless (quiet_unless (quiet_unless hr _ _ _) _ _ _) _ _ _) _ _ _

theorem atIssue_tdrain (t : TileIx) (rm : RmSel) (b : SReg) (f : Fmt) (ov : Ovf) (a : BitVec 16) (rows : BitVec 8) :
    AtIssue s (execTdrain t rm b f ov a rows s) :=
  atIssue_slot (quiet_timedAt _ (quiet_drainChecks _ _ _ _ _ _ _ (quiet_ok (issueKept_fly _ _ _))))

theorem atIssue_tload (t : TileIx) (b : SReg) (f : Fmt) (a : BitVec 16) (rows : BitVec 8) : AtIssue s (execTload t b f a rows s) :=
  atIssue_slot (quiet_timedAt _ (quiet_drainChecks _ _ _ _ _ _ _ (quiet_ok (issueKept_fly _ _ _))))

theorem atIssue_tileOp (t : TileIx) (agent : Nat) (act : Ctx → Act) : AtIssue s (tileOp t agent act s) :=
  atIssue_slot (quiet_unless (quiet_unless (quiet_ok (issueKept_fly _ _ _)) _ _ _) _ _ _)

theorem atIssue_tstat (d : SReg) (t : TileIx) (c : Bool) : AtIssue s (execTstat d t c s) := by
  refine atIssue_slot (quiet_andThen (quiet_result _ _) fun u => ?_)
  cases c
  · exact quiet_self
  · exact quiet_ok (issueKept_fly _ _ _)

theorem quiet_copyStart (r : CopyRun) : Quiet s (copyStart s r) :=
  quiet_unless (quiet_unless (quiet_unless (quiet_ok ((issueKept_reserve _ _).trans (issueKept_fly _ _ _))) _ _ _) _ _ _) _ _ _

theorem atIssue_copy (d a b : SReg) (e : Bool) (buf : Buf) (out map : Bool) (at_ n : BitVec 16) :
    AtIssue s (execCopy d a b e buf out map at_ n s) :=
  atIssue_slot (quiet_timedAt _ (quiet_ite (quiet_commandRead _ _ _ fun _ => quiet_unless (quiet_copyStart _) _ _ _)
    (quiet_copyStart _)))

theorem quiet_followStart (w : W64) (r : CopyRun) : Quiet s (followStart s w r) := quiet_mmaStart _ _ _ _ _ _ _

theorem atIssue_copym (d a b : SReg) (e : Bool) (buf : Buf) (map : Bool) (at_ n : BitVec 16) :
    AtIssue s (execCopym d a b e buf map at_ n s) :=
  atIssue_slot (quiet_timedAt _ (quiet_commandRead _ _ _ fun _ => quiet_unless (quiet_unless
    (quiet_andThen (quiet_copyStart _) fun _ => quiet_followStart _ _) _ _ _) _ _ _))

theorem atIssue_fill (a b : SReg) (e : Bool) (buf : Buf) (at_ n : BitVec 16) : AtIssue s (execFill a b e buf at_ n s) :=
  atIssue_slot (quiet_timedAt _ (quiet_unless (quiet_unless
    (quiet_ok ((issueKept_reserve _ _).trans (issueKept_fly _ _ _))) _ _ _) _ _ _))

theorem issueKept_heldTransfer (job : Job) (h : Option (Nat × Nat)) :
    IssueKept s (match h with | some (a, n) => postHeld s job a n | none => s) := by
  cases h
  · exact .refl s
  · exact issueKept_postHeld ..

theorem quiet_transfer (b : Buf) (off len al : Nat) (ok bad va : Bool) (draw : Nat) (addrs : List Nat) (sub : Option Nat)
    (unit : Nat) (w : Bool) (job : Job) : Quiet s (transfer s b off len al ok bad va draw addrs sub unit w job) := by
  refine quiet_unless (quiet_unless ?_ _ _ _) _ _ _
  split
  · exact quiet_trap _ _
  · exact quiet_andThen (quiet_after ((issueKept_heldTransfer _ _).trans (issueKept_reserve _ _)) (quiet_issueUntimed _ _ _ _ _))
      fun _ => quiet_ok (issueKept_markHeld _ _)

theorem atIssue_gatherOp (sc : Bool) (d a b : SReg) (l : Fin 9) (buf : Buf) (iw : Bool) (n : BitVec 16) :
    AtIssue s (gatherOp sc d a b l buf iw n s) :=
  atIssue_slot (quiet_commandRead _ _ _ fun _ => quiet_transfer ..)

theorem atIssue_xsend (a b : SReg) (buf : Buf) (at_ n : BitVec 16) : AtIssue s (execXsend a b buf at_ n s) :=
  atIssue_slot (quiet_timedAt _ (quiet_unless (quiet_ok ((issueKept_reserve _ _).trans (issueKept_fly _ _ _))) _ _ _))

theorem atIssue_xrecv (a b : SReg) (buf : Buf) (at_ n : BitVec 16) : AtIssue s (execXrecv a b buf at_ n s) :=
  atIssue_slot (quiet_timedAt _ (quiet_unless (quiet_unless (quiet_ok (issueKept_fly _ _ _)) _ _ _) _ _ _))

theorem atIssue_wstart (a b : SReg) (q : QueueIx) : AtIssue s (execWstart a b q s) :=
  atIssue_slot (quiet_ite (quiet_trap _ _) (quiet_andThen (quiet_after (issueKept_reserve _ _) (quiet_issueUntimed _ _ _ _ _))
    fun _ => quiet_ok (issueKept_modCluster ⟨rfl, rfl⟩)))

theorem atIssue_launch (a : SReg) : AtIssue s (execLaunch a s) :=
  atIssue_slot (quiet_unless (quiet_andThen (quiet_ite (quiet_checkPort _ _) quiet_self) fun _ => quiet_ok (issueKept_fly _ _ _))
    _ _ _)

theorem atIssue_signal (a b : SReg) (msi : Bool) (v : BitVec 11) : AtIssue s (execSignal a b msi v s) :=
  atIssue_slot (quiet_unless (quiet_unless (quiet_andThen (quiet_after (issueKept_postHeld ..) (quiet_issueUntimed _ _ _ _ _))
    fun _ => quiet_ok (issueKept_markHeld _ _)) _ _ _) _ _ _)

theorem atIssue_untimed {j : State → Job} {r : State → Option Result} {o : Bool} {l : List Nat} {p : List Place} :
    AtIssue s (finish s (withSlot s fun s => issueUntimed s (j s) (r s) o l p)) := atIssue_slot (quiet_issueUntimed _ _ _ _ _)

theorem atIssue_wait (k : WaitKind) : AtIssue s (finish s (withSlot s fun s => .ok (startWait s k))) := atIssue_slot (quiet_startWait k)

theorem atIssue_result {lat : Nat} {w : State → RegWrite} : AtIssue s (finish s (withSlot s fun s => result s lat (w s))) :=
  atIssue_slot (quiet_result _ _)

end

theorem exec_atIssue_br (s : State) {i : Instr} (h : slotOf i = some .br) : AtIssue s (exec i s) := by
  cases i with
  | b | bz | bnz | beq | bne | blt | bge | bltn | bgen | bany | bnone | bmz => exact atIssue_branchIf _ _
  | call => exact atIssue_call _
  | calli => exact atIssue_calli _ _
  | jmpi => exact atIssue_slot (quiet_jumpTo _ _)
  | loop => exact atIssue_loop _ _ _
  | loopp => exact atIssue_loopp _ _ _ _
  | sloop => exact atIssue_sloop _ _ _
  | bsel => exact atIssue_bsel _ _
  | mpush => exact atIssue_mpush _
  | minv => exact atIssue_minv
  | mpop => exact atIssue_mpop
  | idle => exact atIssue_idle _
  | endTask | yield | csync => exact atIssue_slot (quiet_userOnly _ (quiet_startWait _))
  | waite | waitq | pbar => exact atIssue_wait _
  | waitm => exact atIssue_waitm _ _ _ _ _ _
  | barinit => exact atIssue_barinit _ _
  | bararr => exact atIssue_bararr _
  | barwait => exact atIssue_barwait _ _
  | fence => exact atIssue_untimed
  | pcommit => exact atIssue_pcommit _ _
  | getc => exact atIssue_getc _ _
  | setc => exact atIssue_setc _ _
  | trap => exact atIssue_trap _
  | rte => exact atIssue_slot (quiet_supervisorOnly (quiet_startWait _))
  | ipf => exact atIssue_slot quiet_self
  | ipin | iunpin => exact atIssue_slot (quiet_ok (issueKept_modPins _ _))
  | setallow | setallowMode => exact atIssue_postAllow _ _ _ _
  | ctxsave | ctxload | segload => exact atIssue_onCtx _ fun _ => quiet_issueUntimed _ _ _ _ _
  | gfreeze => exact atIssue_gfreeze _ _
  | gthaw => exact atIssue_gthaw _ _
  | tlbinv => exact atIssue_tlbinv _ _ _
  | msgsend => exact atIssue_msgsend _ _
  | halt => exact atIssue_halt
  | _ => cases h

theorem exec_atIssue_s0 (s : State) {i : Instr} (h : slotOf i = some .s0) : AtIssue s (exec i s) := by
  cases i with
  | add | sub | addi | mul | mulh | mulhn | madd | div | divn | rem | remn | and | or | xor | andi | ori | xori | shl | shr |
  sar | shli | shri | sari | slt | sltn | seq | slti | sel | min | max | minn | maxn | li | lih | clz | popc | exts | extz |
  ins | ceilm | divc =>
    exact atIssue_scalarOp _ _ _ _
  | _ => cases h

theorem exec_atIssue_ls (s : State) {i : Instr} (h : slotOf i = some .ls) : AtIssue s (exec i s) := by
  cases i with
  | ld => exact atIssue_ld _ _ _ _ _
  | st => exact atIssue_st _ _ _ _
  | ldg => exact atIssue_ldg _ _ _ _ _
  | stg => exact atIssue_stg _ _ _ _
  | amoaddDm | amominDm | amomaxDm | amominnDm | amomaxnDm | amoandDm | amoorDm | amoxorDm | amoswapDm | amocasDm =>
    exact atIssue_amoDm _ _ _ _ _ _
  | amoaddGlobal | amominGlobal | amomaxGlobal | amominnGlobal | amomaxnGlobal | amoandGlobal | amoorGlobal | amoxorGlobal |
  amoswapGlobal | amocasGlobal =>
    exact atIssue_amoGlobal _ _ _ _ _ _ _
  | _ => cases h

theorem exec_atIssue_ag (s : State) {i : Instr} (h : slotOf i = some .ag) : AtIssue s (exec i s) := by
  cases i with
  | gset => exact atIssue_gset _ _ _
  | gsetf | gget | gadv | grst | gmask | gcopy => exact atIssue_result
  | _ => cases h

theorem exec_atIssue_v0 (s : State) {i : Instr} (h : slotOf i = some .v0) : AtIssue s (exec i s) := by
  cases i with
  | vadd | vsub | vmul | vmin | vmax | vscale | vfma | vfms | vfnma | vabs | vneg | vnot | vclamp | vmov | viota | vand | vor
  | vxor | vshl | vshr | vsar | vmulh | vbcast | vperm | vrot =>
    simp only [exec, execVadd, execVsub, execVmul, execVmin, execVmax, execVscale, execVfma, execVfms, execVfnma, execVabs,
      execVneg, execVnot, execVclamp, execVmov, execViota, execVand, execVor, execVxor, execVshl, execVshr, execVsar,
      execVmulh, execVbcast, execVperm, execVrot, vec2, vec3, vecLogic, vecInt, permute]
    exact atIssue_vecOp _ _ _ _ _ _
  | vcmpeq | vcmpne | vcmplt | vcmple | vclass =>
    simp only [exec, execVcmpeq, execVcmpne, execVcmplt, execVcmple, execVclass]
    exact atIssue_predOp _ _ _ _
  | vsel => exact atIssue_vsel _ _ _ _ _
  | vins => exact atIssue_vins _ _ _ _ _
  | vext d a b p t => exact atIssue_vext d a b p t
  | vcvt => exact atIssue_vcvt _ _ _ _ _
  | vrcp | vrsq | vsqrt | vexp2 | vlog2 | vtanh | vsin =>
    simp only [exec, execVrcp, execVrsq, execVsqrt, execVexp2, execVlog2, execVtanh, execVsin]
    exact atIssue_sfuOp _ _ _ _ _
  | vred => exact atIssue_vred _ _ _ _ _
  | vscan => exact atIssue_vscan _ _ _ _ _ _
  | vzip | vunzip =>
    simp only [exec, execVzip, execVunzip]
    exact atIssue_pairWrite _ _ _ _ _
  | vtopk => exact atIssue_vtopk _ _ _ _ _ _
  | vhacc => exact atIssue_vhacc _ _ _ _ _
  | vnest => exact atIssue_vnest _
  | _ => cases h

theorem exec_atIssue_vx (s : State) {i : Instr} (h : slotOf i = some .vx) : AtIssue s (exec i s) := by
  cases i with
  | vunpk | vunpks | vunpkz =>
    simp only [exec, execVunpk, execVunpks, execVunpkz]
    exact atIssue_unpackOp _ _ _ _ _ _
  | _ => cases h

theorem exec_atIssue_vp (s : State) {i : Instr} (h : slotOf i = some .vp) : AtIssue s (exec i s) := by
  cases i with
  | pget | pcnt => exact atIssue_result
  | vpack => exact atIssue_vpack _ _ _ _ _
  | vpacksc | vpackz =>
    simp only [exec, execVpacksc, execVpackz]
    exact atIssue_packPair _ _ _ _ _ _ _
  | pand | por | pxor | pnot | psetHalf | psetL16 | psetL32 =>
    simp only [exec, execPand, execPor, execPxor, execPnot, execPsetHalf, execPsetL16, execPsetL32]
    exact atIssue_predResult _ _
  | _ => cases h

theorem exec_atIssue_vm (s : State) {i : Instr} (h : slotOf i = some .vm) : AtIssue s (exec i s) := by
  cases i with
  | vld | vst => exact atIssue_vmPlain _ _ _ _ _
  | vlds | vsts => exact atIssue_vmStrided _ _ _ _ _ _
  | vldx | vstx => exact atIssue_vmIndexed _ _ _ _ _ _
  | vldb => exact atIssue_vldb _ _ _ _
  | _ => cases h

theorem exec_atIssue_mx (s : State) {i : Instr} (h : slotOf i = some .mx) : AtIssue s (exec i s) := by
  cases i with
  | precset => exact atIssue_result
  | mma => exact atIssue_mma _ _ _ _ _
  | mmaz => exact atIssue_mmaz _ _ _ _ _
  | mmag => exact atIssue_mmag _ _ _ _
  | mmas => exact atIssue_mmas _ _ _
  | tdrain => exact atIssue_tdrain _ _ _ _ _ _ _
  | tload => exact atIssue_tload _ _ _ _ _
  | tclr | tmask =>
    simp only [exec, execTclr, execTmask]
    exact atIssue_tileOp _ _ _
  | tstat => exact atIssue_tstat _ _ _
  | _ => cases h

theorem exec_atIssue_ec (s : State) {i : Instr} (h : slotOf i = some .ec) (hw : i ≠ .wstop) : AtIssue s (exec i s) := by
  cases i with
  | qsend | qrecv => exact atIssue_untimed
  | copy => exact atIssue_copy _ _ _ _ _ _ _ _ _
  | copym => exact atIssue_copym _ _ _ _ _ _ _ _
  | fill => exact atIssue_fill _ _ _ _ _ _
  | gather | scatter => exact atIssue_gatherOp _ _ _ _ _ _ _ _
  | xsend => exact atIssue_xsend _ _ _ _ _
  | xrecv => exact atIssue_xrecv _ _ _ _ _
  | fput | fget | dput | dget => exact atIssue_slot (quiet_transfer ..)
  | fatom => exact atIssue_fatom _ _ _ _ _ _ _
  | wstart => exact atIssue_wstart _ _ _
  | launch => exact atIssue_launch _
  | signal => exact atIssue_signal _ _ _ _
  | wstop => exact absurd rfl hw
  | _ => cases h

/-- No operation has S1 or V1 for its own slot: their words are those of S0 and V0. -/
theorem slotOf_ne_second {i : Instr} : slotOf i ≠ some .s1 ∧ slotOf i ≠ some .v1 := by
  cases i <;> exact ⟨nofun, nofun⟩

/-- Every operation of a slot but WSTOP leaves registers, stores and time alone where it raises nothing. -/
theorem exec_atIssue (s : State) {i : Instr} (h : slotOf i ≠ none) (hw : i ≠ .wstop) : AtIssue s (exec i s) := by
  cases hs : slotOf i with
  | none => exact absurd hs h
  | some sl =>
    cases sl with
    | br => exact exec_atIssue_br s hs
    | s0 => exact exec_atIssue_s0 s hs
    | ls => exact exec_atIssue_ls s hs
    | ag => exact exec_atIssue_ag s hs
    | v0 => exact exec_atIssue_v0 s hs
    | vx => exact exec_atIssue_vx s hs
    | vp => exact exec_atIssue_vp s hs
    | vm => exact exec_atIssue_vm s hs
    | mx => exact exec_atIssue_mx s hs
    | ec => exact exec_atIssue_ec s hs hw
    | s1 => exact absurd hs slotOf_ne_second.1
    | v1 => exact absurd hs slotOf_ne_second.2

/-- WSTOP puts nothing into a queue where every walk of its context has begun. -/
theorem atIssue_wstop (s : State) (h : ∀ w ∈ (clusterOf s (clusIx s.cur)).startQ, w.ctx = s.cur → w.begun = true) :
    AtIssue s (execWstop s) := by
  have hf : (clusterOf s (clusIx s.cur)).startQ.filter (fun w => w.ctx == s.cur && !w.begun) = [] := by
    simpa [List.filter_eq_nil_iff] using h
  refine atIssue_slot ?_
  simp only [hf, List.foldl_nil]
  exact quiet_ok (issueKept_modCluster ⟨rfl, rfl⟩)

/-- Settles O10: an operation at issue is `finish` of an operation that is quiet. -/
theorem issueWritesNothing : Obligations.IssueWritesNothing := by
  intro i s t hi _ he ht hw
  have h : AtIssue s (exec i s) := by
    by_cases hs : i = .wstop
    · subst hs
      exact atIssue_wstop s (hw rfl)
    · exact exec_atIssue s hi hs
  obtain ⟨r, hr, hq⟩ := h
  rw [hr] at he
  cases r with
  | trap c v =>
    cases he
    rw [raiseAtIssue_issueFault] at ht
    cases ht
  | ok u =>
    obtain rfl : u = t := by simpa using he
    obtain ⟨hregs, hstores, hgcc⟩ := hq.kept u rfl
    exact ⟨hregs, hstores, hgcc⟩

end Sys2Proof.Machine
end

section
/-! PROOFS. What decodes in a slot, and what the cycle's operations leave of GCC (R25, R144–R161). -/

namespace Sys2Proof.Machine

/-! ### What decodes in a slot is an operation of a slot -/

/-- Where these words decode, they are an operation of a slot. -/
structure OfSlot (d : Decoded) : Prop where
  slot : ∀ i, d = .ok i → slotOf i ≠ none

@[simp] theorem ofSlot_ok {i : Instr} : OfSlot (.ok i) ↔ slotOf i ≠ none :=
  ⟨fun h => h.slot i rfl, fun h => ⟨fun j hj => by cases hj; exact h⟩⟩

@[simp] theorem ofSlot_error (e : Nat × Nat) : OfSlot (.error e) := ⟨fun _ h => by cases h⟩

@[simp] theorem ofSlot_ite {p : Prop} [Decidable p] {a b : Decoded} : OfSlot (if p then a else b) ↔ (p → OfSlot a) ∧ (¬p → OfSlot b) := by
  split <;> simp_all

@[simp] theorem ofSlot_need {ok : Bool} {ix reason : Nat} {k : Decoded} : OfSlot (need ok ix reason k) ↔ (ok = true → OfSlot k) := by
  unfold need
  simp

@[simp] theorem ofSlot_needSome {α : Type} {x : Option α} {ix reason : Nat} {k : α → Decoded} :
    OfSlot (needSome x ix reason k) ↔ ∀ a, x = some a → OfSlot (k a) := by
  unfold needSome
  cases x <;> simp

theorem ofSlot_shapeAmo {w : Nat} {dm : SReg → SReg → SReg → Bool → Sz → Instr} {gl : SReg → SReg → SReg → Scope → Bool → Sz → Instr}
    (hd : ∀ d a b sx sz, slotOf (dm d a b sx sz) ≠ none) (hg : ∀ d a b sc sx sz, slotOf (gl d a b sc sx sz) ≠ none) :
    OfSlot (shapeAmo w dm gl) := by
  simp only [shapeAmo, ofSlot_need, ofSlot_ite, ofSlot_needSome, ofSlot_ok]
  exact fun _ => ⟨fun _ _ _ _ => hg _ _ _ _ _ _, fun _ _ => hd _ _ _ _ _⟩

theorem ofSlot_decodeBr (w x : Nat) : OfSlot (decodeBr w x) := by
  unfold decodeBr
  split <;> simp only [shapeB1, shapeB2, shapeBp, shapeLoop, shapeDAB, shapeDA, shapeAB, shapeA, shape0, ofSlot_ok, ofSlot_error,
    ofSlot_need, ofSlot_needSome, apply_ite slotOf] <;> intros
  case h_43 => split <;> exact Option.some_ne_none _
  all_goals exact Option.some_ne_none _

theorem ofSlot_decodeS (w : Nat) : OfSlot (decodeS w) := by
  unfold decodeS
  split <;> simp only [shapeDAB, shapeDA, shapeI, shapeK, shapeX, ofSlot_ok, ofSlot_error, ofSlot_need] <;>
    intros <;> exact Option.some_ne_none _

theorem ofSlot_decodeLs (w : Nat) : OfSlot (decodeLs w) := by
  unfold decodeLs
  split
  case h_1 | h_2 | h_3 | h_4 =>
    simp only [shapeLd, shapeSt, ofSlot_ok, ofSlot_need]
    exact fun _ => Option.some_ne_none _
  case h_15 => exact ofSlot_error _
  all_goals exact ofSlot_shapeAmo (fun _ _ _ _ _ => Option.some_ne_none _) fun _ _ _ _ _ _ => Option.some_ne_none _

theorem ofSlot_decodeAg (w : Nat) : OfSlot (decodeAg w) := by
  unfold decodeAg
  split <;> simp only [ofSlot_ok, ofSlot_error, ofSlot_need] <;> intros <;> exact Option.some_ne_none _

theorem ofSlot_decodeV (ws : List Nat) : OfSlot (decodeV ws) := by
  unfold decodeV
  dsimp only
  split <;> simp only [shapeV, shapeV2, shapeV1, shapeVc, shapeVv, shapeVs, shapeVss, shapeRed, decodeVcvt, decodeVnest, ofSlot_ok,
    ofSlot_error, ofSlot_need, ofSlot_needSome] <;> intros <;> exact Option.some_ne_none _

theorem ofSlot_decodeVx (w x : Nat) : OfSlot (decodeVx w x) := by
  unfold decodeVx
  split <;> simp only [packExt, shapeV, ofSlot_ok, ofSlot_error, ofSlot_need, ofSlot_needSome] <;>
    intros <;> exact Option.some_ne_none _

theorem ofSlot_decodePset (w : Nat) : OfSlot (decodePset w) := by
  unfold decodePset
  split <;> simp only [ofSlot_ok, ofSlot_need] <;> exact fun _ _ => Option.some_ne_none _

theorem ofSlot_decodeVp (w x : Nat) : OfSlot (decodeVp w x) := by
  unfold decodeVp
  split
  case h_8 => exact ofSlot_decodePset w
  case h_11 => exact ofSlot_error _
  all_goals
    simp only [packExt, shapeV, shapeP3, ofSlot_ok, ofSlot_need, ofSlot_needSome]
    intros
    exact Option.some_ne_none _

theorem ofSlot_decodeVm (w x : Nat) : OfSlot (decodeVm w x) := by
  unfold decodeVm
  split <;> simp only [shapeVm, shapeVmS, shapeVmX, vmExt, shapeV, ofSlot_ok, ofSlot_error, ofSlot_need, ofSlot_needSome] <;>
    intros <;> exact Option.some_ne_none _

theorem ofSlot_decodeMx (w x : Nat) : OfSlot (decodeMx w x) := by
  unfold decodeMx
  split <;> simp only [shapeMma, ofSlot_ok, ofSlot_error, ofSlot_need, ofSlot_needSome] <;> intros <;> exact Option.some_ne_none _

theorem ofSlot_decodeEc (w x : Nat) : OfSlot (decodeEc w x) := by
  unfold decodeEc
  split <;> simp only [shapeGather, shapeSend, shapePut, bare, ofSlot_ok, ofSlot_error, ofSlot_need, ofSlot_needSome] <;>
    intros <;> exact Option.some_ne_none _

theorem ofSlot_decodeOp (slot : Slot) (ws : List Nat) : OfSlot (decodeOp slot ws) := by
  cases slot with
  | br => exact ofSlot_decodeBr ..
  | s0 | s1 => exact ofSlot_decodeS ..
  | ls => exact ofSlot_decodeLs ..
  | ag => exact ofSlot_decodeAg ..
  | v0 | v1 => exact ofSlot_decodeV ..
  | vx => exact ofSlot_decodeVx ..
  | vp => exact ofSlot_decodeVp ..
  | vm => exact ofSlot_decodeVm ..
  | mx => exact ofSlot_decodeMx ..
  | ec => exact ofSlot_decodeEc ..

theorem decodeOps_ofSlot {h : Nat} {ws : List Nat} {alone sup : Bool} {l : List (Slot × Nat × Nat)} {n : Nat} {ops : List BundleOp}
    (hd : decodeOps h ws alone sup l n = .ok ops) : ∀ o ∈ ops, slotOf o.instr ≠ none := by
  induction l generalizing n ops with
  | nil =>
    cases hd
    exact fun _ ho => absurd ho List.not_mem_nil
  | cons x r ih =>
    obtain ⟨s, pos, len⟩ := x
    unfold decodeOps at hd
    split at hd
    · cases hd
    · next i hi =>
      split at hd
      · cases hd
      · split at hd
        · cases hd
        · next ops' hops =>
          cases hd
          exact List.forall_mem_cons.mpr ⟨(ofSlot_decodeOp _ _).slot _ hi, ih hops⟩

theorem decodeBundle_ofSlot {ws : List Nat} {a : Nat} {sup : Bool} {b : Bundle} (h : decodeBundle ws a sup = .ok b) :
    ∀ o ∈ b.ops, slotOf o.instr ≠ none := by
  unfold decodeBundle at h
  dsimp only at h
  split at h
  · cases h
  · split at h
    · cases h
    · split at h
      · cases h
      · split at h
        · cases h
        · next hops =>
          cases h
          exact decodeOps_ofSlot hops

theorem checkMode_ok {m : Mode} {b c : Bundle} (h : checkMode m b = .ok c) : c = b := by
  unfold checkMode at h
  split at h
  · cases h
  · split at h <;> cases h
    rfl

/-- Every operation of a bundle that may issue is an operation of a slot. -/
theorem checkBundle_ofSlot {s : State} {k : Nat} {b : Bundle} (h : checkBundle s k = .ok b) : ∀ o ∈ b.ops, slotOf o.instr ≠ none := by
  unfold checkBundle at h
  dsimp only at h
  split at h
  · cases h
  · split at h
    · cases h
    · split at h
      · cases h
      · next hb =>
        rw [checkMode_ok h]
        exact decodeBundle_ofSlot hb

theorem activeOps_ofSlot {s : State} {k : Nat} {b : Bundle} (h : checkBundle s k = .ok b) (c : Ctx) :
    ∀ o ∈ activeOps c b, slotOf o.instr ≠ none := fun o ho => checkBundle_ofSlot h o (List.mem_of_mem_filter ho)

/-! ### GCC stays: what each operation of the state leaves of it (R25) -/

@[simp] theorem foldl_gcc {α : Type} {f : State → α → State} (h : ∀ s x, (f s x).gcc = s.gcc) (l : List α) (s : State) :
    (l.foldl f s).gcc = s.gcc := by
  induction l generalizing s with
  | nil => rfl
  | cons x r ih => exact (ih _).trans (h s x)

@[simp] theorem ite_gcc {p : Prop} [Decidable p] {a b : State} : (if p then a else b).gcc = if p then a.gcc else b.gcc := by
  split <;> rfl

theorem foldl_fst_gcc {α β : Type} {f : State × β → α → State × β} (h : ∀ s x, (f s x).1.gcc = s.1.gcc) (l : List α)
    (s : State × β) :
    (l.foldl f s).1.gcc = s.1.gcc := by
  induction l generalizing s with
  | nil => rfl
  | cons x r ih => exact (ih _).trans (h s x)

@[simp] theorem fly_gcc (s : State) (lat : Nat) (act : Act) : (fly s lat act).gcc = s.gcc := rfl

@[simp] theorem occupy_gcc (s : State) (n : Nat) : (occupy s n).gcc = s.gcc := by
  simp [occupy]

@[simp] theorem postFault_gcc (s : State) (die : Nat) (e : FaultEntry) : (postFault s die e).gcc = s.gcc := rfl

@[simp] theorem postCtxFault_gcc (s : State) (k sub cause : Nat) (addr : W64) (syl off : Nat) :
    (postCtxFault s k sub cause addr syl off).gcc = s.gcc := rfl

@[simp] theorem postHealth_gcc (s : State) (kind unit : Nat) (data : List Byte) :
    (postHealth s kind unit data).gcc = s.gcc := rfl

@[simp] theorem pauseResv_gcc (s : State) (k : Nat) : (pauseResv s k).gcc = s.gcc := rfl

@[simp] theorem resumeResv_gcc (s : State) (k from_ : Nat) : (resumeResv s k from_).gcc = s.gcc := rfl

@[simp] theorem freezeCtx_gcc (s : State) (k : Nat) (m : FreezeMark) : (freezeCtx s k m).gcc = s.gcc := by
  unfold freezeCtx
  split <;> simp

@[simp] theorem freezeGroup_gcc (s : State) (k : Nat) (m : FreezeMark) : (freezeGroup s k m).gcc = s.gcc := by
  simp [freezeGroup]

@[simp] theorem clearMark_gcc (s : State) (k : Nat) (m : FreezeMark) (soon : Nat) : (clearMark s k m soon).gcc = s.gcc := rfl

@[simp] theorem clearGroup_gcc (s : State) (k : Nat) (m : FreezeMark) (soon : Nat) : (clearGroup s k m soon).gcc = s.gcc :=
  foldl_gcc (fun _ _ => by simp) _ _

@[simp] theorem bufWrite_gcc (s : State) (k : Nat) (b : Buf) (off : Nat) (len : Nat) (sl : Memory) (bad : List Nat) :
    (bufWrite s k b off len sl bad).gcc = s.gcc := rfl

@[simp] theorem writeFrame_gcc (s : State) (k : Nat) : (writeFrame s k).gcc = s.gcc := rfl

@[simp] theorem setFate_gcc (s : State) (k status : Nat) : (setFate s k status).gcc = s.gcc := by
  unfold setFate
  split <;> simp

@[simp] theorem setRoll_gcc (s : State) (k : Nat) : (setRoll s k).gcc = s.gcc := by
  unfold setRoll
  split <;> simp

@[simp] theorem doubleFault_gcc (s : State) (k cause : Nat) (tval tpc : W64) :
    (doubleFault s k cause tval tpc).gcc = s.gcc := by
  simp [doubleFault]

@[simp] theorem takeTrap_gcc (s : State) (k cause : Nat) (tval : Option W64) (tpc : W64) (wt defer : Bool) :
    (takeTrap s k cause tval tpc wt defer).gcc = s.gcc := by
  simp [takeTrap]

@[simp] theorem raiseAtIssue_gcc (s : State) (cause : Nat) (tval : Option W64) : (raiseAtIssue s cause tval).gcc = s.gcc := by
  simp [raiseAtIssue]

@[simp] theorem postCause_gcc (s : State) (k cause : Nat) (tval : W64) : (postCause s k cause tval).gcc = s.gcc := rfl

@[simp] theorem releaseTrap_gcc (s : State) (j : Nat) : (releaseTrap s j).gcc = s.gcc := rfl

@[simp] theorem resumeFromTrap_gcc (s : State) (k : Nat) (w : Option Wait) (after : W64) :
    (resumeFromTrap s k w after).gcc = s.gcc := by
  simp [resumeFromTrap]

@[simp] theorem stretchValue_gcc (s : State) (core : Nat) : (stretchValue s core).gcc = s.gcc := rfl

@[simp] theorem releaseOpen_gcc (s : State) (k : Nat) : (releaseOpen s k).gcc = s.gcc := rfl

@[simp] theorem cachePage_gcc (s : State) (k v : Nat) : (cachePage s k v).gcc = s.gcc := by
  unfold cachePage
  (repeat' split) <;> simp

@[simp] theorem noteOwn_gcc (s : State) (w : Writer) (a len : Nat) : (noteOwn s w a len).gcc = s.gcc := rfl

@[simp] theorem dropOwn_gcc (s : State) (w : Writer) : (dropOwn s w).gcc = s.gcc := rfl

@[simp] theorem noteTentative_gcc (s : State) (tenant node a : Nat) (bytes : List Byte) :
    (noteTentative s tenant node a bytes).gcc = s.gcc := by
  unfold noteTentative
  split <;> simp

@[simp] theorem clearMarks_gcc (s : State) (a len : Nat) : (clearMarks s a len).gcc = s.gcc := rfl

@[simp] theorem addMarks_gcc (s : State) (ls : List Nat) : (addMarks s ls).gcc = s.gcc := rfl

@[simp] theorem putMem_gcc (s : State) (a : Nat) (bytes : List Byte) : (putMem s a bytes).gcc = s.gcc := rfl

@[simp] theorem openWrite_gcc (s : State) (by_ : Option Writer) (a : Nat) (bytes : List Byte) :
    (openWrite s by_ a bytes).gcc = s.gcc := rfl

@[simp] theorem putSlice_gcc (s : State) (a len : Nat) (sl : Memory) : (putSlice s a len sl).gcc = s.gcc := rfl

@[simp] theorem liftClouds_gcc (s : State) (gone : Nat → Nat → Bool) : (liftClouds s gone).gcc = s.gcc := rfl

@[simp] theorem takeBack_gcc (s : State) (w : Writer) : (takeBack s w).gcc = s.gcc := by
  unfold takeBack
  dsimp only
  rw [dropOwn_gcc]
  exact foldl_gcc (fun _ _ => by split <;> simp) _ _

@[simp] theorem physWrite_gcc (s : State) (tenant node a : Nat) (bytes : List Byte) :
    (physWrite s tenant node a bytes).gcc = s.gcc := by
  simp [physWrite]

@[simp] theorem moveBytes_gcc (s : State) (old new len : Nat) : (moveBytes s old new len).gcc = s.gcc := rfl

@[simp] theorem keepTiles_gcc (s : State) (core : Nat) : (keepTiles s core).gcc = s.gcc := rfl

@[simp] theorem modTile_gcc (s : State) (core : Nat) (t : TileIx) (f : Tile → Tile) : (modTile s core t f).gcc = s.gcc := rfl

@[simp] theorem hardwareCR_gcc (s : State) (i : Nat) (x : W64) : (hardwareCR s i x).gcc = s.gcc := rfl

@[simp] theorem endTest_gcc (s : State) : (endTest s).1.gcc = s.gcc := (foldl_gcc (fun _ _ => by simp) _ _).trans (by simp)

@[simp] theorem bselFault_gcc (s : State) (k cause : Nat) (v : W64) : (bselFault s k cause v).gcc = s.gcc := rfl

@[simp] theorem bselRead_gcc (s : State) (k : Nat) (v : BitVec 32) (off : Nat) : (bselRead s k v off).gcc = s.gcc := by
  simp [bselRead]

@[simp] theorem postPage_gcc (s : State) (k : Nat) (job : Job) (vaddr sub : Nat) :
    (postPage s k job vaddr sub).gcc = s.gcc := by
  simp [postPage]

@[simp] theorem modUntimed_gcc (s : State) (k seq : Nat) (f : Untimed → Untimed) : (modUntimed s k seq f).gcc = s.gcc := rfl

@[simp] theorem finishJob_gcc (s : State) (k seq : Nat) (x : Option W64) (fault : Option (Nat × W64)) :
    (finishJob s k seq x fault).gcc = s.gcc := rfl

@[simp] theorem enqueue_gcc (s : State) (clus q : Nat) (e : QEntry) : (enqueue s clus q e).gcc = s.gcc := rfl

@[simp] theorem sendEntry_gcc (s : State) (clus k seq q : Nat) (e : QEntry) : (sendEntry s clus k seq q e).gcc = s.gcc := by
  simp [sendEntry]

@[simp] theorem postPre_gcc (s : State) (k : Nat) : (postPre s k).gcc = s.gcc := by
  simp [postPre]

@[simp] theorem setWalk_gcc (s : State) (w : Option Walk) : (setWalk s w).gcc = s.gcc := rfl

@[simp] theorem postWalkFault_gcc (s : State) (w : Walk) (reason addr : Nat) :
    (postWalkFault s w reason addr).gcc = s.gcc := rfl

@[simp] theorem endFaulted_gcc (s : State) (w : Walk) (reason : Nat) : (endFaulted s w reason).gcc = s.gcc := by
  unfold endFaulted
  split <;> simp

@[simp] theorem walkFault_gcc (s : State) (w : Walk) (reason addr : Nat) : (walkFault s w reason addr).gcc = s.gcc := by
  simp [walkFault]

@[simp] theorem releaseFaulted_gcc (s : State) (w : Walk) (reason : Nat) : (releaseFaulted s w reason).gcc = s.gcc := by
  simp [releaseFaulted]

@[simp] theorem endWalk_gcc (s : State) (w : Walk) : (endWalk s w).gcc = s.gcc := rfl

@[simp] theorem stopWalk_gcc (s : State) (w : Walk) : (stopWalk s w).gcc = s.gcc := rfl

@[simp] theorem again_gcc (s : State) (k : Nat) (f : Flight) (due : Nat) (act : Act) : (again s k f due act).gcc = s.gcc := rfl

@[simp] theorem againIf_gcc (more : Bool) (s : State) (k : Nat) (f : Flight) (due : Nat) (act : Act) :
    (againIf more s k f due act).gcc = s.gcc := by
  simp [againIf]

@[simp] theorem postFree_gcc (s : State) (k cause : Nat) : (postFree s k cause).gcc = s.gcc := rfl

@[simp] theorem streamRead_gcc (s : State) (k agent : Nat) (b : Buf) (line : Nat) (r missed : Bool) :
    (streamRead s k agent b line r missed).s.gcc = s.gcc := by
  unfold streamRead
  dsimp only
  split
  · simp
  · split <;> split <;> simp

@[simp] theorem streamWrite_gcc (s : State) (k agent : Nat) (b : Buf) (off len : Nat) (refused : Bool) (data : Memory)
    (bad : List Nat) :
    (streamWrite s k agent b off len refused data bad).gcc = s.gcc := by
  simp [streamWrite]

@[simp] theorem writeSharedCR_gcc (s : State) (k i : Nat) (x : W64) : (writeSharedCR s k i x).gcc = s.gcc := by
  unfold writeSharedCR
  split <;> simp

@[simp] theorem requestLate_gcc (s : State) (e : FaultEntry) : (requestLate s e).gcc = s.gcc := by
  simp [requestLate]

@[simp] theorem postWaiting_gcc (s : State) (die : Nat) : (postWaiting s die).gcc = s.gcc := by
  unfold postWaiting
  split <;> simp

@[simp] theorem popFault_gcc (s : State) (die : Nat) : (popFault s die).gcc = s.gcc := by
  unfold popFault
  split <;> simp

@[simp] theorem shadowCheck_gcc (s : State) (k slot : Nat) (ty : Ty) (l : List (Nat × Nat)) :
    (shadowCheck s k slot ty l).gcc = s.gcc := by
  unfold shadowCheck
  split <;> simp

@[simp] theorem performResult_gcc (s : State) (k : Nat) (w : RegWrite) (fl : Flags) (shadow : Option (Nat × Ty)) :
    (performResult s k w fl shadow).gcc = s.gcc := by
  unfold performResult
  (repeat' split) <;> simp

@[simp] theorem lsLoad_gcc (s : State) (k addr n : Nat) : (lsLoad s k addr n).1.gcc = s.gcc := by
  unfold lsLoad
  dsimp only
  (repeat' split) <;> simp

@[simp] theorem loadResult_gcc (s : State) (k : Nat) (f : Flight) (bad : Bool) (w : RegWrite) :
    (loadResult s k f bad w).gcc = s.gcc := by
  simp [loadResult]

@[simp] theorem performDmRead_gcc (s : State) (k : Nat) (f : Flight) (d : SReg) (addr n : Nat) (sx : Bool) :
    (performDmRead s k f d addr n sx).gcc = s.gcc := by
  simp [performDmRead]

@[simp] theorem performDmAtomic_gcc (s : State) (k : Nat) (f : Flight) (d : SReg) (op : AmoOp) (addr n : Nat) (sx : Bool)
    (v c : W64) :
    (performDmAtomic s k f d op addr n sx v c).gcc = s.gcc := by
  unfold performDmAtomic
  dsimp only
  (repeat' split) <;> simp

@[simp] theorem performDmWrite_gcc (s : State) (k : Nat) (f : Flight) (addr : Nat) (bytes : List Byte) :
    (performDmWrite s k f addr bytes).gcc = s.gcc := by
  simp [performDmWrite]

@[simp] theorem performGRead_gcc (s : State) (k : Nat) (f : Flight) (d : GReg) (addr : Nat) :
    (performGRead s k f d addr).gcc = s.gcc := by
  simp [performGRead]

theorem portRead_gcc {s : State} {k addr n : Nat} {go : List Byte → State} (h : ∀ l, (go l).gcc = s.gcc) :
    (portRead s k addr n go).gcc = s.gcc := by
  unfold portRead
  split
  · simp
  · exact h _

@[simp] theorem performVmRead_gcc (s : State) (k : Nat) (f : Flight) (d : VReg) (b : Buf) (cells : List (Nat × Nat)) :
    (performVmRead s k f d b cells).gcc = s.gcc := by
  simp [performVmRead]

@[simp] theorem performVmWrite_gcc (s : State) (k : Nat) (b : Buf) (cells : List (Nat × Byte)) :
    (performVmWrite s k b cells).gcc = s.gcc := by
  simp [performVmWrite]

@[simp] theorem readSide_gcc (k agent : Nat) (l : List StreamLine) (s : State) (m : Memory) (bad : List Nat) (missed : Bool) :
    (readSide s k agent m bad missed l).1.gcc = s.gcc := by
  induction l generalizing s m bad missed with
  | nil => rfl
  | cons x r ih => simp [readSide, ih, streamRead_gcc]

@[simp] theorem performMmaRead_gcc (s : State) (k : Nat) (f : Flight) (r : MmaRun) (j kk : Nat) (ma mb : Memory)
    (ba bb : List Nat) :
    (performMmaRead s k f r j kk ma mb ba bb).gcc = s.gcc := by
  simp [performMmaRead]

@[simp] theorem groupUpdate_gcc (s : State) (k seq : Nat) (tile : TileIx) (p : Prec) (d : Side × Side) (rows cols : Nat)
    (final zero : Bool) (ma mb : Memory) (ba bb : List Nat) :
    (groupUpdate s k seq tile p d rows cols final zero ma mb ba bb).gcc = s.gcc := rfl

@[simp] theorem performMmaUpdate_gcc (s : State) (k : Nat) (f : Flight) (r : MmaRun) (j : Nat) (ma mb : Memory)
    (ba bb : List Nat) :
    (performMmaUpdate s k f r j ma mb ba bb).gcc = s.gcc := rfl

@[simp] theorem performDrain_gcc (s : State) (k : Nat) (f : Flight) (tile : TileIx) (fm : Fmt) (rm : Nat) (ov : Ovf)
    (isInt : Bool) (base rows line : Nat) (missed : Bool) :
    (performDrain s k f tile fm rm ov isInt base rows line missed).gcc = s.gcc := by
  unfold performDrain
  dsimp only
  (repeat' split) <;> simp

@[simp] theorem performDrainWrite_gcc (s : State) (k off : Nat) (data : Memory) :
    (performDrainWrite s k off data).gcc = s.gcc := by
  simp [performDrainWrite]

@[simp] theorem performTloadRead_gcc (s : State) (k : Nat) (f : Flight) (tile : TileIx) (fm : Fmt) (base rows line : Nat)
    (missed : Bool) :
    (performTloadRead s k f tile fm base rows line missed).gcc = s.gcc := by
  simp [performTloadRead, streamRead_gcc]

@[simp] theorem performTloadWrite_gcc (s : State) (k : Nat) (f : Flight) (tile : TileIx) (fm : Fmt) (line : Nat)
    (data : Memory) (bad : Bool) :
    (performTloadWrite s k f tile fm line data bad).gcc = s.gcc := rfl

@[simp] theorem performTclr_gcc (s : State) (k seq : Nat) (tile : TileIx) : (performTclr s k seq tile).gcc = s.gcc := rfl

@[simp] theorem asWritten_gcc (s : State) : (asWritten s).gcc = s.gcc := rfl

@[simp] theorem noteWrite_gcc (s : State) (paddr len : Nat) : (noteWrite s paddr len).gcc = s.gcc := rfl

@[simp] theorem logWrite_gcc (s : State) (k seq vaddr : Nat) (bytes : List Byte) :
    (logWrite s k seq vaddr bytes).gcc = s.gcc := by
  unfold logWrite
  split <;> simp

@[simp] theorem stage_gcc (s : State) (k : Nat) (x : Staged) : (stage s k x).gcc = s.gcc := by
  unfold stage
  split <;> simp

@[simp] theorem performCopySample_gcc (s : State) (k : Nat) (f : Flight) (r : CopyRun) (j : Nat) :
    (performCopySample s k f r j).gcc = s.gcc := by
  simp [performCopySample]

@[simp] theorem performCopyLand_gcc (s : State) (k : Nat) (f : Flight) (r : CopyRun) (j : Nat) (data : Memory) (bad : Bool) :
    (performCopyLand s k f r j data bad).gcc = s.gcc := by
  simp [performCopyLand]

@[simp] theorem performCopySource_gcc (s : State) (k : Nat) (f : Flight) (r : CopyRun) (j : Nat) :
    (performCopySource s k f r j).gcc = s.gcc := by
  simp [performCopySource, streamRead_gcc]

@[simp] theorem performCopyPerform_gcc (s : State) (k : Nat) (f : Flight) (r : CopyRun) (j : Nat) (data : Memory) (bad : Bool) :
    (performCopyPerform s k f r j data bad).gcc = s.gcc := by
  unfold performCopyPerform
  dsimp only
  (repeat' split) <;> simp

@[simp] theorem performMapGather_gcc (s : State) (k : Nat) (f : Flight) (r : CopyRun) (j : Nat) (held : Memory) (bad : Bool) :
    (performMapGather s k f r j held bad).gcc = s.gcc := by
  simp [performMapGather]

@[simp] theorem performMapLand_gcc (s : State) (k : Nat) (f : Flight) (r : CopyRun) (d : Nat) (held : Memory) (bad : Bool) :
    (performMapLand s k f r d held bad).gcc = s.gcc := by
  simp [performMapLand]

@[simp] theorem performFill_gcc (s : State) (k : Nat) (f : Flight) (r : CopyRun) (x : W64) (j : Nat) :
    (performFill s k f r x j).gcc = s.gcc := by
  simp [performFill]

@[simp] theorem performSendRead_gcc (s : State) (k : Nat) (f : Flight) (dest : Nat) (p : Place) (lines j x : Nat)
    (missed : Bool) :
    (performSendRead s k f dest p lines j x missed).gcc = s.gcc := by
  simp [performSendRead, streamRead_gcc]

@[simp] theorem performSendLand_gcc (s : State) (k dest : Nat) (data : Memory) (bad : List Nat) :
    (performSendLand s k dest data bad).gcc = s.gcc := by
  unfold performSendLand
  split <;> simp

@[simp] theorem nestRead_gcc (s : State) (k : Nat) (r : Nat × Buf × Nat) : (nestRead s k r).1.gcc = s.gcc := by
  unfold nestRead
  dsimp only
  (repeat' split) <;> simp

@[simp] theorem performNestStep_gcc (s : State) (k : Nat) (f : Flight) (x : NestArgs) (slot : Nat) (mask : PWord) (rm n : Nat) :
    (performNestStep s k f x slot mask rm n).gcc = s.gcc := by
  unfold performNestStep
  split <;> simp

@[simp] theorem performNestWrite_gcc (s : State) (k : Nat) (x : NestArgs) (slot : Nat) (mask : PWord) (line : Nat)
    (data : VWord) (fl : Flags) (bad : Bool) :
    (performNestWrite s k x slot mask line data fl bad).gcc = s.gcc := by
  have hcells (s : State) (l : List (Nat × Nat)) (g : Nat × Nat → Memory) (h : Nat × Nat → List Nat) :
      (l.foldl (fun s c => bufWrite s k x.bufD c.2 1 (g c) (h c)) s).gcc = s.gcc := foldl_gcc (fun _ _ => by simp) _ _
  unfold performNestWrite
  dsimp only
  split
  · simp
  · split
    · rfl
    · split <;> simp [hcells]

@[simp] theorem addUntimed_gcc (s : State) (k : Nat) (job : Job) (lines : List Nat) :
    (addUntimed s k job lines).gcc = s.gcc := rfl

@[simp] theorem performBarInit_gcc (s : State) (core i : Nat) (n : BitVec 16) : (performBarInit s core i n).gcc = s.gcc := rfl

@[simp] theorem performFlight_gcc (s : State) (k : Nat) (f : Flight) : (performFlight s k f).gcc = s.gcc := by
  unfold performFlight
  split
  case h_10 | h_11 => exact portRead_gcc fun _ => by simp
  case h_2 | h_31 => rfl
  all_goals simp

@[simp] theorem performAt_gcc (s : State) (k i : Nat) : (performAt s k i).gcc = s.gcc := by
  unfold performAt
  dsimp only
  (repeat' split) <;> simp

@[simp] theorem arbitrateBanks_gcc (s : State) : (arbitrateBanks s).gcc = s.gcc :=
  (foldl_gcc (fun _ _ => by split <;> simp) _ _).trans rfl

@[simp] theorem arbitrateDm_gcc (s : State) (k : Nat) : (arbitrateDm s k).gcc = s.gcc := by
  unfold arbitrateDm
  dsimp only
  (repeat' split) <;> simp

@[simp] theorem arbitrateTiles_gcc (s : State) (k : Nat) : (arbitrateTiles s k).gcc = s.gcc := by
  unfold arbitrateTiles
  dsimp only
  (repeat' split) <;> simp

@[simp] theorem arbitrate_gcc (s : State) : (arbitrate s).gcc = s.gcc := by
  simp [arbitrate]

@[simp] theorem settleRegs_gcc (n k : Nat) (s : State) : (settleRegs n k s).gcc = s.gcc := by
  induction n generalizing s with
  | zero => rfl
  | succ n ih =>
    unfold settleRegs
    split
    · rfl
    · simp [ih]

@[simp] theorem settled_gcc (s : State) (k : Nat) : (settled s k).gcc = s.gcc := by
  simp [settled]

@[simp] theorem thawedView_gcc (s : State) (k : Nat) : (thawedView s k).gcc = s.gcc := by
  simp [thawedView]

@[simp] theorem rewriteDescriptor_gcc (s : State) (k seq : Nat) : (rewriteDescriptor s k seq).gcc = s.gcc := by
  unfold rewriteDescriptor
  dsimp only
  (repeat' split) <;> simp

@[simp] theorem showFault_gcc (s : State) (k seq : Nat) : (showFault s k seq).gcc = s.gcc := by
  simp [showFault]

@[simp] theorem holdJob_gcc (s : State) (k : Nat) (u : Untimed) (v sub : Nat) : (holdJob s k u v sub).gcc = s.gcc := by
  simp [holdJob]

@[simp] theorem enter_gcc (s : State) (o : Outbound) : (enter s o).gcc = s.gcc := rfl

@[simp] theorem sendTrans_gcc (s : State) (k seq ix dest op addr detail : Nat) (data : List Byte) :
    (sendTrans s k seq ix dest op addr detail data).gcc = s.gcc := rfl

@[simp] theorem markPoison_gcc (s : State) (a : Nat) (bad : Bool) : (markPoison s a bad).gcc = s.gcc := by
  simp [markPoison]

@[simp] theorem applyWrite_gcc (s : State) (src tenant serial a : Nat) (bytes : List Byte) (bad : Bool) :
    (applyWrite s src tenant serial a bytes bad).gcc = s.gcc := by
  simp [applyWrite]

@[simp] theorem applyRollback_gcc (s : State) (src tenant serial : Nat) :
    (applyRollback s src tenant serial).gcc = s.gcc := by
  simp [applyRollback]

@[simp] theorem putAtomic_gcc (s : State) (a : Nat) (bytes : List Byte) : (putAtomic s a bytes).gcc = s.gcc := rfl

@[simp] theorem homeAtomic_gcc (s : State) (by_ : Writer) (op : AmoOp) (a n : Nat) (v c : W64) :
    (homeAtomic s by_ op a n v c).1.gcc = s.gcc := by
  unfold homeAtomic
  dsimp only
  (repeat' split) <;> simp

@[simp] theorem putRemote_gcc (s : State) (k seq ix pkg a : Nat) (bytes : List Byte) (bad : Bool) :
    (putRemote s k seq ix pkg a bytes bad).gcc = s.gcc := by
  unfold putRemote
  split <;> simp

@[simp] theorem storeAt_gcc (s : State) (k seq ix v : Nat) (p : Spot) (bytes : List Byte) (bad : Bool) :
    (storeAt s k seq ix v p bytes bad).gcc = s.gcc := by
  unfold storeAt
  split <;> simp

theorem atHome_gcc {s : State} {k : Nat} {u : Untimed} {v sub : Nat} {write : Bool} {f : Spot → State} (h : ∀ p,
    (f p).gcc = s.gcc) :
    (atHome s k u v sub write f).gcc = s.gcc := by
  unfold atHome
  split
  · simp
  · simp
  · split
    · simp
    · exact h _

@[simp] theorem settle_gcc (s : State) (k seq : Nat) : (settle s k seq).gcc = s.gcc := by
  simp [settle]

@[simp] theorem finishLoad_gcc (s : State) (k : Nat) (u : Untimed) (v n : Nat) (sx : Bool) (r : List Byte × Bool) :
    (finishLoad s k u v n sx r).gcc = s.gcc := by
  simp [finishLoad]

@[simp] theorem performLoad_gcc (s : State) (k : Nat) (u : Untimed) (v n : Nat) (sx : Bool) :
    (performLoad s k u v n sx).gcc = s.gcc := atHome_gcc fun p => by
  split
  · simp
  · split
    · split <;> simp
    · simp
  · simp

@[simp] theorem performStore_gcc (s : State) (k : Nat) (u : Untimed) (v : Nat) (bytes : List Byte) :
    (performStore s k u v bytes).gcc = s.gcc := atHome_gcc fun p => by simp

@[simp] theorem performAtomic_gcc (s : State) (k : Nat) (u : Untimed) (op : AmoOp) (v n : Nat) (sx : Bool) (x c : W64) :
    (performAtomic s k u op v n sx x c).gcc = s.gcc := atHome_gcc fun p => by
  split
  · simp
  · split
    · simp
    · dsimp only
      split <;> simp

@[simp] theorem performGather_gcc (s : State) (k : Nat) (u : Untimed) (v size : Nat) (idx : List Nat) (place : Place) :
    (performGather s k u v size idx place).gcc = s.gcc := by
  unfold performGather
  dsimp only
  (repeat' split) <;> simp

@[simp] theorem scatterElements_gcc (k seq : Nat) (l : List (Nat × List Byte)) (lines : List Nat) (room : Nat) (s : State) :
    (scatterElements k seq l lines room s).1.gcc = s.gcc := by
  induction l generalizing lines room s with
  | nil => rfl
  | cons e r ih =>
    unfold scatterElements
    split
    · rfl
    · split
      · simp [ih]
      · rw [ih]
        split
        · split <;> simp
        · rfl

@[simp] theorem scatterOn_gcc (s : State) (k : Nat) (u : Untimed) (els : List (Nat × List Byte)) :
    (scatterOn s k u els).gcc = s.gcc := by
  simp [scatterOn]

@[simp] theorem performScatter_gcc (s : State) (k : Nat) (u : Untimed) (v size : Nat) (idx : List Nat) (place : Place) :
    (performScatter s k u v size idx place).gcc = s.gcc := by
  simp [performScatter]

@[simp] theorem performReplay_gcc (s : State) (k : Nat) (u : Untimed) (els rest : List (Nat × List Byte)) :
    (performReplay s k u els rest).gcc = s.gcc := by
  simp [performReplay]

theorem whenMapped_gcc {s go : State} {k : Nat} {u : Untimed} {sub : Nat} {l : List Nat} (h : go.gcc = s.gcc) :
    (whenMapped s k u sub l go).gcc = s.gcc := by
  unfold whenMapped
  split
  · simp
  · exact h

@[simp] theorem performPut_gcc (s : State) (k : Nat) (u : Untimed) (v : Nat) (place : Place) (n : Nat) :
    (performPut s k u v place n).gcc = s.gcc := by
  unfold performPut
  dsimp only
  refine whenMapped_gcc ?_
  rw [settle_gcc]
  exact foldl_gcc (fun _ _ => by split <;> simp) _ _

@[simp] theorem landPiece_gcc (s : State) (k : Nat) (place : Place) (ix : Nat) (bytes : List Byte) (bad : Bool) :
    (landPiece s k place ix bytes bad).gcc = s.gcc := rfl

@[simp] theorem performFget_gcc (s : State) (k : Nat) (u : Untimed) (v : Nat) (place : Place) (n : Nat) :
    (performFget s k u v place n).gcc = s.gcc := by
  unfold performFget
  dsimp only
  rw [settle_gcc]
  exact foldl_gcc (fun _ _ => by (repeat' split) <;> simp) _ _

@[simp] theorem performDget_gcc (s : State) (k : Nat) (u : Untimed) (v : Nat) (place : Place) (n : Nat) :
    (performDget s k u v place n).gcc = s.gcc := by
  unfold performDget
  dsimp only
  rw [finishJob_gcc]
  exact foldl_gcc (fun _ _ => by split <;> simp) _ _

@[simp] theorem performRecord_gcc (s : State) (k : Nat) (u : Untimed) (v : Nat) (bytes : List Byte) :
    (performRecord s k u v bytes).gcc = s.gcc := performStore_gcc _ _ _ _ _

theorem takeToken_gcc {s t : State} {k q : Nat} {e : QEntry} (h : takeToken s k q = some (e, t)) : t.gcc = s.gcc := by
  obtain ⟨x, -, hx⟩ := Option.map_eq_some_iff.mp h
  cases hx
  rfl

@[simp] theorem deliverEos_gcc (s : State) (k q : Nat) : (deliverEos s k q).gcc = s.gcc := rfl

@[simp] theorem performQsend_gcc (s : State) (k : Nat) (u : Untimed) (q : Nat) (eos : Bool) (dest : Nat) (x : W64) :
    (performQsend s k u q eos dest x).gcc = s.gcc := by
  simp [performQsend]

@[simp] theorem performQrecv_gcc (s : State) (k : Nat) (u : Untimed) (q : Nat) : (performQrecv s k u q).gcc = s.gcc := by
  unfold performQrecv
  split
  · rfl
  · next h =>
    dsimp only
    split <;> simp [takeToken_gcc h]

@[simp] theorem readGroup_gcc (s : State) (k agent : Nat) (d : Side) (tile : Buf × Int) (n : Nat) (missed : Bool) :
    (readGroup s k agent d tile n missed).1.gcc = s.gcc := by
  simp [readGroup]

@[simp] theorem zeroWindow_gcc (s : State) (core : Nat) (t : TileIx) : (zeroWindow s core t).gcc = s.gcc := rfl

@[simp] theorem untimedGroup_gcc (s : State) (k : Nat) (t : TileIx) (p : Prec) (d : Side × Side) (ta tb : Buf × Int)
    (na nb : Nat) (final zero missed : Bool) :
    (untimedGroup s k t p d ta tb na nb final zero missed).1.gcc = s.gcc := by
  simp [untimedGroup]

@[simp] theorem runGroup_gcc (s : State × Bool) (k : Nat) (ga gb : GWord) (padm : W64) (e : GroupEntry) :
    (runGroup s k ga gb padm e).1.gcc = s.1.gcc := by
  unfold runGroup
  split
  · split <;> simp
  · exact foldl_fst_gcc (fun _ _ => by simp) _ _

@[simp] theorem performMmag_gcc (s : State) (k : Nat) (u : Untimed) (ga gb : GWord) (padm : W64) (table : List W64) :
    (performMmag s k u ga gb padm table).gcc = s.gcc := by
  simp only [performMmag, finishJob_gcc]
  exact (foldl_fst_gcc (fun _ _ => by simp) _ _).trans (by simp)

@[simp] theorem releaseLines_gcc (s : State) (k seq line : Nat) : (releaseLines s k seq line).gcc = s.gcc := rfl

theorem readingToken_gcc {α : Type} {s : State} {k : Nat} {w : Option Nat} {line n : Nat} {f : State → State × α}
    (h : ∀ t, (f t).1.gcc = t.gcc) : (readingToken s k w line n f).1.gcc = s.gcc := h _

@[simp] theorem mmasFault_gcc (s : State) (k : Nat) (u : Untimed) (code : Nat) : (mmasFault s k u code).gcc = s.gcc := rfl

@[simp] theorem takeMmasToken_gcc (s : State) (k : Nat) (u : Untimed) (q : Nat) (ga gb : GWord) (padm : W64) (tiles : List Nat)
    (missed : Bool) (e : QEntry) : (takeMmasToken s k u q ga gb padm tiles missed e).gcc = s.gcc := by
  unfold takeMmasToken
  split
  · simp
  · extract_lets c x t job s' zero line p da db nb s''
    have hjob (b : Bool) (r : State) : (job b r).gcc = r.gcc := rfl
    have hs : s''.gcc = s.gcc := by
      show (match zero, e.walk with
        | false, some w => releaseLines s' k w line
        | _, _ => s').gcc = s.gcc
      split <;> rfl
    split
    · exact hs
    · split
      · split
        · simpa using hs
        · split <;> simpa using hs
      · split
        · simpa using hs
        · exact (hjob _ _).trans ((readingToken_gcc fun _ => by simp).trans hs)

@[simp] theorem performVhacc_gcc (s : State) (k : Nat) (u : Untimed) (t : Ty) (x : HaccArgs) (base : Nat) (keys vals : VWord)
    (act : PWord) (rm slot : Nat) :
    (performVhacc s k u t x base keys vals act rm slot).gcc = s.gcc := by
  simp [performVhacc]

@[simp] theorem performArrive_gcc (s : State) (k : Nat) (u : Untimed) (bar : Nat) :
    (performArrive s k u bar).gcc = s.gcc := by
  simp [performArrive]

@[simp] theorem performSignal_gcc (s : State) (k : Nat) (u : Untimed) (v : Nat) (bytes : List Byte) (msi : Option Nat) :
    (performSignal s k u v bytes msi).gcc = s.gcc := atHome_gcc fun p => by
  dsimp only
  rw [finishJob_gcc]
  split <;> simp

@[simp] theorem performMessage_gcc (s : State) (k : Nat) (u : Untimed) (dest : Nat) (bytes : List Byte) :
    (performMessage s k u dest bytes).gcc = s.gcc := rfl

@[simp] theorem performTlbinv_gcc (s : State) (k : Nat) (u : Untimed) (kind : TlbKind) (v : W64) (tenant : Nat) :
    (performTlbinv s k u kind v tenant).gcc = s.gcc := rfl

@[simp] theorem performGfreeze_gcc (s : State) (k : Nat) (u : Untimed) (target f : Nat) :
    (performGfreeze s k u target f).gcc = s.gcc := by
  unfold performGfreeze
  split <;> simp

@[simp] theorem releaseUnit_gcc (s : State) (k : Nat) : (releaseUnit s k).gcc = s.gcc := by
  simp [releaseUnit]

theorem replayEntry_gcc {s t : State} {e : LogEntry} (h : replayEntry s e = some t) : t.gcc = s.gcc := by
  unfold replayEntry at h
  obtain ⟨u, -, hu⟩ := Option.bind_eq_some_iff.mp h
  split at hu
  · cases hu
  · split at hu <;> cases hu <;> simp

@[simp] theorem replayLog_gcc (n : Nat) (l : List LogEntry) (s : State) : (replayLog n l s).gcc = s.gcc := by
  induction n generalizing l s with
  | zero => rfl
  | succ n ih =>
    cases l with
    | nil => rfl
    | cons e r =>
      unfold replayLog
      split
      · next t ht => rw [ih, replayEntry_gcc ht]
      · split
        · next x t ht =>
          obtain ⟨y, -, hy⟩ := List.exists_of_findSome?_eq_some ht
          split at hy
          · obtain ⟨u, hu, he⟩ := Option.map_eq_some_iff.mp hy
            cases he
            rw [ih, replayEntry_gcc hu]
          · cases hy
        · rfl

@[simp] theorem retryMonitors_gcc (s : State) (k : Nat) : (retryMonitors s k).gcc = s.gcc := rfl

theorem execSideLogRetry_gcc (core : Nat) (s : State) : ∃ t, execSideLogRetry core s = .next t ∧ t.gcc = s.gcc := by
  refine ⟨_, rfl, (foldl_gcc (fun _ _ => by simp) _ _).trans ((foldl_gcc (fun _ _ => by simp) _ _).trans
    ((foldl_gcc (fun _ _ => by simp) _ _).trans (foldl_gcc (fun _ _ => by simp) _ _)))⟩

@[simp] theorem putFinal_gcc (s : State) (a : Nat) (bytes : List Byte) : (putFinal s a bytes).gcc = s.gcc := rfl

@[simp] theorem sendMsix_gcc (s : State) (fn vec : Nat) : (sendMsix s fn vec).gcc = s.gcc := by
  simp [sendMsix]

@[simp] theorem sendSignal_gcc (s : State) (fn ix : Nat) (n : Node) (status : Nat) :
    (sendSignal s fn ix n status).gcc = s.gcc := by
  unfold sendSignal
  extract_lets a t
  have ht : t.gcc = s.gcc := by
    unfold t
    split
    · rfl
    · exact (putFinal_gcc _ _ _).trans (putFinal_gcc _ _ _)
  split
  · exact (sendMsix_gcc _ _ _).trans ht
  · exact ht

@[simp] theorem dropMember_gcc (s : State) (k : Nat) : (dropMember s k).gcc = s.gcc := foldl_gcc (fun _ _ => by simp) _ _

@[simp] theorem vacate_gcc (s : State) (k : Nat) : (vacate s k).gcc = s.gcc := rfl

@[simp] theorem renameStaged_gcc (s : State) (c : Ctx) (old new : Nat) : (renameStaged s c old new).gcc = s.gcc := rfl

@[simp] theorem freeCtx_gcc (s : State) (k : Nat) : (freeCtx s k).gcc = s.gcc := by
  simp [freeCtx]

@[simp] theorem dropPins_gcc (s : State) (fn n : Nat) : (dropPins s fn n).gcc = s.gcc := rfl

@[simp] theorem sendDecision_gcc (s : State) (fn : Nat) (n : Node) (op pkg : Nat) :
    (sendDecision s fn n op pkg).gcc = s.gcc := rfl

@[simp] theorem loseBytes_gcc (s : State) (a len : Nat) : (loseBytes s a len).gcc = s.gcc := rfl

@[simp] theorem loseOutputs_gcc (s : State) (n : Node) : (loseOutputs s n).gcc = s.gcc := by
  simp [loseOutputs]

@[simp] theorem losePages_gcc (s : State) (fn : Nat) (n : Node) : (losePages s fn n).gcc = s.gcc :=
  foldl_gcc (fun _ _ => by (repeat' split) <;> simp) _ _

@[simp] theorem dropFabric_gcc (s : State) (fn serial : Nat) : (dropFabric s fn serial).gcc = s.gcc := rfl

@[simp] theorem discardEffects_gcc (s : State) (fn ix : Nat) : (discardEffects s fn ix).gcc = s.gcc := by
  have hfree (l : List Nat) (s : State) : (l.foldl freeCtx s).gcc = s.gcc := foldl_gcc (fun _ _ => by simp) _ _
  have hsend (l : List Nat) (n : Node) (s : State) : (l.foldl (fun s p => sendDecision s fn n 6 p) s).gcc = s.gcc :=
    foldl_gcc (fun _ _ => by simp) _ _
  unfold discardEffects
  dsimp only
  split <;> simp [hfree, hsend]

@[simp] theorem awaitDiscard_gcc (s : State) (fn ix status : Nat) : (awaitDiscard s fn ix status).gcc = s.gcc := rfl

@[simp] theorem forgetClouds_gcc (s : State) (fn : Nat) (gone : Nat → Bool) : (forgetClouds s fn gone).gcc = s.gcc := rfl

@[simp] theorem retireNode_gcc (n : Nat) (s : State) (fn ix status : Nat) : (retireNode n s fn ix status).gcc = s.gcc := by
  induction n generalizing s ix status with
  | zero => rfl
  | succ n ih => simp [retireNode, ih]

@[simp] theorem retire_gcc (s : State) (fn ix status : Nat) : (retire s fn ix status).gcc = s.gcc := by
  simp [retire]

@[simp] theorem finishRollback_gcc (s : State) (fn ix : Nat) : (finishRollback s fn ix).gcc = s.gcc := by
  simp [finishRollback]

@[simp] theorem rollNode_gcc (n : Nat) (s : State) (fn ix : Nat) (own : Bool) : (rollNode n s fn ix own).gcc = s.gcc := by
  induction n generalizing s ix own with
  | zero => rfl
  | succ n ih =>
    unfold rollNode
    dsimp only
    rw [finishRollback_gcc, foldl_gcc]
    · simp
    · intro s j
      split
      · exact ih ..
      · exact ih ..
      · exact ih ..
      · rfl

@[simp] theorem forgetImages_gcc (s : State) (a n : Nat) : (forgetImages s a n).gcc = s.gcc := rfl

theorem loadImage_gcc {s t : State} {clus src len b : Nat} (h : loadImage s clus src len = some (t, b)) : t.gcc = s.gcc := by
  unfold loadImage at h
  dsimp only at h
  split at h
  · cases h
    rfl
  · split at h
    · cases h
      rfl
    · obtain ⟨x, -, hx⟩ := Option.map_eq_some_iff.mp h
      cases hx
      rfl

@[simp] theorem noteDie_gcc (s : State) (fn ix k : Nat) : (noteDie s fn ix k).gcc = s.gcc := rfl

theorem restoreCtx_gcc {s t : State} {x : Saved} {k : Nat} (h : restoreCtx s x k = some t) : t.gcc = s.gcc := by
  unfold restoreCtx at h
  split at h
  · cases h
  · split at h
    · next hb hl =>
      extract_lets s1 s2 s3 s4 s5 s6 at h
      cases h
      have hs : s2.gcc = s.gcc := by simp [s2, s1, loadImage_gcc hl]
      exact (stretchValue_gcc _ _).trans ((foldl_gcc (fun _ _ => by simp) _ _).trans ((foldl_gcc (fun _ _ => by simp) _ _).trans hs))
    · cases h

@[simp] theorem loseImage_gcc (s : State) (k : Nat) (t : Task) (sub : Nat) : (loseImage s k t sub).gcc = s.gcc := by
  simp [loseImage]

@[simp] theorem saveCtx_gcc (s : State) (k handle : Nat) : (saveCtx s k handle).gcc = s.gcc := by
  simp [saveCtx]

@[simp] theorem resetQueue_gcc (s : State) (fn : Nat) : (resetQueue s fn).gcc = s.gcc := rfl

@[simp] theorem performCtxsave_gcc (s : State) (k : Nat) (u : Untimed) (target paddr : Nat) :
    (performCtxsave s k u target paddr).gcc = s.gcc := by
  unfold performCtxsave
  dsimp only
  (repeat' split) <;> simp

@[simp] theorem performCtxload_gcc (s : State) (k : Nat) (u : Untimed) (target paddr : Nat) :
    (performCtxload s k u target paddr).gcc = s.gcc := by
  unfold performCtxload
  dsimp only
  split
  · simp
  · split
    · simp
    · split
      · simp
      · split
        · split <;> simp
        · split
          · simp
          · next h => simp [restoreCtx_gcc h]

@[simp] theorem performSegload_gcc (s : State) (k : Nat) (u : Untimed) (target paddr : Nat) :
    (performSegload s k u target paddr).gcc = s.gcc := by
  simp [performSegload]

@[simp] theorem retryCores_gcc (s : State) (cores : List Nat) : (retryCores s cores).gcc = s.gcc := by
  refine foldl_gcc (fun s core => ?_) _ _
  obtain ⟨t, ht, hg⟩ := execSideLogRetry_gcc core s
  rw [ht]
  exact hg

@[simp] theorem performJob_gcc (s : State) (k : Nat) (u : Untimed) : (performJob s k u).gcc = s.gcc := by
  unfold performJob
  split
  case h_14 | h_15 =>
    split
    · rfl
    · simp
  case h_16 =>
    split
    · next h =>
      split
      · rfl
      · simp [takeToken_gcc h]
    · rfl
  case h_12 | h_27 => rfl
  all_goals simp

@[simp] theorem deferCauses_gcc (s t : State) (k seq : Nat) : (deferCauses s t k seq).gcc = t.gcc := by
  unfold deferCauses
  dsimp only
  split <;> simp

@[simp] theorem dropPage_gcc (s : State) (tenant page : Nat) : (dropPage s tenant page).gcc = s.gcc := rfl

@[simp] theorem endRequest_gcc (s : State) (k : Nat) (u : Untimed) (res : Nat) : (endRequest s k u res).gcc = s.gcc := by
  simp [endRequest]

@[simp] theorem thawCtx_gcc (s : State) (k : Nat) : (thawCtx s k).gcc = s.gcc := rfl

@[simp] theorem finishDrain_gcc (s : State) (k : Nat) : (finishDrain s k).gcc = s.gcc := by
  unfold finishDrain
  dsimp only
  (repeat' split) <;> simp

@[simp] theorem waitEffect_gcc (s : State) (k : Nat) (w : Wait) : (waitEffect s k w).gcc = s.gcc := by
  unfold waitEffect
  split
  · split
    · split
      · next h => simp [takeToken_gcc h]
      · rfl
    · rfl
  all_goals simp

@[simp] theorem completeWait_gcc (s : State) (k : Nat) (w : Wait) : (completeWait s k w).gcc = s.gcc := by
  simp [completeWait]

@[simp] theorem taskGone_gcc (s : State) (fn n k : Nat) (persist : Option Nat) : (taskGone s fn n k persist).gcc = s.gcc := rfl

@[simp] theorem beginHandOver_gcc (s : State) (core : Nat) (holder : Option (Fin 4)) (next : Fin 4) :
    (beginHandOver s core holder next).gcc = s.gcc := rfl

@[simp] theorem decideWidth_gcc (s : State) (core : Nat) : (decideWidth s core).gcc = s.gcc := by
  unfold decideWidth
  dsimp only
  (repeat' split) <;> simp

@[simp] theorem leaveBoost_gcc (s : State) (core : Nat) : (leaveBoost s core).gcc = s.gcc := by
  simp [leaveBoost]

@[simp] theorem applyPost_gcc (s : State) (p : Post) : (applyPost s p).gcc = s.gcc := by
  simp [applyPost]

@[simp] theorem extendMeasure_gcc (s : State) (k : Fin 8) (digest : BitVec 256) : (extendMeasure s k digest).gcc = s.gcc := rfl

@[simp] theorem windowWrite_gcc (s : State) (fn region a : Nat) (b : Byte) : (windowWrite s fn region a b).gcc = s.gcc := by
  simp [windowWrite]

@[simp] theorem performWindow_gcc (fn : Nat) (s : State) (x : WinAccess) : (performWindow fn s x).gcc = s.gcc := by
  unfold performWindow
  dsimp only
  split
  · exact foldl_gcc (fun _ _ => by split <;> simp) _ _
  · rfl

@[simp] theorem flushWindow_gcc (fn : Nat) (l : List WinAccess) (s : State) : (flushWindow fn l s).gcc = s.gcc := by
  induction l generalizing s with
  | nil => rfl
  | cons x r ih =>
    unfold flushWindow
    split <;> simp [ih]

@[simp] theorem createTenant_gcc (s : State) (fn : Nat) (p : Config.Policy) : (createTenant s fn p).gcc = s.gcc :=
  (foldl_gcc (fun _ _ => by simp) _ _).trans rfl

@[simp] theorem finishFlr_gcc (s : State) (fn : Nat) : (finishFlr s fn).gcc = s.gcc := by
  simp [finishFlr]

@[simp] theorem rescueLane_gcc (s : State) (dest lane : Nat) : (rescueLane s dest lane).gcc = s.gcc := rfl

@[simp] theorem sendFlit_gcc (s : State) (p : Nat) (o : Outbound) : (sendFlit s p o).gcc = s.gcc := rfl

@[simp] theorem sendList_gcc (n : Nat) (s : State) : (sendList n s).gcc = s.gcc := by
  induction n generalizing s with
  | zero => rfl
  | succ n ih =>
    unfold sendList
    split
    · rfl
    · simp [ih]

@[simp] theorem sendOutbound_gcc (s : State) : (sendOutbound s).gcc = s.gcc := by
  simp [sendOutbound]

@[simp] theorem markBad_gcc (s : State) (port : Nat) (old : Bool) : (markBad s port old).gcc = s.gcc := by
  simp [markBad]

@[simp] theorem rewriteSpareMap_gcc (s : State) (clus : Nat) : (rewriteSpareMap s clus).gcc = s.gcc := by
  unfold rewriteSpareMap
  split <;> simp

@[simp] theorem applySpareMap_gcc (s : State) (body : List Byte) : (applySpareMap s body).gcc = s.gcc :=
  (foldl_gcc (fun _ _ => by split <;> simp) _ _).trans (foldl_gcc (fun _ _ => by simp) _ _)

@[simp] theorem moveToSpare_gcc (s : State) (k : Nat) : (moveToSpare s k).gcc = s.gcc := by
  unfold moveToSpare
  split <;> simp

@[simp] theorem finishSwap_gcc (s : State) (clus : Nat) : (finishSwap s clus).gcc = s.gcc := by
  have hmove (l : List Nat) (s : State) : (l.foldl moveToSpare s).gcc = s.gcc := foldl_gcc (fun _ _ => by simp) _ _
  unfold finishSwap
  dsimp only
  split
  · simp only [postHealth_gcc, rewriteSpareMap_gcc, modCluster_gcc]
    exact (foldl_gcc (fun _ _ => by simp) _ _).trans (hmove _ _)
  · rfl

@[simp] theorem retireCluster_gcc (s : State) (clus : Nat) : (retireCluster s clus).gcc = s.gcc := by
  simp [retireCluster]

@[simp] theorem tickRetention_gcc (s : State) : (tickRetention s).gcc = s.gcc := by
  simp [tickRetention]

@[simp] theorem testUnit_gcc (s : State) (item u : Nat) : (testUnit s item u).gcc = s.gcc := by
  simp [testUnit]

@[simp] theorem setWear_gcc (s : State) (clus w : Nat) : (setWear s clus w).gcc = s.gcc := by
  simp [setWear]

@[simp] theorem tickWear_gcc (s : State) : (tickWear s).gcc = s.gcc := by
  simp [tickWear]

@[simp] theorem measureBoot_gcc (s : State) (rs : List ConfigRecord) (image : List Byte) :
    (measureBoot s rs image).gcc = s.gcc := by
  simp only [measureBoot, extendMeasure_gcc]
  exact (foldl_gcc (fun _ _ => by simp) _ _).trans (by simp)

@[simp] theorem releaseLemelo_gcc (s : State) (rs : List ConfigRecord) : (releaseLemelo s rs).gcc = s.gcc :=
  (foldl_gcc (fun _ _ => by simp) _ _).trans (by simp)

@[simp] theorem testItemOf_gcc (s : State) (item : Nat) : (testItemOf s item).gcc = s.gcc := by
  simp only [testItemOf, postHealth_gcc]
  exact foldl_fst_gcc (fun _ _ => by simp) _ _

@[simp] theorem openFunctions_gcc (s : State) (rs : List ConfigRecord) : (openFunctions s rs).gcc = s.gcc := by
  have hports (l : List Nat) (s : State) : (l.foldl (fun s p => modPort s p (fun x => { x with state := 1 })) s).gcc = s.gcc :=
    foldl_gcc (fun _ _ => by simp) _ _
  have htenants (l : List (Nat × Config.Policy)) (s : State) :
      (l.foldl (fun s p => if p.1 < 16 ∧ policyOk s p.2 then createTenant s p.1 p.2 else s) s).gcc = s.gcc :=
    foldl_gcc (fun _ _ => by split <;> simp) _ _
  simp only [openFunctions, htenants, hports]

@[simp] theorem bootServices_gcc (s : State) : (bootServices s).gcc = s.gcc := by
  simp [bootServices]

@[simp] theorem leaveGroup_gcc (s : State) (k : Nat) : (leaveGroup s k).gcc = s.gcc := by
  unfold leaveGroup
  dsimp only
  split
  · exact foldl_gcc (fun _ _ => by simp) _ _
  · rfl

@[simp] theorem commitBundle_gcc (t : State) (w vw count : Nat) : (commitBundle t w vw count).gcc = t.gcc := by
  unfold commitBundle
  split <;> simp

@[simp] theorem logRefusal_gcc (s : State) (b : Bundle) (new : List Interval) (v : W64) (dt : Nat) :
    (logRefusal s b new v dt).gcc = s.gcc := rfl

@[simp] theorem trapBundle_gcc (t : State) (cause : Nat) (tval : Option W64) : (trapBundle t cause tval).gcc = t.gcc := by
  simp [trapBundle]

@[simp] theorem trapAtIssue_gcc (t : State) (k cause : Nat) (v : W64) : (trapAtIssue t k cause v).gcc = t.gcc := rfl

@[simp] theorem tickCtx_gcc (s : State) (k : Nat) : (tickCtx s k).gcc = s.gcc := rfl

@[simp] theorem tickReady_gcc (s : State) (k : Nat) : (tickReady s k).gcc = s.gcc := by
  simp [tickReady]

@[simp] theorem countEnergy_gcc (s : State) (n : Nat) : (countEnergy s n).gcc = s.gcc := rfl

@[simp] theorem countRun_gcc (s : State) (k : Nat) : (countRun s k).gcc = s.gcc := by
  simp [countRun]

@[simp] theorem beginCycle_gcc (s : State) : (beginCycle s).gcc = s.gcc := by
  simp [beginCycle]

end Sys2Proof.Machine
end

section
/-! PROOFS. Every instruction and event answers, and a step runs what decodes (R21, R25, R161, R284). -/

namespace Sys2Proof.Machine

/-! ### Outcomes that go on at the same GCC -/

/-- The machine goes on, and GCC stays. -/
structure Steady (s : State) (o : Host.Outcome State Fault Refusal) : Prop where
  next : ∃ t, o = .next t ∧ t.gcc = s.gcc

theorem steady_next {s t : State} (h : t.gcc = s.gcc) : Steady s (.next t) := ⟨t, rfl, h⟩

theorem steady_ite {s : State} {p : Prop} [Decidable p] {a b : Host.Outcome State Fault Refusal} (ha : Steady s a) (hb : Steady s b) :
    Steady s (if p then a else b) := by
  split
  · exact ha
  · exact hb

theorem Steady.of_gcc {s t : State} {o : Host.Outcome State Fault Refusal} (h : Steady t o) (ht : t.gcc = s.gcc) : Steady s o := by
  obtain ⟨u, hu, hg⟩ := h.next
  exact ⟨u, hu, hg.trans ht⟩

/-! ### The syllables of a walk -/

@[simp] theorem walkWrite_gcc (s : State) (w : Walk) (off len : Nat) (m : Memory) : (walkWrite s w off len m).gcc = s.gcc := by
  simp [walkWrite]

@[simp] theorem zeroRuns_gcc (s : State) (w : Walk) (t : OpenTile) : (zeroRuns s w t).gcc = s.gcc :=
  foldl_gcc (fun _ _ => by split <;> simp) _ _

theorem steady_walkOp {s : State} {f : Walk → State} (h : ∀ w, (f w).gcc = s.gcc) : Steady s (walkOp s f) := by
  unfold walkOp
  split
  · exact steady_next rfl
  · exact steady_next (h _)

theorem steady_walkReg (d : WReg) (f : Walk → W64) (s : State) : Steady s (walkReg d f s) := steady_walkOp fun _ => by simp

theorem steady_walkBranch {n : Nat} (taken : Walk → Bool) (i : BitVec n) (s : State) : Steady s (walkBranch taken i s) :=
  steady_walkOp fun _ => by simp

theorem steady_walkLoad (p : Bool) (d a : WReg) (i : BitVec 18) (s : State) : Steady s (walkLoad p d a i s) :=
  steady_walkOp fun w => by
    dsimp only
    split
    · simp
    · split <;> simp

theorem steady_wloop (d : WReg) (i : BitVec 18) (s : State) : Steady s (execWloop d i s) := steady_walkOp fun _ => by simp

theorem steady_wemit (a b : WReg) (s : State) : Steady s (execWemit a b s) :=
  steady_walkOp fun w => by
    dsimp only
    split
    · simp
    · split
      · simp
      · split
        · simp
        · split <;> simp

theorem steady_wemitz (t : TileIx) (s : State) : Steady s (execWemitz t s) := steady_walkOp fun _ => by simp

theorem steady_wtile (a b : WReg) (f : BitVec 5) (first : Bool) (t : TileIx) (s : State) : Steady s (execWtile a b f first t s) :=
  steady_walkOp fun w => by simp

theorem steady_wgetc (d : WReg) (n : BitVec 14) (s : State) : Steady s (execWgetc d n s) := steady_walkOp fun _ => by simp

theorem steady_wsetc (a : WReg) (n : BitVec 14) (s : State) : Steady s (execWsetc a n s) := steady_walkOp fun _ => by simp

theorem steady_wgath (d a b : WReg) (s : State) : Steady s (execWgath d a b s) :=
  steady_walkOp fun w => by
    dsimp only
    split
    · simp
    · split
      · simp
      · split
        · simp
        · split
          · simp
          · split <;> simp

theorem steady_wflush (s : State) : Steady s (execWflush s) :=
  steady_walkOp fun w => by split <;> simp

theorem steady_weos (s : State) : Steady s (execWeos s) := steady_walkOp fun _ => by simp

theorem steady_whalt (s : State) : Steady s (execWhalt s) := steady_walkOp fun _ => by simp

/-! ### The events of a cycle -/

theorem steady_performClass (cl : ActClass) (k i : Nat) (s : State) : Steady s (performClass cl k i s) := by
  unfold performClass
  split
  · exact steady_next rfl
  · exact steady_next (by split <;> simp)

theorem steady_performUntimed (cl : JobClass) (k i : Nat) (s : State) : Steady s (performUntimed cl k i s) := by
  unfold performUntimed
  split
  · exact steady_next rfl
  · exact steady_next (by split <;> simp)

theorem steady_waitCompletion (k : Nat) (s : State) : Steady s (execWaitCompletion k s) := by
  unfold execWaitCompletion
  dsimp only
  split
  · exact steady_next rfl
  · split
    · exact steady_next rfl
    · split
      · exact steady_next rfl
      · split <;> exact steady_next (by simp)
      · exact steady_next (by simp)

theorem steady_taskEndComplete (k : Nat) (s : State) : Steady s (execTaskEndComplete k s) := by
  unfold execTaskEndComplete
  dsimp only
  split
  · split
    · exact steady_next rfl
    · split <;> exact steady_next (by simp)
  · exact steady_next rfl

theorem steady_handOver (core : Nat) (s : State) : Steady s (execHandOver core s) := by
  unfold execHandOver
  dsimp only
  split
  · exact steady_next rfl
  · split
    · exact steady_next (by simp)
    · split <;> exact steady_next (by simp)

theorem steady_lowPriorityPromotion (k : Nat) (s : State) : Steady s (execLowPriorityPromotion k s) :=
  steady_ite (steady_next (by simp)) (steady_next rfl)

theorem steady_runOverrun (k : Nat) (s : State) : Steady s (execRunOverrun k s) :=
  steady_ite (steady_next (by split <;> simp)) (steady_next rfl)

theorem steady_csyncRelease (k : Nat) (s : State) : Steady s (execCsyncRelease k s) :=
  steady_ite (steady_next (foldl_gcc (fun _ _ => by split <;> simp) _ _)) (steady_next rfl)

theorem steady_waitmPoll (k : Nat) (s : State) : Steady s (execWaitmPoll k s) := steady_next (by simp)

theorem steady_waitmTimeout (k : Nat) (s : State) : Steady s (execWaitmTimeout k s) := steady_next (by simp)

theorem steady_allowanceApply (k : Nat) (s : State) : Steady s (execAllowanceApply k s) := by
  unfold execAllowanceApply
  split
  · exact steady_next rfl
  · exact steady_ite (steady_next rfl) (steady_next (by simp))

theorem steady_trapEntry (k : Nat) (s : State) : Steady s (execTrapEntry k s) := by
  refine steady_ite (steady_next rfl) ?_
  split
  · exact steady_next rfl
  · refine steady_ite (steady_next ?_) (steady_next (by simp))
    exact (foldl_gcc (fun _ _ => by simp) _ _).trans (by simp)

theorem steady_rteResume (k : Nat) (s : State) : Steady s (execRteResume k s) := by
  unfold execRteResume
  dsimp only
  split
  · exact steady_ite (steady_next rfl) (steady_next (by simp))
  · exact steady_next rfl

theorem steady_freezeBoundary (k : Nat) (s : State) : Steady s (execFreezeBoundary k s) :=
  steady_ite (steady_next ((foldl_gcc (fun _ _ => by simp) _ _).trans (by simp))) (steady_next rfl)

theorem steady_thaw (k : Nat) (s : State) : Steady s (execThaw k s) :=
  steady_ite (steady_next (foldl_gcc (fun _ _ => by simp) _ _)) (steady_next rfl)

theorem steady_timedPageFault (k i : Nat) (s : State) : Steady s (execTimedPageFault k i s) := by
  unfold execTimedPageFault
  split
  · exact steady_next rfl
  · exact steady_ite (steady_next (by simp)) (steady_ite (steady_next rfl) (steady_next (by simp)))

theorem steady_sideLogRetry (core : Nat) (s : State) : Steady s (execSideLogRetry core s) := ⟨execSideLogRetry_gcc core s⟩

theorem steady_queueEntryEnter (clus q : Nat) (s : State) : Steady s (execQueueEntryEnter clus q s) := by
  unfold execQueueEntryEnter
  split
  · exact steady_next rfl
  · exact steady_ite (steady_next rfl) (steady_next (by simp))

theorem steady_walkStart (clus : Nat) (s : State) : Steady s (execWalkStart clus s) := by
  unfold execWalkStart
  dsimp only
  split
  · split
    · exact steady_next rfl
    · split <;> exact steady_next (by simp)
  · exact steady_next rfl

theorem steady_walkResume (clus : Nat) (s : State) : Steady s (execWalkResume clus s) :=
  (steady_walkOp fun w => by
    split
    · split <;> simp
    · rfl).of_gcc (t := { s with walker := clus }) rfl

theorem steady_wtileOpen (clus : Nat) (s : State) : Steady s (execWtileOpen clus s) :=
  (steady_walkOp fun w => by
    split
    · rfl
    · split <;> simp).of_gcc (t := { s with walker := clus }) rfl

theorem steady_walkerTokenEnqueue (clus : Nat) (s : State) : Steady s (execWalkerTokenEnqueue clus s) :=
  (steady_walkOp fun w => by
    split
    · rfl
    · split
      · rfl
      · dsimp only
        split <;> simp).of_gcc (t := { s with walker := clus }) rfl

theorem steady_pgreqEvict (k : Nat) (v : W64) (s : State) : Steady s (execPgreqEvict k v s) := by
  unfold execPgreqEvict
  dsimp only
  split
  · exact steady_next rfl
  · refine steady_ite (steady_next rfl) ?_
    split
    · exact steady_next (by simp)
    · exact steady_ite (steady_next (by simp)) (steady_next (by simp))

/-- The end of a request whose page has moved. -/
theorem movedPage_gcc (s : State) (k : Nat) (u : Untimed) (old new e t page n : Nat) :
    (endRequest (dropPage (putFinal (moveBytes s old new n) e
      (bytesOfNat 8 (new + memReadNat (moveBytes s old new n).mem e 8 % n))) t page) k u 0).gcc = s.gcc := by simp

theorem steady_pgreqMigrate (k : Nat) (v : W64) (s : State) : Steady s (execPgreqMigrate k v s) := by
  unfold execPgreqMigrate
  split
  · exact steady_next rfl
  · refine steady_ite (steady_next rfl) ?_
    extract_lets t page
    split
    · exact steady_next (by simp)
    · refine steady_ite (steady_next (by simp)) (steady_ite (steady_next (by simp)) ?_)
      split
      · exact steady_next (by simp)
      · exact steady_next (movedPage_gcc _ _ _ _ _ _ _ _ _)

theorem steady_droopRelease (s : State) : Steady s (execDroopRelease s) := steady_next (by split <;> rfl)

theorem steady_boot (s : State) : Steady s (execBoot s) := by
  refine steady_next ?_
  split <;> simp

theorem steady_clusterRetentionExit (clus : Nat) (ok : Bool) (s : State) : Steady s (execClusterRetentionExit clus ok s) := by
  have hpost (l : List Nat) (t : State) :
      (l.foldl (fun s k => postCtxFault s k 0 0x22 0 0 (ctxOf s k).pc.toNat) t).gcc = t.gcc := foldl_gcc (fun _ _ => by simp) _ _
  have hroll (l : List (Nat × Nat)) (t : State) : (l.foldl (fun s n => rollNode 1025 s n.1 n.2 true) t).gcc = t.gcc :=
    foldl_gcc (fun _ _ => by simp) _ _
  unfold execClusterRetentionExit
  dsimp only
  split
  · exact steady_next (by simp)
  · refine steady_next ?_
    split <;> simp only [retireCluster_gcc, testUnit_gcc, postHealth_gcc, modCluster_gcc, hroll, hpost]

/-! ### Operations of a slot and bundles -/

theorem AtIssue.steady {s : State} {o : Host.Outcome State Fault Refusal} (h : AtIssue s o) : Steady s o := by
  obtain ⟨r, rfl, hr⟩ := h
  cases r with
  | ok t => exact steady_next (hr.kept t rfl).gcc
  | trap c v => exact steady_next (by simp)

theorem steady_wstop (s : State) : Steady s (execWstop s) := by
  have hw (l : List Walk) (t : State) : (l.foldl stopQueued t).gcc = t.gcc := foldl_gcc (fun _ _ => by simp [stopQueued]) _ _
  unfold execWstop withSlot
  dsimp only
  split
  · exact steady_next (by simp [hw])
  · exact steady_next (by simp)

theorem steady_slot (s : State) {i : Instr} (h : slotOf i ≠ none) : Steady s (exec i s) := by
  by_cases hw : i = .wstop
  · subst hw
    exact steady_wstop s
  · exact (exec_atIssue s h hw).steady

theorem steady_runOps (s : State) {ops : List BundleOp} (h : ∀ o ∈ ops, slotOf o.instr ≠ none) : Steady s (runOps ops s) := by
  induction ops generalizing s with
  | nil => exact steady_next rfl
  | cons o r ih =>
    obtain ⟨ho, hr⟩ := List.forall_mem_cons.mp h
    obtain ⟨t, ht, hg⟩ := (steady_slot { s with slot := o.slot } ho).next
    simp only [runOps, ht]
    exact steady_ite (steady_next hg) ((ih t hr).of_gcc hg)

/-- What an attempt to issue a bundle answers, at the same GCC. -/
structure SteadyAttempt (s : State) (a : Attempt) : Prop where
  issued : ∀ t, a = .issued t → t.gcc = s.gcc
  trapped : ∀ t c v, a = .trapped t c v → t.gcc = s.gcc
  goesOn : ∀ o, a ≠ .stopped o

theorem steadyAttempt_trapped {s t : State} {c : Nat} {v : Option W64} (h : t.gcc = s.gcc) : SteadyAttempt s (.trapped t c v) :=
  ⟨fun _ hi => (Attempt.noConfusion hi), fun _ _ _ ht => by cases ht; exact h, fun _ hs => Attempt.noConfusion hs⟩

theorem steadyAttempt_runBundle (s : State) (b : Bundle) {ops : List BundleOp} (n : Nat) (h : ∀ o ∈ ops, slotOf o.instr ≠ none) :
    SteadyAttempt s (runBundle s b ops n) := by
  unfold runBundle
  split
  · exact steadyAttempt_trapped rfl
  · obtain ⟨t, ht, hg⟩ := (steady_runOps (modHereCore s fun c => { c with weight := b.weight + n }) h).next
    rw [ht]
    dsimp only
    split
    · exact steadyAttempt_trapped rfl
    · exact ⟨fun _ hu => by cases hu; simpa using hg, fun _ _ _ hu => Attempt.noConfusion hu, fun _ hu => Attempt.noConfusion hu⟩

theorem steadyAttempt_tryIssue (s : State) (k : Nat) : SteadyAttempt s (tryIssue s k) := by
  unfold tryIssue
  dsimp only
  split
  · exact steadyAttempt_trapped rfl
  · next b hb =>
    unfold tryBundle
    dsimp only
    split
    · split
      · exact ⟨fun _ hu => Attempt.noConfusion hu, fun _ _ _ hu => Attempt.noConfusion hu, fun _ hu => Attempt.noConfusion hu⟩
      · exact steadyAttempt_trapped (by simp)
    · obtain ⟨hi, ht, hg⟩ := steadyAttempt_runBundle { s with cur := k, issueFault := none } b
        (drawsAt ((activeOps (here { s with cur := k, issueFault := none }) b).flatMap fun o =>
          drawsOf { s with cur := k, issueFault := none } o.instr) s.gcc) (activeOps_ofSlot hb (here { s with cur := k, issueFault := none }))
      exact ⟨hi, ht, hg⟩

theorem steady_issueBundle (k : Nat) (s : State) : Steady s (issueBundle k s) := by
  obtain ⟨hi, ht, hg⟩ := steadyAttempt_tryIssue s k
  unfold issueBundle
  split
  · next h => exact steady_next (hi _ h)
  · next h => exact steady_next (by simp [ht _ _ _ h])
  · exact steady_next rfl
  · next h => exact absurd h (hg _)

theorem steady_issueCore (n : Nat) (s : State) : Steady s (issueCore n s) := by
  unfold issueCore
  split
  · exact steady_ite (steady_issueBundle _ s) (steady_next rfl)
  · exact steady_next rfl

theorem verdict_trap_gcc {s t : State} {k c : Nat} {v : W64} (h : verdict s k = .trap t c v) : t.gcc = s.gcc := by
  unfold verdict at h
  split at h
  · cases h
  · dsimp only at h
    split at h
    · split at h <;> cases h
    · cases h
      simp
    · cases h

/-! ### A visit of the walk phase -/

theorem steady_decodedSyllable {x : Nat} {i : Instr} (h : decodeWalker x = some i) (s : State) : Steady s (exec i s) := by
  unfold decodeWalker walkNeed at h
  dsimp only at h
  split at h
  case h_1 | h_2 => cases h; exact steady_walkLoad _ _ _ _ s
  case h_4 => cases h; exact steady_walkReg _ _ s
  case h_24 => cases h
  all_goals
    split at h <;> cases h
  case h_15 => exact steady_wemit _ _ s
  case h_16 => exact steady_wemitz _ s
  case h_17 => exact steady_wtile _ _ _ _ _ s
  case h_18 => exact steady_wflush s
  case h_19 => exact steady_weos s
  case h_20 => exact steady_wgetc _ _ s
  case h_21 => exact steady_wsetc _ _ s
  case h_22 => exact steady_whalt s
  case h_23 => exact steady_wgath _ _ _ s
  case h_14 => exact steady_wloop _ _ s
  case h_10 | h_11 | h_12 | h_13 => exact steady_walkBranch _ _ s
  all_goals exact steady_walkReg _ _ s

theorem steady_walkSyllable (w : Walk) (s : State) : Steady s (walkSyllable w s) := by
  unfold walkSyllable
  split
  · exact steady_next (by simp)
  · split
    · exact steady_next (by simp)
    · next h => exact steady_decodedSyllable h s

theorem steady_walkerEvent (clus : Nat) (s : State) : Steady s (walkerEvent clus s) := by
  refine Steady.of_gcc (t := { s with walker := clus }) ?_ rfl
  unfold walkerEvent
  dsimp only
  split
  · split
    · exact (steady_walkStart clus { s with walker := clus })
    · exact steady_next rfl
  · refine steady_ite (steady_next rfl) (steady_ite (steady_next (by simp)) (steady_ite (steady_next (by simp [stopWalk])) ?_))
    refine steady_ite (steady_walkerTokenEnqueue clus _) ?_
    split
    · exact steady_walkResume clus _
    · exact steady_ite (steady_wtileOpen clus _) (steady_ite (steady_next rfl) (steady_walkSyllable _ _))

theorem steady_untimedEvent (k i : Nat) (s : State) : Steady s (untimedEvent k i s) := by
  unfold untimedEvent
  split
  · exact steady_next rfl
  · refine steady_ite (steady_next rfl) ?_
    split
    · exact steady_ite (steady_pgreqMigrate k _ s) (steady_pgreqEvict k _ s)
    · split <;> exact steady_performUntimed _ k i s

theorem steady_visitEvent (n : Nat) (s : State) : Steady s (visitEvent n s) := by
  unfold visitEvent
  dsimp only
  split
  · exact steady_untimedEvent _ _ s
  · exact steady_walkerEvent _ s
  · exact steady_queueEntryEnter _ _ s
  · exact steady_ite (steady_waitmPoll _ s) (steady_next rfl)
  · exact steady_sideLogRetry _ s

/-! ### Events that are due -/

/-- A rule that finds only events at the same GCC. -/
def SteadyRule (f : State → Option (Host.Outcome State Fault Refusal)) : Prop := ∀ s o, f s = some o → Steady s o

theorem steadyRule_map {α : Type} {f : State → Option α} {g : State → α → Host.Outcome State Fault Refusal}
    (h : ∀ s a, Steady s (g s a)) : SteadyRule fun s => (f s).map (g s) := by
  intro s o ho
  obtain ⟨a, -, rfl⟩ := Option.map_eq_some_iff.mp ho
  exact h s a

theorem steadyRule_if {p : State → Prop} [∀ s, Decidable (p s)] {g : State → Host.Outcome State Fault Refusal} (h : ∀ s, Steady s (g s)) :
    SteadyRule fun s => if p s then some (g s) else none := by
  intro s o ho
  dsimp only at ho
  split at ho <;> cases ho
  exact h s

theorem steadyRule_firstDue {l : List (State → Option (Host.Outcome State Fault Refusal))} (h : ∀ f ∈ l, SteadyRule f) :
    SteadyRule (firstDue l) := by
  induction l with
  | nil => exact fun _ _ ho => by cases ho
  | cons f r ih =>
    obtain ⟨hf, hr⟩ := List.forall_mem_cons.mp h
    intro s o ho
    unfold firstDue at ho
    split at ho
    · next hx => cases ho; exact hf s _ hx
    · exact ih hr s o ho

theorem steady_trapEvent (s : State) (k : Nat) : Steady s (trapEvent s k) := by
  refine steady_ite (steady_trapEntry k s) ?_
  split
  · next h =>
    refine steady_ite (steady_next ?_) ((steady_trapEntry k _).of_gcc (by split <;> simp))
    simp [verdict_trap_gcc h]
  · exact steady_trapEntry k s

theorem steady_freezeAtSource (s : State) (k : Nat) : Steady s (freezeAtSource k s) := by
  unfold freezeAtSource
  split
  · exact steady_next rfl
  · exact steady_next (by split <;> simp)

theorem steadyRule_dueVerdict : SteadyRule dueVerdict := by
  intro s o ho
  obtain ⟨k, -, hk⟩ := List.exists_of_findSome?_eq_some ho
  unfold verdictEvent at hk
  split at hk
  · cases hk
  · next h =>
    cases hk
    exact steady_next (verdict_trap_gcc h)
  · cases hk
    exact steady_next (by simp)

theorem steadyRule_startEvent : SteadyRule startEvent := by
  refine steadyRule_firstDue ?_
  simp only [List.mem_cons, List.not_mem_nil, or_false, forall_eq_or_imp, forall_eq]
  refine ⟨steadyRule_if steady_boot, ?_, steadyRule_if steady_droopRelease, steadyRule_map fun s i => steady_allowanceApply i s,
    steadyRule_map fun s k => steady_freezeBoundary k s, steadyRule_map steady_freezeAtSource,
    steadyRule_map fun s k => steady_rteResume k s, steadyRule_map fun s k => steady_thaw k s,
    steadyRule_map fun s x => steady_timedPageFault x.1 x.2 s, steadyRule_map fun s k => steady_csyncRelease k s,
    steadyRule_map fun s k => steady_waitmTimeout k s, steadyRule_map steady_trapEvent,
    steadyRule_map fun s n => steady_handOver n s, steadyRule_map fun s k => steady_waitCompletion k s,
    steadyRule_map fun s k => steady_taskEndComplete k s, steadyRule_dueVerdict⟩
  exact steadyRule_map fun s c => (steady_clusterRetentionExit _ _ _).of_gcc rfl

theorem steady_performEvent (k i : Nat) (s : State) : Steady s (performEvent k i s) := by
  unfold performEvent
  split
  · exact steady_next rfl
  · split <;> exact steady_performClass _ k i s

theorem steadyRule_regsEvent : SteadyRule regsEvent := by
  intro s o ho
  obtain ⟨k, -, hk⟩ := List.exists_of_findSome?_eq_some ho
  obtain ⟨i, -, rfl⟩ := Option.map_eq_some_iff.mp hk
  exact steady_performEvent k i s

theorem steadyRule_storageEvent (ph : Phase) : SteadyRule (storageEvent ph) := steadyRule_map fun s _ => steady_performEvent _ _ s

theorem steadyRule_boundaryEvent : SteadyRule boundaryEvent := by
  refine steadyRule_firstDue ?_
  simp only [List.mem_cons, List.not_mem_nil, or_false, forall_eq_or_imp, forall_eq]
  exact ⟨steadyRule_map fun s k => steady_runOverrun k s, steadyRule_map fun s k => steady_lowPriorityPromotion k s⟩

/-! ### A step of the cycle -/

theorem endCycle_gcc (s : State) : (endCycle s).gcc = s.gcc + 1 := by
  have hflr (l : List Nat) (s : State) :
      (l.foldl (fun s fn => if (tenantOf s fn).flr then finishFlr s fn else s) s).gcc = s.gcc :=
    foldl_gcc (fun _ _ => by split <;> simp) _ _
  have hwin (l : List Nat) (s : State) :
      (l.foldl (fun s fn => if (tenantOf s fn).winQueue = [] then s else flushWindow fn (tenantOf s fn).winQueue s) s).gcc = s.gcc :=
    foldl_gcc (fun _ _ => by split <;> simp) _ _
  have hswap (l : List (Nat × ClusterState)) (s : State) : (l.foldl (fun s c => finishSwap s c.1) s).gcc = s.gcc :=
    foldl_gcc (fun _ _ => by simp) _ _
  have htick (l : List Nat) (s : State) : (l.foldl tickCtx s).gcc = s.gcc := foldl_gcc (fun _ _ => by simp) _ _
  have henergy (l : List Nat) (s : State) : (l.foldl countEnergy s).gcc = s.gcc := foldl_gcc (fun _ _ => by simp) _ _
  have hwidth (l : List Nat) (s : State) : (l.foldl decideWidth s).gcc = s.gcc := foldl_gcc (fun _ _ => by simp) _ _
  have hready (l : List Nat) (s : State) : (l.foldl tickReady s).gcc = s.gcc := foldl_gcc (fun _ _ => by simp) _ _
  simp only [endCycle, hready, hwidth, henergy, htick, tickRetention_gcc, tickWear_gcc, hswap, sendOutbound_gcc, hwin, hflr]

theorem orNext_some {s t : State} {f : State → Option (Host.Outcome State Fault Refusal)} (h : SteadyRule f) :
    Steady s (orNext (f s) t) ∨ (f s = none ∧ orNext (f s) t = .next t) := by
  cases hf : f s with
  | none => exact .inr ⟨rfl, rfl⟩
  | some o => exact .inl (h s o hf)

theorem steady_orNext {s t : State} {f : State → Option (Host.Outcome State Fault Refusal)} (h : SteadyRule f) (ht : t.gcc = s.gcc) :
    Steady s (orNext (f s) t) := by
  cases hf : f s with
  | none => exact steady_next ht
  | some o => exact h s o hf

theorem steady_cycleStep {s : State} (h : s.phase ≠ .boundary) : Steady s (cycleStep s) := by
  unfold cycleStep
  split
  · exact steady_orNext steadyRule_startEvent (beginCycle_gcc s)
  · exact steady_orNext steadyRule_regsEvent rfl
  · split
    · exact (steady_issueCore _ _).of_gcc rfl
    · exact steady_next rfl
  · exact steady_next (by simp)
  · exact steady_orNext (steadyRule_storageEvent _) rfl
  · exact steady_orNext (steadyRule_storageEvent _) rfl
  · split
    · exact (steady_visitEvent _ _).of_gcc rfl
    · exact steady_next rfl
  · next hp => exact absurd hp h

/-! ### Every instruction and every event answers -/

/-- The machine goes on. -/
def Answers (o : Host.Outcome State Fault Refusal) : Prop := ∃ t, o = .next t

theorem answers_next (t : State) : Answers (.next t) := ⟨t, rfl⟩

theorem answers_ite {p : Prop} [Decidable p] {a b : Host.Outcome State Fault Refusal} (ha : Answers a) (hb : Answers b) :
    Answers (if p then a else b) := by
  split
  · exact ha
  · exact hb

theorem Steady.answers {s : State} {o : Host.Outcome State Fault Refusal} (h : Steady s o) : Answers o := by
  obtain ⟨t, ht, -⟩ := h.next
  exact ⟨t, ht⟩

theorem answers_serve (cmd : Nat) (pf : Bool) (fn : Nat) (s : State) (f : Tenant → Reply) : Answers (serve cmd pf fn s f) :=
  answers_ite (answers_next _) (answers_ite (answers_next _) (answers_next _))

theorem answers_translationResolved (k i : Nat) (s : State) : Answers (execTranslationResolved k i s) := by
  refine answers_ite (answers_next _) ?_
  split
  · exact answers_next _
  · exact answers_ite (answers_next _) (answers_ite (answers_next _) (answers_next _))

theorem answers_nodeAdmission (fn : Nat) (s : State) : Answers (execNodeAdmission fn s) := by
  unfold execNodeAdmission
  extract_lets t
  split
  · exact answers_ite (answers_next _) (answers_ite (answers_next _) (answers_ite (answers_next _) (answers_next _)))
  · exact answers_next _

theorem answers_gangPlacement (fn n : Nat) (l : List Nat) (s : State) : Answers (execGangPlacement fn n l s) := by
  unfold execGangPlacement
  extract_lets x
  split
  · exact answers_next _
  · refine answers_ite (answers_next _) ?_
    split
    · exact answers_next _
    · refine answers_ite (answers_next _) (answers_ite (answers_next _) ?_)
      split <;> exact answers_next _

theorem answers_regionMigrationComplete (r st : Nat) (s : State) : Answers (execRegionMigrationComplete r st s) := by
  unfold execRegionMigrationComplete
  split
  · exact answers_next _
  · refine answers_ite (answers_next _) ?_
    split <;> exact answers_next _

theorem answers_preemptionTimeout (fn n : Nat) (s : State) : Answers (execPreemptionTimeout fn n s) := by
  unfold execPreemptionTimeout
  split
  · exact answers_next _
  · extract_lets ms all standing t
    refine answers_ite (answers_next _) (answers_ite ?_ (answers_next _))
    split <;> exact answers_next _

theorem answers_nodeRollback (fn n : Nat) (own : Bool) (s : State) : Answers (execNodeRollback fn n own s) := by
  unfold execNodeRollback
  extract_lets x errs
  split <;> exact answers_next _

theorem answers_registerWrite (fn off : Nat) (v : W64) (s : State) : Answers (execRegisterWrite fn off v s) := by
  unfold execRegisterWrite
  extract_lets t
  refine answers_ite (answers_next _) (answers_ite (answers_next _) (answers_ite (answers_ite (answers_next _) ?_)
    (answers_ite (answers_next _) (answers_ite (answers_next _) ?_))))
  · split <;> exact answers_next _
  · split
    · exact answers_ite (answers_next _) (answers_ite (answers_next _) (answers_next _))
    all_goals exact answers_next _

theorem answers_brownOutRecovery (s : State) : Answers (execBrownOutRecovery s) := by
  unfold execBrownOutRecovery
  split <;> exact answers_next _

/-- A walker syllable or an event answers a next state. -/
theorem answers_noSlot (s : State) {i : Instr} (h : slotOf i = none) : Answers (exec i s) := by
  cases i with
  | wld | wldp => exact (steady_walkLoad _ _ _ _ s).answers
  | wadd | waddi | wsub | wshli | wshri | wand | wli => exact (steady_walkReg _ _ s).answers
  | wbeq | wbne | wblt | wj => exact (steady_walkBranch _ _ s).answers
  | wloop => exact (steady_wloop _ _ s).answers
  | wemit => exact (steady_wemit _ _ s).answers
  | wemitz => exact (steady_wemitz _ s).answers
  | wtile => exact (steady_wtile _ _ _ _ _ s).answers
  | wgetc => exact (steady_wgetc _ _ s).answers
  | wsetc => exact (steady_wsetc _ _ s).answers
  | wgath => exact (steady_wgath _ _ _ s).answers
  | wflush => exact (steady_wflush s).answers
  | weos => exact (steady_weos s).answers
  | whalt => exact (steady_whalt s).answers
  | timedResultPerform | copyLineLand | copymFollowOnStart | mmaKgroupUpdate | xsendLineArrival | vnestStep =>
    exact (steady_performClass _ _ _ s).answers
  | untimedOperationPerform | barrierArrivalCount | madderGatherReturn | mmagStart | mmasTokenTake =>
    exact (steady_performUntimed _ _ _ s).answers
  | waitCompletion => exact (steady_waitCompletion _ s).answers
  | taskEndComplete => exact (steady_taskEndComplete _ s).answers
  | handOver => exact (steady_handOver _ s).answers
  | lowPriorityPromotion => exact (steady_lowPriorityPromotion _ s).answers
  | runOverrun => exact (steady_runOverrun _ s).answers
  | csyncRelease => exact (steady_csyncRelease _ s).answers
  | allowanceApply => exact (steady_allowanceApply _ s).answers
  | trapEntry => exact (steady_trapEntry _ s).answers
  | rteResume => exact (steady_rteResume _ s).answers
  | freezeBoundary => exact (steady_freezeBoundary _ s).answers
  | thaw => exact (steady_thaw _ s).answers
  | timedPageFault => exact (steady_timedPageFault _ _ s).answers
  | sideLogRetry => exact (steady_sideLogRetry _ s).answers
  | queueEntryEnter => exact (steady_queueEntryEnter _ _ s).answers
  | walkStart => exact (steady_walkStart _ s).answers
  | walkResume => exact (steady_walkResume _ s).answers
  | wtileOpen => exact (steady_wtileOpen _ s).answers
  | walkerTokenEnqueue => exact (steady_walkerTokenEnqueue _ s).answers
  | pgreqEvict => exact (steady_pgreqEvict _ _ s).answers
  | pgreqMigrate => exact (steady_pgreqMigrate _ _ s).answers
  | clusterRetentionExit => exact (steady_clusterRetentionExit _ _ s).answers
  | waitmPoll | waitmTimeout | timerInterrupt | qctlTd | qctlRst | hostWindowWrite | hostWindowRead | functionLevelReset | fbpop |
    ackFlit | nak | widthMarkerFlit | droopTrip | droopRelease | powerLoss | boot | wearCrossing => exact answers_next _
  | codeFetchMiss | codeFetchArrival | nodeReady | noPathTimeout | brownOut | clusterRetire =>
    exact answers_ite (answers_next _) (answers_next _)
  | healthStateChange | scrubUncorrectable | laneRetest => exact answers_ite (answers_next _) (answers_next _)
  | launchPortWrite => exact answers_ite (answers_ite (answers_next _) (answers_next _)) (answers_next _)
  | nodeCommit | redundantCompare | dataFlit => exact answers_ite (answers_next _) (answers_ite (answers_next _) (answers_next _))
  | laneFault | retrainComplete =>
    exact answers_ite (answers_next _) (answers_ite (answers_next _) (answers_ite (answers_next _) (answers_next _)))
  | translationResolved => exact answers_translationResolved _ _ s
  | nodeAdmission => exact answers_nodeAdmission _ s
  | gangPlacement => exact answers_gangPlacement _ _ _ s
  | regionMigrationComplete => exact answers_regionMigrationComplete _ _ s
  | preemptionTimeout => exact answers_preemptionTimeout _ _ s
  | nodeRollback => exact answers_nodeRollback _ _ _ s
  | registerWrite => exact answers_registerWrite _ _ _ s
  | regionCreate | regionFree | regionDma | kernelLoad | faultRead | ctxControl | attest | healthRead | journalRead | tenantCreate |
    tenantDestroy | setAllowCmd | sealSet | healthLogRead | powerSet | telemetry | imageWrite =>
    simp only [exec, execRegionCreate, execRegionFree, execRegionDma, execKernelLoad, execFaultRead, execCtxControl,
      execAttest, execHealthRead, execJournalRead, execTenantCreate, execTenantDestroy, execSetAllowCmd, execSealSet,
      execHealthLogRead, execPowerSet, execTelemetry, execImageWrite]
    exact answers_serve _ _ _ _ _
  | brownOutRecovery => exact answers_brownOutRecovery s
  | _ => cases h

theorem exec_answers (i : Instr) (s : State) : Answers (exec i s) := by
  by_cases h : slotOf i = none
  · exact answers_noSlot s h
  · exact (steady_slot s h).answers

theorem answers_cycleStep (s : State) : Answers (cycleStep s) := by
  by_cases h : s.phase = .boundary
  · have hb : cycleStep s = orNext (boundaryEvent s) (endCycle s) := by
      unfold cycleStep
      rw [h]
    rw [hb]
    cases hf : boundaryEvent s with
    | none => exact answers_next _
    | some o => exact (steadyRule_boundaryEvent s o hf).answers
  · exact (steady_cycleStep h).answers

/-- Settles O7: every arm of `exec` answers, and of the cycle's own steps only its end moves GCC. -/
theorem nothingStops : Obligations.NothingStops := by
  refine ⟨exec_answers, fun s => ?_, fun s t hs ht => ?_⟩
  · unfold step
    split
    · next i r hi =>
      unfold inputStep
      cases he : i.isEvent with
      | true => exact .inl (exec_answers i _)
      | false => exact .inr ⟨rfl, i, r, hi, he⟩
    · exact .inl (answers_cycleStep s)
  · have hc : cycleStep s = .next t := by
      unfold step at ht
      rwa [hs] at ht
    by_cases hp : s.phase = .boundary
    · unfold cycleStep at hc
      rw [hp] at hc
      dsimp only at hc
      cases hf : boundaryEvent s with
      | none =>
        rw [hf] at hc
        cases hc
        exact .inr ⟨hp, endCycle_gcc s, rfl, rfl⟩
      | some o =>
        rw [hf] at hc
        obtain ⟨u, hu, hg⟩ := (steadyRule_boundaryEvent s o hf).next
        have hou : o = .next t := hc
        rw [hu] at hou
        cases hou
        exact .inl hg
    · obtain ⟨u, hu, hg⟩ := (steady_cycleStep hp).next
      rw [hu] at hc
      cases hc
      exact .inl hg

/-! ### What a step runs -/

theorem step_issueCore {s : State} {n : Nat} {r : List Nat} (hi : s.inputs = []) (hp : s.phase = .issue) (ha : s.agenda = n :: r) :
    step s = issueCore n { s with agenda := r } := by
  simp only [step, hi, cycleStep, hp, ha]

theorem step_visitEvent {s : State} {n : Nat} {r : List Nat} (hi : s.inputs = []) (hp : s.phase = .walk) (ha : s.agenda = n :: r) :
    step s = visitEvent n { s with agenda := r } := by
  simp only [step, hi, cycleStep, hp, ha]

theorem visit_fields {what k i : Nat} (hw : what < 8) (hk : k < 4096) :
    visit what k i % 8 = what ∧ visit what k i / 8 % 4096 = k ∧ visit what k i / 8 / 4096 = i := by
  unfold visit
  omega

theorem tryIssue_ok {s t : State} {k : Nat} {b : Bundle} (ht : t = { s with cur := k, issueFault := none })
    (hb : checkBundle t k = .ok b) : tryIssue s k = tryBundle t b := by
  unfold tryIssue
  rw [← ht]
  dsimp only
  rw [hb]

theorem tryBundle_fits {t : State} {b : Bundle} (h : windowCheck (hereCore t) t.gcc b.weight (newDraws t b) = .fits) :
    tryBundle t b = runBundle t b (activeOps (here t) b) (drawsAt (newDraws t b) t.gcc) := by
  unfold newDraws at h
  unfold tryBundle
  dsimp only
  rw [h]
  rfl

/-- A bundle no loop of which ends in a delay slot runs its operations, and is finished or takes the first fault. -/
theorem runBundle_ran {t u : State} {b : Bundle} {ops : List BundleOp} {new : List Interval} (hend : endsInDelay (here t) = false)
    (hu : runOps ops (underWay t b.weight new) = .next u) : runBundle t b ops (drawsAt new t.gcc) =
      match u.issueFault with
      | some (c, v) => .trapped { t with fresh := u.fresh } c (some v)
      | none => .issued (commitBundle u b.weight (vectorWeight ops) b.count) := by
  unfold runBundle
  rw [hend]
  unfold underWay at hu
  simp only [Bool.false_eq_true, ↓reduceIte, hu] <;> rfl

theorem issueCore_canIssue {s : State} {n : Nat} {i : Fin 4} (hw : (coreOf s n).width = some i) (h : canIssue s (n * 4 + i.val) = true) :
    issueCore n s = issueBundle (n * 4 + i.val) s := by
  unfold issueCore
  rw [hw]
  simp [h]

/-- A walk that waits for nothing executes its syllable. -/
theorem walkerEvent_syllable {s : State} {clus word : Nat} {w : Walk} {i : Instr} (hwalk : (clusterOf s clus).walk = some w)
    (hf : (ctxOf s w.ctx).freeze = none) (hl : w.late = none) (hs : w.stop = false) (hp : w.pend = none) (hh : w.held = none)
    (ht : w.waitTile = none) (hword : walkFetch { s with walker := clus } w w.pc = some word) (hi : decodeWalker word = some i)
    (hm : meetsWalkWrite { s with walker := clus } w = false) : walkerEvent clus s = exec i { s with walker := clus } := by
  have hwalk' : (clusterOf { s with walker := clus } clus).walk = some w := hwalk
  have hf' : (ctxOf { s with walker := clus } w.ctx).freeze = none := hf
  unfold walkerEvent
  simp only [hwalk', hf', hl, hs, hp, hh, ht, hm, walkSyllable, hword, hi]
  simp

/-- Settles O5. -/
theorem stepRuns : Obligations.StepRuns := by
  refine ⟨?_, ?_, ?_⟩
  · intro s t n r i b hin hp ha hw ht hcan hb hwin hend
    obtain ⟨u, hu, -⟩ := (steady_runOps (underWay t b.weight (newDraws t b)) (activeOps_ofSlot hb (here t))).next
    have hstep : step s = issueBundle (n * 4 + i.val) { s with agenda := r } := by
      rw [step_issueCore hin hp ha]
      exact issueCore_canIssue hw hcan
    have htry : tryIssue { s with agenda := r } (n * 4 + i.val) =
        runBundle t b (activeOps (here t) b) (drawsAt (newDraws t b) t.gcc) := by
      rw [tryIssue_ok ht hb, tryBundle_fits hwin]
    rw [runBundle_ran hend hu] at htry
    refine ⟨u, hu, fun hnone => ?_, fun c v hsome => ?_⟩
    · rw [hnone] at htry
      rw [hstep, issueBundle, htry]
    · rw [hsome] at htry
      rw [hstep, issueBundle, htry]
  · intro s clus r w word i hin hp hc ha hwalk hf hl hs hpd hh hwt t hword hi hmeet
    obtain ⟨h8, h4, -⟩ := visit_fields (what := 1) (i := 0) (by decide) hc
    rw [step_visitEvent hin hp ha, visitEvent, h8, h4]
    exact walkerEvent_syllable hwalk hf hl hs hpd hh hwt hword hi hmeet
  · intro s i r hi he
    unfold step
    rw [hi]
    simp [inputStep, he]

end Sys2Proof.Machine
end

section
/-! PROOFS. Untimed work performs, and what a reader sees of a byte (R28, R30, R87, R94, R99, R178, R207, R281, R286, R292, R295). -/

namespace Sys2Proof.Machine

/-! ### Untimed work that finishes -/

theorem mem_allUntimed_modUntimed {s : State} {k seq : Nat} {f : Untimed → Untimed} {w : Untimed}
    (hw : w ∈ (ctxOf (modUntimed s k seq f) k).allUntimed) (hs : w.seq = seq) : ∃ u, w = f u := by
  have hctx : (ctxOf (modUntimed s k seq f) k).allUntimed =
      (ctxOf s k).allUntimed.map fun u => if u.seq = seq then f u else u := by
    simp [modUntimed, Ctx.allUntimed]
  rw [hctx] at hw
  obtain ⟨u, -, rfl⟩ := List.mem_map.mp hw
  by_cases hu : u.seq = seq
  · exact ⟨u, by simp [hu]⟩
  · simp [hu] at hs

/-- A finished operation is done, and its result has the value with which it finished. -/
theorem finishJob_done {s : State} {k seq : Nat} {x : Option W64} {fault : Option (Nat × W64)} {w : Untimed}
    (hw : w ∈ (ctxOf (finishJob s k seq x fault) k).allUntimed) (hs : w.seq = seq) :
    w.done = true ∧ ∀ y, x = some y → ∀ r, w.result = some r → r.x = some y := by
  obtain ⟨u, rfl⟩ := mem_allUntimed_modUntimed (f := fun u => { u with
    done := true, at_ := s.gcc, held := none, result := u.result.map (fun r => { r with x := x.or r.x }), fault := u.fault.or fault })
    hw hs
  refine ⟨rfl, fun y hy r hr => ?_⟩
  obtain ⟨q, -, rfl⟩ := Option.map_eq_some_iff.mp hr
  simp [hy]

@[simp] theorem clusterOf_finishJob (s : State) (k seq n : Nat) (x : Option W64) (fault : Option (Nat × W64)) :
    clusterOf (finishJob s k seq x fault) n = clusterOf s n := rfl

@[simp] theorem coreOf_finishJob (s : State) (k seq n : Nat) (x : Option W64) (fault : Option (Nat × W64)) :
    coreOf (finishJob s k seq x fault) n = coreOf s n := rfl

theorem atHome_hit {s : State} {k v sub : Nat} {u : Untimed} {write : Bool} {f : Spot → State} {p : Spot} (h : translate s k v = .hit p)
    (hw : write = true → p.write = true) : atHome s k u v sub write f = f p := by
  unfold atHome
  rw [h]
  dsimp only
  split
  · next hc =>
    rw [Bool.and_eq_true, Bool.not_eq_true'] at hc
    simp [hw hc.1] at hc
  · rfl

/-! ### A store of plain memory -/

/-- The work on its way elsewhere is the same. -/
structure SameFabric (s t : State) : Prop where
  outbound : t.outbound = s.outbound
  awaiting : t.awaiting = s.awaiting
  ports : t.ports = s.ports

theorem SameFabric.trans {s t u : State} (h : SameFabric s t) (g : SameFabric t u) : SameFabric s u :=
  ⟨g.outbound.trans h.outbound, g.awaiting.trans h.awaiting, g.ports.trans h.ports⟩

theorem SameFabric.isOutstanding {s t : State} (h : SameFabric s t) (k seq : Nat) : isOutstanding t k seq = isOutstanding s k seq := by
  unfold Machine.isOutstanding
  rw [h.outbound, h.awaiting, h.ports]

theorem logWrite_frame (s : State) (k seq v : Nat) (bytes : List Byte) :
    (logWrite s k seq v bytes).mem = s.mem ∧ SameFabric s (logWrite s k seq v bytes) := by
  unfold logWrite
  split
  · split
    · exact ⟨rfl, rfl, rfl, rfl⟩
    · exact ⟨rfl, rfl, rfl, rfl⟩
  · exact ⟨rfl, rfl, rfl, rfl⟩

theorem cachePage_frame (s : State) (k v : Nat) : (cachePage s k v).mem = s.mem ∧ SameFabric s (cachePage s k v) := by
  unfold cachePage
  split
  · exact ⟨rfl, rfl, rfl, rfl⟩
  · split <;> exact ⟨rfl, rfl, rfl, rfl⟩

theorem noteTentative_frame (s : State) (t n a : Nat) (bytes : List Byte) :
    (noteTentative s t n a bytes).mem = s.mem ∧ SameFabric s (noteTentative s t n a bytes) := by
  unfold noteTentative
  split <;> exact ⟨rfl, rfl, rfl, rfl⟩

theorem physWrite_frame (s : State) (t n a : Nat) (bytes : List Byte) :
    (physWrite s t n a bytes).mem = memWriteList s.mem a bytes ∧ SameFabric s (physWrite s t n a bytes) := by
  obtain ⟨hm, hf⟩ := noteTentative_frame s t n a bytes
  unfold physWrite
  dsimp only
  split
  · exact ⟨rfl, rfl, rfl, rfl⟩
  · exact ⟨congrArg (memWriteList · a bytes) hm, hf.outbound, hf.awaiting, hf.ports⟩

/-- A store of plain memory writes its bytes and sends nothing anywhere. -/
theorem storeAt_plain (s : State) (k seq ix v : Nat) {p : Spot} (hp : p.kind = .plain) (bytes : List Byte) :
    (storeAt s k seq ix v p bytes false).mem = memWriteList s.mem p.paddr bytes ∧
      SameFabric s (storeAt s k seq ix v p bytes false) := by
  obtain ⟨hlm, hlf⟩ := logWrite_frame s k seq v bytes
  obtain ⟨hcm, hcf⟩ := cachePage_frame (logWrite s k seq v bytes) k v
  obtain ⟨hpm, hpf⟩ := physWrite_frame (cachePage (logWrite s k seq v bytes) k v) (nodeIds (ctxOf s k)).1 (nodeIds (ctxOf s k)).2
    p.paddr bytes
  unfold storeAt
  rw [hp]
  refine ⟨?_, (hlf.trans hcf).trans ⟨hpf.outbound, hpf.awaiting, hpf.ports⟩⟩
  rw [← hlm, ← hcm]
  exact hpm

theorem settle_finished {s : State} {k seq : Nat} (h : isOutstanding s k seq = false) : settle s k seq = finishJob s k seq none none := by
  simp [settle, h]

theorem performJob_store {s : State} {k v : Nat} {u : Untimed} {p : Spot} {bytes : List Byte} (hv : translate s k v = .hit p)
    (hp : p.kind = .plain) (hu : u.job = .store v bytes) (hw : p.write = true) (ho : isOutstanding s k u.seq = false) :
    performJob s k u = finishJob (storeAt s k u.seq 0 v p bytes false) k u.seq none none := by
  have hout : isOutstanding (storeAt s k u.seq 0 v p bytes false) k u.seq = false := by
    rw [(storeAt_plain s k u.seq 0 v hp bytes).2.isOutstanding, ho]
  rw [performJob, hu]
  exact (atHome_hit hv fun _ => hw).trans (settle_finished hout)

theorem performJob_load {s : State} {k v n : Nat} {sx : Bool} {u : Untimed} {p : Spot} (hv : translate s k v = .hit p)
    (hp : p.kind = .plain) (hu : u.job = .load v n sx) (hm : isMarked s p.paddr = false) :
    performJob s k u = nextFresh (finishJob (cachePage s k v) k u.seq (some (extend sx n
      (natOfBytes (physReadList s (nodeIds (ctxOf s k)).1 (nodeIds (ctxOf s k)).2 p.paddr n)))) none) 1 := by
  rw [performJob, hu]
  dsimp only
  rw [performLoad, atHome_hit hv (fun h => Bool.noConfusion h)]
  simp [hp, finishLoad, homeRead, hm]

/-! ### What a reader sees of a byte (R87, R94, R99, R207) -/

theorem physRead_clear {s : State} {tenant node a : Nat} (h : isClouded s tenant node a = false) :
    physRead s tenant node a = seenByte s (fun t n => t == tenant && n == node) (ownWrites s tenant node) a := by
  simp [physRead, h]

theorem seenByte_alone {s : State} {ownNode : Nat → Nat → Bool} {own : Writer → Bool} {a : Nat}
    (h : tentativeBytes s ownNode own a = []) : seenByte s ownNode own a = openByte s own a := by
  simp [seenByte, h]

theorem seenByte_mem (s : State) (ownNode : Nat → Nat → Bool) (own : Writer → Bool) (a : Nat) :
    seenByte s ownNode own a ∈ openByte s own a :: tentativeBytes s ownNode own a := by
  unfold seenByte
  dsimp only
  split
  · next h => simp [h]
  · have hlt : Config.freePick s.fresh s.gcc (2 * a) % ((tentativeBytes s ownNode own a).length + 1) <
        (openByte s own a :: tentativeBytes s ownNode own a).length := Nat.mod_lt _ (Nat.succ_pos _)
    rw [List.getD_eq_getElem _ _ hlt]
    exact List.getElem_mem hlt

theorem openByte_filter (s : State) (own : Writer → Bool) (a : Nat) :
    openByte s own a = match ((s.uncommitted.filter (fun e => e.addr == a)).filter (isSeen s own)).getLast? with
      | some e => e.byte
      | none => priorByte s a := by
  unfold openByte
  rw [List.filter_filter]
  simp only [Bool.and_comm] <;> rfl

theorem isSeen_own {s : State} {own : Writer → Bool} {e : OpenByte} (ht : e.at_ = 0 ∨ e.at_ < s.gcc)
    (h : ∀ w, e.by_ = some w → own w = true) : isSeen s own e = true := by
  unfold isSeen
  have h0 : (e.at_ == 0 || decide (e.at_ < s.gcc)) = true := by simpa using ht
  rw [h0]
  cases hb : e.by_ with
  | none => rfl
  | some w => simp [h w hb]

theorem isSeen_staged {s : State} {own : Writer → Bool} {e : OpenByte} (h : ∃ w, e.by_ = some w ∧ w.fabric = false ∧ own w = false) :
    isSeen s own e = false := by
  obtain ⟨w, hw, hf, ho⟩ := h
  simp [isSeen, hw, hf, ho]

theorem openByte_last {s : State} {own : Writer → Bool} {a : Nat} {l : List OpenByte} {e : OpenByte}
    (hw : s.uncommitted.filter (fun e => e.addr == a) = l ++ [e]) (h : isSeen s own e = true) : openByte s own a = e.byte := by
  rw [openByte_filter, hw, List.filter_append]
  simp [h]

theorem openByte_staged {s : State} {own : Writer → Bool} {a : Nat} {l : List OpenByte} {e : OpenByte}
    (hw : s.uncommitted.filter (fun e => e.addr == a) = e :: l) (h : isSeen s own e = true) (hl : ∀ x ∈ l, isSeen s own x = false) :
    openByte s own a = e.byte := by
  have hnil : l.filter (isSeen s own) = [] := by simpa [List.filter_eq_nil_iff] using hl
  rw [openByte_filter, hw]
  simp [h, hnil]

theorem openByte_none {s : State} {own : Writer → Bool} {a : Nat} (hw : s.uncommitted.filter (fun e => e.addr == a) = []) :
    openByte s own a = ((s.written.find? (fun w => w.1 == a)).map (fun w => w.2)).getD (memRead s.mem a) := by
  rw [openByte_filter, hw]
  simp only [List.filter_nil, List.getLast?_nil, priorByte]
  cases s.written.find? (fun w => w.1 == a) <;> rfl

/-! ### Arrivals, queues and walks -/

theorem performJob_arrive {s : State} {k bar : Nat} {u : Untimed} {b : Barrier} (hu : u.job = .arrive bar)
    (hb : (coreOf s (bar / 64)).barriers.get (bar % 64) ⟨0, 0, 0⟩ = b) (hc : b.count ≠ 0) :
    (coreOf (performJob s k u) (bar / 64)).barriers.get (bar % 64) ⟨0, 0, 0⟩ =
      if b.arr + 1 = b.count then ⟨b.count, 0, b.phase + 1⟩ else ⟨b.count, b.arr + 1, b.phase⟩ := by
  subst hb
  rw [performJob, hu]
  dsimp only
  rw [performArrive, if_neg hc]
  simp

theorem queueEntryEnter_enters {s : State} {clus q k seq : Nat} {e : QEntry} {r : List (Nat × Nat × QEntry)}
    (hf : (clusterOf s clus).full.get q [] = (k, seq, e) :: r) (hq : queueFull s clus q = false) :
    execQueueEntryEnter clus q s =
      .next (finishJob (enqueue (modCluster s clus (fun c => { c with full := c.full.put q r })) clus q e) k seq none none) := by
  simp [execQueueEntryEnter, hf, hq]

theorem walkOp_walk {s : State} {clus : Nat} {w : Walk} (h : (clusterOf s clus).walk = some w) (f : Walk → State) :
    walkOp { s with walker := clus } f = .next (f w) := by
  have hw : walkOf { s with walker := clus } = some w := h
  simp [walkOp, hw]

/-- Settles O53. -/
theorem untimedPerforms : Obligations.UntimedPerforms := by
  refine ⟨?_, ?_, ?_, ?_, ?_, ?_, ?_⟩
  · intro s k i u hu hmay hmeet t
    have hrun (cl : JobClass) (hcl : classOfJob u.job = cl) : performUntimed cl k i s = .next t := by
      simp [performUntimed, hu, hcl, hmay, hmeet, t]
    exact ⟨hrun _, hrun _, hrun _, hrun _, hrun _⟩
  · intro s t k seq h
    simp [deferCauses, h]
  · intro s k v u p hv hp _
    refine ⟨fun bytes hu _ hw ho => ?_, fun n sx hu _ hm => ?_⟩
    · intro t
      have ht : t = finishJob (storeAt s k u.seq 0 v p bytes false) k u.seq none none := performJob_store hv hp hu hw ho
      rw [ht]
      refine ⟨fun a => ?_, fun w hw hs => (finishJob_done hw hs).1⟩
      have hmem : (finishJob (storeAt s k u.seq 0 v p bytes false) k u.seq none none).mem = memWriteList s.mem p.paddr bytes :=
        (storeAt_plain s k u.seq 0 v hp bytes).1
      rw [hmem, memRead_memWriteList]
    · intro t
      have ht := performJob_load hv hp hu hm
      refine ⟨?_, fun w hw hs => ?_⟩
      · exact (congrArg State.mem ht).trans (cachePage_frame s k v).1
      · have hw' : w ∈ (ctxOf (performJob s k u) k).allUntimed := hw
        rw [ht] at hw'
        obtain ⟨hd, hr⟩ := finishJob_done (s := cachePage s k v) hw' hs
        exact ⟨hd, fun r => hr _ rfl r⟩
  · intro s tenant node a own others writes
    refine ⟨fun hc => ⟨fun h => ?_, ?_⟩, fun l e hw ht ho => ?_, fun e l hw ht hb hl => ?_, openByte_none⟩
    · rw [physRead_clear hc, seenByte_alone h]
    · rw [physRead_clear hc]
      exact seenByte_mem _ _ _ _
    · exact openByte_last hw (isSeen_own (.inr ht) ho)
    · exact openByte_staged hw (isSeen_own (.inl ht) (by simp [hb])) fun x hx => isSeen_staged (hl x hx)
  · intro s k bar u b hu hb hc
    exact performJob_arrive hu hb hc
  · intro s clus q k seq e r hf hq
    refine ⟨_, queueEntryEnter_enters hf hq, ?_, ?_, fun x hx hs => (finishJob_done hx hs).1⟩
    · simp [enqueue]
    · simp [enqueue]
  · intro s clus w hw u
    refine ⟨fun p hp hm => ?_, fun o ho ht => ?_, fun e last hp hq => ?_⟩
    · refine (walkOp_walk hw _).trans ?_
      simp [hp, hm, u]
    · refine (walkOp_walk hw _).trans ?_
      simp [ho, ht, u, Walk.next]
    · refine (walkOp_walk hw _).trans ?_
      have hq' : queueFull { s with walker := clus } clus w.queue = false := hq
      simp [hp, hq', u, Walk.next]

end Sys2Proof.Machine
end

section
/-! PROOFS. A side-log retry that a replayed store overtakes (R89, R351). -/

namespace Sys2Proof.Machine

/-- A segment of one 64 KiB page, with its physical base and its flags (R86). -/
def onePage (page pbase flags : W64) : Segment := ⟨page <<< 16, 0x10000, pbase, flags⟩

/-- Work that no operation waits for and that the side log took in at GCC 900 for the page it is held on. -/
def loggedJob (seq : Nat) (job : Job) (page : Nat) : Untimed :=
  ⟨seq, job, false, false, none, false, [], [], some page, none, 0, [], some 900⟩

/-- A load of page 8 that waits for no page. -/
def load8 : Untimed := ⟨1, .load 0x80000 8 false, false, false, none, false, [], [], none, none, 0, [], none⟩

/-- A context with two stores in the side log, of which the first, by way of its plain segment, clears the page-table entry of
page 8 and the second writes page 8; the load of page 8 bears the number of the second. -/
def loggedCtx : Ctx :=
  { Ctx.reset with
    task := some { placedTask with segs := [onePage 3 0x200000 1, onePage 8 0 3] }
    untimed := [loggedJob 0 (.store 0x30040 [0]) 3, loggedJob 1 (.store 0x80000 [1]) 8, load8]
    seq := 2 }

/-- A machine with that context; its page table at 0x20_0000, its own table of every level, maps page 8. -/
def loggedState : State :=
  { State.reset with
    gcc := 1000
    ctxs := [(0, loggedCtx)]
    mem := memWriteNat (memWriteNat [] 0x200000 8 0x200001) 0x200040 8 0x500003
    tenants := [(0, { Tenant.reset with live := true, ptroot := 0x200001 })] }

/-- Does an outcome go on to a state of which `p` holds? -/
def goesOnTo (p : State → Bool) : Host.Outcome State Fault Refusal → Bool
  | .next t => p t
  | _ => false

/-- Does the load of page 8 wait for that page? -/
def holdsLoad8 (t : State) : Bool := decide ({ load8 with held := some 8, loggedAt := some 1000 } ∈ (ctxOf t 0).allUntimed)

/-- Page 8 is mapped, and yet the replay of the second store finds it unmapped by the first and holds what bears its number, the
load too. -/
theorem loggedState_retry :
    pageMapped loggedState 0 8 = true ∧ goesOnTo holdsLoad8 (exec (.sideLogRetry 0) loggedState) = true := by decide +kernel

/-- Refutes O55, in the clause of SIDE_LOG_RETRY: a read whose page the retry finds mapped can be held after it. The clause would
need the premise that no two operations of a context bear one number: where a read and a logged store share theirs, and a store
replayed before has unmapped the page, the hold of the store is the read's too. -/
theorem not_trapsAndFreezes : ¬ Obligations.TrapsAndFreezes := by
  unfold Obligations.TrapsAndFreezes
  rintro ⟨-, -, hretry, -⟩
  obtain ⟨t, ht, hheld, -⟩ := hretry loggedState 0
  obtain ⟨hmapped, hleft⟩ := loggedState_retry
  rw [ht] at hleft
  have hmem := of_decide_eq_true hleft
  have hunmapped : pageMapped loggedState 0 8 = false := hheld 0 (by decide) _ hmem 8 rfl rfl
  exact absurd hmapped (by simp [hunmapped])

end Sys2Proof.Machine
end

section
/-! PROOFS. Waits complete and the width moves (R20–R26, R30–R33, R135, R136, R176, R192). -/

namespace Sys2Proof.Machine

/-! ### What the end of a drain does to its context (R30, R31) -/

/-- `d` is `c` but for registers and flags: what it has in flight and open, and the registers of its trap, are those of `c`. -/
structure OnlyResults (c d : Ctx) : Prop where
  untimed : d.untimed = c.untimed
  flights : d.flights = c.flights
  causes : d.causes = c.causes
  tstate : d.tstate = c.tstate
  frameGcc : d.frameGcc = c.frameGcc

theorem OnlyResults.refl (c : Ctx) : OnlyResults c c := ⟨rfl, rfl, rfl, rfl, rfl⟩

theorem OnlyResults.trans {c d e : Ctx} (h : OnlyResults c d) (g : OnlyResults d e) : OnlyResults c e :=
  ⟨g.untimed.trans h.untimed, g.flights.trans h.flights, g.causes.trans h.causes, g.tstate.trans h.tstate,
    g.frameGcc.trans h.frameGcc⟩

theorem onlyResults_writeReg_s (c : Ctx) (d : SReg) (x : W64) : OnlyResults c (c.writeReg (.s d x)) := by
  simp only [Ctx.writeReg]
  split <;> exact ⟨rfl, rfl, rfl, rfl, rfl⟩

theorem onlyResults_writeReg_p (c : Ctx) (d : PReg) (x : PWord) : OnlyResults c (c.writeReg (.p d x)) := by
  simp only [Ctx.writeReg]
  split <;> exact ⟨rfl, rfl, rfl, rfl, rfl⟩

theorem onlyResults_orFlags (c : Ctx) (fl : Flags) : OnlyResults c (c.orFlags fl) := ⟨rfl, rfl, rfl, rfl, rfl⟩

theorem onlyResults_foldl {α : Type} {f : Ctx → α → Ctx} (h : ∀ c x, OnlyResults c (f c x)) (l : List α) (c : Ctx) :
    OnlyResults c (l.foldl f c) := by
  induction l generalizing c with
  | nil => exact .refl c
  | cons x r ih => exact (h c x).trans (ih _)

/-- The untimed result of one operation, as the drain writes it. -/
def writeResult (c : Ctx) (u : Untimed) : Ctx :=
  match u.result with
  | some ⟨r, some x⟩ => if isHacc u then c.orFlags (BitVec.ofNat 5 (x.toNat / 2 ^ 32)) else c.writeReg (.s r x)
  | _ => c

theorem writeResults_eq (c : Ctx) : writeResults c = c.untimed.foldl writeResult c := rfl

theorem onlyResults_writeResult (c : Ctx) (u : Untimed) : OnlyResults c (writeResult c u) := by
  unfold writeResult
  split
  · split
    · exact onlyResults_orFlags ..
    · exact onlyResults_writeReg_s ..
  · exact .refl c

theorem onlyResults_writeResults (c : Ctx) : OnlyResults c (writeResults c) := onlyResults_foldl onlyResults_writeResult _ _

/-- A result for another register, or for the flags, leaves a register alone. -/
theorem readS_writeResult_other {c : Ctx} {u : Untimed} {d : SReg} (h : ∀ y, u.result = some y → y.reg ≠ d) :
    (writeResult c u).readS d = c.readS d := by
  unfold writeResult
  split
  · next r x hr =>
    have hne : r ≠ d := h _ hr
    split
    · rfl
    · simp [hne.symm]
  · rfl

theorem readS_writeResult_same {c : Ctx} {u : Untimed} {d : SReg} {x : W64} (hr : u.result = some ⟨d, some x⟩) (hh : isHacc u = false)
    (hd : d ≠ 0) : (writeResult c u).readS d = x := by
  unfold writeResult
  simp [hr, hh, hd]

theorem readS_foldl_writeResult {d : SReg} {l : List Untimed} (h : ∀ v ∈ l, ∀ y, v.result = some y → y.reg ≠ d) (c : Ctx) :
    (l.foldl writeResult c).readS d = c.readS d := by
  induction l generalizing c with
  | nil => rfl
  | cons v r ih =>
    rw [List.foldl_cons, ih (fun w hw => h w (List.mem_cons_of_mem _ hw)),
      readS_writeResult_other (h v List.mem_cons_self)]

/-- Of the results for one register the last in issue order stands (R30). -/
theorem readS_writeResults_last {c : Ctx} {l r : List Untimed} {u : Untimed} {d : SReg} {x : W64} (hc : c.untimed = l ++ u :: r)
    (hr : u.result = some ⟨d, some x⟩) (hh : isHacc u = false) (hd : d ≠ 0)
    (hl : ∀ v ∈ r, ∀ y, v.result = some y → y.reg ≠ d) : (writeResults c).readS d = x := by
  rw [writeResults_eq, hc, List.foldl_append, List.foldl_cons, readS_foldl_writeResult hl, readS_writeResult_same hr hh hd]

/-- The context of a drain that is over. -/
def drained (c : Ctx) : Ctx :=
  { writeResults c with
    hstat := if c.untimed.any isHacc then haccStatus c.untimed else c.hstat
    untimed := []
    causes := c.causes ++ c.untimed.filterMap (fun u => u.fault) }

@[simp] theorem ctxOf_finishDrain (s : State) (k j : Nat) :
    ctxOf (finishDrain s k) j = if j = k then drained (ctxOf s k) else ctxOf s j := by
  unfold finishDrain
  extract_lets c faults pg t u v
  have ht : ctxOf t j = if j = k then drained (ctxOf s k) else ctxOf s j := by
    simp only [t, ctxOf_modCtx]
    rfl
  have hu : ctxOf u j = ctxOf t j := by
    clear_value pg
    cases pg <;> rfl
  simp only [releaseOpen, v, ctxOf_modCore, ctxOf_modCluster, hu, ht]

theorem drained_flights (c : Ctx) : (drained c).flights = c.flights := (onlyResults_writeResults c).flights

theorem drained_causes (c : Ctx) : (drained c).causes = c.causes ++ c.untimed.filterMap (fun u => u.fault) := rfl

/-- Where no untimed operation left a fault, the end of the drain adds no cause. -/
theorem filterMap_fault_eq_nil {l : List Untimed} (h : l.all (fun u => u.fault.isNone) = true) :
    l.filterMap (fun u => u.fault) = [] := by
  rw [List.filterMap_eq_nil_iff]
  intro u hu
  exact Option.isNone_iff_eq_none.mp (List.all_eq_true.mp h u hu)

/-- The cycle at which an RTE goes on reads registers that no result of its drain is written to. -/
theorem resumeCycle_congr {c d : Ctx} (ht : d.tstate = c.tstate) (hf : d.frameGcc = c.frameGcc) (issued drained : Nat) :
    resumeCycle d issued drained = resumeCycle c issued drained := by
  simp only [resumeCycle, ht, hf]

/-! ### What a wait does as it completes -/

theorem ctxOf_takeToken {s t : State} {k q : Nat} {e : QEntry} (h : takeToken s k q = some (e, t)) (j : Nat) :
    ctxOf t j = ctxOf s j := by
  simp only [takeToken, Option.map_eq_some_iff, Prod.mk.injEq] at h
  obtain ⟨_, -, -, rfl⟩ := h
  simp

theorem ctxOf_waitEffect_other {s : State} {k j : Nat} (w : Wait) (h : j ≠ k) : ctxOf (waitEffect s k w) j = ctxOf s j := by
  unfold waitEffect
  split
  · split
    · split
      · next ht => simp [deliverEos, h, ctxOf_takeToken ht]
      · rfl
    · rfl
  · simp [h]
  · simp [h]
  · simp [h]
  · rfl

theorem onlyResults_deliverEos (s : State) (k q : Nat) : OnlyResults (ctxOf s k) (ctxOf (deliverEos s k q) k) := by
  simp only [deliverEos, ctxOf_modCtx, ↓reduceIte]
  refine onlyResults_foldl (fun c e => ?_) _ _
  split
  · exact onlyResults_writeReg_p ..
  · exact .refl c

theorem onlyResults_waitEffect (s : State) (k : Nat) (w : Wait) : OnlyResults (ctxOf s k) (ctxOf (waitEffect s k w) k) := by
  unfold waitEffect
  split
  · split
    · split
      · next ht => exact ctxOf_takeToken ht k ▸ onlyResults_deliverEos ..
      · exact .refl _
    · exact .refl _
  · simpa using onlyResults_writeReg_s ..
  · simpa using ⟨rfl, rfl, rfl, rfl, rfl⟩
  · simpa using ⟨rfl, rfl, rfl, rfl, rfl⟩
  · exact .refl _

theorem ctxOf_completeWait_other {s : State} {k j : Nat} (w : Wait) (h : j ≠ k) : ctxOf (completeWait s k w) j = ctxOf s j := by
  simp [completeWait, ctxOf_waitEffect_other w h, h]

theorem ctxOf_completeWait_self (s : State) (k : Nat) (w : Wait) :
    ctxOf (completeWait s k w) k =
      { ctxOf (waitEffect (finishDrain s k) k w) k with
        wait := none
        ttc := 0
        resume := s.gcc + 1
        ran := ranAfter (ctxOf (waitEffect (finishDrain s k) k w) k) w } := by
  simp [completeWait]

/-! ### WAIT_COMPLETION -/

theorem flights_of_canComplete {s : State} {k : Nat} {w : Wait} (hw : (ctxOf s k).wait = some w) (h : canComplete s k = true) :
    (ctxOf s k).flights = [] := by
  simp only [canComplete, hw, hasDrained, Bool.and_eq_true, beq_iff_eq] at h
  exact h.1.1

/-- The conditions under which a wait completes in this cycle (R26, R31). -/
structure Completes (s : State) (k : Nat) (w : Wait) : Prop where
  wait : (ctxOf s k).wait = some w
  freeze : (ctxOf s k).freeze = none
  width : hasWidth s k = true
  issued : w.at_ < s.gcc
  complete : canComplete s k = true

theorem Completes.exec {s : State} {k : Nat} {w : Wait} (h : Completes s k w) (he : w.kind ≠ .endTask) (hr : w.kind ≠ .rte) :
    exec (.waitCompletion k) s = .next (completeWait s k w) := by
  have hlt := Nat.not_le.mpr h.issued
  simp only [Machine.exec, execWaitCompletion, h.wait, h.freeze, h.width, h.complete, hlt, Option.isSome_none, Bool.not_true,
    decide_false, Bool.or_self, Bool.false_eq_true, ↓reduceIte]

theorem Completes.exec_rte {s : State} {k : Nat} {w : Wait} (h : Completes s k w) (hr : w.kind = .rte)
    (hc : (drained (ctxOf s k)).causes = []) :
    Machine.exec (.waitCompletion k) s = .next (modCtx (finishDrain s k) k (fun c => { c with
      wait := some { w with kind := .resumeAt (resumeCycle (ctxOf s k) w.at_ (s.gcc - 1)) } })) := by
  have hlt := Nat.not_le.mpr h.issued
  have hres := onlyResults_writeResults (ctxOf s k)
  have hcycle : resumeCycle (drained (ctxOf s k)) w.at_ (s.gcc - 1) = resumeCycle (ctxOf s k) w.at_ (s.gcc - 1) :=
    resumeCycle_congr hres.tstate hres.frameGcc _ _
  simp only [Machine.exec, execWaitCompletion, h.wait, h.freeze, h.width, h.complete, hlt, hr, hc, Option.isSome_none, Bool.not_true,
    decide_false, Bool.or_self, Bool.false_eq_true, ↓reduceIte, bne_self_eq_false, modCtx, ctxOf_finishDrain, hcycle]

/-- The context behind a wait that completes: it issues in the next cycle at TTC 0, with nothing in flight or open. -/
theorem completeWait_ready {s : State} {k : Nat} (w : Wait) (hf : (ctxOf s k).flights = []) :
    let d := ctxOf (completeWait s k w) k
    d.wait = none ∧ d.ttc = 0 ∧ d.resume = s.gcc + 1 ∧ d.untimed = [] ∧ d.flights = [] := by
  have heff := onlyResults_waitEffect (finishDrain s k) k w
  rw [ctxOf_finishDrain, if_pos rfl] at heff
  rw [ctxOf_completeWait_self]
  exact ⟨rfl, rfl, rfl, heff.untimed, (heff.flights.trans (drained_flights _)).trans hf⟩

theorem readS_completeWait_waite {s : State} {k : Nat} {w : Wait} (h : w.kind = .waite) (r : SReg) :
    (ctxOf (completeWait s k w) k).readS r = (writeResults (ctxOf s k)).readS r := by
  have heff : waitEffect (finishDrain s k) k w = finishDrain s k := by
    unfold waitEffect
    rw [h]
  rw [ctxOf_completeWait_self, heff, ctxOf_finishDrain, if_pos rfl]
  rfl

theorem waitCompletion_completes {s : State} {k : Nat} {w : Wait} (h : Completes s k w) (he : w.kind ≠ .endTask)
    (hr : w.kind ≠ .rte) : ∃ t, exec (.waitCompletion k) s = .next t ∧ (ctxOf t k).wait = none ∧
      (ctxOf t k).ttc = 0 ∧ (ctxOf t k).resume = s.gcc + 1 ∧ (ctxOf t k).untimed = [] ∧ (ctxOf t k).flights = [] ∧
      (w.kind = .waite → ∀ r, (ctxOf t k).readS r = (writeResults (ctxOf s k)).readS r) := by
  obtain ⟨hwait, httc, hres, hun, hfl⟩ := completeWait_ready w (flights_of_canComplete h.wait h.complete)
  exact ⟨_, h.exec he hr, hwait, httc, hres, hun, hfl, readS_completeWait_waite⟩

theorem waitCompletion_rte {s : State} {k : Nat} {w : Wait} (h : Completes s k w) (hr : w.kind = .rte)
    (hc : (ctxOf s k).causes = []) (hu : (ctxOf s k).untimed.all (fun u => u.fault.isNone) = true) :
    ∃ t, exec (.waitCompletion k) s = .next t ∧ (ctxOf t k).untimed = [] ∧
      (ctxOf t k).wait = some { w with kind := .resumeAt (resumeCycle (ctxOf s k) w.at_ (s.gcc - 1)) } := by
  have hcauses : (drained (ctxOf s k)).causes = [] := by
    rw [drained_causes, hc, filterMap_fault_eq_nil hu]
    rfl
  refine ⟨_, h.exec_rte hr hcauses, ?_, ?_⟩
  · simp [drained]
  · simp

/-! ### END, hand-over, RUNLEN -/

@[simp] theorem ctxOf_stretchValue (s : State) (n j : Nat) : ctxOf (stretchValue s n) j = ctxOf s j := rfl

theorem ctxOf_vacate (s : State) (k : Nat) : ctxOf (vacate s k) k = { Ctx.reset with seq := (ctxOf s k).seq } := by
  simp [vacate]

theorem nodeOf_renameStaged_running (s : State) (c : Ctx) (old new fn n : Nat) :
    (nodeOf (renameStaged s c old new) fn n).running = (nodeOf s fn n).running ∧
      (nodeOf (renameStaged s c old new) fn n).past = (nodeOf s fn n).past := by
  simp only [renameStaged, nodeOf_modNode]
  split <;> simp_all

@[simp] theorem nodeOf_dropMember (s : State) (k fn n : Nat) : nodeOf (dropMember s k) fn n = nodeOf s fn n := by
  unfold dropMember
  induction (ctxOf s k).group generalizing s with
  | nil => rfl
  | cons j r ih => exact (ih _).trans rfl

@[simp] theorem nodeOf_vacate (s : State) (k fn n : Nat) : nodeOf (vacate s k) fn n = nodeOf s fn n := rfl

theorem nodeOf_freeCtx_running (s : State) (k fn n : Nat) :
    (nodeOf (freeCtx s k) fn n).running = (nodeOf s fn n).running ∧ (nodeOf (freeCtx s k) fn n).past = (nodeOf s fn n).past := by
  simp only [freeCtx, nodeOf_vacate, nodeOf_dropMember]
  exact nodeOf_renameStaged_running ..

theorem taskEndComplete_frees {s : State} {k a : Nat} {pc : W64} {x : Task} (hw : (ctxOf s k).wait = some ⟨.endTask, a, pc⟩)
    (hx : (ctxOf s k).task = some x) (he : endsNow s k a = true)
    (hu : (ctxOf s k).untimed.all (fun u => u.fault.isNone) = true) :
    ∃ t, exec (.taskEndComplete k) s = .next t ∧ (ctxOf t k).task = none ∧ (ctxOf t k).flights = [] ∧ (ctxOf t k).wait = none ∧
      (nodeOf t x.tenant x.node).running = (nodeOf s x.tenant x.node).running.filter (· != k) ∧
      (nodeOf t x.tenant x.node).past = (nodeOf s x.tenant x.node).past ++ [(k, (ctxOf s k).lastPersist)] := by
  obtain ⟨hrun, hpast⟩ := nodeOf_freeCtx_running s k x.tenant x.node
  have hctx : ctxOf (taskGone (freeCtx s k) x.tenant x.node k (ctxOf s k).lastPersist) k = ctxOf (freeCtx s k) k := by
    simp [taskGone]
  refine ⟨taskGone (freeCtx s k) x.tenant x.node k (ctxOf s k).lastPersist, ?_, ?_, ?_, ?_, ?_, ?_⟩
  · simp only [exec, execTaskEndComplete, hw, hx, he, filterMap_fault_eq_nil hu]
    rfl
  · rw [hctx, freeCtx, ctxOf_vacate]
    rfl
  · rw [hctx, freeCtx, ctxOf_vacate]
    rfl
  · rw [hctx, freeCtx, ctxOf_vacate]
    rfl
  · simp [taskGone, hrun]
  · simp [taskGone, hpast]

/-- The width has reached context `i` of a core, in the last dead cycle of its hand-over. -/
def handedOver (s : State) (core : Nat) (i : Fin 4) : State :=
  modCtx (modCore s core (fun c => { c with incoming := none, handCycles := 0, padded := 0, width := some i })) (core * 4 + i.val)
    (fun x => { x with
      readyAt := none
      promoted := false
      resume := if x.wait.isNone && x.freeze.isNone then max x.resume (s.gcc + 1) else x.resume })

theorem handOver_receives {s : State} {core : Nat} {i : Fin 4} (hi : (coreOf s core).incoming = some i)
    (hf : (ctxOf s (core * 4 + i.val)).freeze = none) (ho : occupied (ctxOf s (core * 4 + i.val)) (core * 4 + i.val) = true)
    (hh : (coreOf s core).handCycles = 1) (hp : paddingOver s core (core * 4 + i.val) = true) :
    exec (.handOver core) s = .next (handedOver s core i) := by
  have hr : canReceive s (core * 4 + i.val) = true := by
    simp [canReceive, ho, hf]
  simp only [exec, execHandOver, hi, hr, hh, hp, Bool.not_true, Bool.false_eq_true, ↓reduceIte, ne_eq, not_true_eq_false, or_self]
  rfl

theorem lowPriorityPromotion_promotes {s : State} {k g : Nat} (hg : (ctxOf s k).readyAt = some g) (h : g + 2 ^ 20 ≤ s.gcc) :
    exec (.lowPriorityPromotion k) s = .next (modCtx s k (fun c => { c with promoted := true })) := by
  have hdue : ∀ n, g + n ≤ s.gcc → (some g).any (fun g => decide (g + n ≤ s.gcc)) = true := fun n hn => by simp [hn]
  simp only [exec, execLowPriorityPromotion, hg]
  exact if_pos (hdue _ h)

/-! ### RUN_OVERRUN (R24, R337, R340) -/

theorem groupOf_alone {s : State} {k : Nat} (h : (ctxOf s k).group = []) : groupOf s k = [k] := by
  simp [groupOf, h]

@[simp] theorem ctxOf_postFault (s : State) (d j : Nat) (e : FaultEntry) : ctxOf (postFault s d e) j = ctxOf s j := rfl

@[simp] theorem ctxOf_postCtxFault (s : State) (k j sub cause : Nat) (addr : W64) (syl off : Nat) :
    ctxOf (postCtxFault s k sub cause addr syl off) j = ctxOf s j := rfl

/-- A posted entry enters the buffer, or waits at its source where the buffer is full (R340). -/
theorem dieOf_postCtxFault (s : State) (k sub cause : Nat) (addr : W64) (syl off : Nat) :
    let d := dieOf s (dieIx k)
    let e := dieOf (postCtxFault s k sub cause addr syl off) (dieIx k)
    (d.faults.length < 4096 → e.faults.length = d.faults.length + 1) ∧
      (4096 ≤ d.faults.length → e.held.length = d.held.length + 1) := by
  simp only [postCtxFault, postFault, dieOf_modDie, ↓reduceIte]
  constructor
  · intro h
    rw [if_pos h]
    exact List.length_append
  · intro h
    rw [if_neg (Nat.not_lt.mpr h)]
    exact List.length_append

/-- A request to pre-empt a context that runs alone takes effect 512 cycles later (R341). -/
theorem postPre_alone {s : State} {k : Nat} (hg : (ctxOf s k).group = []) (hf : (ctxOf s k).freeze = none)
    (hp : (ctxOf s k).preAt = none) : postPre s k = modCtx s k (fun c => { c with preAt := some (s.gcc + 512) }) := by
  simp [postPre, groupOf_alone hg, hf, modCtx, hp]

theorem runOverrun_posts {s : State} {k : Nat} (ho : hasOverrun s k = true) (hg : (ctxOf s k).group = [])
    (hf : (ctxOf s k).freeze = none) (hp : (ctxOf s k).preAt = none) :
    let d := dieOf s (dieIx k)
    ∃ t, exec (.runOverrun k) s = .next t ∧ (ctxOf t k).ran = (ctxOf s k).ran + 1 ∧
      (d.faults.length < 4096 → (ctxOf t k).preAt = some (s.gcc + 512) ∧ (dieOf t (dieIx k)).faults.length = d.faults.length + 1) ∧
      (4096 ≤ d.faults.length → (ctxOf t k).preAt = none ∧ (dieOf t (dieIx k)).held.length = d.held.length + 1) := by
  intro d
  let u := modCtx s k (fun c => { c with ran := c.ran + 1 })
  have hexec : exec (.runOverrun k) s =
      .next (postCtxFault (if 4096 ≤ d.faults.length then u else postPre u k) k 0 0x20 0 0 (ctxOf u k).pc.toNat) := by
    simp only [exec, execRunOverrun, ho, ↓reduceIte, decide_eq_true_eq]
    rfl
  have hpre : postPre u k = modCtx u k (fun c => { c with preAt := some (s.gcc + 512) }) :=
    postPre_alone (by simp [u, hg]) (by simp [u, hf]) (by simp [u, hp])
  by_cases hfull : 4096 ≤ d.faults.length
  · rw [if_pos hfull] at hexec
    refine ⟨_, hexec, by simp [u], fun h => absurd hfull (Nat.not_le.mpr h), fun h => ⟨by simp [u, hp], ?_⟩⟩
    exact (dieOf_postCtxFault u k 0 0x20 0 0 _).2 h
  · rw [if_neg hfull, hpre] at hexec
    refine ⟨_, hexec, by simp [u], fun h => ⟨by simp, ?_⟩, fun h => absurd h hfull⟩
    exact (dieOf_postCtxFault (modCtx u k _) k 0 0x20 0 0 _).1 h

/-! ### CSYNC_RELEASE (R33) -/

/-- Member `j` has been released with its group `ms`. -/
structure Released (s : State) (ms : List Nat) (t : State) (j : Nat) : Prop where
  wait : (ctxOf t j).wait = none
  ttc : (ctxOf t j).ttc = 0
  resume : (ctxOf t j).resume = s.gcc + 1
  group : (ctxOf t j).group = ms

/-- A member of a gang that is released: its wait completes and it joins the sync group `ms`. -/
def releaseMember (ms : List Nat) (s : State) (j : Nat) : State :=
  match (ctxOf s j).wait with
  | some w => modCtx (completeWait s j w) j (fun c => { c with group := ms })
  | none => s

theorem releaseMember_gcc (ms : List Nat) (s : State) (j : Nat) : (releaseMember ms s j).gcc = s.gcc := by
  unfold releaseMember
  split <;> simp

theorem ctxOf_releaseMember_other (ms : List Nat) (s : State) {j i : Nat} (h : i ≠ j) :
    ctxOf (releaseMember ms s j) i = ctxOf s i := by
  unfold releaseMember
  split
  · simp [h, ctxOf_completeWait_other _ h]
  · rfl

theorem releaseMember_released {ms : List Nat} {s : State} {j : Nat} (h : (ctxOf s j).wait ≠ none) :
    Released s ms (releaseMember ms s j) j := by
  unfold releaseMember
  split
  · constructor <;> simp [ctxOf_completeWait_self]
  · contradiction

theorem releaseMember_keeps {s t : State} {ms : List Nat} {i : Nat} (h : Released s ms t i) (j : Nat) :
    Released s ms (releaseMember ms t j) i := by
  by_cases hij : i = j
  · subst hij
    unfold releaseMember
    rw [h.wait]
    exact h
  · obtain ⟨hw, ht, hr, hm⟩ := h
    rw [← ctxOf_releaseMember_other ms t hij] at hw ht hr hm
    exact ⟨hw, ht, hr, hm⟩

/-- What is released stays so, and what waits is released in its turn, as the members of a list are. -/
theorem foldl_releaseMember {s : State} {ms : List Nat} (l : List Nat) {t : State} (hg : t.gcc = s.gcc)
    (hl : ∀ j ∈ l, (ctxOf t j).wait ≠ none ∨ Released s ms t j) :
    (∀ i, Released s ms t i → Released s ms (l.foldl (releaseMember ms) t) i) ∧
      ∀ j ∈ l, Released s ms (l.foldl (releaseMember ms) t) j := by
  induction l generalizing t with
  | nil => exact ⟨fun _ h => h, fun _ h => absurd h List.not_mem_nil⟩
  | cons x r ih =>
    have hx : Released s ms (releaseMember ms t x) x := by
      rcases hl x List.mem_cons_self with hw | hr
      · obtain ⟨h1, h2, h3, h4⟩ := releaseMember_released (ms := ms) hw
        exact ⟨h1, h2, hg ▸ h3, h4⟩
      · exact releaseMember_keeps hr x
    have hrest : ∀ j ∈ r, (ctxOf (releaseMember ms t x) j).wait ≠ none ∨ Released s ms (releaseMember ms t x) j := by
      intro j hj
      by_cases hjx : j = x
      · exact .inr (hjx ▸ hx)
      · rcases hl j (List.mem_cons_of_mem _ hj) with hw | hr
        · exact .inl (by rwa [ctxOf_releaseMember_other ms t hjx])
        · exact .inr (releaseMember_keeps hr x)
    obtain ⟨hkeep, hall⟩ := ih ((releaseMember_gcc ms t x).trans hg) hrest
    refine ⟨fun i hi => hkeep i (releaseMember_keeps hi x), fun j hj => ?_⟩
    rcases List.mem_cons.mp hj with rfl | hj
    · exact hkeep _ hx
    · exact hall j hj

theorem wait_of_csyncArrival {s : State} {j a : Nat} (h : csyncArrival s j = some a) : (ctxOf s j).wait ≠ none := by
  intro hw
  simp [csyncArrival, hw] at h

theorem wait_of_canRelease {s : State} {k j : Nat} (h : canRelease s k = true) (hj : j ∈ liveGang s k) : (ctxOf s j).wait ≠ none := by
  simp only [canRelease, Bool.and_eq_true, List.all_eq_true] at h
  obtain ⟨a, ha, -⟩ := (Option.any_eq_true ..).mp (h.2 j hj)
  exact wait_of_csyncArrival ha

theorem csyncRelease_releases {s : State} {k : Nat} (h : canRelease s k = true) :
    ∃ t, exec (.csyncRelease k) s = .next t ∧ ∀ j ∈ liveGang s k, Released s (liveGang s k) t j := by
  refine ⟨(liveGang s k).foldl (releaseMember (liveGang s k)) s, ?_,
    (foldl_releaseMember _ rfl fun j hj => .inl (wait_of_canRelease h hj)).2⟩
  simp only [exec, execCsyncRelease, h, ↓reduceIte]
  rfl

/-! ### WAITM (R176) -/

theorem lookAgain_waitm (s : State) (k a v : Nat) (d : SReg) (b pc : W64) (cc : Cmp) (x : Bool) (dl : Option Nat) :
    lookAgain s k ⟨.waitm d v b cc x dl none, a, pc⟩ =
      ⟨.waitm d v b cc x dl (if monitorHit s k v b cc x then some true else none), a, pc⟩ := by
  simp only [lookAgain, Wait.meet]
  split <;> rfl

theorem expire_waitm {a v g dl : Nat} (d : SReg) (b pc : W64) (cc : Cmp) (x : Bool) (h : dl ≤ g) :
    Wait.expire ⟨.waitm d v b cc x (some dl) none, a, pc⟩ g = ⟨.waitm d v b cc x (some dl) (some false), a, pc⟩ := by
  simp [Wait.expire, Wait.meet, h]

/-- A change of nothing but the waits of a context leaves its registers alone. -/
theorem sameRegisters_waits (c : Ctx) (w h : Option Wait) : SameRegisters c { c with wait := w, heldWait := h } := by
  constructor <;> simp

theorem sameStores_modCtx (s : State) (k : Nat) (f : Ctx → Ctx) : SameStores s (modCtx s k f) := by
  constructor
  case allow => exact fun _ => ⟨rfl, rfl, rfl, rfl⟩
  all_goals intros; rfl

theorem sameStores_nextFresh {s t : State} (h : SameStores s t) (n : Nat) : SameStores s (nextFresh t n) :=
  ⟨h.mem, h.buf, h.tiles, h.barriers, h.allow, h.queues, h.program⟩

theorem waitmPoll_looks (s : State) (k v a : Nat) (d : SReg) (b pc : W64) (cc : Cmp) (x : Bool) (dl : Option Nat) :
    let w := fun hit => (⟨.waitm d v b cc x dl hit, a, pc⟩ : Wait)
    ∃ t, exec (.waitmPoll k) s = .next t ∧ SameRegisters (ctxOf s k) (ctxOf t k) ∧ SameStores s t ∧
      ((ctxOf s k).wait = some (w none) →
        (ctxOf t k).wait = some (w (if monitorHit s k v b cc x then some true else none))) ∧
      ((ctxOf s k).heldWait = some (w none) →
        (ctxOf t k).heldWait = some (w (if monitorHit (nextFresh s 1) k v b cc x then some true else none))) := by
  intro w
  refine ⟨_, rfl, ?_, sameStores_nextFresh (sameStores_modCtx ..) 2, fun h => ?_, fun h => ?_⟩
  · simp only [ctxOf_nextFresh, ctxOf_modCtx, ↓reduceIte]
    exact sameRegisters_waits ..
  · simp [h, w, lookAgain_waitm]
  · simp [h, w, lookAgain_waitm]

theorem waitmTimeout_expires (s : State) (k v a dl : Nat) (d : SReg) (b pc : W64) (cc : Cmp) (x : Bool) (hdl : dl ≤ s.gcc) :
    let w := fun hit => (⟨.waitm d v b cc x (some dl) hit, a, pc⟩ : Wait)
    ∃ t, exec (.waitmTimeout k) s = .next t ∧ SameRegisters (ctxOf s k) (ctxOf t k) ∧ SameStores s t ∧
      ((ctxOf s k).wait = some (w none) → (ctxOf t k).wait = some (w (some false))) ∧
      ((ctxOf s k).heldWait = some (w none) → (ctxOf t k).heldWait = some (w (some false))) := by
  intro w
  refine ⟨_, rfl, ?_, sameStores_modCtx .., fun h => ?_, fun h => ?_⟩
  · simp only [ctxOf_modCtx, ↓reduceIte]
    exact sameRegisters_waits ..
  · simp [h, w, expire_waitm d b pc cc x hdl]
  · simp [h, w, expire_waitm d b pc cc x hdl]

/-! ### ALLOWANCE_APPLY (R135, R136) -/

/-- `r` wins against `q` outright, both posts of the kind of `p`: a later posting, else STRICT or a lower allowance. -/
def Post.WinsOver (p r q : Post) : Prop :=
  q.posted < r.posted ∨ (q.posted = r.posted ∧
    (if p.isMode then r.value.getLsbD 0 = true ∧ q.value.getLsbD 0 = false else r.value.toNat < q.value.toNat))

theorem beats_of_winsOver {p r q : Post} (hr : r.isMode = p.isMode) (h : p.WinsOver r q) : r.beats q = true := by
  unfold Post.WinsOver at h
  unfold Post.beats
  rcases h with h | ⟨h, hv⟩
  · simp [h]
  · cases hm : p.isMode <;> simp_all [Nat.le_of_lt]

theorem not_beats_of_winsOver {p r q : Post} (hq : q.isMode = p.isMode) (h : p.WinsOver r q) : q.beats r = false := by
  unfold Post.WinsOver at h
  unfold Post.beats
  rcases h with h | ⟨h, hv⟩
  · simp [Nat.le_of_lt h, Nat.ne_of_lt h]
  · cases hm : p.isMode <;> simp_all

/-- The winner of a comparison: the later of two that wins. -/
def stronger (m q : Post) : Post := if q.beats m then q else m

/-- A post that wins over every other of a list, and over the first, is the one that a fold along the list ends with. -/
theorem foldl_stronger {p r : Post} (hr : r.isMode = p.isMode) (l : List Post) (m : Post) (hm : m = r ∨ p.WinsOver r m)
    (hl : ∀ q ∈ l, q.isMode = p.isMode ∧ (q = r ∨ p.WinsOver r q)) (hmem : m = r ∨ r ∈ l) : l.foldl stronger m = r := by
  induction l generalizing m with
  | nil => simpa using hmem
  | cons q l ih =>
    obtain ⟨hqm, hq⟩ := hl q List.mem_cons_self
    have hrest := fun x hx => hl x (List.mem_cons_of_mem q hx)
    rw [List.foldl_cons]
    rcases hq with rfl | hq
    · have hs : stronger m q = q := by
        unfold stronger
        rcases hm with rfl | hm
        · simp
        · rw [if_pos (beats_of_winsOver hr hm)]
      rw [hs]
      exact ih q (.inl rfl) hrest (.inl rfl)
    · have hmem' : stronger m q = r ∨ r ∈ l := by
        rcases hmem with rfl | hmem
        · exact .inl (if_neg (by simp [not_beats_of_winsOver hqm hq]))
        · rcases List.mem_cons.mp hmem with rfl | hmem
          · exact .inl (by simp [Post.WinsOver] at hq)
          · exact .inr hmem
      refine ih _ ?_ hrest hmem'
      unfold stronger
      split
      · exact .inr hq
      · exact hm

/-- What a post applied leaves of its core: a mode leaves the target alone, an allowance STRICT (R135). -/
theorem applyPost_core (s : State) (r : Post) :
    (applyPost s r).posts = s.posts ∧
      (r.isMode = false → (coreOf (applyPost s r) r.core).target = min r.value.toNat (if 700 < s.clock then 7200 else 8000) ∧
        (coreOf (applyPost s r) r.core).strict = (coreOf s r.core).strict) ∧
      (r.isMode = true → (coreOf (applyPost s r) r.core).strict = r.value.getLsbD 0 ∧
        (coreOf (applyPost s r) r.core).target = (coreOf s r.core).target) := by
  have hboost : ∀ t : State, ∀ n, (leaveBoost t n).posts = t.posts ∧ ∀ j, coreOf (leaveBoost t n) j = coreOf t j := by
    intro t n
    unfold leaveBoost
    split <;> exact ⟨rfl, fun _ => rfl⟩
  have hstretch : ∀ t : State, ∀ n, (stretchValue t n).posts = t.posts ∧
      (coreOf (stretchValue t n) n).target = (coreOf t n).target ∧ (coreOf (stretchValue t n) n).strict = (coreOf t n).strict := by
    intro t n
    simp only [stretchValue, coreOf_modCore, ↓reduceIte]
    split <;> exact ⟨rfl, rfl, rfl⟩
  unfold applyPost
  cases hm : r.isMode <;> simp [hboost, hstretch]

theorem allowanceApply_applies {s : State} {i : Nat} {p r : Post} (hi : s.posts[i]? = some p) (hp : p.posted + 16 ≤ s.gcc)
    (hr : r ∈ s.posts) (hrr : p.isRival r s.gcc = true)
    (hwin : ∀ q ∈ s.posts, p.isRival q s.gcc = true → q = r ∨ p.WinsOver r q) :
    exec (.allowanceApply i) s = .next (applyPost { s with posts := s.posts.filter (fun q => !p.isRival q s.gcc) } r) := by
  have hmode : ∀ q, p.isRival q s.gcc = true → q.isMode = p.isMode := by
    intro q hq
    simp only [Post.isRival, Bool.and_eq_true, beq_iff_eq] at hq
    exact hq.1.2
  have hself : p.isRival p s.gcc = true := by simp [Post.isRival, hp]
  have hfold : (s.posts.filter (fun q => p.isRival q s.gcc)).foldl stronger p = r :=
    foldl_stronger (hmode r hrr) _ p (hwin p (List.mem_of_getElem? hi) hself)
      (fun q hq => ⟨hmode q (List.mem_filter.mp hq).2, hwin q (List.mem_filter.mp hq).1 (List.mem_filter.mp hq).2⟩)
      (.inr (List.mem_filter.mpr ⟨hr, hrr⟩))
  simp only [exec, execAllowanceApply, hi, Nat.not_lt.mpr hp, ↓reduceIte]
  exact congrArg (fun q => Host.Outcome.next (applyPost { s with posts := s.posts.filter (fun q => !p.isRival q s.gcc) } q)) hfold

/-- Settles O54, clause by clause, by the lemmas of each event. -/
theorem waitsAndWidth : Obligations.WaitsAndWidth := by
  unfold Obligations.WaitsAndWidth
  refine ⟨fun s k w hw hf hh ha hc => ?_, fun c l r u d x hc hr hh hd hl => readS_writeResults_last hc hr hh hd hl,
    fun s k a pc x hw hx he hu => taskEndComplete_frees hw hx he hu, fun s core i hi hf ho hh hp => ?_,
    fun s k g => lowPriorityPromotion_promotes, fun s k ho hg hf hp => runOverrun_posts ho hg hf hp,
    fun s k h => ?_, waitmPoll_looks, waitmTimeout_expires, fun s i p r hi hp hr hrr hwin => ?_⟩
  · have h : Completes s k w := ⟨hw, hf, hh, ha, hc⟩
    exact ⟨waitCompletion_completes h, waitCompletion_rte h⟩
  · refine ⟨_, handOver_receives hi hf ho hh hp, by simp [handedOver], by simp [handedOver], by simp [handedOver],
      by simp [handedOver], fun hw => by simp [handedOver, hw, hf]⟩
  · obtain ⟨t, ht, hall⟩ := csyncRelease_releases h
    exact ⟨t, ht, fun j hj => ⟨(hall j hj).wait, (hall j hj).ttc, (hall j hj).resume, (hall j hj).group⟩⟩
  · have hcore : r.core = p.core ∧ r.isMode = p.isMode := by
      simp only [Post.isRival, Bool.and_eq_true, beq_iff_eq] at hrr
      exact hrr.1
    obtain ⟨hposts, hallow, hmode⟩ := applyPost_core { s with posts := s.posts.filter (fun q => !p.isRival q s.gcc) } r
    rw [hcore.1] at hallow hmode
    rw [hcore.2] at hallow hmode
    exact ⟨_, allowanceApply_applies hi hp hr hrr hwin, hposts, hallow, hmode⟩

end Sys2Proof.Machine
end

section
/-! PROOFS. What the launch unit's parts leave of the node tables, discards and rollbacks (R121, R326–R328). -/

namespace Sys2Proof.Machine

/-! ### What the launch unit's parts leave of the node tables -/

/-- A node but for what it has staged and what its writes to HBM had found. -/
def Node.kept (x : Node) : Node := { x with staged := [], tentative := [] }

/-- A tenant's queue and registers, without its nodes and its pending vectors. -/
def Tenant.kept (t : Tenant) : Tenant := { t with nodes := [], msixPending := [] }

/-- `t` has the nodes and tenants of `s`, but for staged and tentative writes and pending vectors; no node depends on one that had
no dependants, a context without a task has none, and nothing more of a node is on its way to other packages. -/
structure NodesKept (s t : State) : Prop where
  node : ∀ fn n, (nodeOf t fn n).kept = (nodeOf s fn n).kept
  tenant : ∀ fn, (tenantOf t fn).kept = (tenantOf s fn).kept
  deps : ∀ fn n, dependants s fn n = [] → dependants t fn n = []
  idle : ∀ k, (ctxOf s k).task = none → (ctxOf t k).task = none
  out : ∀ fn serial, effectsOut s fn serial = false → effectsOut t fn serial = false
  pkgId : t.pkgId = s.pkgId

theorem NodesKept.refl (s : State) : NodesKept s s :=
  ⟨fun _ _ => rfl, fun _ => rfl, fun _ _ h => h, fun _ h => h, fun _ _ h => h, rfl⟩

theorem NodesKept.trans {s t u : State} (h : NodesKept s t) (g : NodesKept t u) : NodesKept s u :=
  ⟨fun fn n => (g.node fn n).trans (h.node fn n), fun fn => (g.tenant fn).trans (h.tenant fn),
    fun fn n hd => g.deps fn n (h.deps fn n hd), fun k hk => g.idle k (h.idle k hk),
    fun fn n ho => g.out fn n (h.out fn n ho), g.pkgId.trans h.pkgId⟩

/-- Where the tenants stand as they did, so do the nodes. -/
theorem NodesKept.of_tenants {s t : State} (h : t.tenants = s.tenants) (hc : ∀ k, (ctxOf s k).task = none → (ctxOf t k).task = none)
    (ho : ∀ fn n, effectsOut s fn n = false → effectsOut t fn n = false) (hp : t.pkgId = s.pkgId) : NodesKept s t := by
  have ht : ∀ fn, tenantOf t fn = tenantOf s fn := fun fn => by simp only [tenantOf, h]
  exact ⟨fun fn n => by simp only [nodeOf, ht], fun fn => by rw [ht],
    fun fn n hd => by simpa only [dependants, ht] using hd, hc, ho, hp⟩

theorem NodesKept.foldl {α : Type} {f : State → α → State} (h : ∀ s x, NodesKept s (f s x)) (l : List α) (s : State) :
    NodesKept s (l.foldl f s) := by
  induction l generalizing s with
  | nil => exact .refl s
  | cons x r ih => exact (h s x).trans (ih _)

theorem mem_put {α : Type} {t : Table α} {k : Nat} {v : α} {p : Nat × α} (h : p ∈ Table.put t k v) : p = (k, v) ∨ p ∈ t := by
  induction t with
  | nil => exact .inl (List.mem_singleton.mp h)
  | cons e r ih =>
    simp only [Table.put] at h
    split at h
    · rcases List.mem_cons.mp h with h | h
      · exact .inl h
      · exact .inr (List.mem_cons_of_mem _ h)
    · split at h
      · rcases List.mem_cons.mp h with h | h
        · exact .inl h
        · exact .inr h
      · rcases List.mem_cons.mp h with h | h
        · exact .inr (h ▸ List.mem_cons_self)
        · exact (ih h).imp_right (List.mem_cons_of_mem _)

/-- Does a node depend on entry `ix`? -/
def Node.awaits (x : Node) (ix : Nat) : Bool := isLive x && x.preds.contains ix

theorem dependants_eq_nil {s : State} {fn ix : Nat} : dependants s fn ix = [] ↔ ∀ p ∈ (tenantOf s fn).nodes, p.2.awaits ix = false := by
  simp [dependants, Node.awaits, List.filter_eq_nil_iff]

theorem awaits_of_dependants {s : State} {fn ix : Nat} (h : dependants s fn ix = []) (n : Nat) : (nodeOf s fn n).awaits ix = false := by
  rcases get_of_mem (t := (tenantOf s fn).nodes) (k := n) (d := Node.reset) with hn | hn
  · simp only [nodeOf, hn]
    rfl
  · exact dependants_eq_nil.mp h _ hn

@[simp] theorem tenantOf_modNode (s : State) (t n fn : Nat) (f : Node → Node) :
    tenantOf (modNode s t n f) fn =
      if fn = t then { tenantOf s t with nodes := Table.put (tenantOf s t).nodes n (f (nodeOf s t n)) } else tenantOf s fn := by
  simp [modNode, nodeOf]

/-- A change of one node gives an entry dependants only where that node now awaits it. -/
theorem dependants_modNode {s : State} {t n fn ix : Nat} {f : Node → Node} (h : dependants s fn ix = [])
    (hf : fn = t → (f (nodeOf s t n)).awaits ix = false) : dependants (modNode s t n f) fn ix = [] := by
  rw [dependants_eq_nil, tenantOf_modNode]
  intro p hp
  split at hp
  · next heq =>
    subst heq
    rcases mem_put hp with rfl | hp
    · exact hf rfl
    · exact dependants_eq_nil.mp h p hp
  · exact dependants_eq_nil.mp h p hp

theorem Node.awaits_kept (x : Node) (ix : Nat) : x.kept.awaits ix = x.awaits ix := rfl

/-- A node's staged and tentative writes are nothing that is kept. -/
theorem NodesKept.modNode (s : State) (t n : Nat) {f : Node → Node} (h : ∀ x, (f x).kept = x.kept) : NodesKept s (modNode s t n f) where
  node fn m := by
    rw [nodeOf_modNode]
    split
    · next heq => rw [h, heq.1, heq.2]
    · rfl
  tenant fn := by
    rw [tenantOf_modNode]
    split
    · next heq => rw [heq]; rfl
    · rfl
  deps fn ix hd := by
    refine dependants_modNode hd fun heq => ?_
    rw [← Node.awaits_kept, h, Node.awaits_kept, ← heq]
    exact awaits_of_dependants hd n
  idle _ h := h
  out _ _ h := h
  pkgId := rfl

theorem NodesKept.modTenant (s : State) (n : Nat) {f : Tenant → Tenant} (h : ∀ t, (f t).kept = t.kept ∧ (f t).nodes = t.nodes) :
    NodesKept s (modTenant s n f) := by
  have hnodes : ∀ fn, (tenantOf (Machine.modTenant s n f) fn).nodes = (tenantOf s fn).nodes := by
    intro fn
    rw [tenantOf_modTenant]
    split
    · next heq => rw [(h _).2, heq]
    · rfl
  refine ⟨fun fn m => by simp only [nodeOf, hnodes], fun fn => ?_, fun fn m hd => by simpa only [dependants, hnodes] using hd,
    fun _ h => h, fun _ _ h => h, rfl⟩
  rw [tenantOf_modTenant]
  split
  · next heq => rw [(h _).1, heq]
  · rfl

/-- What a function reads of a node's kept part stands. -/
theorem NodesKept.of_node {s t : State} (h : NodesKept s t) {α : Type} (g : Node → α) (hg : ∀ x, g x.kept = g x) (fn n : Nat) :
    g (nodeOf t fn n) = g (nodeOf s fn n) := by
  rw [← hg, h.node, hg]

theorem NodesKept.of_tenant {s t : State} (h : NodesKept s t) {α : Type} (g : Tenant → α) (hg : ∀ x, g x.kept = g x) (fn : Nat) :
    g (tenantOf t fn) = g (tenantOf s fn) := by
  rw [← hg, h.tenant, hg]

theorem NodesKept.state {s t : State} (h : NodesKept s t) (fn n : Nat) : (nodeOf t fn n).state = (nodeOf s fn n).state :=
  h.of_node Node.state (fun _ => rfl) fn n

theorem NodesKept.record {s t : State} (h : NodesKept s t) (fn n : Nat) : (nodeOf t fn n).record = (nodeOf s fn n).record :=
  h.of_node Node.record (fun _ => rfl) fn n

theorem NodesKept.tda {s t : State} (h : NodesKept s t) (fn : Nat) : (tenantOf t fn).tda = (tenantOf s fn).tda :=
  h.of_tenant Tenant.tda (fun _ => rfl) fn

theorem NodesKept.queue {s t : State} (h : NodesKept s t) (fn : Nat) : (tenantOf t fn).queue = (tenantOf s fn).queue :=
  h.of_tenant Tenant.queue (fun _ => rfl) fn

/-! ### Memory and the decisions of homes -/

theorem kept_nextFresh (s : State) (n : Nat) : NodesKept s (nextFresh s n) :=
  .of_tenants rfl (fun _ h => h) (fun _ _ h => h) rfl

theorem kept_putMem (s : State) (a : Nat) (bytes : List Byte) : NodesKept s (putMem s a bytes) :=
  .of_tenants rfl (fun _ h => h) (fun _ _ h => h) rfl

theorem kept_openWrite (s : State) (by_ : Option Writer) (a : Nat) (bytes : List Byte) : NodesKept s (openWrite s by_ a bytes) :=
  .of_tenants rfl (fun _ h => h) (fun _ _ h => h) rfl

/-- What a change of every entry leaves alone stands in each entry. -/
theorem get_map_congr {α β : Type} (t : Table α) {f : Nat × α → Nat × α} (g : α → β) (hk : ∀ p, (f p).1 = p.1)
    (h : ∀ p, g (f p).2 = g p.2) (k : Nat) (d : α) : g (Table.get (t.map f) k d) = g (Table.get t k d) := by
  induction t with
  | nil => rfl
  | cons e r ih =>
    simp only [List.map_cons, Table.get, hk]
    split
    · exact h e
    · exact ih

theorem task_noteWrite (s : State) (a n k : Nat) : (ctxOf (noteWrite s a n) k).task = (ctxOf s k).task :=
  get_map_congr s.ctxs (f := fun p => (p.1, p.2.monitor s a n p.1)) Ctx.task (fun _ => rfl) (fun _ => rfl) k Ctx.reset

/-- A write that monitors watch changes waits alone. -/
theorem kept_noteWrite (s : State) (a n : Nat) : NodesKept s (noteWrite s a n) :=
  .of_tenants rfl (fun k hk => (task_noteWrite s a n k).trans hk) (fun _ _ h => h) rfl

theorem kept_takeBack (s : State) (w : Writer) : NodesKept s (takeBack s w) := by
  unfold takeBack
  refine .trans (.foldl (fun s a => ?_) _ s) (.of_tenants rfl (fun _ h => h) (fun _ _ h => h) rfl)
  split
  · exact kept_putMem ..
  · exact .refl s

theorem kept_loseBytes (s : State) (a len : Nat) : NodesKept s (loseBytes s a len) :=
  .of_tenants rfl (fun _ h => h) (fun _ _ h => h) rfl

theorem kept_loseOutputs (s : State) (n : Node) : NodesKept s (loseOutputs s n) := by
  unfold loseOutputs
  have hsegs : NodesKept s (n.segs.foldl (fun s g =>
      if g.valid && g.kind == .plain && !g.readOnly then loseBytes s g.pbase g.bytes else s) s) :=
    .foldl (fun s g => by split; exacts [kept_loseBytes .., .refl s]) _ s
  dsimp only
  split
  · exact hsegs
  · exact hsegs.trans (kept_loseBytes ..)

theorem kept_losePages (s : State) (fn : Nat) (n : Node) : NodesKept s (losePages s fn n) := by
  unfold losePages
  refine .foldl (fun s v => ?_) _ s
  split
  · split
    · exact kept_loseBytes ..
    · exact .refl s
  · exact .refl s

theorem kept_closeWrites (s : State) (w : Writer) : NodesKept s (closeWrites s w) :=
  .of_tenants rfl (fun _ h => h) (fun _ _ h => h) rfl

theorem kept_liftClouds (s : State) (gone : Nat → Nat → Bool) : NodesKept s (liftClouds s gone) :=
  .of_tenants rfl (fun _ h => h) (fun _ _ h => h) rfl

theorem kept_dropPins (s : State) (fn n : Nat) : NodesKept s (dropPins s fn n) :=
  .of_tenants rfl (fun _ h => h) (fun _ _ h => h) rfl

theorem kept_dropFabric (s : State) (fn serial : Nat) : NodesKept s (dropFabric s fn serial) := by
  refine .of_tenants rfl (fun _ h => h) (fun gn n h => ?_) rfl
  simp only [effectsOut, Bool.or_eq_false_iff, List.any_eq_false] at h ⊢
  exact ⟨fun o ho => h.1 o (List.mem_filter.mp ho).1, h.2⟩

theorem kept_forgetClouds (s : State) (fn : Nat) (gone : Nat → Bool) : NodesKept s (forgetClouds s fn gone) :=
  .of_tenants rfl (fun _ h => h) (fun _ _ h => h) rfl

/-! ### A context that becomes free -/

theorem task_freeCtx_self (s : State) (k : Nat) : (ctxOf (freeCtx s k) k).task = none := by
  rw [freeCtx, ctxOf_vacate]
  rfl

theorem kept_modCtx (s : State) (k : Nat) {f : Ctx → Ctx} (h : ∀ c, c.task = none → (f c).task = none) : NodesKept s (modCtx s k f) := by
  refine .of_tenants rfl (fun j hj => ?_) (fun _ _ h => h) rfl
  rw [ctxOf_modCtx]
  split
  · next heq => exact h _ (heq ▸ hj)
  · exact hj

theorem kept_dropMember (s : State) (k : Nat) : NodesKept s (dropMember s k) := by
  unfold dropMember
  refine .foldl (fun s j => kept_modCtx s j ?_) _ s
  exact fun _ h => h

theorem kept_vacate (s : State) (k : Nat) : NodesKept s (vacate s k) := by
  refine .of_tenants rfl (fun j hj => ?_) (fun _ _ h => h) rfl
  by_cases hjk : j = k
  · rw [hjk, ctxOf_vacate]
    rfl
  · simpa [vacate, hjk] using hj

theorem kept_renameStaged (s : State) (c : Ctx) (old new : Nat) : NodesKept s (renameStaged s c old new) := by
  unfold renameStaged
  refine .modNode _ _ _ ?_
  exact fun _ => rfl

theorem kept_freeCtx (s : State) (k : Nat) : NodesKept s (freeCtx s k) :=
  ((kept_renameStaged ..).trans (kept_dropMember ..)).trans (kept_vacate ..)

/-- Each context of a list that becomes free has no task. -/
theorem task_foldl_freeCtx {l : List Nat} {k : Nat} (h : k ∈ l) (s : State) : (ctxOf (l.foldl freeCtx s) k).task = none := by
  induction l generalizing s with
  | nil => exact absurd h List.not_mem_nil
  | cons j r ih =>
    rcases List.mem_cons.mp h with rfl | h
    · exact (NodesKept.foldl kept_freeCtx r _).idle k (task_freeCtx_self s k)
    · exact ih h _

/-! ### Discarding the effects of a node (R121) -/

/-- The entry of a node whose run is discarded; `gone` are the tasks that had started and not ended. -/
def Node.discard (gone : List (Nat × Option Nat)) (n : Node) : Node :=
  { n with
    staged := []
    tentative := []
    digests := []
    running := []
    migrating := []
    dies := []
    asked := none
    unplacedSince := none
    fate := 0
    mustRoll := false
    laid := false
    past := n.past ++ gone
    gangs := List.range (gangCount (nodeLevels n)) }

/-- The storage of a node's run taken back: its contexts are free, its lines at the homes restored. -/
def storageBack (s : State) (fn ix : Nat) : State :=
  let n := nodeOf s fn ix
  let s := (nodeCtxs s fn ix).foldl freeCtx s
  let s := { s with saved := s.saved.filter (fun x => !x.ctx.task.any (fun t => t.tenant == fn && t.node == ix)) }
  let s := takeBack s ⟨false, 0, fn, ix⟩
  let s := if n.gangs.length < gangCount (nodeLevels n) ∨ n.running ≠ [] then losePages (loseOutputs s n) fn n else s
  dropFabric (applyRollback s s.pkgId fn (recSerial n.record)) fn (recSerial n.record)

theorem discardEffects_eq (s : State) (fn ix : Nat) :
    discardEffects s fn ix =
      dropPins (modNode ((remotePackages (storageBack s fn ix) (nodeOf s fn ix)).foldl
        (fun u p => sendDecision u fn (nodeOf s fn ix) 6 p) (storageBack s fn ix)) fn ix
          (Node.discard (openTasks s fn ix))) fn ix := by
  unfold discardEffects storageBack
  rfl

@[simp] theorem nodeOf_dropPins (s : State) (fn n gn m : Nat) : nodeOf (dropPins s fn n) gn m = nodeOf s gn m := rfl
@[simp] theorem tenantOf_dropPins (s : State) (fn n gn : Nat) : tenantOf (dropPins s fn n) gn = tenantOf s gn := rfl

@[simp] theorem effectsOut_modNode (s : State) (t n fn serial : Nat) (f : Node → Node) :
    effectsOut (modNode s t n f) fn serial = effectsOut s fn serial := rfl
@[simp] theorem effectsOut_dropPins (s : State) (fn n gn serial : Nat) :
    effectsOut (dropPins s fn n) gn serial = effectsOut s gn serial := rfl

/-- After the contexts of a node are free, what the rest of the discard does keeps the nodes. -/
theorem kept_storageBack_freed (s : State) (fn ix : Nat) :
    NodesKept ((nodeCtxs s fn ix).foldl freeCtx s) (storageBack s fn ix) := by
  unfold storageBack
  extract_lets n a b c d
  have hb : NodesKept a b := .of_tenants rfl (fun _ h => h) (fun _ _ h => h) rfl
  have hc : NodesKept b c := kept_takeBack ..
  have hd : NodesKept c d := by
    unfold d
    split
    · exact (kept_loseOutputs ..).trans (kept_losePages ..)
    · exact .refl c
  exact hb.trans (hc.trans (hd.trans ((kept_takeBack ..).trans (kept_dropFabric ..))))

theorem kept_storageBack (s : State) (fn ix : Nat) : NodesKept s (storageBack s fn ix) :=
  (NodesKept.foldl kept_freeCtx _ s).trans (kept_storageBack_freed s fn ix)

theorem task_storageBack {s : State} {fn ix k : Nat} (h : k ∈ nodeCtxs s fn ix) : (ctxOf (storageBack s fn ix) k).task = none :=
  (kept_storageBack_freed s fn ix).idle k (task_foldl_freeCtx h s)

/-- A node whose run is discarded where it has no writes in other packages: its own entry is reset, and the rest is kept. -/
structure Discarded (s : State) (fn ix : Nat) (t : State) : Prop where
  node : ∃ x : Node, x.kept = (nodeOf s fn ix).kept ∧ nodeOf t fn ix = x.discard (openTasks s fn ix)
  tda : (tenantOf t fn).tda = (tenantOf s fn).tda
  rollmax : (tenantOf t fn).rollmax = (tenantOf s fn).rollmax
  deps : dependants s fn ix = [] → dependants t fn ix = []
  idle : ∀ k ∈ nodeCtxs s fn ix, (ctxOf t k).task = none
  out : ∀ serial, effectsOut s fn serial = false → effectsOut t fn serial = false

theorem Node.awaits_discard (x : Node) (gone : List (Nat × Option Nat)) (ix : Nat) : (x.discard gone).awaits ix = x.awaits ix := rfl

theorem remotePackages_congr {s t : State} (h : t.pkgId = s.pkgId) (x : Node) : remotePackages t x = remotePackages s x := by
  simp only [remotePackages, h]

theorem discardEffects_discarded {s : State} {fn ix : Nat} (hr : remotePackages s (nodeOf s fn ix) = []) :
    Discarded s fn ix (discardEffects s fn ix) := by
  have hk := kept_storageBack s fn ix
  rw [discardEffects_eq, remotePackages_congr hk.pkgId, hr, List.foldl_nil]
  have hp := kept_dropPins (modNode (storageBack s fn ix) fn ix (Node.discard (openTasks s fn ix))) fn ix
  refine ⟨⟨nodeOf (storageBack s fn ix) fn ix, hk.node fn ix, by simp⟩, ?_, ?_, fun h => hp.deps _ _ ?_,
    fun k h => ?_, fun serial h => ?_⟩
  · simp [hk.tda]
  · simpa using hk.of_tenant Tenant.rollmax (fun _ => rfl) fn
  · refine dependants_modNode (hk.deps _ _ h) fun _ => ?_
    rw [Node.awaits_discard]
    exact awaits_of_dependants (hk.deps _ _ h) ix
  · refine hp.idle k ?_
    rw [ctxOf_modNode]
    exact task_storageBack h
  · rw [effectsOut_dropPins, effectsOut_modNode]
    exact hk.out _ _ h

/-! ### The end of a rollback (R326–R328) -/

/-- A node that has rolled back and whose homes are restored waits again, if it may roll back once more (R328). -/
theorem finishRollback_waits {s : State} {fn ix : Nat} (hs : (nodeOf s fn ix).state = .rollingBack)
    (ho : effectsOut s fn (recSerial (nodeOf s fn ix).record) = false) (hf : (nodeOf s fn ix).fate = 0)
    (hr : (nodeOf s fn ix).ownRolls ≤ (tenantOf s fn).rollmax.toNat) (ht : (tenantOf s fn).tda = false) :
    finishRollback s fn ix = modNode s fn ix (fun n => { n with state := .waiting, past := [], ranOn := [] }) := by
  simp [finishRollback, hs, ho, hf, Nat.not_lt.mpr hr, ht]

theorem finishRollback_retires {s : State} {fn ix : Nat} (hs : (nodeOf s fn ix).state = .rollingBack)
    (ho : effectsOut s fn (recSerial (nodeOf s fn ix).record) = false) (hf : (nodeOf s fn ix).fate ≠ 0) :
    finishRollback s fn ix = retire s fn ix (nodeOf s fn ix).fate := by
  simp [finishRollback, hs, ho, hf]

/-- A node on which no other depends rolls back alone (R327). -/
theorem rollNode_alone (fuel : Nat) (s : State) (fn ix : Nat) (own : Bool) (h : dependants s fn ix = []) :
    rollNode (fuel + 1) s fn ix own = finishRollback (modNode (discardEffects s fn ix) fn ix (fun n => { n with
      state := .rollingBack
      rolls := min (n.rolls + 1) 255
      ownRolls := n.ownRolls + (if own then 1 else 0) })) fn ix := by
  simp [rollNode, h]

/-! ### Retirement (R326, R329) -/

theorem kept_putFinal (s : State) (a : Nat) (bytes : List Byte) : NodesKept s (putFinal s a bytes) :=
  (kept_openWrite ..).trans (kept_noteWrite ..)

theorem kept_sendMsix (s : State) (fn vec : Nat) : NodesKept s (sendMsix s fn vec) := by
  unfold sendMsix
  split
  · refine .modTenant _ _ ?_
    exact fun _ => ⟨rfl, rfl⟩
  · exact .of_tenants rfl (fun _ h => h) (fun _ _ h => h) rfl

theorem kept_sendSignal (s : State) (fn ix : Nat) (n : Node) (status : Nat) : NodesKept s (sendSignal s fn ix n status) := by
  unfold sendSignal
  extract_lets a t
  have ht : NodesKept s t := by
    unfold t
    split
    · exact .refl s
    · exact (kept_putFinal ..).trans (kept_putFinal ..)
  split
  · exact ht.trans (kept_sendMsix ..)
  · exact ht

/-- The entry of a node that retires. -/
def Node.retired (status : Nat) (n : Node) : Node := { n with state := .retired, status := status, gangs := [], preds := [] }

/-- Retirement before its dependants learn of it: the signal is written, the entry closed, and nothing of it is undefined any more. -/
def closeNode (s : State) (fn ix status : Nat) : State :=
  forgetClouds (modNode (sendSignal s fn ix (nodeOf s fn ix) status) fn ix (Node.retired status)) fn (· == ix)

theorem retire_eq (s : State) (fn ix status : Nat) :
    retire s fn ix status = (dependants (closeNode s fn ix status) fn ix).foldl (fun s j =>
      if status = 0 then modNode s fn j (fun m => { m with preds := m.preds.filter (· != ix) })
      else
        let s := discardEffects s fn j
        if effectsOut s fn (recSerial (nodeOf s fn j).record) then awaitDiscard s fn j 1 else retireNode 1024 s fn j 1)
      (closeNode s fn ix status) := by
  unfold retire retireNode
  rfl

/-- A node on which no other depends retires alone. -/
theorem retire_alone {s : State} {fn ix : Nat} (status : Nat) (h : dependants s fn ix = []) :
    retire s fn ix status = closeNode s fn ix status := by
  have hd : dependants (closeNode s fn ix status) fn ix = [] := by
    refine (kept_forgetClouds ..).deps _ _ (dependants_modNode ((kept_sendSignal ..).deps _ _ h) fun _ => ?_)
    rfl
  rw [retire_eq, hd, List.foldl_nil]

theorem nodeOf_closeNode (s : State) (fn ix status : Nat) :
    nodeOf (closeNode s fn ix status) fn ix = (nodeOf (sendSignal s fn ix (nodeOf s fn ix) status) fn ix).retired status := by
  have h : nodeOf (closeNode s fn ix status) fn ix =
    nodeOf (modNode (sendSignal s fn ix (nodeOf s fn ix) status) fn ix (Node.retired status)) fn ix := rfl
  rw [h, nodeOf_modNode, if_pos ⟨rfl, rfl⟩]

/-! ### NODE_ROLLBACK (R121, R327) -/

/-- A RUNNING node on which no other depends, with nothing of it in other packages or on its way there. -/
structure RunsAlone (s : State) (fn n : Nat) : Prop where
  state : (nodeOf s fn n).state = .running
  deps : dependants s fn n = []
  remote : remotePackages s (nodeOf s fn n) = []
  out : effectsOut s fn (recSerial (nodeOf s fn n).record) = false

/-- The contexts of a node are free, and its entry names none. -/
structure Freed (s : State) (fn n : Nat) (t : State) : Prop where
  running : (nodeOf t fn n).running = []
  idle : ∀ k ∈ nodeCtxs s fn n, (ctxOf t k).task = none

theorem preds_of_runsAlone {s : State} {fn n : Nat} (h : RunsAlone s fn n) : (nodeOf s fn n).preds.contains n = false := by
  have ha := awaits_of_dependants h.deps n
  simp only [Node.awaits, isLive, h.state, Bool.true_and] at ha
  exact ha

/-- The entry of a node that ran alone, once its run is discarded. -/
structure Undone (s : State) (fn n : Nat) (y : Node) : Prop where
  record : y.record = (nodeOf s fn n).record
  preds : y.preds = (nodeOf s fn n).preds
  rolls : y.rolls = (nodeOf s fn n).rolls
  ownRolls : y.ownRolls = (nodeOf s fn n).ownRolls
  fate : y.fate = 0
  staged : y.staged = []
  running : y.running = []

theorem Discarded.undone {s t : State} {fn n : Nat} (h : Discarded s fn n t) : Undone s fn n (nodeOf t fn n) := by
  obtain ⟨x, hx, ht⟩ := h.node
  rw [ht]
  have hf : ∀ {α : Type} (g : Node → α), (∀ y, g y.kept = g y) → g x = g (nodeOf s fn n) :=
    fun g hg => by rw [← hg, hx, hg]
  exact ⟨hf Node.record fun _ => rfl, hf Node.preds fun _ => rfl, hf Node.rolls fun _ => rfl,
    hf Node.ownRolls fun _ => rfl, rfl, rfl, rfl⟩

/-- A node's entry that changes in no predecessor awaits no more than it named. -/
theorem dependants_after {s t : State} {fn n : Nat} (h : RunsAlone s fn n) (hd : Discarded s fn n t) {f : Node → Node}
    (hf : ∀ y, (f y).preds = y.preds) : dependants (modNode t fn n f) fn n = [] := by
  refine dependants_modNode (hd.deps h.deps) fun _ => ?_
  rw [Node.awaits, hf, hd.undone.preds, preds_of_runsAlone h, Bool.and_false]

theorem idle_closeNode {s : State} {fn ix k : Nat} (status : Nat) (h : (ctxOf s k).task = none) :
    (ctxOf (closeNode s fn ix status) k).task = none := by
  refine (kept_forgetClouds ..).idle k ?_
  rw [ctxOf_modNode]
  exact (kept_sendSignal ..).idle k h

/-- A node that ran alone and that Lemelo ends retires with the status that it is given (R326, R336). -/
theorem endNode_retires {s : State} {fn n status : Nat} (h : RunsAlone s fn n) (hs : status ≠ 0) :
    (nodeOf (endNode s fn n status) fn n).state = .retired ∧ (nodeOf (endNode s fn n status) fn n).status = status ∧
      Freed s fn n (endNode s fn n status) := by
  have hd := discardEffects_discarded h.remote
  have hu := hd.undone
  have hclose : endNode s fn n status = closeNode (awaitDiscard (discardEffects s fn n) fn n status) fn n status := by
    unfold endNode
    rw [finishRollback_retires (by simp [awaitDiscard]) (by simpa [awaitDiscard, hu.record] using hd.out _ h.out)
      (by simpa [awaitDiscard] using hs)]
    have hfate : (nodeOf (awaitDiscard (discardEffects s fn n) fn n status) fn n).fate = status := by simp [awaitDiscard]
    rw [hfate]
    exact retire_alone status (dependants_after h hd fun _ => rfl)
  have hk := kept_sendSignal (awaitDiscard (discardEffects s fn n) fn n status) fn n
    (nodeOf (awaitDiscard (discardEffects s fn n) fn n status) fn n) status
  rw [hclose, nodeOf_closeNode]
  refine ⟨rfl, rfl, ?_, fun k hk => idle_closeNode status ?_⟩
  · rw [nodeOf_closeNode]
    refine (hk.of_node Node.running (fun _ => rfl) fn n).trans ?_
    simp [awaitDiscard, hu.running]
  · simpa [awaitDiscard] using hd.idle k hk

/-- A node that ran alone and rolls back waits again, while it may (R327, R328). -/
theorem rollNode_waits {s : State} {fn n : Nat} {own : Bool} (fuel : Nat) (h : RunsAlone s fn n) (ht : (tenantOf s fn).tda = false)
    (hr : (nodeOf s fn n).ownRolls + (if own then 1 else 0) ≤ (tenantOf s fn).rollmax.toNat) :
    let t := rollNode (fuel + 1) s fn n own
    (nodeOf t fn n).state = .waiting ∧ (nodeOf t fn n).rolls = min ((nodeOf s fn n).rolls + 1) 255 ∧
      (nodeOf t fn n).staged = [] ∧ Freed s fn n t := by
  intro t
  have hd := discardEffects_discarded h.remote
  have hu := hd.undone
  have hwait := finishRollback_waits (s := modNode (discardEffects s fn n) fn n (fun n => { n with
      state := .rollingBack
      rolls := min (n.rolls + 1) 255
      ownRolls := n.ownRolls + (if own then 1 else 0) })) (fn := fn) (ix := n) (by simp)
    (by simpa [hu.record] using hd.out _ h.out) (by simp [hu.fate]) (by simpa [hu.ownRolls, hd.rollmax] using hr)
    (by simpa [hd.tda] using ht)
  have hroll : t = _ := (rollNode_alone fuel s fn n own h.deps).trans hwait
  rw [hroll]
  refine ⟨by simp, by simp [hu.rolls], by simp [hu.staged], by simp [hu.running], fun k hk => ?_⟩
  simpa using hd.idle k hk

/-- What posting entries changes: the fault buffers alone. -/
theorem foldl_postProgramError (l : List Nat) (s : State) : ∃ d, l.foldl postProgramError s = { s with diesT := d } := by
  induction l generalizing s with
  | nil => exact ⟨s.diesT, rfl⟩
  | cons k r ih =>
    obtain ⟨d, hd⟩ := ih (postProgramError s k)
    exact ⟨d, hd⟩

/-- Posted program errors leave a node that runs alone as it is. -/
theorem runsAlone_posted {s : State} {fn n : Nat} (h : RunsAlone s fn n) (l : List Nat) :
    RunsAlone (l.foldl postProgramError s) fn n ∧ nodeCtxs (l.foldl postProgramError s) fn n = nodeCtxs s fn n := by
  obtain ⟨d, hd⟩ := foldl_postProgramError l s
  rw [hd]
  exact ⟨⟨h.state, h.deps, h.remote, h.out⟩, rfl⟩

/-- NODE_ROLLBACK of a RUNNING node (R327, R336). -/
theorem nodeRollback_running {s : State} {fn n : Nat} (own : Bool) (h : (nodeOf s fn n).state = .running) :
    exec (.nodeRollback fn n own) s =
      .next (if own ∧ isEntryHeld s fn n then s
        else if !own then (if predecessorRolled s fn (nodeOf s fn n) then rollNode 1025 s fn n false else s)
        else if (nodeOf s fn n).fate ≠ 0 then endNode s fn n (nodeOf s fn n).fate
        else if programErrors s fn n ≠ [] then endPrograms s fn n (programErrors s fn n)
        else if (nodeOf s fn n).mustRoll then rollNode 1025 s fn n true
        else if awaitsPage s fn n then endNode s fn n 5
        else s) := by
  simp [exec, execNodeRollback, h, commitBegun]

end Sys2Proof.Machine
end

section
/-! PROOFS. Commit, teardown, admission, migration and pre-emption (R117, R120, R317–R325, R330, R331). -/

namespace Sys2Proof.Machine

/-! ### The completion signal (R326) -/

theorem putFinal_mem (s : State) (a : Nat) (bytes : List Byte) : (putFinal s a bytes).mem = memWriteList s.mem a bytes := rfl

theorem sendMsix_mem (s : State) (fn vec : Nat) : (sendMsix s fn vec).mem = s.mem := by
  unfold sendMsix
  split <;> rfl

/-- Bytes written elsewhere leave a number in memory alone. -/
theorem memReadNat_memWriteList_apart (m : Memory) {a b n : Nat} {bs : List Byte} (h : b + bs.length ≤ a ∨ a + n ≤ b) :
    memReadNat (memWriteList m b bs) a n = memReadNat m a n := by
  unfold memReadNat memReadList
  congr 1
  refine List.map_congr_left fun i hi => ?_
  rw [memRead_memWriteList, if_neg]
  have := List.mem_range.mp hi
  omega

theorem recWord_lt (r : GWord) (i : Nat) : recWord r i < 2 ^ 64 := (r.extractLsb' (64 * i) 64).isLt

theorem recSerial_lt (r : GWord) : recSerial r < 2 ^ 32 := Nat.mod_lt _ (by decide)

theorem signalWord_lt (n : Node) (ix status : Nat) : signalWord n ix status < 2 ^ 64 := by
  have hs := recSerial_lt n.record
  have hi : ix % 1024 < 1024 := Nat.mod_lt _ (by decide)
  have ht : status % 256 < 256 := Nat.mod_lt _ (by decide)
  unfold signalWord
  omega

/-- The signal stands in memory once it is sent: word 0 and word 1 (R326). -/
theorem sendSignal_words (s : State) (fn ix : Nat) (n : Node) (status : Nat) (ha : recSigAddr n.record ≠ 0) :
    memReadNat (sendSignal s fn ix n status).mem (recSigAddr n.record) 8 = recSigVal n.record ∧
      memReadNat (sendSignal s fn ix n status).mem (recSigAddr n.record + 8) 8 = signalWord n ix status := by
  have hmem : (sendSignal s fn ix n status).mem =
      memWriteNat (memWriteNat s.mem (recSigAddr n.record + 8) 8 (signalWord n ix status)) (recSigAddr n.record) 8 (recSigVal n.record) := by
    unfold sendSignal
    simp only [ha, ↓reduceIte]
    split
    · exact (sendMsix_mem ..).trans rfl
    · rfl
  rw [hmem]
  constructor
  · rw [memReadNat_memWriteNat]
    exact Nat.mod_eq_of_lt (recWord_lt ..)
  · rw [memWriteNat, memReadNat_memWriteList_apart, memReadNat_memWriteNat]
    · exact Nat.mod_eq_of_lt (signalWord_lt ..)
    · simp

/-! ### NODE_COMMIT (R120, R321) -/

/-- A node that commits with nothing staged, and with nothing in other packages or on its way there. -/
structure CommitsBare (s : State) (fn n : Nat) : Prop where
  state : (nodeOf s fn n).state = .committing
  staged : (nodeOf s fn n).staged = []
  remote : remotePackages s (nodeOf s fn n) = []
  out : effectsOut s fn (recSerial (nodeOf s fn n).record) = false
  tda : (tenantOf s fn).tda = false

theorem nodeOf_closeWrites (s : State) (w : Writer) (fn n : Nat) : nodeOf (closeWrites s w) fn n = nodeOf s fn n := rfl

theorem nodeOf_liftClouds (s : State) (gone : Nat → Nat → Bool) (fn n : Nat) : nodeOf (liftClouds s gone) fn n = nodeOf s fn n := rfl

/-- The commit's first steps close the node's writes, where it has staged none. -/
theorem applyEffects_kept {s : State} {fn n : Nat} (h : CommitsBare s fn n) :
    NodesKept s (applyEffects s fn n) ∧ (nodeOf (applyEffects s fn n) fn n).staged = [] := by
  unfold applyEffects
  extract_lets x serial a b c d
  have hb : b = a := by
    simp only [b, x, h.staged]
    rfl
  have hnode : nodeOf c fn n = nodeOf s fn n := by
    unfold c
    rw [hb, applyCommit, nodeOf_closeWrites]
    unfold a
    rw [nodeOf_closeWrites, nodeOf_liftClouds]
  have hc : NodesKept s c := by
    unfold c
    rw [hb]
    exact ((kept_liftClouds ..).trans (kept_closeWrites ..)).trans (kept_closeWrites ..)
  have hd : d = c := by
    have hr : remotePackages c x = [] := (remotePackages_congr hc.pkgId x).trans h.remote
    simp only [d, hr]
    rfl
  rw [hd]
  refine ⟨hc.trans (.modNode _ _ _ ?_), ?_⟩
  · exact fun _ => rfl
  · simp [hnode, h.staged]

theorem applyHostEffects_kept {s : State} {fn n : Nat} (h : (nodeOf s fn n).staged = []) :
    NodesKept s (applyHostEffects s fn n) ∧ (nodeOf (applyHostEffects s fn n) fn n).staged = [] := by
  unfold applyHostEffects
  simp only [h, List.filter_nil, List.foldl_nil]
  refine ⟨.modNode _ _ _ ?_, ?_⟩
  · exact fun _ => rfl
  · simp [h]

/-- Where a node has no child to launch, its commit leaves the queue alone. -/
theorem enterChildren_kept {s : State} {fn n : Nat} (h : (nodeOf s fn n).staged = []) (ht : (tenantOf s fn).tda = false) :
    NodesKept s (enterChildren s fn n) ∧ (nodeOf (enterChildren s fn n) fn n).staged = [] := by
  have hkids : childLaunches (nodeOf s fn n) = [] := by
    rw [childLaunches, h]
    rfl
  unfold enterChildren
  simp only [ht, hkids, List.take_nil, List.drop_nil, List.map_nil, Bool.false_eq_true, ↓reduceIte]
  refine ⟨.trans (.modTenant _ _ ?_) (.modNode _ _ _ ?_), ?_⟩
  · exact fun t => ⟨by simp [Tenant.kept], rfl⟩
  · exact fun _ => rfl
  · simp

/-- A node whose retirement tells its dependants that it is OK. -/
theorem foldl_preds (l : List Nat) (s : State) (fn ix n : Nat) :
    let t := l.foldl (fun s j => modNode s fn j (fun m => { m with preds := m.preds.filter (· != ix) })) s
    (nodeOf t fn n).state = (nodeOf s fn n).state ∧ (nodeOf t fn n).status = (nodeOf s fn n).status ∧ t.mem = s.mem := by
  induction l generalizing s with
  | nil => exact ⟨rfl, rfl, rfl⟩
  | cons j r ih =>
    obtain ⟨hs, hst, hm⟩ := ih (modNode s fn j (fun m => { m with preds := m.preds.filter (· != ix) }))
    refine ⟨hs.trans ?_, hst.trans ?_, hm.trans rfl⟩
    · rw [nodeOf_modNode]
      split
      · next heq => rw [heq.2]
      · rfl
    · rw [nodeOf_modNode]
      split
      · next heq => rw [heq.2]
      · rfl

/-- A node that retires OK: its entry and its signal (R326). -/
theorem retire_ok (s : State) (fn n : Nat) :
    (nodeOf (retire s fn n 0) fn n).state = .retired ∧ (nodeOf (retire s fn n 0) fn n).status = 0 ∧
      (retire s fn n 0).mem = (sendSignal s fn n (nodeOf s fn n) 0).mem := by
  obtain ⟨hs, hst, hm⟩ := foldl_preds (dependants (closeNode s fn n 0) fn n) (closeNode s fn n 0) fn n n
  rw [retire_eq]
  simp only [↓reduceIte]
  rw [hs, hst, hm, nodeOf_closeNode]
  exact ⟨rfl, rfl, rfl⟩

/-- The node whose commit has begun and has nothing left to write retires OK (R120). -/
theorem continueCommit_retires {s : State} {fn n : Nat} (h : CommitsBare s fn n) (hb : (nodeOf s fn n).status = 0xFF) :
    ∃ u, NodesKept s u ∧ continueCommit s fn n = retire u fn n 0 := by
  obtain ⟨hhost, hstaged⟩ := applyHostEffects_kept h.staged
  obtain ⟨hkids, hnone⟩ := enterChildren_kept hstaged ((hhost.tda fn).trans h.tda)
  refine ⟨_, (hhost.trans hkids).trans (kept_dropPins _ fn n), ?_⟩
  have hbegun : commitBegun (nodeOf s fn n) = true := by simp [commitBegun, h.state, hb]
  simp [continueCommit, hbegun, h.out, h.staged, hnone]

theorem signalWord_congr {x y : Node} (hr : x.record = y.record) (hk : x.rolls = y.rolls) (ix status : Nat) :
    signalWord x ix status = signalWord y ix status := by
  simp only [signalWord, hr, hk]

theorem nodeCommit_retires {s : State} {fn n : Nat} (h : CommitsBare s fn n) (hb : (nodeOf s fn n).status ≠ 0xFF)
    (hp : (nodeOf s fn n).preds = []) (hd : (nodeOf s fn n).digests = []) (hf : (nodeOf s fn n).fate = 0)
    (hm : (nodeOf s fn n).mustRoll = false) :
    ∃ t, exec (.nodeCommit fn n) s = .next t ∧ (nodeOf t fn n).state = .retired ∧ (nodeOf t fn n).status = 0 ∧
      (recSigAddr (nodeOf s fn n).record ≠ 0 →
        memReadNat t.mem (recSigAddr (nodeOf s fn n).record) 8 = recSigVal (nodeOf s fn n).record ∧
        memReadNat t.mem (recSigAddr (nodeOf s fn n).record + 8) 8 = signalWord (nodeOf s fn n) n 0) := by
  obtain ⟨heff, hstaged⟩ := applyEffects_kept h
  let v := modNode (applyEffects s fn n) fn n (fun m => { m with status := 0xFF })
  have hexec : exec (.nodeCommit fn n) s = .next (continueCommit v fn n) := by
    simp [exec, execNodeCommit, commitBegun, h.state, hb, hp, hd, hf, hm, v]
  have hrec : (nodeOf v fn n).record = (nodeOf s fn n).record := by simpa [v] using heff.record fn n
  have hrolls : (nodeOf v fn n).rolls = (nodeOf s fn n).rolls := by simpa [v] using heff.of_node Node.rolls (fun _ => rfl) fn n
  have hv : CommitsBare v fn n := by
    refine ⟨?_, ?_, ?_, ?_, ?_⟩
    · simpa [v] using (heff.state fn n).trans h.state
    · simpa [v] using hstaged
    · have hseg : (nodeOf v fn n).segs = (nodeOf s fn n).segs := by simpa [v] using heff.of_node Node.segs (fun _ => rfl) fn n
      have hr := h.remote
      simp only [remotePackages] at hr ⊢
      rw [hseg, show v.pkgId = s.pkgId from heff.pkgId]
      exact hr
    · rw [hrec]
      exact heff.out fn _ h.out
    · simpa [v] using (heff.tda fn).trans h.tda
  obtain ⟨u, hu, hret⟩ := continueCommit_retires hv (by simp [v])
  obtain ⟨hs, hst, hmem⟩ := retire_ok u fn n
  have hur : (nodeOf u fn n).record = (nodeOf s fn n).record := (hu.record fn n).trans hrec
  have huk : (nodeOf u fn n).rolls = (nodeOf s fn n).rolls := (hu.of_node Node.rolls (fun _ => rfl) fn n).trans hrolls
  refine ⟨_, hexec, hret ▸ hs, hret ▸ hst, fun ha => ?_⟩
  obtain ⟨h0, h1⟩ := sendSignal_words u fn n (nodeOf u fn n) 0 (hur ▸ ha)
  rw [hret, hmem, ← signalWord_congr hur huk n 0, ← hur]
  exact ⟨h0, h1⟩

/-! ### Teardown and queue reset (R330, R331) -/

/-- Every tenant's queue and its teardown bit stand as they did. -/
structure QueuesKept (s t : State) : Prop where
  tda : ∀ fn, (tenantOf t fn).tda = (tenantOf s fn).tda
  queue : ∀ fn, (tenantOf t fn).queue = (tenantOf s fn).queue

theorem QueuesKept.refl (s : State) : QueuesKept s s := ⟨fun _ => rfl, fun _ => rfl⟩

theorem QueuesKept.trans {s t u : State} (h : QueuesKept s t) (g : QueuesKept t u) : QueuesKept s u :=
  ⟨fun fn => (g.tda fn).trans (h.tda fn), fun fn => (g.queue fn).trans (h.queue fn)⟩

theorem NodesKept.queues {s t : State} (h : NodesKept s t) : QueuesKept s t := ⟨h.tda, h.queue⟩

theorem QueuesKept.foldl {α : Type} {f : State → α → State} (h : ∀ s x, QueuesKept s (f s x)) (l : List α) (s : State) :
    QueuesKept s (l.foldl f s) := by
  induction l generalizing s with
  | nil => exact .refl s
  | cons x r ih => exact (h s x).trans (ih _)

theorem QueuesKept.modTenant (s : State) (n : Nat) {f : Tenant → Tenant} (h : ∀ t, (f t).tda = t.tda ∧ (f t).queue = t.queue) :
    QueuesKept s (modTenant s n f) := by
  constructor
  all_goals
    intro fn
    rw [tenantOf_modTenant]
    split
    · next heq => simp [h, heq]
    · rfl

theorem QueuesKept.modNode (s : State) (t n : Nat) (f : Node → Node) : QueuesKept s (modNode s t n f) := by
  unfold Machine.modNode
  refine .modTenant _ _ ?_
  exact fun _ => ⟨rfl, rfl⟩

theorem QueuesKept.sendDecision (s : State) (fn : Nat) (x : Node) (op p : Nat) : QueuesKept s (sendDecision s fn x op p) :=
  ⟨fun _ => rfl, fun _ => rfl⟩

theorem queues_discardEffects (s : State) (fn ix : Nat) : QueuesKept s (discardEffects s fn ix) := by
  rw [discardEffects_eq]
  have hsent := QueuesKept.foldl (fun u p => QueuesKept.sendDecision u fn (nodeOf s fn ix) 6 p)
    (remotePackages (storageBack s fn ix) (nodeOf s fn ix)) (storageBack s fn ix)
  exact (kept_storageBack s fn ix).queues.trans (hsent.trans ((QueuesKept.modNode ..).trans (kept_dropPins ..).queues))

theorem queues_retireNode (fuel : Nat) (s : State) (fn ix status : Nat) : QueuesKept s (retireNode fuel s fn ix status) := by
  induction fuel generalizing s ix status with
  | zero => exact .refl s
  | succ fuel ih =>
    unfold retireNode
    refine .trans (.trans (kept_sendSignal s fn ix (nodeOf s fn ix) status).queues (.trans (.modNode _ _ _ _)
      (kept_forgetClouds ..).queues)) (.foldl (fun t j => ?_) _ _)
    split
    · exact .modNode ..
    · refine (queues_discardEffects t fn j).trans ?_
      dsimp only
      split
      · exact .modNode ..
      · exact ih ..

theorem queues_finishRollback (s : State) (fn ix : Nat) : QueuesKept s (finishRollback s fn ix) := by
  unfold finishRollback
  dsimp only
  split
  · exact .refl s
  · split
    · exact queues_retireNode ..
    · split
      · exact queues_retireNode ..
      · split
        · exact queues_retireNode ..
        · exact .modNode ..

theorem queues_endNode (s : State) (fn ix status : Nat) : QueuesKept s (endNode s fn ix status) :=
  ((queues_discardEffects ..).trans (.modNode ..)).trans (queues_finishRollback ..)

theorem cancelRecord_tda (s : State) (fn : Nat) (r : GWord) : QueuesKept s (cancelRecord s fn r) := by
  unfold cancelRecord
  split
  · exact (kept_sendSignal ..).queues
  · refine .modTenant _ _ ?_
    exact fun _ => ⟨rfl, rfl⟩

/-- A cancelled queue is empty, and its teardown bit stands. -/
theorem tenantOf_cancelQueue (s : State) (fn : Nat) :
    (tenantOf (cancelQueue s fn) fn).tda = (tenantOf s fn).tda ∧ (tenantOf (cancelQueue s fn) fn).queue = [] := by
  have hc := QueuesKept.foldl (fun t r => cancelRecord_tda t fn r) (tenantOf s fn).queue s
  rw [cancelQueue, tenantOf_modTenant, if_pos rfl]
  exact ⟨hc.tda fn, rfl⟩

theorem qctlTd_empties (s : State) (fn : Nat) :
    ∃ t, exec (.qctlTd fn) s = .next t ∧ (tenantOf t fn).tda = true ∧ (tenantOf t fn).queue = [] := by
  let u := cancelQueue (modTenant s fn (fun t => { t with tda := true })) fn
  obtain ⟨htda, hqueue⟩ := tenantOf_cancelQueue (modTenant s fn (fun t => { t with tda := true })) fn
  rw [tenantOf_modTenant, if_pos rfl] at htda
  have hend : QueuesKept u (teardown s fn false) := by
    unfold teardown
    refine .foldl (fun t i => ?_) _ u
    dsimp only
    split
    · exact queues_endNode ..
    · exact queues_endNode ..
    · split
      · exact queues_endNode ..
      · exact .refl t
    · exact .refl t
  exact ⟨teardown s fn false, rfl, (hend.tda fn).trans htda, (hend.queue fn).trans hqueue⟩

theorem qctlRst_eq (s : State) (fn : Nat) :
    (isDrained (tenantOf s fn) = true → exec (.qctlRst fn) s = .next (modTenant (forgetClouds s fn (fun _ => true)) fn (fun t =>
      { t with nodes := [], alloc := 0, drop := 0, bad := 0, qserial := 0, tda := false }))) ∧
      (isDrained (tenantOf s fn) = false → exec (.qctlRst fn) s = .next s) := by
  constructor <;> intro h <;> simp [exec, execQctlRst, h, resetQueue]

/-! ### LAUNCH_PORT_WRITE (R317) -/

/-- Bytes written one by one at their places are a list written whole. -/
theorem foldl_memWrite_zipIdx (l : List Byte) (i : Nat) (m : Memory) :
    (l.zipIdx i).foldl (fun m b => memWrite m (0 + b.2) b.1) m = memWriteList m i l := by
  induction l generalizing i m with
  | nil => rfl
  | cons b r ih =>
    rw [List.zipIdx_cons, List.foldl_cons, ih, Nat.zero_add]
    rfl

/-- A write of the whole port has no byte outside it. -/
theorem filter_zipIdx_port {bytes : List Byte} (h : bytes.length = 64) :
    (bytes.zipIdx).filter (fun b => decide (0 + b.2 < 64)) = bytes.zipIdx := by
  rw [List.filter_eq_self]
  intro b hb
  have hlt := (List.mem_zipIdx hb).2.1
  simp only [decide_eq_true_eq]
  omega

theorem any_zipIdx_last {bytes : List Byte} (h : bytes.length = 64) : (bytes.zipIdx).any (fun b => 0 + b.2 == 0x3F) = true := by
  rw [List.any_eq_true]
  refine ⟨(bytes[63], 63), ?_, rfl⟩
  rw [List.mem_iff_getElem]
  exact ⟨63, by simp [h], by simp⟩

/-- The record that a write of the whole port leaves in it. -/
theorem portRecord {bytes : List Byte} (h : bytes.length = 64) (m : Memory) :
    memReadNat ((bytes.zipIdx).foldl (fun m b => memWrite m (0 + b.2) b.1) m) 0 64 = natOfBytes bytes := by
  have hread := memReadList_memWriteList m 0 bytes
  rw [h] at hread
  rw [foldl_memWrite_zipIdx, memReadNat, hread]

theorem launchPortWrite_whole {s : State} {fn : Nat} {bytes : List Byte} (h : bytes.length = 64) :
    exec (.launchPortWrite fn 0 bytes) s = .next (
      if !(tenantOf s fn).en || (tenantOf s fn).tda || decide (256 ≤ (tenantOf s fn).queue.length) then
        modTenant s fn (fun t => { t with stage := [], drop := min (t.drop + 1) 0xFFFF })
      else
        modTenant s fn (fun t => { t with
          stage := []
          queue := t.queue ++ [BitVec.ofNat 512 (natOfBytes bytes)]
          qserial := BitVec.ofNat 32 (recSerial (BitVec.ofNat 512 (natOfBytes bytes))) })) := by
  simp only [exec, execLaunchPortWrite, filter_zipIdx_port h, any_zipIdx_last h, portRecord h, ↓reduceIte]
  split <;> rfl

theorem launchPortWrite_enters {s : State} {fn : Nat} {bytes : List Byte} (h : bytes.length = 64) (he : (tenantOf s fn).en = true)
    (ht : (tenantOf s fn).tda = false) (hq : (tenantOf s fn).queue.length < 256) :
    ∃ u, exec (.launchPortWrite fn 0 bytes) s = .next u ∧
      (tenantOf u fn).queue = (tenantOf s fn).queue ++ [BitVec.ofNat 512 (natOfBytes bytes)] ∧ (tenantOf u fn).stage = [] := by
  refine ⟨_, launchPortWrite_whole h, ?_⟩
  simp [he, ht, Nat.not_le.mpr hq]

theorem launchPortWrite_drops {s : State} {fn : Nat} {bytes : List Byte} (h : bytes.length = 64)
    (hx : (tenantOf s fn).en = false ∨ (tenantOf s fn).tda = true ∨ 256 ≤ (tenantOf s fn).queue.length) :
    ∃ u, exec (.launchPortWrite fn 0 bytes) s = .next u ∧
      (tenantOf u fn).queue = (tenantOf s fn).queue ∧ (tenantOf u fn).drop = min ((tenantOf s fn).drop + 1) 0xFFFF := by
  have hrefused : (!(tenantOf s fn).en || (tenantOf s fn).tda || decide (256 ≤ (tenantOf s fn).queue.length)) = true := by
    rcases hx with h | h | h <;> simp [h]
  refine ⟨_, launchPortWrite_whole h, ?_⟩
  rw [if_pos hrefused]
  simp

/-! ### NODE_ADMISSION (R318–R320) -/

/-- The queue whose head record is admitted into entry `ix`. -/
def headTaken (s : State) (fn ix : Nat) (rest : List GWord) : State :=
  modTenant { s with admitNext := (fn + 1) % 16 } fn (fun t => { t with queue := rest, alloc := (ix + 1) % 1024 })

/-- The head record of a tenant's queue has its turn and finds entry `ix`, and no commit waits for room. -/
structure HeadTurn (s : State) (fn ix : Nat) (r : GWord) (rest : List GWord) : Prop where
  queue : (tenantOf s fn).queue = r :: rest
  entry : freeEntry (tenantOf s fn) (tenantOf s fn).alloc = some ix
  turn : queueTurn s fn = true
  commits : (tenantOf s fn).nodes.all (fun x => !commitBegun x.2) = true

/-- With no commit that waits for room, none goes on before the head record is looked at (R318). -/
theorem HeadTurn.noCommit {s : State} {fn ix : Nat} {r : GWord} {rest : List GWord} (h : HeadTurn s fn ix r rest) :
    (tenantOf (headTaken s fn ix rest) fn).nodes.filter (fun x => commitBegun x.2) = [] := by
  have hnodes : (tenantOf (headTaken s fn ix rest) fn).nodes = (tenantOf s fn).nodes := by
    simp only [headTaken, tenantOf_modTenant, ↓reduceIte]
    rfl
  rw [hnodes, List.filter_eq_nil_iff]
  intro x hx
  simpa using List.all_eq_true.mp h.commits x hx

theorem HeadTurn.exec_bad {s : State} {fn ix : Nat} {r : GWord} {rest : List GWord} (h : HeadTurn s fn ix r rest)
    (hs : signalOk (tenantOf s fn) r = false) :
    exec (.nodeAdmission fn) s =
      .next (modNode (modTenant (headTaken s fn ix rest) fn (fun t => { t with bad := min (t.bad + 1) 0xFFFF })) fn ix
        (fun _ => Node.reset)) := by
  have hc := h.noCommit
  unfold headTaken at hc ⊢
  simp only [exec, execNodeAdmission, h.queue, h.entry, h.turn, hc, hs, List.foldl_nil, Bool.not_true, Bool.not_false,
    Bool.false_eq_true, ↓reduceIte]

theorem HeadTurn.exec_invalid {s : State} {fn ix : Nat} {r : GWord} {rest : List GWord} (h : HeadTurn s fn ix r rest)
    (hs : signalOk (tenantOf s fn) r = true) (ha : admissible (headTaken s fn ix rest) fn r = false) :
    exec (.nodeAdmission fn) s =
      .next (retire (modNode (headTaken s fn ix rest) fn ix (fun _ => { Node.reset with state := .waiting, record := r })) fn ix 2) := by
  have hc := h.noCommit
  unfold headTaken at hc ha ⊢
  simp only [exec, execNodeAdmission, h.queue, h.entry, h.turn, hc, hs, ha, List.foldl_nil, Bool.not_true, Bool.not_false,
    Bool.false_eq_true, Bool.true_or, ↓reduceIte]

theorem HeadTurn.exec_admits {s : State} {fn ix : Nat} {r : GWord} {rest : List GWord} (h : HeadTurn s fn ix r rest)
    (hs : signalOk (tenantOf s fn) r = true) (ha : admissible (headTaken s fn ix rest) fn r = true)
    (hm : recMsi r = true → recVec r < (tenantOf s fn).msix) (hp : recPreds r = []) :
    exec (.nodeAdmission fn) s = .next (modNode (headTaken s fn ix rest) fn ix
      (fun _ => { newNode (headTaken s fn ix rest) r with preds := [] })) := by
  have hc := h.noCommit
  have hvec : (recMsi r && decide ((tenantOf s fn).msix ≤ recVec r)) = false := by
    cases hr : recMsi r
    · rfl
    · simpa using hm hr
  unfold headTaken at hc ha ⊢
  simp only [exec, execNodeAdmission, h.queue, h.entry, h.turn, hc, hs, ha, hvec, hp, List.foldl_nil, Bool.not_true,
    Bool.false_eq_true, Bool.or_self, ↓reduceIte]
  rfl

/-! ### NODE_READY (R321) -/

theorem nodeReady_eq {s : State} {fn n : Nat} (hs : (nodeOf s fn n).state = .waiting) (hp : (nodeOf s fn n).preds = []) :
    let u := modNode { s with turns := s.turns + 1 } fn n (fun m =>
      { m with state := .ready, readyAt := s.turns, unplacedSince := some s.gcc })
    exec (.nodeReady fn n) s = .next (if (nodeOf s fn n).gangs = [] then emptyNode u fn n else u) := by
  simp [exec, execNodeReady, hs, hp]

/-- A node without tasks and data goes to its commit (R15, R385). -/
theorem emptyNode_commits {s : State} {fn n : Nat} (hd : kNdata (nodeOf s fn n).desc = 0) (ho : datumOut s fn n = false) :
    (nodeOf (emptyNode s fn n) fn n).state = .committing := by
  have hlaid : (nodeOf (layTable s fn n) fn n).laid = true ∧ datumOut (layTable s fn n) fn n = false := by
    unfold layTable
    extract_lets x segs
    split
    · next h => exact ⟨h, ho⟩
    · have hmapped : dataUnmapped s fn segs x.desc = none := by
        simp [dataUnmapped, x, hd]
      have hwritten : writeDataTable s fn n segs x.desc = s := by
        simp [writeDataTable, x, hd]
      rw [hmapped, hwritten]
      exact ⟨by simp, ho⟩
  simp [emptyNode, hlaid]

/-! ### REGION_MIGRATION_COMPLETE (R324) -/

theorem regions_moveBytes (s : State) (old new len fn : Nat) :
    (tenantOf (moveBytes s old new len) fn).regions = (tenantOf s fn).regions := by
  unfold tenantOf moveBytes
  refine get_map_congr s.tenants Tenant.regions ?_ ?_ fn Tenant.reset
  · exact fun _ => rfl
  · exact fun _ => rfl

/-- A region's bytes read at its new place as they did at the old. -/
theorem memRead_moveBytes {s : State} (h : MemoryOk s) (old new len i : Nat) :
    memRead (moveBytes s old new len).mem i =
      if new ≤ i ∧ i < new + len then memRead s.mem (old + (i - new)) else memRead s.mem i := by
  have hm : (moveBytes s old new len).mem = memPlace s.mem new len (memSlice s.mem old len) := rfl
  rw [hm, memRead_memPlace _ _ _ (wf_memSlice h old len)]
  split
  · rw [memRead_memSlice, if_pos (by omega)]
  · rfl

theorem regionMigrationComplete_moves {s : State} {region stack fn a base bytes : Nat} (hm : MemoryOk s)
    (hf : (allRegions s).find? (fun r => r.2.1 == region &&
      (tenantOf s r.1).nodes.any (fun x => x.2.migrating.contains (region, stack))) = some (fn, region, base, bytes))
    (hh : regionHeld (tenantOf s fn) region = false) (hp : placeRegion s stack bytes = some a) :
    ∃ t, exec (.regionMigrationComplete region stack) s = .next t ∧
      (tenantOf t fn).regions = (tenantOf s fn).regions.map (fun r => if r.1 = region then (r.1, { r.2 with paddr := a }) else r) ∧
      ∀ i, memRead t.mem i = if a ≤ i ∧ i < a + bytes then memRead s.mem (base + (i - a)) else memRead s.mem i := by
  let u := forgetImages (forgetImages (moveBytes s base a bytes) base bytes) a bytes
  refine ⟨modTenant u fn (fun t => { t with
      regions := t.regions.map (fun r => if r.1 = region then (r.1, { r.2 with paddr := a }) else r)
      nodes := t.nodes.map (fun x => (x.1, { x.2 with migrating := x.2.migrating.filter (· != (region, stack)) })) }),
    ?_, ?_, fun i => memRead_moveBytes hm base a bytes i⟩
  · simp only [exec, execRegionMigrationComplete, hf, hh, hp, Bool.false_eq_true, ↓reduceIte]
    rfl
  · have hu : (tenantOf u fn).regions = (tenantOf s fn).regions := regions_moveBytes ..
    rw [tenantOf_modTenant, if_pos rfl]
    exact congrArg (fun l => List.map _ l) hu

/-! ### PREEMPTION_TIMEOUT (R325, R347) -/

theorem victimOf_begun {s : State} {fn n : Nat} {p : Nat × Nat} (hp : (tenantOf s fn).preempts.find? (fun p => p.1 == n) = some p)
    (h : isPreempted s fn p.2 = true) : victimOf s fn n = some p.2 := by
  simp [victimOf, hp, Option.filter, h]

theorem victimOf_new {s : State} {fn n g : Nat} (hp : (tenantOf s fn).preempts.find? (fun p => p.1 == n) = none)
    (hg : (nodeOf s fn n).gangs ≠ []) (hs : (nodeOf s fn n).state = .ready ∨ (nodeOf s fn n).state = .running)
    (hu : (nodeOf s fn n).unplacedSince = some g) (hw : (tenantOf s fn).pwait ≠ 0)
    (hl : g + (tenantOf s fn).pwait.toNat * s.clock < s.gcc) :
    victimOf s fn n = chooseVictim (victims s fn (recPrio (nodeOf s fn n).record)) := by
  have hno : ¬((nodeOf s fn n).gangs = [] ∨ (tenantOf s fn).pwait = 0 ∨
      (!(nodeOf s fn n).unplacedSince.any (fun g => decide (g + (tenantOf s fn).pwait.toNat * s.clock < s.gcc))) = true ∨
      ((nodeOf s fn n).state ≠ .ready ∧ (nodeOf s fn n).state ≠ .running)) := by
    rintro (h | h | h | ⟨h1, h2⟩)
    · exact hg h
    · exact hw h
    · simp [hu, hl] at h
    · exact hs.elim h1 h2
  unfold victimOf
  simp only [hp, Option.filter_none]
  exact if_neg hno

/-- A task that runs alone is the victim of a node's waiting gang. -/
structure LoneVictim (s : State) (fn n v : Nat) (y : Task) : Prop where
  victim : victimOf s fn n = some v
  group : (ctxOf s v).group = []
  task : (ctxOf s v).task = some y
  sync : y.sync = false

/-- The tenant has noted whom the node's gang pre-empts. -/
def victimNoted (s : State) (fn n v : Nat) : State := modTenant s fn (fun t => { t with preempts := t.preempts.put n v })

theorem LoneVictim.exec_posts {s : State} {fn n v : Nat} {y : Task} (h : LoneVictim s fn n v y) (hf : (ctxOf s v).freeze = none)
    (hp : (ctxOf s v).preAt = none) :
    exec (.preemptionTimeout fn n) s = .next (modCtx (victimNoted s fn n v) v (fun c => { c with preAt := some (s.gcc + 512) })) := by
  have hpost : postPre (victimNoted s fn n v) v = modCtx (victimNoted s fn n v) v (fun c => { c with preAt := some (s.gcc + 512) }) :=
    postPre_alone h.group hf hp
  rw [← hpost]
  simp [exec, execPreemptionTimeout, h.victim, h.task, h.sync, groupOf_alone h.group, hf, hp, victimNoted]

theorem LoneVictim.exec_loses {s : State} {fn n v : Nat} {y : Task} {f : Freeze} (h : LoneVictim s fn n v y)
    (hf : (ctxOf s v).freeze = some f) (hm : .pre ∈ f.marks) (hc : canSave s v = true) (hb : parityFails s v = true) :
    exec (.preemptionTimeout fn n) s = .next (loseImage (victimNoted s fn n v) v y 1) := by
  have hc' : canSave (victimNoted s fn n v) v = true := hc
  have hb' : parityFails (victimNoted s fn n v) v = true := hb
  unfold victimNoted at hc' hb' ⊢
  simp [exec, execPreemptionTimeout, h.victim, h.task, h.sync, groupOf_alone h.group, hf, hm, hc', hb']

/-- A saved context joins the saved ones, and leaves its place free (R343). -/
theorem saveCtx_saves (s : State) (k handle : Nat) :
    (ctxOf (saveCtx s k handle) k).task = none ∧ ∃ z, (saveCtx s k handle).saved = s.saved ++ [z] ∧ z.ctx = ctxOf s k := by
  refine ⟨?_, _, rfl, rfl⟩
  unfold saveCtx
  rw [ctxOf_vacate]
  rfl

theorem LoneVictim.exec_saves {s : State} {fn n v : Nat} {y : Task} {f : Freeze} (h : LoneVictim s fn n v y)
    (hf : (ctxOf s v).freeze = some f) (hm : .pre ∈ f.marks) (hc : canSave s v = true) (hb : parityFails s v = false) :
    ∃ t z, exec (.preemptionTimeout fn n) s = .next t ∧ (ctxOf t v).task = none ∧ t.saved = s.saved ++ [z] ∧ z.ctx = ctxOf s v := by
  have hc' : canSave (victimNoted s fn n v) v = true := hc
  have hb' : parityFails (victimNoted s fn n v) v = false := hb
  obtain ⟨hfree, z, hz, hzc⟩ := saveCtx_saves (victimNoted s fn n v) v (s.fresh + 0)
  have hexec : ∃ m g, exec (.preemptionTimeout fn n) s =
      .next (modNode (nextFresh (saveCtx (victimNoted s fn n v) v (s.fresh + 0)) 1) fn m g) := by
    unfold victimNoted at hc' hb' ⊢
    simp [exec, execPreemptionTimeout, h.victim, h.task, h.sync, groupOf_alone h.group, hf, hm, hc', hb']
  obtain ⟨m, g, hexec⟩ := hexec
  exact ⟨_, z, hexec, hfree, hz, hzc⟩

/-! ### REDUNDANT_COMPARE (R354) -/

theorem redundantCompare_eq {s : State} {fn n task : Nat} (hr : recRedundant (nodeOf s fn n).record = true)
    (hc : s.ctxs.any (fun c => c.2.task.any (fun t => t.tenant == fn && t.node == n && taskKey t / 2 == task)) = false)
    (hs : s.saved.any (fun z => z.ctx.task.any (fun t => t.tenant == fn && t.node == n && taskKey t / 2 == task)) = false) :
    let x := nodeOf s fn n
    let k := (x.past.getLast?.map (fun p => p.1)).getD 0
    exec (.redundantCompare fn n task) s =
      .next (if digestOf x (2 * task) = digestOf x (2 * task + 1) then
        modNode s fn n (fun m => { m with digests := m.digests.filter (fun d => d.1 / 2 != task) })
      else rollNode 1025 (postFault s (dieIx k) (faultEntry fn n (coreIx k) (k % 4) 0 0x23 s.gcc 0 0 0)) fn n true) := by
  simp only [exec, execRedundantCompare, hr, hc, hs, Bool.not_true, Bool.or_self, Bool.false_eq_true, or_self, ↓reduceIte]
  split <;> rfl

end Sys2Proof.Machine
end

section
/-! PROOFS. Placement, and the launch unit as a whole (R18, R19, R322–R325, R316–R331, R354). -/

namespace Sys2Proof.Machine

/-! ### Starting the tasks of a gang (R18, R19, R312) -/

theorem length_eraseDups_le : ∀ l : List Nat, l.eraseDups.length ≤ l.length
  | [] => by simp
  | a :: l => by
    have ih := length_eraseDups_le (l.filter (fun b => !b == a))
    have hf := List.length_filter_le (fun b => !b == a) l
    rw [List.eraseDups_cons, List.length_cons, List.length_cons]
    omega
termination_by l => l.length
decreasing_by exact Nat.lt_succ_of_le (List.length_filter_le ..)

/-- A list that `eraseDups` leaves as it is has no member twice. -/
theorem nodup_of_eraseDups_eq : ∀ {l : List Nat}, l.eraseDups = l → l.Nodup
  | [], _ => List.nodup_nil
  | a :: l, h => by
    rw [List.eraseDups_cons, List.cons.injEq] at h
    have hlen := length_eraseDups_le (l.filter (fun b => !b == a))
    rw [h.2] at hlen
    have hfilter : l.filter (fun b => !b == a) = l :=
      List.filter_sublist.eq_of_length_le hlen
    rw [hfilter] at h
    refine List.nodup_cons.mpr ⟨fun hmem => ?_, nodup_of_eraseDups_eq h.2⟩
    rw [← hfilter] at hmem
    simpa using (List.mem_filter.mp hmem).2

/-- What a placement reads of a node, and what it leaves alone in it. -/
def Node.plan (x : Node) : GWord × Memory × Memory × List Nat × NodeState := (x.record, x.desc, x.args, x.running, x.state)

/-- Every node has the plan that it had. -/
structure PlanKept (s t : State) : Prop where
  plan : ∀ fn n, (nodeOf t fn n).plan = (nodeOf s fn n).plan

theorem PlanKept.refl (s : State) : PlanKept s s := ⟨fun _ _ => rfl⟩

theorem PlanKept.trans {s t u : State} (h : PlanKept s t) (g : PlanKept t u) : PlanKept s u :=
  ⟨fun fn n => (g.plan fn n).trans (h.plan fn n)⟩

theorem PlanKept.of_tenants {s t : State} (h : t.tenants = s.tenants) : PlanKept s t :=
  ⟨fun fn n => by simp only [nodeOf, tenantOf, h]⟩

theorem PlanKept.foldl {α : Type} {f : State → α → State} (h : ∀ s x, PlanKept s (f s x)) (l : List α) (s : State) :
    PlanKept s (l.foldl f s) := by
  induction l generalizing s with
  | nil => exact .refl s
  | cons x r ih => exact (h s x).trans (ih _)

theorem PlanKept.modNode (s : State) (t n : Nat) {f : Node → Node} (h : ∀ x, (f x).plan = x.plan) : PlanKept s (modNode s t n f) := by
  refine ⟨fun fn m => ?_⟩
  rw [nodeOf_modNode]
  split
  · next heq => rw [h, heq.1, heq.2]
  · rfl

theorem plan_postFault (s : State) (die : Nat) (e : FaultEntry) : PlanKept s (postFault s die e) := .of_tenants rfl

theorem plan_openWrite (s : State) (by_ : Option Writer) (a : Nat) (bytes : List Byte) : PlanKept s (openWrite s by_ a bytes) :=
  .of_tenants rfl

theorem plan_nextFresh (s : State) (n : Nat) : PlanKept s (nextFresh s n) := .of_tenants rfl

theorem plan_noteTentative (s : State) (tenant node a : Nat) (bytes : List Byte) : PlanKept s (noteTentative s tenant node a bytes) := by
  unfold noteTentative
  split
  · exact .refl s
  · exact .refl s
  · refine (plan_nextFresh s 1).trans (.modNode _ _ _ ?_)
    exact fun _ => rfl

theorem plan_physWrite (s : State) (tenant node a : Nat) (bytes : List Byte) : PlanKept s (physWrite s tenant node a bytes) := by
  unfold physWrite
  extract_lets t
  have ht : PlanKept s t := by
    unfold t
    split
    · exact plan_openWrite ..
    · exact (plan_noteTentative ..).trans (plan_openWrite ..)
  exact ht.trans (.of_tenants rfl)

theorem plan_sendDatum (s : State) (fn ix pkg a : Nat) (bytes : List Byte) : PlanKept s (sendDatum s fn ix pkg a bytes) := by
  unfold sendDatum
  split
  · unfold applyWrite
    split
    · exact .of_tenants rfl
    · exact .refl s
  · exact .of_tenants rfl

theorem plan_writeDatum (fn ix : Nat) (segs : List Segment) (d : Memory) (s : State) (i : Nat) :
    PlanKept s (writeDatum fn ix segs d s i) := by
  unfold writeDatum
  dsimp only
  split
  · exact .refl s
  · split
    · exact plan_physWrite ..
    · exact plan_physWrite ..
    · exact .of_tenants rfl
    · exact plan_sendDatum ..
    · refine .foldl (fun t b => ?_) _ s
      split
      · exact plan_physWrite ..
      · exact .refl t

theorem plan_layTable (s : State) (fn ix : Nat) : PlanKept s (layTable s fn ix) := by
  unfold layTable
  dsimp only
  split
  · exact .refl s
  · split
    · unfold askPage
      dsimp only
      split
      · exact .refl s
      · refine .trans (.modNode _ _ _ ?_) (plan_postFault ..)
        exact fun _ => rfl
    · refine .trans (.foldl (fun t i => plan_writeDatum ..) _ s) (.modNode _ _ _ ?_)
      exact fun _ => rfl

/-- The bindings of a node whose first task starts: it runs, its plan as it was. -/
theorem openNode_plan {s v : State} {fn n : Nat} (h : openNode s fn n = some v) :
    (nodeOf v fn n).record = (nodeOf s fn n).record ∧ (nodeOf v fn n).desc = (nodeOf s fn n).desc ∧
      (nodeOf v fn n).args = (nodeOf s fn n).args ∧ (nodeOf v fn n).running = (nodeOf s fn n).running ∧
      (nodeOf v fn n).state = .running := by
  have hp := (plan_layTable s fn n).plan fn n
  simp only [Node.plan, Prod.mk.injEq] at hp
  obtain ⟨hr, hd, ha, hrun, -⟩ := hp
  unfold openNode at h
  dsimp only at h
  split at h
  · split at h
    · exact absurd h (by simp)
    · obtain rfl := Option.some.inj h
      simp [hr, hd, ha, hrun]
  · exact absurd h (by simp)

/-- What every step of a fold leaves alone, the fold does. -/
theorem foldl_congr {α β : Type} {f : State → α → State} (g : State → β) (h : ∀ s x, g (f s x) = g s) (l : List α) (s : State) :
    g (l.foldl f s) = g s := by
  induction l generalizing s with
  | nil => rfl
  | cons x r ih => exact (ih _).trans (h s x)

/-- The launch unit's part of a state: its contexts and its tenants. -/
def launchPart (s : State) : List (Nat × Ctx) × List (Nat × Tenant) := (s.ctxs, s.tenants)

theorem launchPart_openTiles (s : State) (core : Nat) (tiles : BitVec 4) : launchPart (openTiles s core tiles) = launchPart s := by
  unfold openTiles
  refine foldl_congr launchPart (fun t i => ?_) _ s
  split <;> rfl

theorem launchPart_openPartitions (s : State) (k : Nat) (z : Quad) : launchPart (openPartitions s k z) = launchPart s := by
  unfold openPartitions
  refine foldl_congr launchPart (fun t p => ?_) _ s
  rfl

/-- Context `k` stands at the start of the task of node `n` of `fn` with coordinates `tid`. -/
structure StartsTask (fn n : Nat) (tid : List Nat) (c : Ctx) : Prop where
  pc : c.pc = 0
  mode : c.mode = .user
  task : c.task.map (fun y => (y.tenant, y.node, y.tid)) = some (fn, n, tid)

theorem plan_stretchValue (s : State) (n : Nat) : PlanKept s (stretchValue s n) := .of_tenants rfl

theorem plan_modCore (s : State) (n : Nat) (f : CoreState → CoreState) : PlanKept s (modCore s n f) := .of_tenants rfl

theorem plan_noteDie (s : State) (fn ix k : Nat) : PlanKept s (noteDie s fn ix k) := by
  unfold noteDie
  refine .modNode _ _ _ ?_
  exact fun _ => rfl

theorem ctxOf_noteDie (s : State) (fn ix k j : Nat) : ctxOf (noteDie s fn ix k) j = ctxOf s j := rfl

theorem ctxOf_of_launchPart {s t : State} (h : launchPart t = launchPart s) (j : Nat) : ctxOf t j = ctxOf s j := by
  simp only [ctxOf, (Prod.mk.inj h).1]

theorem plan_of_launchPart {s t : State} (h : launchPart t = launchPart s) : PlanKept s t := .of_tenants (Prod.mk.inj h).2

theorem plan_setCtx (s : State) (k : Nat) (c : Ctx) : PlanKept s (setCtx s k c) := .of_tenants rfl

theorem startTask_starts (s : State) (k : Nat) (t : Task) (heap : W64 × W64 × W64) (frame : Nat) :
    PlanKept s (startTask s k t heap frame) ∧ StartsTask t.tenant t.node t.tid (ctxOf (startTask s k t heap frame) k) ∧
      ∀ j, j ≠ k → ctxOf (startTask s k t heap frame) j = ctxOf s j := by
  unfold startTask
  extract_lets old fresh c u v
  have hu : launchPart u = launchPart (setCtx s k c) := (launchPart_openPartitions ..).trans (launchPart_openTiles ..)
  have hplan : PlanKept s u := (plan_setCtx s k c).trans (plan_of_launchPart hu)
  have hctx : ∀ j, ctxOf (stretchValue (noteDie v t.tenant t.node k) (coreIx k)) j = if j = k then c else ctxOf s j := by
    intro j
    rw [ctxOf_stretchValue, ctxOf_noteDie, ctxOf_modCore, ctxOf_of_launchPart hu, ctxOf_setCtx]
  refine ⟨((hplan.trans (plan_modCore ..)).trans (plan_noteDie ..)).trans (plan_stretchValue ..), ?_, fun j hj => ?_⟩
  · rw [hctx, if_pos rfl]
    exact ⟨rfl, rfl, rfl⟩
  · rw [hctx, if_neg hj]

theorem launchPart_loadImage {s t : State} {clus src len b : Nat} (h : loadImage s clus src len = some (t, b)) :
    launchPart t = launchPart s := by
  unfold loadImage at h
  dsimp only at h
  split at h
  · cases h
    rfl
  · split at h
    · cases h
      rfl
    · obtain ⟨_, -, h⟩ := Option.map_eq_some_iff.mp h
      cases h
      rfl

theorem nodeLevels_of_plan {x y : Node} (h : x.plan = y.plan) : nodeLevels x = nodeLevels y := by
  simp only [Node.plan, Prod.mk.injEq] at h
  obtain ⟨hr, hd, ha, -⟩ := h
  simp only [nodeLevels, hr, hd, ha]

/-- A member that finds its place starts its task there, with the coordinates of R19. -/
theorem placeMember_starts {fn ix g k m : Nat} {gang : List Nat} {twin : Bool} {s u : State}
    (h : placeMember fn ix g gang twin s (k, m) = some u) :
    PlanKept s u ∧ StartsTask fn ix (taskCoords g m (nodeLevels (nodeOf s fn ix))).1 (ctxOf u k) ∧
      ∀ j, j ≠ k → ctxOf u j = ctxOf s j := by
  unfold placeMember at h
  dsimp only at h
  split at h
  · obtain ⟨⟨t, b⟩, hload, rfl⟩ := Option.map_eq_some_iff.mp h
    have hpart := launchPart_loadImage hload
    obtain ⟨hplan, hstart, hother⟩ := startTask_starts t k (makeTask fn ix (nodeOf s fn ix) (nodeLevels (nodeOf s fn ix)) g m gang twin
      _ _ b) (nodeOf s fn ix).heap (kFrameOff (nodeOf s fn ix).desc)
    refine ⟨.trans (.of_tenants (Prod.mk.inj hpart).2) hplan, hstart, fun j hj => (hother j hj).trans ?_⟩
    simp only [ctxOf, (Prod.mk.inj hpart).1]
  · exact absurd h (by simp)

/-- One step of the placement of a copy. -/
def placeOne (fn ix g : Nat) (twin : Bool) (gang : List Nat) (s : State) (p : Nat × Nat) : Option State :=
  if contextFits s fn (nodeOf s fn ix).desc p.1 then placeMember fn ix g gang twin s p else none

/-- Members placed one after the other in contexts that differ each start their own task. -/
theorem foldlM_placeOne {fn ix g : Nat} {twin : Bool} {gang : List Nat} (l : List (Nat × Nat)) (hn : (l.map Prod.fst).Nodup) {s u : State}
    (h : l.foldlM (placeOne fn ix g twin gang) s = some u) :
    PlanKept s u ∧ (∀ p ∈ l, StartsTask fn ix (taskCoords g p.2 (nodeLevels (nodeOf s fn ix))).1 (ctxOf u p.1)) ∧
      ∀ j, j ∉ l.map Prod.fst → ctxOf u j = ctxOf s j := by
  induction l generalizing s with
  | nil =>
    obtain rfl := Option.some.inj h
    exact ⟨.refl s, fun _ hp => absurd hp List.not_mem_nil, fun _ _ => rfl⟩
  | cons q r ih =>
    rw [List.foldlM_cons, Option.bind_eq_bind, Option.bind_eq_some_iff] at h
    obtain ⟨t, hq, hr⟩ := h
    have hplace : placeMember fn ix g gang twin s q = some t := by
      unfold placeOne at hq
      split at hq
      · exact hq
      · exact absurd hq (by simp)
    obtain ⟨hplan, hstart, hother⟩ := placeMember_starts hplace
    obtain ⟨hnq, hnr⟩ := List.nodup_cons.mp (List.map_cons ▸ hn)
    obtain ⟨hplan', hstart', hother'⟩ := ih hnr hr
    have hlevels := nodeLevels_of_plan (hplan.plan fn ix)
    refine ⟨hplan.trans hplan', fun p hp => ?_, fun j hj => ?_⟩
    · rcases List.mem_cons.mp hp with rfl | hp
      · rw [hother' p.1 hnq]
        exact hstart
      · exact hlevels ▸ hstart' p hp
    · rw [List.map_cons, List.mem_cons, not_or] at hj
      exact (hother' j hj.2).trans (hother j hj.1)

/-! ### GANG_PLACEMENT (R322–R325) -/

/-- The gang of a READY node that has its turn, with places that its rules and its homes allow. -/
structure GangTurn (s : State) (fn n g : Nat) (place rest : List Nat) : Prop where
  gangs : (nodeOf s fn n).gangs = g :: rest
  ready : (nodeOf s fn n).state = .ready
  single : recRedundant (nodeOf s fn n).record = false
  turn : nodeTurn s fn n = true
  fresh : savedGang s fn n g = []
  allowed : placeOk s fn n g place = true
  homes : homesOk s fn (nodeOf s fn n) (seatsOf s fn n g place) = true
  pages : pagesHomed s fn (nodeOf s fn n) (seatsOf s fn n g place) = true
  settled : (nodeOf s fn n).migrating = []

theorem GangTurn.length {s : State} {fn n g : Nat} {place rest : List Nat} (h : GangTurn s fn n g place rest) :
    place.length = gangSize (nodeLevels (nodeOf s fn n)) := by
  have hp := h.allowed
  simp only [placeOk, toSeat, h.fresh, members, h.single, Bool.and_eq_true, beq_iff_eq] at hp
  simpa using hp.1.1.1

theorem GangTurn.nodup {s : State} {fn n g : Nat} {place rest : List Nat} (h : GangTurn s fn n g place rest) : place.Nodup := by
  have hp := h.allowed
  simp only [placeOk, Bool.and_eq_true, beq_iff_eq] at hp
  exact nodup_of_eraseDups_eq hp.1.1.2

/-- The entry of a node whose next gang has started in the contexts `place`. -/
def Node.gangStarted (place rest : List Nat) (dies : List (Nat × Nat)) (turn gcc : Nat) (m : Node) : Node :=
  { m with
    gangs := rest
    running := m.running ++ place
    dies := if m.dies = [] then dies else m.dies
    readyAt := turn
    unplacedSince := if rest = [] then none else some gcc }

/-- The gang has started: its node's entry, and its members' contexts. -/
theorem gangPlacement_starts {s v u : State} {fn n g : Nat} {place rest : List Nat} (h : GangTurn s fn n g place rest)
    (ho : openNode s fn n = some v) (hc : placeCopy fn n g false place v = some u) :
    ∃ t, exec (.gangPlacement fn n place) s = .next t ∧ (nodeOf t fn n).gangs = rest ∧ (nodeOf t fn n).state = .running ∧
      (nodeOf t fn n).running = (nodeOf s fn n).running ++ place ∧
      ∀ i (h : i < place.length), (ctxOf t place[i]).pc = 0 ∧ (ctxOf t place[i]).mode = .user ∧
        (ctxOf t place[i]).task.map (fun y => (y.tenant, y.node, y.tid)) =
          some (fn, n, (taskCoords g i (nodeLevels (nodeOf s fn n))).1) := by
  obtain ⟨hrec, hdesc, hargs, hrun, hstate⟩ := openNode_plan ho
  have hlevels : nodeLevels (nodeOf v fn n) = nodeLevels (nodeOf s fn n) := by simp only [nodeLevels, hrec, hdesc, hargs]
  have hzip : (place.zipIdx.map Prod.fst).Nodup := by simpa using h.nodup
  obtain ⟨hplan, hstart, -⟩ := foldlM_placeOne place.zipIdx hzip (show _ = some u from hc)
  have hp := hplan.plan fn n
  simp only [Node.plan, Prod.mk.injEq] at hp
  obtain ⟨hrec', -, -, hrun', hstate'⟩ := hp
  let f := Node.gangStarted place rest (seatDies (nodeLevels (nodeOf s fn n)) (seatsOf s fn n g place)) u.turns s.gcc
  have hseat : seatFresh v fn n g place = some u := by
    have htake : place.take (gangSize (nodeLevels (nodeOf v fn n))) = place := by
      rw [hlevels, ← h.length, List.take_length]
    simp only [seatFresh, htake, hc, Option.bind_some, hrec', hrec, h.single, Bool.false_eq_true, ↓reduceIte]
  have hgang : startGang s fn n place = some (modNode { u with turns := u.turns + 1 } fn n f) := by
    simp only [startGang, h.gangs, h.allowed, h.homes, h.pages, h.settled, h.ready, h.fresh, ho, hseat, Bool.not_true, Bool.or_self,
      bne_self_eq_false, Bool.false_eq_true, ↓reduceIte, Option.bind_some, Option.map_some]
    rfl
  have hexec : exec (.gangPlacement fn n place) s = .next (modNode { u with turns := u.turns + 1 } fn n f) := by
    simp only [exec, execGangPlacement, h.gangs, h.turn, hgang, Bool.not_true, Bool.false_eq_true, ↓reduceIte]
  have hnode : nodeOf (modNode { u with turns := u.turns + 1 } fn n f) fn n = f (nodeOf u fn n) := by
    rw [nodeOf_modNode, if_pos ⟨rfl, rfl⟩]
    rfl
  refine ⟨_, hexec, ?_, ?_, ?_, fun i hi => ?_⟩
  · rw [hnode]
    rfl
  · rw [hnode]
    exact hstate'.trans hstate
  · rw [hnode]
    exact congrArg (· ++ place) (hrun'.trans hrun)
  · have hmem : (place[i], i) ∈ place.zipIdx := List.mem_iff_getElem.mpr ⟨i, by simpa using hi, by simp⟩
    obtain ⟨hpc, hmode, htask⟩ := hstart _ hmem
    rw [hlevels] at htask
    exact ⟨hpc, hmode, htask⟩

/-! ### The launch unit -/

theorem nodeRollback_rolls {s : State} {fn n : Nat} {own : Bool} (h : RunsAlone s fn n)
    (hc : (own = true ∧ isEntryHeld s fn n = false ∧ (nodeOf s fn n).fate = 0 ∧ programErrors s fn n = [] ∧
        (nodeOf s fn n).mustRoll = true) ∨ (own = false ∧ predecessorRolled s fn (nodeOf s fn n) = true))
    (ht : (tenantOf s fn).tda = false)
    (hr : (nodeOf s fn n).ownRolls + (if own then 1 else 0) ≤ (tenantOf s fn).rollmax.toNat) :
    ∃ t, exec (.nodeRollback fn n own) s = .next t ∧ (nodeOf t fn n).state = .waiting ∧
      (nodeOf t fn n).rolls = min ((nodeOf s fn n).rolls + 1) 255 ∧ (nodeOf t fn n).staged = [] ∧ Freed s fn n t := by
  obtain ⟨hs, hrolls, hstaged, hfreed⟩ := rollNode_waits 1024 h ht hr
  refine ⟨rollNode 1025 s fn n own, ?_, hs, hrolls, hstaged, hfreed⟩
  rw [nodeRollback_running own h.state]
  rcases hc with ⟨rfl, hh, hf, he, hm⟩ | ⟨rfl, hp⟩
  · simp [hh, hf, he, hm]
  · simp [hp]

theorem nodeRollback_fate {s : State} {fn n : Nat} (h : RunsAlone s fn n) (hh : isEntryHeld s fn n = false)
    (hf : (nodeOf s fn n).fate ≠ 0) :
    ∃ t, exec (.nodeRollback fn n true) s = .next t ∧ (nodeOf t fn n).state = .retired ∧
      (nodeOf t fn n).status = (nodeOf s fn n).fate ∧ Freed s fn n t := by
  obtain ⟨hs, hst, hfreed⟩ := endNode_retires h hf
  refine ⟨_, ?_, hs, hst, hfreed⟩
  rw [nodeRollback_running true h.state]
  simp [hh, hf]

theorem nodeRollback_faulted {s : State} {fn n : Nat} (h : RunsAlone s fn n) (hh : isEntryHeld s fn n = false)
    (hf : (nodeOf s fn n).fate = 0) (hp : isEntryHeld ((programErrors s fn n).foldl postProgramError s) fn n = false)
    (hc : programErrors s fn n ≠ [] ∨ ((nodeOf s fn n).mustRoll = false ∧ awaitsPage s fn n = true)) :
    ∃ t, exec (.nodeRollback fn n true) s = .next t ∧ (nodeOf t fn n).state = .retired ∧
      (nodeOf t fn n).status = 5 ∧ Freed s fn n t := by
  rw [nodeRollback_running true h.state]
  by_cases he : programErrors s fn n = []
  · obtain ⟨hm, ha⟩ := hc.resolve_left (fun hne => hne he)
    obtain ⟨hs, hst, hfreed⟩ := endNode_retires h (status := 5) (by decide)
    exact ⟨_, by simp [hh, hf, he, hm, ha], hs, hst, hfreed⟩
  · obtain ⟨hposted, hctxs⟩ := runsAlone_posted h (programErrors s fn n)
    obtain ⟨hs, hst, hrun, hidle⟩ := endNode_retires hposted (status := 5) (by decide)
    exact ⟨_, by simp [hh, hf, he, endPrograms, hp], hs, hst, hrun, hctxs ▸ hidle⟩

theorem nodeRollback_nothing {s : State} {fn n : Nat} {own : Bool} (hs : (nodeOf s fn n).state = .running)
    (hc : (own = true ∧ (nodeOf s fn n).fate = 0 ∧ programErrors s fn n = [] ∧ (nodeOf s fn n).mustRoll = false ∧
        awaitsPage s fn n = false) ∨ (own = false ∧ predecessorRolled s fn (nodeOf s fn n) = false)) :
    exec (.nodeRollback fn n own) s = .next s := by
  rw [nodeRollback_running own hs]
  rcases hc with ⟨rfl, hf, he, hm, ha⟩ | ⟨rfl, hp⟩
  · simp [hf, he, hm, ha]
  · simp [hp]

/-- Settles O56, clause by clause, by the lemmas of each event. -/
theorem launchUnit : Obligations.LaunchUnit := by
  unfold Obligations.LaunchUnit
  refine ⟨fun s fn bytes hl => ⟨launchPortWrite_enters hl, launchPortWrite_drops hl⟩, fun s fn ix r rest hq hf ht hc => ?_,
    fun s fn n hs hp => ⟨fun hg => ?_, fun hg hd ho => ?_⟩,
    fun s v u fn n g place rest hg hs hr ht hfr hp hh hpg hm ho hc => ?_,
    fun s region stack fn a base bytes hm hf hh hp => regionMigrationComplete_moves hm hf hh hp,
    fun s fn n g => ⟨fun p hp h => victimOf_begun hp h, fun hp hg hs hu hw hl => victimOf_new hp hg hs hu hw hl⟩,
    fun s fn n v y hv hg hy hsync => ?_, fun s fn n hs hb hp hd hf hm hst hr ho ht => ?_,
    fun s fn n own hs hd hr ho => ?_, fun s fn n task hr hc hs => ?_, fun s fn => ⟨qctlTd_empties s fn, qctlRst_eq s fn⟩⟩
  · have h : HeadTurn s fn ix r rest := ⟨hq, hf, ht, hc⟩
    exact ⟨h.exec_bad, h.exec_invalid, h.exec_admits⟩
  · rw [nodeReady_eq hs hp, if_neg hg]
  · refine ⟨_, (nodeReady_eq hs hp).trans (congrArg Host.Outcome.next (if_pos hg)), emptyNode_commits ?_ ho⟩
    rw [nodeOf_modNode, if_pos ⟨rfl, rfl⟩]
    exact hd
  · exact gangPlacement_starts ⟨hg, hs, hr, ht, hfr, hp, hh, hpg, hm⟩ ho hc
  · have h : LoneVictim s fn n v y := ⟨hv, hg, hy, hsync⟩
    refine ⟨fun hf hp => ⟨_, h.exec_posts hf hp, by simp⟩, fun f hf hm hc => ⟨h.exec_saves hf hm hc, h.exec_loses hf hm hc⟩⟩
  · exact nodeCommit_retires ⟨hs, hst, hr, ho, ht⟩ hb hp hd hf hm
  · have h : RunsAlone s fn n := ⟨hs, hd, hr, ho⟩
    refine ⟨fun hc ht hroll => ?_, fun hown hh hf => ?_, fun hown hh => ?_, fun hown hh hf hp hc => ?_, nodeRollback_nothing hs⟩
    · obtain ⟨t, ht, hst, hrolls, hstaged, hfreed⟩ := nodeRollback_rolls h hc ht hroll
      exact ⟨t, ht, hst, hrolls, hstaged, hfreed.running, hfreed.idle⟩
    · subst hown
      obtain ⟨t, ht, hst, hstatus, hfreed⟩ := nodeRollback_fate h hh hf
      exact ⟨t, ht, hst, hstatus, hfreed.running, hfreed.idle⟩
    · rw [nodeRollback_running own hs]
      simp [hown, hh]
    · subst hown
      obtain ⟨t, ht, hst, hstatus, hfreed⟩ := nodeRollback_faulted h hh hf hp hc
      exact ⟨t, ht, hst, hstatus, hfreed.running, hfreed.idle⟩
  · have heq := redundantCompare_eq hr hc hs
    exact ⟨fun hd => heq.trans (congrArg Host.Outcome.next (if_pos hd)), fun hd => heq.trans (congrArg Host.Outcome.next (if_neg hd))⟩

end Sys2Proof.Machine
end

section
/-! PROOFS. Register results: a write reaches its own file and its own register alone (R54, R100, R138). -/

namespace Sys2Proof.Machine

/-! ### What a register write leaves of the other files -/

theorem writeReg_s_eq (c : Ctx) (r : SReg) (x : W64) : c.writeReg (.s r x) = { c with s := (c.writeReg (.s r x)).s } := by
  by_cases hr : r = 0 <;> simp [Ctx.writeReg, hr]

theorem writeReg_p_eq (c : Ctx) (r : PReg) (x : PWord) : c.writeReg (.p r x) = { c with p := (c.writeReg (.p r x)).p } := by
  by_cases hr : r = 0 <;> simp [Ctx.writeReg, hr]

theorem writeReg_v_eq (c : Ctx) (r : VReg) (m x : VWord) : c.writeReg (.v r m x) = { c with v := (c.writeReg (.v r m x)).v } := rfl

theorem writeReg_g_eq (c : Ctx) (r : GReg) (m x : GWord) : c.writeReg (.g r m x) = { c with g := (c.writeReg (.g r m x)).g } := rfl

@[simp] theorem readP_writeS (c : Ctx) (r : SReg) (x : W64) (q : PReg) : (c.writeReg (.s r x)).readP q = c.readP q := by
  rw [writeReg_s_eq]; rfl
@[simp] theorem readV_writeS (c : Ctx) (r : SReg) (x : W64) (q : VReg) : (c.writeReg (.s r x)).readV q = c.readV q := by
  rw [writeReg_s_eq]; rfl
@[simp] theorem readG_writeS (c : Ctx) (r : SReg) (x : W64) (q : GReg) : (c.writeReg (.s r x)).readG q = c.readG q := by
  rw [writeReg_s_eq]; rfl
@[simp] theorem readS_writeP (c : Ctx) (r : PReg) (x : PWord) (q : SReg) : (c.writeReg (.p r x)).readS q = c.readS q := by
  rw [writeReg_p_eq]; rfl
@[simp] theorem readV_writeP (c : Ctx) (r : PReg) (x : PWord) (q : VReg) : (c.writeReg (.p r x)).readV q = c.readV q := by
  rw [writeReg_p_eq]; rfl
@[simp] theorem readG_writeP (c : Ctx) (r : PReg) (x : PWord) (q : GReg) : (c.writeReg (.p r x)).readG q = c.readG q := by
  rw [writeReg_p_eq]; rfl
@[simp] theorem readS_writeV (c : Ctx) (r : VReg) (m x : VWord) (q : SReg) : (c.writeReg (.v r m x)).readS q = c.readS q := rfl
@[simp] theorem readP_writeV (c : Ctx) (r : VReg) (m x : VWord) (q : PReg) : (c.writeReg (.v r m x)).readP q = c.readP q := rfl
@[simp] theorem readG_writeV (c : Ctx) (r : VReg) (m x : VWord) (q : GReg) : (c.writeReg (.v r m x)).readG q = c.readG q := rfl
@[simp] theorem readS_writeG (c : Ctx) (r : GReg) (m x : GWord) (q : SReg) : (c.writeReg (.g r m x)).readS q = c.readS q := rfl
@[simp] theorem readP_writeG (c : Ctx) (r : GReg) (m x : GWord) (q : PReg) : (c.writeReg (.g r m x)).readP q = c.readP q := rfl
@[simp] theorem readV_writeG (c : Ctx) (r : GReg) (m x : GWord) (q : VReg) : (c.writeReg (.g r m x)).readV q = c.readV q := rfl

@[simp] theorem readS_orFlags (c : Ctx) (fl : Flags) (r : SReg) : (c.orFlags fl).readS r = c.readS r := rfl
@[simp] theorem readP_orFlags (c : Ctx) (fl : Flags) (r : PReg) : (c.orFlags fl).readP r = c.readP r := rfl
@[simp] theorem readV_orFlags (c : Ctx) (fl : Flags) (r : VReg) : (c.orFlags fl).readV r = c.readV r := rfl
@[simp] theorem readG_orFlags (c : Ctx) (fl : Flags) (r : GReg) : (c.orFlags fl).readG r = c.readG r := rfl

/-- A write of a register changes the four register files and nothing else of its context. -/
theorem writeReg_files (c : Ctx) {w : RegWrite} (hw : ∀ i x, w ≠ .cr i x) : c.writeReg w =
    { c with s := (c.writeReg w).s, p := (c.writeReg w).p, v := (c.writeReg w).v, g := (c.writeReg w).g } := by
  cases w with
  | s r x => rw [writeReg_s_eq]
  | p r x => rw [writeReg_p_eq]
  | v r m x => rfl
  | g r m x => rfl
  | cr i x => exact absurd rfl (hw i x)

/-! ### A register result performs -/

/-- A result of a register that the shadow unit does not check changes its own context alone. -/
theorem performFlight_result {f : Flight} {w : RegWrite} {fl : Flags} (hf : f.act = .result w fl none) (hw : ∀ i x, w ≠ .cr i x)
    (s : State) (k : Nat) : performFlight s k f = modCtx s k (fun c => (c.writeReg w).orFlags fl) := by
  simp only [performFlight, hf]
  cases w with
  | cr i x => exact absurd rfl (hw i x)
  | s r x => rfl
  | p r x => rfl
  | v r m x => rfl
  | g r m x => rfl

/-- Settles O32: the result is one write of its context, and the laws of `writeReg` say what each file then reads. -/
theorem resultPerforms : Obligations.ResultPerforms := by
  unfold Obligations.ResultPerforms
  intro s k f w fl hf hw c t d
  have ht : t = modCtx s k (fun c => (c.writeReg w).orFlags fl) := performFlight_result hf hw s k
  have hd : d = (c.writeReg w).orFlags fl := by simp [d, ht, c]
  have hfiles := writeReg_files c hw
  refine ⟨fun r => ?_, fun r => ?_, fun r => ?_, fun r => ?_, ?_, ?_, fun j hj => ?_, ht ▸ sameStores_modCtx s k _⟩
  · rw [hd, readS_orFlags]
    cases w with
    | cr i x => exact absurd rfl (hw i x)
    | _ => simp [c]
  · rw [hd, readP_orFlags]
    cases w with
    | cr i x => exact absurd rfl (hw i x)
    | _ => simp [c]
  · rw [hd, readV_orFlags]
    cases w with
    | cr i x => exact absurd rfl (hw i x)
    | v q m x => by_cases hr : r = q <;> simp [hr, c]
    | _ => simp [c]
  · rw [hd, readG_orFlags]
    cases w with
    | cr i x => exact absurd rfl (hw i x)
    | g q m x => by_cases hr : r = q <;> simp [hr, c]
    | _ => simp [c]
  · rw [hd, hfiles]; rfl
  · rw [hd, hfiles]; exact .refl _
  · rw [ht, ctxOf_modCtx, if_neg hj]
    exact .refl _

end Sys2Proof.Machine
end

section
/-! PROOFS. The arithmetic of the lanes: exact conversions of floating values, integer lanes and shifts (R46, R53–R56, R215, R216). -/

namespace Sys2Proof.Machine

/-! ### Rounding what needs none (R53, R56) -/

/-- An exact value is rounded up in no mode (R53). -/
theorem roundsUp_exact (rm : Nat) (neg odd : Bool) : roundsUp rm neg odd false false false = false := by
  unfold roundsUp
  split <;> simp

theorem roundShift_zero (rm : Nat) (neg : Bool) (m : Nat) : roundShift rm neg m 0 false = (m, false) := by
  simp [roundShift, roundsUp_exact]

/-- A value that stands at its own quantum and is no larger than the largest finite one rounds to its encoding. -/
theorem roundFmt_exact {f : Fmt} {m : Nat} {e : Int} (hm : m ≠ 0) (hq : max (e + Nat.log2 m) (1 - (f.bias : Int)) - f.fracBits = e)
    (hmax : e < maxExp f ∨ e = maxExp f ∧ m ≤ maxMant f) (neg : Bool) (rm : Nat) (ov : Ovf) :
    roundFmt neg m e false f rm ov = (encodeFinite f neg m e, 0) := by
  have fits : (decide (maxExp f ≤ e) && decide (maxMant f < m * 2 ^ (e - maxExp f).toNat)) = false := by
    rcases hmax with hlt | ⟨heq, hle⟩
    · simp [Int.not_le.mpr hlt]
    · simp [heq, hle]
  simp [roundFmt, hm, hq, roundShift_zero, fits, flagIf]

/-! ### The fields of an encoding (R46) -/

/-- The lane formats: a sign bit, an exponent whose top value is that of infinities and NaNs, a fraction. -/
structure LaneFormat (f : Fmt) : Prop where
  bits : f.bits = f.fracBits + f.expBits + 1
  hasInf : f.hasInf = true
  expWide : 2 ≤ f.expBits
  notE4m3 : f ≠ .e4m3

theorem laneFormat_of {f : Fmt} (h : f = .f32 ∨ f = .f16 ∨ f = .bf16) : LaneFormat f := by
  rcases h with rfl | rfl | rfl <;> constructor <;> decide

/-- Sign, exponent and fraction of an encoding, put together, are the encoding. -/
theorem encoding_fields {f : Fmt} {x : Nat} (hx : x < 2 ^ (f.fracBits + f.expBits + 1)) :
    (if signField x f then 2 ^ (f.fracBits + f.expBits) else 0) + expField x f * 2 ^ f.fracBits + fracField x f = x := by
  have low : x % 2 ^ (f.fracBits + f.expBits) = expField x f * 2 ^ f.fracBits + fracField x f := by
    rw [Nat.pow_add, Nat.mod_mul, expField, fracField, fieldOf, fieldOf, pow_zero, Nat.div_one, Nat.mul_comm, Nat.add_comm]
  have high : (if signField x f then 2 ^ (f.fracBits + f.expBits) else 0) = 2 ^ (f.fracBits + f.expBits) * (x / 2 ^ (f.fracBits + f.expBits)) := by
    have hlt : x / 2 ^ (f.fracBits + f.expBits) < 2 := Nat.div_lt_of_lt_mul (by rwa [← Nat.pow_succ])
    rw [signField, Nat.testBit_eq_decide_div_mod_eq, Nat.mod_eq_of_lt hlt]
    rcases Nat.lt_or_ge (x / 2 ^ (f.fracBits + f.expBits)) 1 with h | h
    · simp [Nat.lt_one_iff.mp h]
    · simp [Nat.le_antisymm (Nat.le_of_lt_succ hlt) h]
  rw [high, Nat.add_assoc, ← low, Nat.div_add_mod]

theorem fracField_lt (x : Nat) (f : Fmt) : fracField x f < 2 ^ f.fracBits := Nat.mod_lt _ (Nat.two_pow_pos _)

/-- A zero has one encoding, whatever its weight. -/
theorem encodeFinite_zero (f : Fmt) (neg : Bool) (q r : Int) : encodeFinite f neg 0 q = encodeFinite f neg 0 r := by
  simp [encodeFinite]

/-- The encoding of an encoding's own significand and weight is the encoding. -/
theorem encodeFinite_significand {f : Fmt} {x : Nat} (hx : x < 2 ^ (f.fracBits + f.expBits + 1)) :
    encodeFinite f (signField x f) (significand x f) (weightExp x f) = x := by
  have hfields := encoding_fields hx
  have hfrac := fracField_lt x f
  have hpow : 2 ^ (f.fracBits + 1) = 2 ^ f.fracBits + 2 ^ f.fracBits := by omega
  by_cases h0 : expField x f = 0
  · simp only [encodeFinite, significand, h0, if_true, if_pos hfrac]
    simpa [h0] using hfields
  · have hn : ¬ 2 ^ f.fracBits + fracField x f < 2 ^ f.fracBits := by omega
    have ht : 2 ^ f.fracBits + fracField x f ≠ 2 ^ (f.fracBits + 1) := by omega
    have hq : ((expField x f : Int) - f.bias - f.fracBits + f.fracBits + f.bias).toNat = expField x f := by omega
    simp only [encodeFinite, significand, weightExp, h0, if_false, hn, ht, hq, Nat.add_sub_cancel_left]
    exact hfields

/-- A finite encoding stands at its own quantum. -/
theorem quantum_significand {f : Fmt} {x : Nat} (hm : significand x f ≠ 0) :
    max (weightExp x f + Nat.log2 (significand x f)) (1 - (f.bias : Int)) - f.fracBits = weightExp x f := by
  have hfrac := fracField_lt x f
  by_cases h0 : expField x f = 0
  · simp only [significand, weightExp, h0, if_true] at hm ⊢
    have := (Nat.log2_lt hm).mpr hfrac
    omega
  · simp only [significand, weightExp, h0, if_false] at hm ⊢
    have hlog : Nat.log2 (2 ^ f.fracBits + fracField x f) = f.fracBits :=
      (Nat.log2_eq_iff (by omega)).mpr ⟨by omega, by omega⟩
    rw [hlog]
    omega

/-- A finite encoding is no larger than the largest finite one. -/
theorem significand_le_max {f : Fmt} (hf : LaneFormat f) {x : Nat} (ht : expField x f ≠ 2 ^ f.expBits - 1) :
    weightExp x f < maxExp f ∨ weightExp x f = maxExp f ∧ significand x f ≤ maxMant f := by
  have hfrac := fracField_lt x f
  have hexp : expField x f < 2 ^ f.expBits := Nat.mod_lt _ (Nat.two_pow_pos _)
  have hwide : 2 ^ 2 ≤ 2 ^ f.expBits := Nat.pow_le_pow_right (by decide) hf.expWide
  have hpow : 2 ^ (f.fracBits + 1) = 2 ^ f.fracBits + 2 ^ f.fracBits := by omega
  have hmant : maxMant f = 2 ^ (f.fracBits + 1) - 1 := maxMant.eq_2 f hf.notE4m3
  have hsig : significand x f ≤ maxMant f := by
    rw [hmant, significand]
    split <;> omega
  have hmax : maxExp f = ((2 ^ f.expBits : Nat) : Int) - 2 - f.bias - f.fracBits := by simp [maxExp, hf.hasInf]
  have hle : weightExp x f ≤ maxExp f := by
    rw [hmax, weightExp]
    split <;> omega
  exact hle.lt_or_eq.imp_right fun heq => ⟨heq, hsig⟩

/-! ### A finite value converts to its own encoding (R46, R55) -/

/-- What a finite encoding decodes to, and that its exponent is not the top one. -/
theorem decodeFloat_fin {f : Fmt} (hf : LaneFormat f) {x : Nat} {neg : Bool} {m : Nat} {e : Int}
    (h : decodeFloat x f = .fin neg m e) :
    decodeFloat x f = .fin (signField x f) (significand x f) (weightExp x f) ∧ expField x f ≠ 2 ^ f.expBits - 1 := by
  simp only [decodeFloat, hf.notE4m3, hf.hasInf, false_and, true_and, if_false] at h ⊢
  by_cases ht : expField x f = 2 ^ f.expBits - 1
  · rw [if_pos ht] at h
    split at h <;> cases h
  · exact ⟨if_neg ht, ht⟩

/-- A finite value rounds to its own encoding, in every mode and without a flag. -/
theorem convertFloat_decodeFloat {f : Fmt} (hf : LaneFormat f) {x : Nat} (hx : x < 2 ^ f.bits)
    (hfin : ∃ neg m e, decodeFloat x f = .fin neg m e) (rm : Nat) (ov : Ovf) : convertFloat (decodeFloat x f) f rm ov = (x, 0) := by
  obtain ⟨neg, m, e, h⟩ := hfin
  obtain ⟨hd, ht⟩ := decodeFloat_fin hf h
  rw [hf.bits] at hx
  rw [hd, convertFloat]
  have hx' := encodeFinite_significand hx
  by_cases hm : significand x f = 0
  · rw [hm] at hx' ⊢
    rw [roundFmt, if_pos rfl, encodeFinite_zero f _ 0 (weightExp x f), hx']
  · rw [roundFmt_exact hm (quantum_significand hm) (significand_le_max hf ht), hx']

/-! ### Integer lanes (R215, R216) -/

theorem wrapLane_ofInt (t : Ty) (i : Int) : wrapLane t i = ((BitVec.ofInt t.width i).toNat, 0) := by
  rw [wrapLane, wrapInt, BitVec.toNat_ofInt]

theorem ofInt_cast_toNat {w : Nat} (x : BitVec w) : BitVec.ofInt w x.toNat = x := by
  rw [BitVec.ofInt_natCast, BitVec.ofNat_toNat, BitVec.setWidth_eq]

section
variable {t : Ty} (h : t.isFloat = false) (rm : Nat) (x y : BitVec t.width)
include h

theorem laneAdd_int : laneAdd t rm x.toNat y.toNat = ((x + y).toNat, 0) := by
  simp only [laneAdd, h, Bool.false_eq_true, if_false, wrapLane_ofInt, BitVec.ofInt_add, ofInt_cast_toNat]

theorem laneSub_int : laneSub t rm x.toNat y.toNat = ((x - y).toNat, 0) := by
  simp only [laneSub, h, Bool.false_eq_true, if_false, wrapLane_ofInt, Int.sub_eq_add_neg, BitVec.ofInt_add, BitVec.ofInt_neg,
    ofInt_cast_toNat, BitVec.sub_eq_add_neg]

theorem laneMul_int : laneMul t rm x.toNat y.toNat = ((x * y).toNat, 0) := by
  simp only [laneMul, h, Bool.false_eq_true, if_false, wrapLane_ofInt, BitVec.ofInt_mul, ofInt_cast_toNat]

end

/-- The two's complement reading that VSAR shifts is `BitVec.toInt`. -/
theorem toInt_eq_topBit {t : Ty} (x : BitVec t.width) :
    (if x.toNat.testBit (t.width - 1) then (x.toNat : Int) - 2 ^ t.width else x.toNat) = x.toInt := by
  rw [BitVec.toInt_eq_msb_cond, BitVec.msb_eq_getLsbD_last, BitVec.testBit_toNat]
  push_cast
  rfl

theorem laneSar_eq (t : Ty) (x : BitVec t.width) (y : Nat) :
    laneSar t x.toNat y = ((x.sshiftRight (y % t.width)).toNat, 0) := by
  rw [laneSar, wrapLane_ofInt]
  simp only [toInt_eq_topBit, shiftAmount, BitVec.sshiftRight]
  rw [Int.shiftRight_eq_div_pow]
  push_cast
  rfl

/-- Settles O45: a finite encoding stands at its own quantum, so its rounding shifts by nothing; integer lanes are bit vectors. -/
theorem laneArithmetic : Obligations.LaneArithmetic := by
  unfold Obligations.LaneArithmetic
  refine ⟨fun f x rm ov hf hx hfin => convertFloat_decodeFloat (laneFormat_of hf) hx hfin rm ov, fun t rm x y h =>
    ⟨laneAdd_int h rm x y, laneSub_int h rm x y, laneMul_int h rm x y, ?_, ?_, laneSar_eq t x y.toNat⟩⟩
  · rw [laneShl, shiftAmount, BitVec.toNat_shiftLeft, Nat.shiftLeft_eq]
  · rw [laneShr, shiftAmount, BitVec.toNat_ushiftRight, Nat.shiftRight_eq_div_pow]

end Sys2Proof.Machine
end

section
/-! PROOFS. The matrix array: its commands at issue, the elements of a tile, the arithmetic of a k-group (R62–R69, R251–R258). -/

namespace Sys2Proof.Machine

/-! ### MMA and MMAZ at issue (R251–R255) -/

theorem collides_addFlight (c : Ctx) (due : Nat) (act : Act) (res : List (Nat × Nat × Nat)) (file index at_ : Nat) :
    (c.addFlight due act res).collides file index at_ = (c.collides file index at_ || res.contains (file, index, at_)) := by
  simp [Ctx.collides, Ctx.addFlight]

theorem noCollision_fieldWrite (s : State) (lat : Nat) (d : GReg) (f x : Nat) :
    noCollision s lat (fieldWrite d f x) = !(here s).collides 3 d.val ((here s).ttc + lat) := rfl

/-- Results to two stream registers never collide. -/
theorem noCollision_otherField {s : State} {ga gb : GReg} (h : ga ≠ gb) (lat f x g y : Nat) :
    noCollision (scheduled s lat (fieldWrite ga f x) 0 none) lat (fieldWrite gb g y) = noCollision s lat (fieldWrite gb g y) := by
  have hne : gb.val ≠ ga.val := fun he => h (Fin.ext he.symm)
  have hres : landingOf s lat (fieldWrite ga f x) = [(3, ga.val, (here s).ttc + lat)] := rfl
  simp only [noCollision_fieldWrite, scheduled, here_flown, collides_addFlight, hres]
  simp [Ctx.addFlight, hne]

theorem mmaDraw_flown (s : State) (l : Nat) (a : Act) (r : List (Nat × Nat × Nat)) (t : TileIx) (nk start : Nat) :
    mmaDraw (flown s l a r) t nk start = mmaDraw s t nk start := by
  simp only [mmaDraw, span, here_flown]
  rfl

/-- An MMA that its checks accept starts (R251). -/
theorem mmaStart_ok {s : State} {t : TileIx} {ga gb : GReg} {nk start : Nat} (h : mmaAccepted s t ga gb nk start = true) (zero : Bool)
    (slot : Nat) : mmaStart s t ga gb nk start zero slot = .ok (mmaGiven s t ga gb nk start zero) := by
  simp only [mmaAccepted, Bool.and_eq_true, Bool.not_eq_true', decide_eq_true_eq, Option.isNone_iff_eq_none] at h
  obtain ⟨⟨⟨⟨⟨⟨⟨⟨⟨⟨⟨⟨hne, hp⟩, hfa⟩, hfb⟩, hown⟩, haa⟩, hab⟩, hconf⟩, hpend⟩, hbusy⟩, hheld⟩, hca⟩, hcb⟩ := h
  have ha : ∀ x, noCollision s 1 (fieldWrite ga 17 x) = true := fun x => by rw [noCollision_fieldWrite, hca]; rfl
  have hb : ∀ x y, noCollision (scheduled s 1 (fieldWrite ga 17 x) 0 none) 1 (fieldWrite gb 17 y) = true := fun x y => by
    rw [noCollision_otherField hne, noCollision_fieldWrite, hcb]; rfl
  simp only [mmaStart, unless_ok, hp, hfa, hfb, hown, haa, hab, hconf, hpend, hbusy, hheld]
  rw [result_ok (ha _), andThen_ok, result_ok (hb _ _), andThen_ok]
  simp [mmaGiven, mmaLatched, scheduled, mmaDraw_flown]

theorem exec_mma {s : State} {at_ : BitVec 16} (hs : slotFree s = true) (ht : (here s).ttc ≤ at_.toNat) {t : TileIx} {ga gb : GReg}
    {nk : BitVec 16} (h : mmaAccepted s t ga gb nk.toNat at_.toNat = true) :
    exec (.mma t ga gb at_ nk) s = .next (mmaGiven s t ga gb nk.toNat at_.toNat false) ∧
    exec (.mmaz t ga gb at_ nk) s = .next (mmaGiven s t ga gb nk.toNat at_.toNat true) := by
  constructor
  · simp only [exec, execMma, withSlot_free hs, timedAt_ok ht, mmaStart_ok h, finish_ok]
  · simp only [exec, execMmaz, withSlot_free hs, timedAt_ok ht, mmaStart_ok h, finish_ok]

/-! ### MMAG and MMAS at issue (R256–R258) -/

theorem exec_mmag_none {s : State} (hs : slotFree s = true) (d : SReg) (ga gb : GReg) : exec (.mmag d ga gb 0) s = .next s := by
  simp only [exec, execMmag, withSlot_free hs, if_true, finish_ok]

/-- An MMAG whose table reads well joins the untimed work. -/
theorem exec_mmag {s : State} {d : SReg} {ga gb : GReg} {g : BitVec 12} (hs : slotFree s = true) (hg : g ≠ 0) :
    let c := here s
    let off := (c.readS d).toNat
    let table := groupTable (bufPrior s s.cur .dm off (8 * g.toNat)) g.toNat
    portReadable s off (8 * g.toNat) 8 = true →
    (table.map groupEntry).findSome? (groupFault c (c.readG ga) (c.readG gb)) = none →
    exec (.mmag d ga gb g) s = .next (queued (reserve s [openSpan s 720])
      (.mmag (c.readG ga) (c.readG gb) c.padm table) none false [] []) := by
  intro c off table hport hfault
  simp only [exec, execMmag, withSlot_free hs, if_neg hg]
  rw [commandRead_ok hport]
  simp only [c, off, table] at hfault ⊢
  simp only [hfault, issueUntimed_none, finish_ok]

theorem exec_mmas {s : State} {ga gb : GReg} (hs : slotFree s = true) (ha : masDescFault ((here s).readG ga) = none)
    (hb : masDescFault ((here s).readG gb) = none) (q : QueueIx) :
    exec (.mmas q ga gb) s = .next (queued (reserve s [openSpan s 720])
      (.mmas q.val ((here s).readG ga) ((here s).readG gb) (here s).padm [] false) none false [] []) := by
  simp only [exec, execMmas, withSlot_free hs, ha, hb, issueUntimed_none]
  rfl

/-! ### The elements of a tile (R7, R254) -/

theorem memReadNat_memWriteNat_apart (m : Memory) {a b n k : Nat} (h : b + k ≤ a ∨ a + n ≤ b) (x : Nat) :
    memReadNat (memWriteNat m b k x) a n = memReadNat m a n := by
  rw [memWriteNat]
  exact memReadNat_memWriteList_apart m (by rwa [length_bytesOfNat])

/-- An element written reads back in its 32 bits; every other one reads as before. -/
theorem tileGet_tileSet (t : Tile) {c y : Nat} (hc : c < 128) (hy : y < 128) (r x v : Nat) :
    tileGet (tileSet t r c v) x y = if x = r ∧ y = c then v % 2 ^ 32 else tileGet t x y := by
  by_cases h : x = r ∧ y = c
  · rw [if_pos h, h.1, h.2]
    exact memReadNat_memWriteNat ..
  · rw [if_neg h]
    exact memReadNat_memWriteNat_apart _ (by omega) _

/-- A filled tile reads the values given where they are not skipped, and elsewhere as before. -/
theorem tileGet_tileFill {ps : List (Nat × Nat)} (hps : ∀ p ∈ ps, p.2 < 128) {y : Nat} (hy : y < 128) (t : Tile) (skip : Nat → Nat → Bool)
    (f : Nat → Nat → Nat) (x : Nat) : tileGet (tileFill t ps skip f) x y =
      if (x, y) ∈ ps ∧ skip x y = false then f x y % 2 ^ 32 else tileGet t x y := by
  induction ps generalizing t with
  | nil => simp [tileFill]
  | cons p ps ih =>
    have hp := hps p (by simp)
    rw [tileFill, List.foldl_cons, ← tileFill, ih fun q hq => hps q (by simp [hq])]
    by_cases hin : (x, y) ∈ ps ∧ skip x y = false
    · rw [if_pos hin, if_pos ⟨List.mem_cons_of_mem _ hin.1, hin.2⟩]
    · rw [if_neg hin]
      by_cases he : (x, y) = p
      · subst he
        cases hs : skip x y <;> simp [tileGet_tileSet _ hp hy]
      · have hne : ¬(x = p.1 ∧ y = p.2) := fun h => he (Prod.ext h.1 h.2)
        have hmem : ¬((x, y) ∈ p :: ps ∧ skip x y = false) := fun h => hin ⟨(List.mem_cons.mp h.1).resolve_left he, h.2⟩
        rw [if_neg hmem]
        split
        · rfl
        · rw [tileGet_tileSet _ hp hy, if_neg hne]

/-- A fill writes the elements of its tile and nothing else. -/
theorem tileFill_eq (t : Tile) (ps : List (Nat × Nat)) (skip : Nat → Nat → Bool) (f : Nat → Nat → Nat) :
    tileFill t ps skip f = { t with mem := (tileFill t ps skip f).mem } := by
  induction ps generalizing t with
  | nil => rfl
  | cons p ps ih =>
    rw [tileFill, List.foldl_cons, ← tileFill]
    split
    · exact ih t
    · exact ih _

theorem mem_rect {r0 r1 c0 c1 x y : Nat} : (x, y) ∈ rect r0 r1 c0 c1 ↔ (r0 ≤ x ∧ x < r1) ∧ c0 ≤ y ∧ y < c1 := by
  simp only [rect, List.mem_flatMap, List.mem_map, List.mem_range, Prod.mk.injEq]
  constructor
  · rintro ⟨i, hi, j, hj, rfl, rfl⟩
    omega
  · rintro ⟨⟨h1, h2⟩, h3, h4⟩
    exact ⟨x - r0, by omega, y - c0, by omega, by omega, by omega⟩

@[simp] theorem tileOf_modTile (s : State) (n m : Nat) (t q : TileIx) (f : Tile → Tile) :
    tileOf (modTile s n t f) m q = if m = n ∧ q = t then f (tileOf s n t) else tileOf s m q := by
  by_cases hm : m = n
  · subst hm
    by_cases hq : q = t
    · subst hq
      simp [tileOf, modTile]
    · have : t.val ≠ q.val := fun h => hq (Fin.ext h.symm)
      simp [tileOf, modTile, hq, this]
  · simp [tileOf, modTile, hm]

@[simp] theorem tileOf_nextFresh (s : State) (n m : Nat) (q : TileIx) : tileOf (nextFresh s n) m q = tileOf s m q := rfl

/-- A change of a tile that keeps its window changes nothing else. -/
theorem tileOnly_modTile {s : State} {n : Nat} {t : TileIx} {f : Tile → Tile}
    (h : (f (tileOf s n t)).rows = (tileOf s n t).rows ∧ (f (tileOf s n t)).cols = (tileOf s n t).cols) :
    TileOnly s (modTile s n t f) n t := by
  refine ⟨fun m q hq => ?_, ?_, rfl, fun m b x => ?_, fun j => .refl _⟩
  · rw [tileOf_modTile, if_neg hq]
  · rw [tileOf_modTile, if_pos ⟨rfl, rfl⟩]
    exact h
  · rw [modTile, coreOf_modCore]
    split
    · next hm => subst hm; cases b <;> rfl
    · rfl

theorem TileOnly.nextFresh {s t : State} {n : Nat} {q : TileIx} (h : TileOnly s t n q) (m : Nat) :
    TileOnly s (nextFresh t m) n q := ⟨h.others, h.window, h.mem, h.buf, h.regs⟩

/-! ### The update of a k-group (R69, R254) -/

/-- Where no write of the cycle is refused, no element is. -/
theorem tileRefused_of_nil {s : State} (h : s.refused = []) (k seq r c : Nat) : tileRefused s k seq r c = false := by
  simp [tileRefused, h]

theorem isPoisoned_nil (d : Side) (final : Bool) : isPoisoned d final [] = false := rfl

/-- Element (x, y) of a tile after a k-group, and whether it saturated. -/
def kgroupElement (t : Tile) (p : Prec) (d : Side × Side) (final zero : Bool) (ma mb : Memory) (x y : Nat) : Nat × Bool :=
  accumulate p d.1 d.2 ma mb final x y (if zero then 0 else tileGet t x y)

/-- The tile with its window of `rows` rows and `cols` columns filled, and the poison and the clamp bit that this raises. -/
def filledTile (t : Tile) (rows cols : Nat) (value : Nat → Nat → Nat) (bad clamp : Bool) : Tile :=
  { tileFill t (rect 0 rows 0 cols) (fun _ _ => false) value with poison := t.poison || bad, clamp := t.clamp || clamp }

theorem tileGet_filledTile {t : Tile} {rows cols : Nat} (hc : cols ≤ 128) {value : Nat → Nat → Nat} {bad clamp : Bool} {x y : Nat}
    (hy : y < 128) : tileGet (filledTile t rows cols value bad clamp) x y =
      if x < rows ∧ y < cols then value x y % 2 ^ 32 else tileGet t x y := by
  have hps : ∀ p ∈ rect 0 rows 0 cols, p.2 < 128 := fun p hp => by
    have := (mem_rect.mp hp).2.2
    omega
  rw [← if_congr (show (x, y) ∈ rect 0 rows 0 cols ∧ false = false ↔ x < rows ∧ y < cols by simp [mem_rect]) rfl rfl]
  exact tileGet_tileFill hps hy t _ value x

theorem filledTile_window (t : Tile) (rows cols : Nat) (value : Nat → Nat → Nat) (bad clamp : Bool) :
    (filledTile t rows cols value bad clamp).rows = t.rows ∧ (filledTile t rows cols value bad clamp).cols = t.cols := by
  rw [filledTile, tileFill_eq]
  exact ⟨rfl, rfl⟩

/-- An update fills the window of its tile: with the group's accumulation, where no failed parity reaches it (R69). -/
theorem groupUpdate_eq {s : State} (hr : s.refused = []) (k seq : Nat) (tile : TileIx) (p : Prec) (d : Side × Side) (rows cols : Nat)
    (final zero : Bool) (ma mb : Memory) (ba bb : List Nat) :
    let t := tileOf s (coreIx k) tile
    let bad := isPoisoned d.1 final ba || isPoisoned d.2 final bb
    let element := kgroupElement t p d final zero ma mb
    ∃ value clamp, (bad = false → value = fun x y => (element x y).1) ∧
      (∀ x y, x < rows → y < cols → (element x y).2 = true → clamp = true) ∧
      groupUpdate s k seq tile p d rows cols final zero ma mb ba bb =
        nextFresh (modTile s (coreIx k) tile (fun _ => filledTile t rows cols value bad clamp)) 16384 := by
  intro t bad element
  refine ⟨fun r c => if bad then (Config.freeElement (s.fresh + 128 * r + c)).toNat else (element r c).1,
    sideClamps d.1 ma final rows || sideClamps d.2 mb final cols || (rect 0 rows 0 cols).any (fun e => (element e.1 e.2).2),
    fun hbad => ?_, fun x y hx hy he => ?_, ?_⟩
  · simp only [hbad, Bool.false_eq_true, if_false]
  · have hmem : (x, y) ∈ rect 0 rows 0 cols := mem_rect.mpr ⟨⟨Nat.zero_le _, hx⟩, Nat.zero_le _, hy⟩
    rw [Bool.or_eq_true, List.any_eq_true]
    exact .inr ⟨_, hmem, he⟩
  · simp only [groupUpdate, tileRefused_of_nil hr, Bool.not_false, List.filter_true]
    rfl

/-- The update of a k-group as it performs (R254). -/
theorem performFlight_mmaUpdate {s : State} {f : Flight} {r : MmaRun} {j : Nat} {ma mb : Memory} {ba bb : List Nat}
    (hf : f.act = .mmaUpdate r j ma mb ba bb) (k : Nat) : performFlight s k f =
      groupUpdate s k f.seq r.tile (precOf r.prec) (runSides r) r.rows r.cols (j + 1 == r.nk) (r.zero && j == 0) ma mb ba bb := by
  simp only [performFlight, hf, performMmaUpdate]

/-! ### Accumulation (R66, R67) -/

theorem intValue_i32 (x : Nat) : intValue x .i32 = (BitVec.ofNat 32 x).toInt := by
  rw [← toInt_eq_signedReading (n := 31), BitVec.toNat_ofNat]
  rfl

theorem satInt_eq (x lo hi : Int) (h : lo ≤ hi) : satInt x lo hi = max lo (min hi x) := by
  unfold satInt
  split
  · omega
  · split <;> omega

section
variable {p : Prec} (a b : Side) (ma mb : Memory) (final : Bool) (r c old : Nat)

theorem accumulate_float (h : p.accf = 0) : accumulate p a b ma mb final r c old =
    ((addRound (decodeFloat old .f32) (decodeFloat (groupResult a b ma mb final r c) .f32) .f32 0).1, false) := if_pos h

theorem accumulate_wraps (h : p.accf = 1) : accumulate p a b ma mb final r c old =
    ((BitVec.ofInt 32 ((BitVec.ofNat 32 old).toInt + groupInt a b ma mb final r c)).toNat, false) := by
  simp only [accumulate, h, intValue_i32, wrapInt, BitVec.toNat_ofInt]
  rfl

theorem accumulate_saturates (h : p.accf = 2) : let x := (BitVec.ofNat 32 old).toInt + groupInt a b ma mb final r c
    accumulate p a b ma mb final r c old = ((BitVec.ofInt 32 (max (-2 ^ 31) (min (2 ^ 31 - 1) x))).toNat,
      decide (x < -2 ^ 31 ∨ 2 ^ 31 ≤ x)) := by
  intro x
  have hover : ∀ y : Int, 2 ^ 31 - 1 < y ↔ 2 ^ 31 ≤ y := fun y => by omega
  have hsat : ∀ y : Int, satInt y (-(2 ^ 31)) (2 ^ 31 - 1) = max (-2 ^ 31) (min (2 ^ 31 - 1) y) := fun y => satInt_eq y _ _ (by decide)
  simp only [accumulate, h, intValue_i32, wrapInt, BitVec.toNat_ofInt, hsat, hover]
  rfl

end

/-! ### The integer sum of a k-group (R62, R63, R67) -/

/-- An element of an integer operand as the array multiplies it: less its zero point, and 0 where it is absent. -/
def intElement (d : Side) (m : Memory) (final : Bool) (r k : Nat) : Int :=
  if isPresent d final r k then intValue (opElement d m r k) d.fmt - opZero d m r (k / 32) else 0

/-- An integer sub-block in planes: sign and magnitude of each element (R62). -/
theorem planeForm_els {d : Side} (h : d.fmt.isFloat = false) (m : Memory) (final : Bool) (r b : Nat) :
    (planeForm d m final r b).els = (List.range 32).map (fun i =>
      (decide (intElement d m final r (b * 32 + i) < 0), (intElement d m final r (b * 32 + i)).natAbs)) := by
  simp only [planeForm, h, Bool.not_false, if_true, List.map_map]
  refine List.map_congr_left fun i _ => ?_
  cases hp : isPresent d final r (b * 32 + i) <;> simp [intElement, opValue, h, Num.ofInt, hp]

/-- The product of two signed magnitudes is the product of the numbers. -/
theorem signedMant_mul (x y : Int) : signedMant (decide (x < 0) != decide (y < 0)) (x.natAbs * y.natAbs) = x * y := by
  rcases lt_or_ge x 0 with hx | hx <;> rcases lt_or_ge y 0 with hy | hy <;>
    simp [signedMant, hx, hy, abs_of_neg, abs_of_nonneg, not_lt.mpr]

/-- T_b of integer operands (R63). -/
theorem subSum_int {a b : Side} (ha : a.fmt.isFloat = false) (hb : b.fmt.isFloat = false) (ma mb : Memory) (final : Bool) (r c n : Nat) :
    subSum (planeForm a ma final r n) (planeForm b mb final c n) =
      ((List.range 32).map (fun i => intElement a ma final r (n * 32 + i) * intElement b mb final c (n * 32 + i))).sum := by
  rw [subSum, planeForm_els ha, planeForm_els hb, List.zip_map', List.map_map, ← List.sum_eq_foldl]
  simp only [Function.comp_def, signedMant_mul]

/-- A sum over blocks of `w` is a sum over all. -/
theorem sum_range_blocks (f : Nat → Int) (w n : Nat) :
    ((List.range n).map (fun b => ((List.range w).map (fun i => f (b * w + i))).sum)).sum = ((List.range (n * w)).map f).sum := by
  induction n with
  | zero => simp
  | succ n ih =>
    rw [List.range_succ, List.map_append, List.sum_append, ih, Nat.succ_mul, List.range_add, List.map_append, List.sum_append,
      List.map_map]
    simp [Function.comp_def]

/-- G of integer operands is the sum of the products of the present elements (R67). -/
theorem groupInt_eq {a b : Side} (ha : a.fmt.isFloat = false) (hb : b.fmt.isFloat = false) (ma mb : Memory) (final : Bool) (r c : Nat) :
    groupInt a b ma mb final r c = ((List.range 256).map (fun k => if isPresent a final r k && isPresent b final c k then
      (intValue (opElement a ma r k) a.fmt - opZero a ma r (k / 32)) * (intValue (opElement b mb c k) b.fmt - opZero b mb c (k / 32))
      else 0)).sum := by
  simp only [groupInt, subSum_int ha hb, ← List.sum_eq_foldl]
  rw [sum_range_blocks (fun k => intElement a ma final r k * intElement b mb final c k)]
  refine congrArg List.sum (List.map_congr_left fun k _ => ?_)
  cases hp : isPresent a final r k <;> cases hq : isPresent b final c k <;> simp [intElement, hp, hq]

/-! ### NaN operands (R64) -/

/-- One NaN among the operands makes the group's result NaN. -/
theorem specialResult_nan {as bs : List (Option Num)} (h : (∃ v ∈ as, v.any Num.isNaN = true) ∨ ∃ v ∈ bs, v.any Num.isNaN = true) :
    specialResult as bs = some (.nan false) := by
  simp only [specialResult]
  rw [if_pos]
  simpa only [Bool.or_eq_true, List.any_eq_true] using h

theorem groupResult_nan {a b : Side} {ma mb : Memory} {final : Bool} {r c k : Nat} (hk : k < 256)
    (h : (fullValue a ma final r k).any Num.isNaN = true ∨ (fullValue b mb final c k).any Num.isNaN = true) :
    groupResult a b ma mb final r c = canonNaN .f32 := by
  have hk' := List.mem_range.mpr hk
  have hs : specialResult ((List.range 256).map (fullValue a ma final r)) ((List.range 256).map (fullValue b mb final c)) =
      some (.nan false) := specialResult_nan (h.imp (fun h => ⟨_, List.mem_map_of_mem hk', h⟩) (fun h => ⟨_, List.mem_map_of_mem hk', h⟩))
  simp only [groupResult, hs]

/-- Settles O46: the commands by their checks, the update by what it fills in its tile, the sums by their elements. -/
theorem matrixCommands : Obligations.MatrixCommands := by
  unfold Obligations.MatrixCommands
  refine ⟨fun s t ga gb at_ nk hs ht h => exec_mma hs ht h, fun s d ga gb hs => exec_mmag_none hs d ga gb,
    fun s d ga gb g hs hg => exec_mmag hs hg, fun s q ga gb hs ha hb => exec_mmas hs ha hb q,
    fun s k j f r ma mb ba bb hf hr hrows hcols => ?_, fun p a b ma mb final r c old => ?_⟩
  · intro t d final old new sum
    obtain ⟨value, clamp, hvalue, hclamp, heq⟩ := groupUpdate_eq hr k f.seq r.tile (precOf r.prec) (runSides r) r.rows r.cols
      (j + 1 == r.nk) (r.zero && j == 0) ma mb ba bb
    have ht : t = nextFresh (modTile s (coreIx k) r.tile (fun _ =>
        filledTile old r.rows r.cols value (isPoisoned d.1 final ba || isPoisoned d.2 final bb) clamp)) 16384 :=
      (performFlight_mmaUpdate hf k).trans heq
    have hnew : new = filledTile old r.rows r.cols value (isPoisoned d.1 final ba || isPoisoned d.2 final bb) clamp := by
      simp [new, ht]
    refine ⟨ht ▸ (tileOnly_modTile (filledTile_window ..)).nextFresh _, fun x y _ hy hout => ?_, fun h1 h2 => ?_, fun hbad => ?_⟩
    · rw [hnew, tileGet_filledTile hcols hy, if_neg hout]
    · subst h1 h2
      refine ⟨by simp [hnew, filledTile, isPoisoned_nil], fun x y hx hy => ⟨?_, fun hs => ?_⟩⟩
      · rw [hnew, tileGet_filledTile hcols (by omega), if_pos ⟨hx, hy⟩, hvalue rfl]
        rfl
      · rw [hnew, filledTile, hclamp x y hx hy hs, Bool.or_true]
    · rw [hnew, filledTile, hbad, Bool.or_true]
  · exact ⟨accumulate_wraps a b ma mb final r c old, accumulate_saturates a b ma mb final r c old,
      accumulate_float a b ma mb final r c old, fun ha hb => groupInt_eq ha hb ma mb final r c,
      fun ⟨_, hk, h⟩ => groupResult_nan hk h⟩

end Sys2Proof.Machine
end

section
/-! PROOFS. Accesses of DM at issue and as they perform (R72, R78, R99, R101, R205–R210). -/

namespace Sys2Proof.Machine

section
variable {s : State}

/-! ### The checks of a DM access (R30, R205) -/

section
variable {addr n : Nat} {write : Bool} {f : State → Issue}

theorem checkPending_ok {b : Buf} {off len : Nat} (h : noPending s b off len = true) (write : Bool) (agent : Nat) :
    checkPending s b off len write agent = .ok s := by
  simp only [noPending, Option.isNone_iff_eq_none] at h
  simp [checkPending, h]

theorem dmAccess_ok (h : dmOk s addr n = true) : dmAccess s addr n write f = f s := by
  simp only [dmOk, Bool.and_eq_true, beq_iff_eq] at h
  obtain ⟨⟨ha, hp⟩, hn⟩ := h
  simp [dmAccess, checkPending_ok hn, ha, hp]

/-- A pending line comes before the access fault of its address (R187). -/
theorem dmAccess_pending {l : Nat} (h : firstPending s s.cur .dm addr n = some l) :
    dmAccess s addr n write f = .trap 0x08 (some (bufVal l 3 write 8 8)) := by
  rw [dmAccess, checkPending, h]
  exact trap_unless_of_lt (by decide) ..

theorem dmAccess_misplaced (hn : noPending s .dm addr n = true) (hf : ∃ t, f s = .ok t)
    (h : addr % n ≠ 0 ∨ (here s).size .dm < addr + n) : dmAccess s addr n write f = .trap 0x16 none := by
  have hbad : (addr % n != 0 || !inPartition (here s) .dm addr n) = true := by
    simpa [inPartition] using h
  obtain ⟨t, hf⟩ := hf
  rw [dmAccess, checkPending_ok hn, andThen_ok, hf, hbad, ok_unless_true]

/-- So does a write collision. -/
theorem dmAccess_collides (hn : noPending s .dm addr n = true) {v : Option W64} (hf : f s = .trap 0x0A v) :
    dmAccess s addr n write f = .trap 0x0A v := by
  rw [dmAccess, checkPending_ok hn, andThen_ok, hf]
  exact trap_unless_of_lt (by decide) ..

end

/-- A result to a scalar register that meets another raises the write collision, with the register as TVAL (R102). -/
theorem flyTo_scalar_collides {d : SReg} {reg : Nat} (h : noCollision s reg (.s d 0) = false) (lat : Nat) (act : Act) :
    flyTo s (regDest (.s d 0)) lat reg act = .trap 0x0A (some (BitVec.ofNat 64 d.val)) := by
  by_cases hd : d = 0
  · subst hd
    exact absurd h (by simp [noCollision, regDest])
  · have hdest : regDest (.s d 0) = some (0, d.val) := if_neg hd
    have hc : (here s).collides 0 d.val ((here s).ttc + reg) = true := by
      rw [noCollision, hdest] at h
      simpa using h
    have hv : collisionVal 0 d.val = BitVec.ofNat 64 d.val := by
      have := d.isLt
      rw [collisionVal, Nat.mod_eq_of_lt (by omega)]
      simp
    rw [hdest, flyTo_collides hc, hv]

theorem flyTo_scalar_ok {d : SReg} {reg : Nat} (h : noCollision s reg (.s d 0) = true) (lat : Nat) (act : Act) :
    flyTo s (regDest (.s d 0)) lat reg act = .ok (flown s lat act (landingOf s reg (.s d 0))) := flyTo_ok h

/-! ### Loads, stores and atomics of DM at issue (R206, R209, R210) -/

theorem exec_ld (h : slotFree s = true) (d a b : SReg) (sx : Bool) (sz : Sz) :
    let addr := ((here s).readS a + (here s).readS b).toNat
    exec (.ld d a b sx sz) s = finish s (dmAccess s addr (sizeOf' sz) false fun s =>
      flyTo s (regDest (.s d 0)) 1 3 (.dmRead d addr (sizeOf' sz) sx)) :=
  congrArg (finish s) (withSlot_free h _)

theorem exec_st (h : slotFree s = true) (d a b : SReg) (sz : Sz) :
    let addr := ((here s).readS a + (here s).readS b).toNat
    exec (.st d a b sz) s = finish s (dmAccess s addr (sizeOf' sz) true fun s =>
      .ok (fly s 1 (.dmWrite addr (bytesOfNat (sizeOf' sz) ((here s).readS d).toNat)))) :=
  congrArg (finish s) (withSlot_free h _)

/-- Every DM atomic of R209 is an `amoDm` of its operands. -/
theorem exec_of_amoDmOf {i : Instr} {op : AmoOp} {d a b : SReg} {sx : Bool} {sz : Sz}
    (hi : amoDmOf i = some (op, d, a, b, sx, sz)) (h : slotFree s = true) : let addr := ((here s).readS a).toNat
    exec i s = finish s (dmAccess s addr (sizeOf' sz) true fun s =>
      flyTo s (regDest (.s d 0)) 1 3 (.dmAtomic d op addr (sizeOf' sz) sx ((here s).readS b) ((here s).readS d))) := by
  have hexec : exec i s = amoDm op d a b sx sz s := by
    unfold amoDmOf at hi
    split at hi
    case h_11 => cases hi
    all_goals
      simp only [Option.some.injEq, Prod.mk.injEq] at hi
      obtain ⟨rfl, rfl, rfl, rfl, rfl, rfl⟩ := hi
      rfl
  rw [hexec]
  exact congrArg (finish s) (withSlot_free h _)

end

/-- Settles O28: the accesses by `dmAccess` where nothing is wrong, their faults by its checks, of which the lowest code wins. -/
theorem dmAccesses : Obligations.DmAccesses := by
  unfold Obligations.DmAccesses
  refine ⟨⟨?_, ?_, ?_⟩, ?_, ?_⟩
  · intro s d a b sx sz addr h hok hc
    rw [exec_ld h, dmAccess_ok hok, flyTo_scalar_ok hc, finish_ok]
  · intro s d a b sz addr h hok
    rw [exec_st h, dmAccess_ok hok, finish_ok, fly_eq]
  · intro s i op d a b sx sz hi h hok hc
    rw [exec_of_amoDmOf hi h, dmAccess_ok hok, flyTo_scalar_ok hc, finish_ok]
  · intro s d a b sx sz h addr n
    refine ⟨fun hn hc hbad => ⟨?_, ?_⟩, fun l hl => ⟨?_, ?_⟩, fun hn hc => ?_⟩
    · rw [exec_ld h, dmAccess_misplaced hn ⟨_, flyTo_scalar_ok hc ..⟩ hbad, finish_trap]
    · rw [exec_st h, dmAccess_misplaced hn ?_ hbad, finish_trap]
      exact ⟨_, rfl⟩
    · rw [exec_ld h, dmAccess_pending hl, finish_trap]
    · rw [exec_st h, dmAccess_pending hl, finish_trap]
    · rw [exec_ld h, dmAccess_collides hn (flyTo_scalar_collides hc ..), finish_trap]
  · intro s i op d a b sx sz hi h addr n
    refine ⟨fun hn hc hbad => ?_, fun l hl => ?_, fun hn hc => ?_⟩
    · rw [exec_of_amoDmOf hi h, dmAccess_misplaced hn ⟨_, flyTo_scalar_ok hc ..⟩ hbad, finish_trap]
    · rw [exec_of_amoDmOf hi h, dmAccess_pending hl, finish_trap]
    · rw [exec_of_amoDmOf hi h, dmAccess_collides hn (flyTo_scalar_collides hc ..), finish_trap]

/-! ### Buffers as they are read and written (R72, R99) -/

/-- A write into a partition changes its bytes and nothing else of the machine that a program sees. -/
theorem bufferWritten_bufWrite (s : State) (k : Nat) (b : Buf) (off len : Nat) {sl : Memory} (bad : List Nat) (h : Memory.wf sl) :
    BufferWritten s (bufWrite s k b off len sl bad) k b off len (memRead sl) where
  bytes i hi := by
    rw [memRead_bufWrite s k b off len bad h, if_pos ⟨rfl, rfl, by omega, by omega⟩, Nat.add_sub_cancel_left]
  rest n q a hout := by rw [memRead_bufWrite s k b off len bad h, if_neg hout]
  mem := rfl
  tiles n := by
    rw [bufWrite, coreOf_modCore]
    split
    · next hn => subst hn; cases b <;> exact ⟨rfl, rfl⟩
    · exact ⟨rfl, rfl⟩
  regs j := SameRegisters.refl _

/-- Of the cells written from the last of a list to its first, the first of an address stays. -/
theorem memRead_foldl_reverse {α : Type} (l : List α) (at_ : α → Nat) (byte : α → Byte) (m : Memory) (i : Nat) :
    memRead (l.reverse.foldl (fun m w => memWrite m (at_ w) (byte w)) m) i =
      ((l.find? (fun w => at_ w == i)).map byte).getD (memRead m i) := by
  induction l with
  | nil => rfl
  | cons w r ih =>
    rw [List.reverse_cons, List.foldl_append, List.foldl_cons, List.foldl_nil, memRead_memWrite, ih, List.find?_cons]
    by_cases hw : i = at_ w
    · simp [hw]
    · simp [hw, beq_false_of_ne (Ne.symm hw)]

/-- What a read of a partition finds: each byte as it stood before the first write to it in this cycle (R99). -/
theorem memRead_bufPrior (s : State) (k : Nat) (b : Buf) (off : Nat) {len i : Nat} (hi : i < len) :
    let lo := (ctxOf s k).base b + off
    memRead (bufPrior s k b off len) i =
      (((coreOf s (coreIx k)).written.find? (fun w => w.1 == bufCode b && w.2.1 == lo + i)).map (fun w => w.2.2)).getD
        (memRead ((coreOf s (coreIx k)).bufMem b) (lo + i)) := by
  intro lo
  rw [bufPrior, List.filter_reverse, memRead_foldl_reverse, List.find?_filter, bufSlice, memRead_memSlice, if_pos hi]
  congr 3
  funext w
  rw [Bool.eq_iff_iff]
  simp only [Bool.and_eq_true, beq_iff_eq, decide_eq_true_eq, lo]
  constructor
  · rintro ⟨⟨hb, hlo, -⟩, ha⟩
    exact ⟨hb, by omega⟩
  · rintro ⟨hb, ha⟩
    exact ⟨⟨hb, by omega, by omega⟩, by omega⟩

/-! ### DM accesses perform (R78, R101, R206, R209) -/

section
variable {s : State} {k addr n : Nat} {f : Flight}

theorem performFlight_dmWrite {bytes : List Byte} (hf : f.act = .dmWrite addr bytes) (hr : lsRefused s k = false)
    (hx : s.refused.contains (.flight k f.seq) = false) :
    performFlight s k f = bufWrite s k .dm addr bytes.length (memWriteList [] 0 bytes) [] := by
  simp only [performFlight, hf, performDmWrite, hr, hx, Bool.or_self, Bool.false_eq_true, if_false]

theorem lsLoad_clean (hb : badBytes s k .dm addr n = []) (hr : lsRefused s k = false) :
    lsLoad s k addr n = (s, bufPrior s k .dm addr n) := by
  simp [lsLoad, hb, hr]

theorem performFlight_dmRead {d : SReg} {sx : Bool} (hf : f.act = .dmRead d addr n sx) (hb : badBytes s k .dm addr n = [])
    (hr : lsRefused s k = false) : performFlight s k f =
      again s k f (f.due + 2) (.result (.s d (extend sx n (memReadNat (bufPrior s k .dm addr n) 0 n))) 0 none) := by
  simp [performFlight, hf, performDmRead, lsLoad_clean hb hr, hb, loadResult]

theorem performFlight_dmAtomic {d : SReg} {op : AmoOp} {sx : Bool} {v c : W64} {x : Nat}
    (hf : f.act = .dmAtomic d op addr n sx v c) (hb : badBytes s k .dm addr n = []) (hr : lsRefused s k = false) :
    let old := memReadNat (bufPrior s k .dm addr n) 0 n
    amoNew op n old (v.toNat % 2 ^ (8 * n)) (c.toNat % 2 ^ (8 * n)) = some x →
    performFlight s k f = again (again s k f (f.due + 2) (.result (.s d (extend sx n old)) 0 none)) k { f with res := [] } f.due
      (.dmWrite addr (bytesOfNat n x)) := by
  intro old hx
  simp [performFlight, hf, performDmAtomic, lsLoad_clean hb hr, hb, loadResult, old, hx]

theorem causes_writeReg_s (c : Ctx) (d : SReg) (x : W64) : (c.writeReg (.s d x)).causes = c.causes := by
  unfold Ctx.writeReg
  dsimp only
  split <;> rfl

/-- A load of bytes of failed parity posts data poison (R78). -/
theorem performFlight_dmRead_poisoned {d : SReg} {sx : Bool} (hf : f.act = .dmRead d addr n sx)
    (hb : badBytes s k .dm addr n ≠ []) :
    (ctxOf (performFlight s k f) k).causes = (ctxOf s k).causes ++ [(0x0F, Config.freeWord s.fresh)] := by
  simp [performFlight, hf, performDmRead, lsLoad, hb, loadResult, causes_writeReg_s, postFree, postCause]

end

/-- Settles O33: a store is one write of its partition; the others by `lsLoad`, whose read is `memRead_bufPrior`. -/
theorem dmPerforms : Obligations.DmPerforms := by
  unfold Obligations.DmPerforms
  refine ⟨?_, ⟨?_, ?_, ?_⟩, ?_⟩
  · intro s k addr f bytes hf hr hx t lo
    have ht : t = bufWrite s k .dm addr bytes.length (memWriteList [] 0 bytes) [] := performFlight_dmWrite hf hr hx
    have hw := bufferWritten_bufWrite s k .dm addr bytes.length [] (wf_memWriteList wf_nil 0 bytes)
    rw [ht]
    refine ⟨fun i hi => ?_, hw.rest, hw.mem, rfl, hw.tiles⟩
    exact (hw.bytes i hi).trans (by simp [memRead_memWriteList, hi])
  · intro s k addr n f d sx hf hb hr
    exact performFlight_dmRead hf hb hr
  · intro s k addr n x f d op sx v c hf hb hr old hx
    exact performFlight_dmAtomic hf hb hr hx
  · intro s k addr n f d sx hf hb
    exact ⟨_, performFlight_dmRead_poisoned hf hb⟩
  · intro s k off len i b hi
    exact memRead_bufPrior s k b off hi

/-! ### Vector memory operations at issue (R71, R241–R243) -/

section
variable {s : State}

/-- What a vector memory operation comes to: the checks of `vmAccess` on its cells. -/
theorem exec_of_vecAccessOf {i : Instr} {m : VecAccess} (hi : vecAccessOf (here s) i = some m) (h : slotFree s = true) :
    exec i s = finish s (vmAccess s m.d m.buf m.write m.aligned m.cells) := by
  unfold vecAccessOf at hi
  split at hi
  case h_8 => cases hi
  all_goals
    obtain rfl := Option.some.inj hi
    exact congrArg (finish s) (withSlot_free h _)

/-- A vector access that its checks accept is what its direction makes of it. -/
theorem vmAccess_eq {d : VReg} {b : Buf} {write aligned : Bool} {cells : List (Nat × Nat)} (ha : vmAllowed b write = true)
    (hc : cells = [] ∨ aligned = true) (hp : cells.all (fun x => inPartition (here s) b x.2 1) = true)
    (hn : cellsPending s b cells = none) : vmAccess s d b write aligned cells =
      if write then .ok (flown s 2 (.vmWrite b (cells.map (fun x => (x.2, byteOf ((here s).readV d) x.1)))) [])
      else flyTo s (some (1, d.val)) 2 4 (.vmRead d b cells) := by
  have hplace : (cells != [] && !aligned) = false := by
    rcases hc with rfl | rfl
    · rfl
    · simp
  simp only [vmAccess, hn, ha, hplace, hp]
  rfl

end

/-- Settles O42: every form is `vmAccess` of its cells. -/
theorem vectorAccesses : Obligations.VectorAccesses := by
  intro s i m hi h ha hal hp hn
  rw [exec_of_vecAccessOf hi h, vmAccess_eq ha hal hp hn]
  refine ⟨fun hw hc => ?_, fun hw => ?_⟩
  · rw [hw, if_neg Bool.false_ne_true]
    exact congrArg (finish s) (flyTo_ok (d := some (1, m.d.val)) hc)
  · rw [hw, if_pos rfl, finish_ok]

end Sys2Proof.Machine
end

section
/-! PROOFS. Writes of memory and of buffers, run by run (R87, R94, R176, R270, R278). -/

namespace Sys2Proof.Machine

/-! ### What a write of memory leaves alone -/

theorem SameFabric.refl (s : State) : SameFabric s s := ⟨rfl, rfl, rfl⟩

/-- `t` is `s` but for memory and for what is noted of its writes: a program's registers, the cores, the fabric and what a home
accepts stand as they did. -/
structure Beside (s t : State) : Prop where
  cores : t.cores = s.cores
  regs : ∀ j, SameRegisters (ctxOf s j) (ctxOf t j)
  fabric : SameFabric s t
  home : t.pkgId = s.pkgId ∧ t.domain = s.domain
  grants : ∀ n, (tenantOf t n).live = (tenantOf s n).live ∧ (tenantOf t n).regions = (tenantOf s n).regions ∧
    (tenantOf t n).durable = (tenantOf s n).durable

theorem Beside.refl (s : State) : Beside s s := ⟨rfl, fun _ => .refl _, .refl s, ⟨rfl, rfl⟩, fun _ => ⟨rfl, rfl, rfl⟩⟩

theorem Beside.trans {s t u : State} (h : Beside s t) (g : Beside t u) : Beside s u where
  cores := g.cores.trans h.cores
  regs j := (h.regs j).trans (g.regs j)
  fabric := h.fabric.trans g.fabric
  home := ⟨g.home.1.trans h.home.1, g.home.2.trans h.home.2⟩
  grants n := by
    obtain ⟨hl, hr, hd⟩ := h.grants n
    obtain ⟨gl, gr, gd⟩ := g.grants n
    exact ⟨gl.trans hl, gr.trans hr, gd.trans hd⟩

theorem Beside.of_parts {s t : State} (hcores : t.cores = s.cores) (hctxs : t.ctxs = s.ctxs) (hfabric : SameFabric s t)
    (hhome : t.pkgId = s.pkgId ∧ t.domain = s.domain) (htenants : t.tenants = s.tenants) : Beside s t where
  cores := hcores
  regs j := by rw [ctxOf, ctxOf, hctxs]; exact .refl _
  fabric := hfabric
  home := hhome
  grants n := by rw [tenantOf, tenantOf, htenants]; exact ⟨rfl, rfl, rfl⟩

theorem Beside.coreOf {s t : State} (h : Beside s t) (n : Nat) : coreOf t n = coreOf s n := by
  rw [Machine.coreOf, Machine.coreOf, h.cores]

theorem Beside.homeAccepts {s t : State} (h : Beside s t) (src tenant a n : Nat) :
    homeAccepts t src tenant a n = homeAccepts s src tenant a n := by
  have hgrants : ∀ x, inGrants t x a n = inGrants s x a n := fun x => by
    obtain ⟨hl, hr, hd⟩ := h.grants x
    simp only [inGrants, hl, hr, hd]
  simp only [Machine.homeAccepts, mappedTenant, h.home.2, hgrants]

theorem beside_modNode (s : State) (t n : Nat) (f : Node → Node) : Beside s (modNode s t n f) where
  cores := rfl
  regs _ := .refl _
  fabric := ⟨rfl, rfl, rfl⟩
  home := ⟨rfl, rfl⟩
  grants m := by
    rw [modNode, tenantOf_modTenant]
    split
    · next hm => subst hm; exact ⟨rfl, rfl, rfl⟩
    · exact ⟨rfl, rfl, rfl⟩

theorem beside_nextFresh (s : State) (n : Nat) : Beside s (nextFresh s n) := .of_parts rfl rfl ⟨rfl, rfl, rfl⟩ ⟨rfl, rfl⟩ rfl

theorem beside_addMarks (s : State) (l : List Nat) : Beside s (addMarks s l) := .of_parts rfl rfl ⟨rfl, rfl, rfl⟩ ⟨rfl, rfl⟩ rfl

theorem beside_logWrite (s : State) (k seq v : Nat) (bytes : List Byte) : Beside s (logWrite s k seq v bytes) := by
  unfold logWrite
  split
  · split
    · exact beside_modNode ..
    · exact .refl s
  · exact .refl s

theorem logWrite_ctxs (s : State) (k seq v : Nat) (bytes : List Byte) : (logWrite s k seq v bytes).ctxs = s.ctxs := by
  unfold logWrite
  split
  · split <;> rfl
  · rfl

theorem beside_cachePage (s : State) (k v : Nat) : Beside s (cachePage s k v) := by
  unfold cachePage
  split
  · exact .refl s
  · split
    · exact .refl s
    · exact .of_parts rfl rfl ⟨rfl, rfl, rfl⟩ ⟨rfl, rfl⟩ rfl

theorem beside_noteTentative (s : State) (t n a : Nat) (bytes : List Byte) : Beside s (noteTentative s t n a bytes) := by
  unfold noteTentative
  split
  · exact .refl s
  · exact .refl s
  · exact (beside_nextFresh s 1).trans (beside_modNode ..)

theorem beside_openWrite (s : State) (by_ : Option Writer) (a : Nat) (bytes : List Byte) : Beside s (openWrite s by_ a bytes) :=
  .of_parts rfl rfl ⟨rfl, rfl, rfl⟩ ⟨rfl, rfl⟩ rfl

theorem beside_noteOwn (s : State) (w : Writer) (a len : Nat) : Beside s (noteOwn s w a len) :=
  .of_parts rfl rfl ⟨rfl, rfl, rfl⟩ ⟨rfl, rfl⟩ rfl

theorem beside_physWrite (s : State) (t n a : Nat) (bytes : List Byte) : Beside s (physWrite s t n a bytes) := by
  unfold physWrite
  dsimp only
  split
  · exact .of_parts rfl rfl ⟨rfl, rfl, rfl⟩ ⟨rfl, rfl⟩ rfl
  · exact ((beside_noteTentative s t n a bytes).trans (beside_openWrite _ none a bytes)).trans
      (.of_parts rfl rfl ⟨rfl, rfl, rfl⟩ ⟨rfl, rfl⟩ rfl)

/-- A context without what its waits compare. -/
def Ctx.unwatched (c : Ctx) : Ctx := { c with wait := none, heldWait := none }

theorem sameRegisters_of_unwatched {c d : Ctx} (h : c.unwatched = d.unwatched) : SameRegisters c d := by
  have hc : SameRegisters c c.unwatched := by constructor <;> simp [Ctx.unwatched]
  have hd : SameRegisters d.unwatched d := by constructor <;> simp [Ctx.unwatched]
  exact hc.trans (h ▸ hd)

/-- The monitors of a write change waits alone (R176). -/
theorem beside_noteWrite (s : State) (a n : Nat) : Beside s (noteWrite s a n) where
  cores := rfl
  regs j := sameRegisters_of_unwatched
    (get_map_congr s.ctxs (f := fun p => (p.1, p.2.monitor s a n p.1)) Ctx.unwatched (fun _ => rfl) (fun _ => rfl) j Ctx.reset).symm
  fabric := ⟨rfl, rfl, rfl⟩
  home := ⟨rfl, rfl⟩
  grants _ := ⟨rfl, rfl, rfl⟩

theorem noteWrite_mem (s : State) (a n : Nat) : (noteWrite s a n).mem = s.mem := rfl

theorem markPoison_mem (s : State) (a : Nat) (bad : Bool) : (markPoison s a bad).mem = s.mem := by cases bad <;> rfl

theorem beside_markPoison (s : State) (a : Nat) (bad : Bool) : Beside s (markPoison s a bad) := by
  cases bad
  · exact .refl s
  · exact beside_addMarks s _

/-! ### A write of a context where it is at home (R87, R94, R117, R207) -/

/-- `t` is `s` with some bytes of memory written. -/
structure WrittenTo (s t : State) (a : Nat) (bytes : List Byte) : Prop where
  mem : t.mem = memWriteList s.mem a bytes
  beside : Beside s t

/-- A write of HBM or of the durable tier, its mark, and the monitors of its lines. -/
theorem writtenTo_physWrite {s t : State} (hm : t.mem = s.mem) (hb : Beside s t) (tenant node a : Nat) (bytes : List Byte) :
    WrittenTo s (physWrite t tenant node a bytes) a bytes :=
  ⟨(physWrite_frame t tenant node a bytes).1.trans (by rw [hm]), hb.trans (beside_physWrite ..)⟩

theorem WrittenTo.noted {s t : State} {a : Nat} {bytes : List Byte} (h : WrittenTo s t a bytes) (b n : Nat) :
    WrittenTo s (noteWrite t b n) a bytes := ⟨h.mem, h.beside.trans (beside_noteWrite ..)⟩

theorem WrittenTo.addMarks {s t : State} {a : Nat} {bytes : List Byte} (h : WrittenTo s t a bytes) (l : List Nat) :
    WrittenTo s (addMarks t l) a bytes := ⟨h.mem, h.beside.trans (beside_addMarks ..)⟩

theorem WrittenTo.marked {s t : State} {a : Nat} {bytes : List Byte} (h : WrittenTo s t a bytes) (b : Nat) (bad : Bool) :
    WrittenTo s (markPoison t b bad) a bytes := ⟨(markPoison_mem ..).trans h.mem, h.beside.trans (beside_markPoison ..)⟩

section
variable {s : State} {k seq ix v : Nat} {p : Spot} {bytes : List Byte} {bad : Bool}

theorem storeAt_writes_plain (hp : p.kind = .plain) : WrittenTo s (storeAt s k seq ix v p bytes bad) p.paddr bytes := by
  simp only [storeAt, hp]
  refine ((writtenTo_physWrite ?_ ?_ _ _ _ _).marked _ _).noted _ _
  · exact (cachePage_frame ..).1.trans (logWrite_frame s k seq v bytes).1
  · exact (beside_logWrite ..).trans (beside_cachePage ..)

theorem storeAt_writes_dur (hp : p.kind = .dur) (ht : (ctxOf s k).task.any (fun t => t.twin) = false) :
    WrittenTo s (storeAt s k seq ix v p bytes bad) p.paddr bytes := by
  simp only [storeAt, hp, ht, Bool.false_eq_true, if_false]
  exact ((writtenTo_physWrite (logWrite_frame s k seq v bytes).1 (beside_logWrite ..) _ _ _ _).marked _ _).noted _ _

theorem applyWrite_writes {src tenant serial a : Nat} (h : homeAccepts s src tenant a bytes.length = true) :
    WrittenTo s (applyWrite s src tenant serial a bytes bad) a bytes := by
  have open_ : WrittenTo s (if serial = 0 then openWrite s none a bytes
      else noteOwn (openWrite s (some ⟨true, src, tenant, serial⟩) a bytes) ⟨true, src, tenant, serial⟩ a bytes.length) a bytes := by
    split
    · exact ⟨rfl, beside_openWrite ..⟩
    · exact ⟨rfl, (beside_openWrite ..).trans (beside_noteOwn ..)⟩
  rw [applyWrite, if_pos h]
  exact (open_.marked a bad).noted a _

/-- A fabric write to this very package is applied at once (R117). -/
theorem storeAt_writes_home {x : Task} (hp : p.kind = .rem) (hx : (ctxOf s k).task = some x) (ht : x.twin = false)
    (hs : x.spec = false) (hpkg : p.pkg = s.pkgId) (h : homeAccepts s s.pkgId x.tenant p.paddr bytes.length = true) :
    WrittenTo s (storeAt s k seq ix v p bytes bad) p.paddr bytes := by
  have hlog := beside_logWrite s k seq v bytes
  have htask : (ctxOf (logWrite s k seq v bytes) k).task = some x := by rw [ctxOf, logWrite_ctxs]; exact hx
  have hid : (logWrite s k seq v bytes).pkgId = s.pkgId := hlog.home.1
  have happly := applyWrite_writes (s := logWrite s k seq v bytes) (serial := x.serial) (bad := bad)
    ((hlog.homeAccepts ..).trans h)
  simp only [storeAt, hp, putRemote, htask, ht, hs, hpkg, hid, Bool.false_eq_true, if_false, if_true]
  exact ⟨happly.mem.trans (by rw [(logWrite_frame s k seq v bytes).1]), hlog.trans happly.beside⟩

end

/-! ### Runs of memory and of a partition -/

@[simp] theorem length_memReadList (m : Memory) (a n : Nat) : (memReadList m a n).length = n := by simp [memReadList]

theorem getD_memReadList (m : Memory) (a : Nat) {n i : Nat} (h : i < n) : (memReadList m a n).getD i 0 = memRead m (a + i) := by
  simp [memReadList, h]

@[simp] theorem length_physReadList (s : State) (tenant node a n : Nat) : (physReadList s tenant node a n).length = n := by
  simp [physReadList]

theorem getD_physReadList (s : State) (tenant node a : Nat) {n i : Nat} (h : i < n) :
    (physReadList s tenant node a n).getD i 0 = physRead s tenant node (a + i) := by
  simp [physReadList, h]

/-- A slice made of a list of bytes reads as the list. -/
theorem memRead_ofList {bytes : List Byte} {i : Nat} (h : i < bytes.length) : memRead (memWriteList [] 0 bytes) i = bytes.getD i 0 := by
  rw [memRead_memWriteList, if_pos (by omega), Nat.sub_zero]

theorem Beside.memoryWritten_nil {s t : State} (h : Beside s t) (hm : t.mem = s.mem) (a : Nat) (byte : Nat → Byte) :
    MemoryWritten s t a 0 byte where
  bytes x := by rw [hm, if_neg (by omega)]
  buf n b x := by rw [h.coreOf]
  tiles n := by rw [h.coreOf]; exact ⟨rfl, rfl⟩
  regs := h.regs

/-- A run goes on with the bytes behind it. -/
theorem MemoryWritten.append {s t u : State} {a len : Nat} {byte : Nat → Byte} {bytes : List Byte} (h : MemoryWritten s t a len byte)
    (hw : WrittenTo t u (a + len) bytes) (hb : ∀ i, i < bytes.length → bytes.getD i 0 = byte (len + i)) :
    MemoryWritten s u a (len + bytes.length) byte where
  bytes x := by
    rw [hw.mem, memRead_memWriteList, h.bytes]
    by_cases hx : a + len ≤ x ∧ x < a + len + bytes.length
    · rw [if_pos hx, if_pos (by omega), hb _ (by omega)]
      congr 1
      omega
    · rw [if_neg hx]
      exact if_congr (by omega) rfl rfl
  buf n b x := by rw [hw.beside.coreOf, h.buf]
  tiles n := by rw [hw.beside.coreOf]; exact h.tiles n
  regs j := (h.regs j).trans (hw.beside.regs j)

/-- Bytes written in one piece. -/
theorem WrittenTo.memoryWritten {s t : State} {a len : Nat} {bytes : List Byte} (h : WrittenTo s t a bytes) (hl : bytes.length = len)
    {byte : Nat → Byte} (hb : ∀ i, i < len → bytes.getD i 0 = byte i) : MemoryWritten s t a len byte := by
  have := ((Beside.refl s).memoryWritten_nil rfl a byte).append (u := t) h (by simpa [hl] using hb)
  rwa [Nat.zero_add, hl] at this

theorem BufferWritten.refl_nil (s : State) (k : Nat) (b : Buf) (off : Nat) (byte : Nat → Byte) : BufferWritten s s k b off 0 byte where
  bytes i hi := absurd hi (Nat.not_lt_zero i)
  rest _ _ _ _ := rfl
  mem := rfl
  tiles _ := ⟨rfl, rfl⟩
  regs _ := .refl _

theorem BufferWritten.congr {s t : State} {k : Nat} {b : Buf} {off len : Nat} {byte byte' : Nat → Byte}
    (h : BufferWritten s t k b off len byte) (hb : ∀ i, i < len → byte i = byte' i) : BufferWritten s t k b off len byte' :=
  ⟨fun i hi => (h.bytes i hi).trans (hb i hi), h.rest, h.mem, h.tiles, h.regs⟩

/-- A partition stands where it stood. -/
theorem SameRegisters.base {c d : Ctx} (h : SameRegisters c d) (b : Buf) : d.base b = c.base b := by
  obtain ⟨-, -, -, htask⟩ := h.place
  simp only [Ctx.base, htask]

/-- A partition written, and what keeps the stores and the registers before and after it. -/
theorem BufferWritten.between {s t u v : State} {k : Nat} {b : Buf} {off len : Nat} {byte : Nat → Byte}
    (h : BufferWritten t u k b off len byte) (hst : IssueKept s t) (hmem : t.mem = s.mem) (hcores : v.cores = u.cores)
    (hv : v.mem = u.mem) (hregs : ∀ j, SameRegisters (ctxOf u j) (ctxOf v j)) : BufferWritten s v k b off len byte := by
  have hbase := (hst.regs k).base b
  have hcore : ∀ n, coreOf v n = coreOf u n := fun n => by rw [coreOf, coreOf, hcores]
  refine ⟨fun i hi => ?_, fun n q a ha => ?_, hv.trans (h.mem.trans hmem), fun n => ?_,
    fun j => ((hst.regs j).trans (h.regs j)).trans (hregs j)⟩
  · rw [hcore, ← hbase]; exact h.bytes i hi
  · rw [hcore, ← hst.stores.buf]; exact h.rest n q a (by rwa [hbase])
  · rw [hcore, ← hst.stores.tiles, ← hst.stores.barriers]; exact h.tiles n

/-- A run of a partition goes on with the bytes behind it. -/
theorem BufferWritten.append {s t u : State} {k : Nat} {b : Buf} {off len m : Nat} {byte more : Nat → Byte}
    (h : BufferWritten s t k b off len byte) (g : BufferWritten t u k b (off + len) m more)
    (hb : ∀ i, i < m → more i = byte (len + i)) : BufferWritten s u k b off (len + m) byte := by
  have hbase := (h.regs k).base b
  refine ⟨fun i hi => ?_, fun n q a ha => ?_, g.mem.trans h.mem, fun n => ?_, fun j => (h.regs j).trans (g.regs j)⟩
  · by_cases hl : i < len
    · rw [g.rest _ _ _ (by rw [hbase]; omega)]
      exact h.bytes i hl
    · obtain ⟨j, rfl⟩ := Nat.exists_eq_add_of_le (Nat.not_lt.mp hl)
      rw [← hb j (by omega), ← g.bytes j (by omega), hbase]
      congr 1
      omega
  · rw [g.rest n q a fun ⟨hn, hq, hlo, hhi⟩ => ha ⟨hn, hq, by omega, by omega⟩,
      h.rest n q a fun ⟨hn, hq, hlo, hhi⟩ => ha ⟨hn, hq, hlo, by omega⟩]
  · exact ⟨(g.tiles n).1.trans (h.tiles n).1, (g.tiles n).2.trans (h.tiles n).2⟩

end Sys2Proof.Machine
end

section
/-! PROOFS. Copies, COPYM, FILL, XSEND and XRECV at issue and as they perform (R81, R109, R264–R275). -/

namespace Sys2Proof.Machine

/-! ### Copies at issue (R264–R272) -/

section
variable {s : State} {r : CopyRun}

/-- A copy that its checks accept is given. -/
theorem copyStart_ok (h : copyAccepted s r = true) : copyStart s r = .ok (copyGiven s r) := by
  simp only [copyAccepted, Bool.and_eq_true, Bool.not_eq_true', beq_iff_eq, Bool.or_eq_true] at h
  obtain ⟨⟨⟨⟨⟨⟨⟨hbusy, hmeet⟩, hlines⟩, hmap⟩, hout⟩, hoff⟩, haddr⟩, hpart⟩ := h
  have hmapBad : r.map.any (fun g => !mapOk g || decide (r.src.length ≠ r.lines) || decide (256 < r.lines)) = false := by
    cases hg : r.map with
    | none => rfl
    | some g =>
      rw [hg, Option.all_some, Bool.and_eq_true, Bool.and_eq_true, decide_eq_true_eq, decide_eq_true_eq] at hmap
      obtain ⟨⟨hok, hsrc⟩, hle⟩ := hmap
      simp [hok, hsrc, Nat.not_lt.mpr hle]
  have hplace : (r.place.off % 256 != 0) = false := by simp [hoff]
  have hline : (r.map.isNone && r.vaddr % 256 != 0) = false := by
    rcases haddr with hs | ha
    · cases hg : r.map with
      | none => simp [hg] at hs
      | some g => rfl
    · simp [ha]
  refine unless_ok.mpr ⟨unless_ok.mpr ⟨unless_ok.mpr ⟨rfl, ?_⟩, hlines⟩, ?_⟩
  · rw [hbusy, hmeet, Bool.or_self]
  · rw [hmapBad, hout, hplace, hline, hpart]
    rfl

theorem here_copyGiven (s : State) (r : CopyRun) : here (copyGiven s r) =
    (here s).addFlight ((here s).ttc + ((copyFirst r).2 - (here s).ttc)) (copyFirst r).1 [] := by
  rw [copyGiven, fly_eq, here_flown, here_reserve]

theorem copyFirst_act (r : CopyRun) :
    (copyFirst r).1 = .mapGather r 0 [] false ∨ (copyFirst r).1 = .copySource r 0 ∨ (copyFirst r).1 = .copySample r 0 := by
  unfold copyFirst
  split
  · exact .inl rfl
  · split
    · exact .inr (.inl rfl)
    · exact .inr (.inr rfl)

/-- The first flight of a copy is none of the matrix array's. -/
theorem arrayBusy_copyGiven (s : State) (r : CopyRun) (start len : Nat) :
    arrayBusy (copyGiven s r) start len = arrayBusy s start len := by
  rw [arrayBusy, here_copyGiven, Ctx.addFlight, List.any_append, List.any_cons, List.any_nil, arrayBusy]
  rcases copyFirst_act r with h | h | h <;> exact h ▸ Bool.or_false _

theorem arrayHeld_copyGiven (s : State) (r : CopyRun) : arrayHeld (copyGiven s r) = arrayHeld s := by
  have huntimed : ∀ k, (ctxOf (copyGiven s r) k).allUntimed = (ctxOf s k).allUntimed := fun k => by
    rw [copyGiven, fly_eq, flown, ctxOf_modHere]
    split
    · next hk => subst hk; rfl
    · rfl
  simp only [arrayHeld, huntimed]
  rfl

/-- What an MMA's checks look at is none of a copy's effects. -/
theorem mmaAccepted_copyGiven (s : State) (r : CopyRun) (t : TileIx) (ga gb : GReg) (nk start : Nat) :
    mmaAccepted (copyGiven s r) t ga gb nk start = mmaAccepted s t ga gb nk start := by
  have hcollides : ∀ a b c, (here (copyGiven s r)).collides a b c = (here s).collides a b c := fun a b c => by
    rw [here_copyGiven, collides_addFlight]
    simp
  simp only [mmaAccepted, arrayBusy_copyGiven, arrayHeld_copyGiven, hcollides]
  simp only [here_copyGiven]
  rfl

/-- The follow-on of a COPYM starts where an MMA would (R271). -/
theorem followStart_ok {w : W64} {t : State} (h : mmaAccepted t (Fin.ofNat 4 (fieldOf w.toNat 0 2)) (Fin.ofNat 16 (fieldOf w.toNat 4 4))
      (Fin.ofNat 16 (fieldOf w.toNat 8 4)) (fieldOf w.toNat 16 16) (copyLast r + 1) = true) :
    followStart t w r = .ok (mmaGiven t (Fin.ofNat 4 (fieldOf w.toNat 0 2)) (Fin.ofNat 16 (fieldOf w.toNat 4 4))
      (Fin.ofNat 16 (fieldOf w.toNat 8 4)) (fieldOf w.toNat 16 16) (copyLast r + 1) (w.getLsbD 2)) := mmaStart_ok h _ _

end

section
variable {s : State} {d a b : SReg} {e : Bool} {buf : Buf} {at_ n : BitVec 16}

theorem exec_copy_plain {out : Bool} (h : slotFree s = true) (ht : (here s).ttc ≤ at_.toNat) :
    let c := here s
    let r := copyRun s (if e then 1 else 0) buf out (c.readS b).toNat (c.readS a).toNat n.toNat at_.toNat none
    copyAccepted s r = true → exec (.copy d a b e buf out false at_ n) s = .next (copyGiven s r) := by
  intro c r hr
  show execCopy d a b e buf out false at_ n s = _
  rw [execCopy, withSlot_free h, timedAt_ok ht]
  exact congrArg (finish s) (copyStart_ok hr)

theorem exec_copy_mapped {out : Bool} (h : slotFree s = true) (ht : (here s).ttc ≤ at_.toNat) :
    let c := here s
    let g : GWord := BitVec.ofNat 512 (memReadNat (bufPrior s s.cur .dm (c.readS d).toNat 64) 0 64)
    let r := copyRun s (if e then 1 else 0) buf out (c.readS b).toNat (c.readS a).toNat n.toNat at_.toNat (some g)
    portReadable s (c.readS d).toNat 64 64 = true → mapFollow g = 0 → copyAccepted s r = true →
    exec (.copy d a b e buf out true at_ n) s = .next (copyGiven s r) := by
  intro c g r hport hfollow hr
  show execCopy d a b e buf out true at_ n s = _
  rw [execCopy, withSlot_free h, timedAt_ok ht]
  dsimp only
  rw [if_pos rfl, commandRead_ok hport]
  have hrest : (mapFollow g != 0) = false := by simp [hfollow]
  exact congrArg (finish s) (unless_ok.mpr ⟨copyStart_ok hr, hrest⟩)

theorem exec_copym {map : Bool} (h : slotFree s = true) (ht : (here s).ttc ≤ at_.toNat) :
    let c := here s
    let g : GWord := BitVec.ofNat 512 (memReadNat (bufPrior s s.cur .dm (c.readS d).toNat 64) 0 64)
    let r := copyRun s (if e then 1 else 0) buf false (c.readS b).toNat (c.readS a).toNat n.toNat at_.toNat
      (if map then some g else none)
    let w := mapFollow g
    let t : TileIx := Fin.ofNat 4 (fieldOf w.toNat 0 2)
    let ga : GReg := Fin.ofNat 16 (fieldOf w.toNat 4 4)
    let gb : GReg := Fin.ofNat 16 (fieldOf w.toNat 8 4)
    let nk := fieldOf w.toNat 16 16
    portReadable s (c.readS d).toNat 64 64 = true → copyAccepted s r = true → followOk w = true →
    mmaAccepted s t ga gb nk (copyLast r + 1) = true → exec (.copym d a b e buf map at_ n) s =
      .next (mmaGiven (copyGiven s r) t ga gb nk (copyLast r + 1) (w.getLsbD 2)) := by
  intro c g r w t ga gb nk hport hr hfollow hmma
  have hthen : followStart (copyGiven s r) w r = _ := followStart_ok ((mmaAccepted_copyGiven ..).trans hmma)
  show execCopym d a b e buf map at_ n s = _
  rw [execCopym, withSlot_free h, timedAt_ok ht]
  dsimp only
  rw [commandRead_ok hport, copyStart_ok hr, andThen_ok, hthen, followStart_ok hmma]
  show finish s (((Issue.ok _).unless false _ _).unless (!followOk w) _ _) = _
  rw [hfollow]
  rfl

theorem exec_fill (h : slotFree s = true) (ht : (here s).ttc ≤ at_.toNat) : let c := here s
    let off := (c.readS b).toNat
    let r : CopyRun := ⟨if e then 1 else 0, ⟨buf, off⟩, false, 0, n.toNat, at_.toNat, 1, 0, none, [], n.toNat, false⟩
    let act : Act := .fill r (c.readS a) 0
    off % 256 = 0 → inPartition c buf off (256 * n.toNat) = true → engineBusy s r.engine ⟨c.seq, at_.toNat, act, []⟩ = false →
    exec (.fill a b e buf at_ n) s = .next (flown (reserve s [span s at_.toNat (at_.toNat + n.toNat - 1) 24])
      (at_.toNat - c.ttc) act []) := by
  intro c off r act hoff hpart hbusy
  show execFill a b e buf at_ n s = _
  rw [execFill, withSlot_free h, timedAt_ok ht]
  have hplace : (off % 256 != 0 || !inPartition c buf off (256 * n.toNat)) = false := by simp [hoff, hpart]
  exact congrArg (finish s) (unless_ok.mpr ⟨unless_ok.mpr ⟨rfl, hbusy⟩, hplace⟩)

/-! ### XSEND and XRECV at issue (R109, R275) -/

theorem exec_xsend (h : slotFree s = true) (ht : (here s).ttc ≤ at_.toNat) : let c := here s
    let off := (c.readS b).toNat
    let k := peerKey (c.readS a)
    let x := sendDelay s.cur k
    off % 256 = 0 → inPartition c buf off (256 * n.toNat) = true → c.group.contains k = true → coreIx k ≠ coreIx s.cur →
    buf = .ab ∨ buf = .cb → exec (.xsend a b buf at_ n) s =
      .next (flown (reserve s [span s at_.toNat (at_.toNat + n.toNat - 1 + x) 16]) (at_.toNat - c.ttc)
        (.sendRead k ⟨buf, off⟩ n.toNat 0 x false) []) := by
  intro c off k x hoff hpart hgroup hcore hbuf
  show execXsend a b buf at_ n s = _
  rw [execXsend, withSlot_free h, timedAt_ok ht]
  have hbad : (!c.group.contains k || coreIx k == coreIx s.cur || !(buf == .ab || buf == .cb) || off % 256 != 0 ||
      !inPartition c buf off (256 * n.toNat)) = false := by
    rw [hgroup, beq_false_of_ne hcore, hoff, hpart]
    rcases hbuf with rfl | rfl <;> rfl
  exact congrArg (finish s) (unless_ok.mpr ⟨rfl, hbad⟩)

theorem exec_xrecv (h : slotFree s = true) (ht : (here s).ttc ≤ at_.toNat) : let c := here s
    let off := (c.readS b).toNat
    let k := peerKey (c.readS a)
    off % 256 = 0 → inPartition c buf off (256 * n.toNat) = true → (∃ j ∈ c.group, coreIx j = coreIx k) →
    coreIx k ≠ coreIx s.cur → buf ≠ .dm → recvBusy c at_.toNat n.toNat = false → exec (.xrecv a b buf at_ n) s =
      .next (flown s (at_.toNat + n.toNat - 1 - c.ttc) (.recv (coreIx k) ⟨buf, off⟩ n.toNat at_.toNat) []) := by
  intro c off k hoff hpart hgroup hcore hbuf hbusy
  show execXrecv a b buf at_ n s = _
  rw [execXrecv, withSlot_free h, timedAt_ok ht]
  have hany : c.group.any (fun j => coreIx j == coreIx k) = true := by simpa using hgroup
  have hbad : (!(c.group.any (fun j => coreIx j == coreIx k)) || coreIx k == coreIx s.cur || buf == .dm || off % 256 != 0 ||
      !inPartition c buf off (256 * n.toNat)) = false := by
    rw [hany, beq_false_of_ne hcore, beq_false_of_ne hbuf, hoff, hpart]
    rfl
  exact congrArg (finish s) (unless_ok.mpr ⟨unless_ok.mpr ⟨rfl, hbusy⟩, hbad⟩)

end

/-! ### Lines of streams and engines (R30, R73, R99, R104) -/

section
variable {s : State} {k : Nat} {f : Flight}

theorem streamRead_clean {b : Buf} {off : Nat} (hoff : off % 256 = 0) (hp : pendingLine s k b (off / 256) = false)
    (hl : landingAhead s k b (off / 256) = false) (agent : Nat) (missed : Bool) :
    streamRead s k agent b (off / 256) false missed = ⟨s, bufPrior s k b off 256, badBytes s k b off 256, false, missed⟩ := by
  have hline : off / 256 * 256 = off := by omega
  simp [streamRead, hp, hl, hline]

theorem bufferWritten_streamWrite {b : Buf} {off : Nat} (hp : pendingLine s k b (off / 256) = false) {data : Memory}
    (hd : Memory.wf data) (agent len : Nat) (bad : List Nat) :
    BufferWritten s (streamWrite s k agent b off len false data bad) k b off len (memRead data) := by
  rw [streamWrite, hp]
  exact bufferWritten_bufWrite s k b off len bad hd

theorem issueKept_again (s : State) (k : Nat) (f : Flight) (due : Nat) (act : Act) : IssueKept s (again s k f due act) := by
  unfold again
  exact issueKept_modCtx (by constructor <;> simp)

theorem BufferWritten.againIf {t : State} {q : Nat} {b : Buf} {off len : Nat} {byte : Nat → Byte}
    (h : BufferWritten s t q b off len byte) (more : Bool) (k due : Nat) (f : Flight) (act : Act) :
    BufferWritten s (againIf more t k f due act) q b off len byte := by
  cases more
  · exact h
  · exact h.between (.refl s) rfl rfl rfl (issueKept_again ..).regs

/-! ### Copies as they perform (R81, R270, R273) -/

section
variable {r : CopyRun} {j : Nat}

/-- A line of a copy is sampled as its node sees it, and lands later (R81). -/
theorem performFlight_copySample (hf : f.act = .copySample r j) {p : Spot} (hp : translate s k (copyAddr r j) = .hit p) :
    performFlight s k f = againIf (decide (j + 1 < r.lines)) (again (nextFresh (cachePage s k (copyAddr r j)) 256) k f (f.due + r.half)
        (.copyLand r j (memWriteList [] 0 (physReadList s (nodeIds (ctxOf s k)).1 (nodeIds (ctxOf s k)).2 p.paddr 256))
          (isMarked s p.paddr))) k f (f.due + r.stride) (.copySample r (j + 1)) := by
  simp only [performFlight, hf, performCopySample, sampleLine, hp]

theorem issueKept_cachePage (s : State) (k v : Nat) : IssueKept s (cachePage s k v) := by
  unfold cachePage
  split
  · exact .refl s
  · split
    · exact .refl s
    · refine issueKept_modCluster ?_
      split <;> exact ⟨rfl, rfl⟩

variable (hp : pendingLine s k r.place.buf ((r.place.off + 256 * j) / 256) = false)
include hp

theorem performFlight_copyLand {data : Memory} {bad : Bool} (hf : f.act = .copyLand r j data bad)
    (hr : copyRefused s k ⟨r.place.buf, r.place.off + 256 * j⟩ f.seq true = false) (hd : Memory.wf data) :
    BufferWritten s (performFlight s k f) k r.place.buf (r.place.off + 256 * j) 256 (memRead data) := by
  simp only [performFlight, hf, performCopyLand, hr]
  exact bufferWritten_streamWrite hp hd ..

theorem performFlight_fill {x : W64} (hf : f.act = .fill r x j)
    (hr : copyRefused s k ⟨r.place.buf, r.place.off + 256 * j⟩ f.seq true = false) :
    BufferWritten s (performFlight s k f) k r.place.buf (r.place.off + 256 * j) 256 (fun i => byteOf x (i % 8)) := by
  simp only [performFlight, hf, performFill, hr]
  refine ((bufferWritten_streamWrite hp (wf_memWriteList wf_nil 0 _) ..).againIf ..).congr fun i hi => ?_
  rw [memRead_ofList (by simpa using hi)]
  simp [hi]

theorem performFlight_mapLand {held : Memory} {bad : Bool} (hf : f.act = .mapLand r j held bad)
    (hr : copyRefused s k ⟨r.place.buf, r.place.off + 256 * j⟩ f.seq true = false) :
    let tile := mapTile (r.map.getD 0) r.vaddr r.src held
    Memory.wf tile → BufferWritten s (performFlight s k f) k r.place.buf (r.place.off + 256 * j) 256
      (fun i => memRead tile (256 * j + i)) := by
  intro tile ht
  simp only [performFlight, hf, performMapLand, hr]
  refine ((bufferWritten_streamWrite hp (wf_memSlice ht (256 * j) 256) ..).againIf ..).congr fun i hi => ?_
  rw [memRead_memSlice, if_pos hi]

/-- A line of an outward copy is read from its buffer (R270). -/
theorem performFlight_copySource (hf : f.act = .copySource r j) (hoff : r.place.off % 256 = 0)
    (hl : landingAhead s k r.place.buf ((r.place.off + 256 * j) / 256) = false)
    (hr : copyRefused s k ⟨r.place.buf, r.place.off + 256 * j⟩ f.seq false = false) : let off := r.place.off + 256 * j
    performFlight s k f = againIf (decide (j + 1 < r.lines)) (again s k f (f.due + r.stride - 1 + r.half)
        (.copyPerform r j (bufPrior s k r.place.buf off 256) (badBytes s k r.place.buf off 256 != [])))
      k f (f.due + r.stride) (.copySource r (j + 1)) := by
  have hline : (r.place.off + 256 * j) % 256 = 0 := by omega
  simp only [performFlight, hf, performCopySource, hr, streamRead_clean hline hp hl]

end

/-- A line of an outward copy stands in memory as it performs (R81). -/
theorem performFlight_copyPerform {r : CopyRun} {j : Nat} {data : Memory} {bad : Bool} (hf : f.act = .copyPerform r j data bad) {p : Spot}
    (hp : translate s k (copyAddr r j) = .hit p) (hw : p.write = true) :
    MemoryWritten s (performFlight s k f) p.paddr 256 (memRead data) := by
  simp only [performFlight, hf, performCopyPerform, hp, hw, Bool.not_true, Bool.false_eq_true, if_false]
  have hwrite := writtenTo_physWrite (s := s)
    ((logWrite_frame (cachePage s k (copyAddr r j)) k f.seq (copyAddr r j) (memReadList data 0 256)).1.trans (cachePage_frame ..).1)
    ((beside_cachePage ..).trans (beside_logWrite ..)) (nodeIds (ctxOf s k)).1 (nodeIds (ctxOf s k)).2 p.paddr (memReadList data 0 256)
  have hbytes : ∀ i, i < 256 → (memReadList data 0 256).getD i 0 = memRead data i := fun i hi => by
    rw [getD_memReadList data 0 hi, Nat.zero_add]
  cases bad
  · exact (hwrite.noted ..).memoryWritten (length_memReadList ..) hbytes
  · exact ((hwrite.addMarks _).noted ..).memoryWritten (length_memReadList ..) hbytes

/-! ### XSEND and XRECV as they perform (R109, R275) -/

theorem performFlight_sendRead {dest lines j x : Nat} {p : Place} {missed : Bool} (hf : f.act = .sendRead dest p lines j x missed)
    (hoff : p.off % 256 = 0) : let off := p.off + 256 * j
    pendingLine s k p.buf (off / 256) = false → landingAhead s k p.buf (off / 256) = false → isRefused s k p.buf off false = false →
    performFlight s k f = againIf (decide (j + 1 < lines))
      (again s k f (f.due + x) (.sendLand dest (p.off / 256) (bufPrior s k p.buf off 256) (badBytes s k p.buf off 256)))
      k f (f.due + 1) (.sendRead dest p lines (j + 1) x missed) := by
  intro off hp hl hr
  have hline : off % 256 = 0 := by omega
  simp only [performFlight, hf, performSendRead, off] at hp hl hr hline ⊢
  simp only [hr, streamRead_clean hline hp hl]

theorem performFlight_sendLand {dest line : Nat} {data : Memory} {bad : List Nat} (hf : f.act = .sendLand dest line data bad) :
    performFlight s k f = performSendLand s k dest data bad := by
  simp only [performFlight, hf]

end

/-- Settles O48: the commands by their checks, each line that performs by its read or by the one write that it is. -/
theorem copies : Obligations.Copies := by
  unfold Obligations.Copies
  refine ⟨?_, ?_, ?_, ?_, ?_, ?_, ?_, ?_, ?_⟩
  · intro s d a b e buf out at_ n c r g h ht
    exact ⟨exec_copy_plain h ht, exec_copy_mapped h ht⟩
  · intro s d a b e buf map at_ n c g r w t ga gb nk h ht hport hr hfollow hmma
    exact exec_copym h ht hport hr hfollow hmma
  · intro s a b e buf at_ n c off r act h ht hoff hpart hbusy
    exact exec_fill h ht hoff hpart hbusy
  · intro s a b buf at_ n c off k x h ht hoff hpart
    exact ⟨exec_xsend h ht hoff hpart, exec_xrecv h ht hoff hpart⟩
  · intro s k j f r p hf hp
    have hkept := (issueKept_cachePage s k (copyAddr r j)).trans (issueKept_nextFresh 256)
    refine ⟨_, _, performFlight_copySample hf hp, fun i hi => ?_, hkept.stores, hkept.regs⟩
    rw [memRead_ofList (by simpa using hi), getD_physReadList s _ _ p.paddr hi]
  · intro s k j f r off hp
    exact ⟨fun data bad hf hr hd => performFlight_copyLand hp hf hr hd, fun x hf hr => performFlight_fill hp hf hr,
      fun held bad hf hr => performFlight_mapLand hp hf hr, fun hf hoff hl hr => performFlight_copySource hp hf hoff hl hr⟩
  · intro s k j f r data bad p hf hp hw _ _
    exact performFlight_copyPerform hf hp hw
  · intro s k dest lines j x f p missed hf off hoff
    exact performFlight_sendRead hf hoff
  · intro s k dest line f data bad hf
    rw [performFlight_sendLand hf, performSendLand]
    refine ⟨fun hnone => by rw [hnone], fun p hp hd hpend hr => ?_⟩
    rw [hp]
    simp only [hr]
    exact bufferWritten_streamWrite hpend hd ..

end Sys2Proof.Machine
end

section
/-! PROOFS. The untimed engine commands and LAUNCH at issue (R125, R265, R274–R283). -/

namespace Sys2Proof.Machine

/-! ### Transfers between a partition and device memory (R30, R89, R125, R264, R265) -/

section
variable {s : State}

/-- A transfer that its checks accept joins the untimed work. -/
theorem transfer_ok {b : Buf} {off len align : Nat} {bufOk segBad vAlign : Bool} (hb : bufOk = true) (hseg : segBad = false)
    (hv : vAlign = true) (ht : transferOk s b off len align = true) (draw : Nat) (addrs : List Nat) (sub : Option Nat) (unit : Nat)
    (write : Bool) (job : Job) : transfer s b off len align bufOk segBad vAlign draw addrs sub unit write job =
      .ok (transferGiven s b off len draw addrs sub job) := by
  simp only [transferOk, noPending, Bool.and_eq_true, Option.isNone_iff_eq_none] at ht
  obtain ⟨⟨halign, hpart⟩, hpend⟩ := ht
  simp only [transfer, hb, hseg, hv, halign, hpart, hpend, issueUntimed_none, Bool.and_self, if_true, andThen_ok, unless_false,
    Bool.not_true, Bool.or_self]
  rfl

section
variable {d a b : SReg} {lsz : Fin 9} {buf : Buf} {iw : Bool} {n : BitVec 16}

/-- What GATHER and SCATTER come to, once their index list is read. -/
theorem gatherOp_ok (scatter : Bool) (h : slotFree s = true) : let c := here s
    let size := 2 ^ lsz.val
    let base := (c.readS a).toNat
    let off := (c.readS b).toNat
    let w := if iw then 2 else 4
    let idx := indexList (bufPrior s s.cur .dm (c.readS d).toNat (w * n.toNat)) n.toNat w
    let addrs := idx.flatMap (fun i => elementAddrs size (entryAddr base size i))
    portReadable s (c.readS d).toNat (w * n.toNat) w = true → base % size = 0 →
    transferOk s buf off (n.toNat * size) 256 = true → (∃ k x, kindOf s s.cur base = some (k, x) ∧ (k = .plain ∨ k = .pg)) →
    (if scatter then buf != .wb else buf == .wb || buf == .ab) = true →
    gatherOp scatter d a b lsz buf iw n s = .next (transferGiven s buf off (n.toNat * size) 8 addrs (if scatter then none else some 1)
      (if scatter then .scatter base size idx ⟨buf, off⟩ else .gather base size idx ⟨buf, off⟩)) := by
  intro c size base off w idx addrs hport halign ht hkind hbuf
  obtain ⟨k, x, hk, hplain⟩ := hkind
  rw [gatherOp, withSlot_free h]
  dsimp only
  rw [commandRead_ok hport]
  refine congrArg (finish s) (transfer_ok hbuf ?_ (beq_iff_eq.mpr halign) ht ..)
  rw [hk]
  rcases hplain with rfl | rfl <;> rfl

theorem exec_fput (h : slotFree s = true) : let v := ((here s).readS a).toNat
    let off := ((here s).readS b).toNat
    v % 256 = 0 → transferOk s buf off (256 * n.toNat) 256 = true → buf ≠ .wb →
    runBad s .rem true (runAddrs v (4 * n.toNat)) = false → exec (.fput a b buf n) s =
      .next (transferGiven s buf off (256 * n.toNat) 8 (runAddrs v (4 * n.toNat)) (some 2) (.fput v ⟨buf, off⟩ n.toNat)) := by
  intro v off hv ht hb hseg
  show execFput a b buf n s = _
  rw [execFput, withSlot_free h]
  exact congrArg (finish s) (transfer_ok (bne_iff_ne.mpr hb) hseg (beq_iff_eq.mpr hv) ht ..)

theorem exec_fget (h : slotFree s = true) : let v := ((here s).readS a).toNat
    let off := ((here s).readS b).toNat
    v % 256 = 0 → transferOk s buf off (256 * n.toNat) 256 = true →
    runBad s .rem false (runAddrs v (4 * n.toNat)) = false → exec (.fget a b buf n) s =
      .next (transferGiven s buf off (256 * n.toNat) 8 (runAddrs v (4 * n.toNat)) (some 1) (.fget v ⟨buf, off⟩ n.toNat)) := by
  intro v off hv ht hseg
  show execFget a b buf n s = _
  rw [execFget, withSlot_free h]
  exact congrArg (finish s) (transfer_ok rfl hseg (beq_iff_eq.mpr hv) ht ..)

theorem exec_dput (h : slotFree s = true) : let v := ((here s).readS a).toNat
    let off := ((here s).readS b).toNat
    v % 64 = 0 → buf ≠ .wb → transferOk s buf off (64 * n.toNat) 64 = true → runBad s .dur true (runAddrs v n.toNat) = false →
    exec (.dput a b buf n) s =
      .next (transferGiven s buf off (64 * n.toNat) 16 (runAddrs v n.toNat) (some 2) (.dput v ⟨buf, off⟩ n.toNat)) := by
  intro v off hv hb ht hseg
  show execDput a b buf n s = _
  rw [execDput, withSlot_free h]
  exact congrArg (finish s) (transfer_ok (bne_iff_ne.mpr hb) hseg (beq_iff_eq.mpr hv) ht ..)

theorem exec_dget (h : slotFree s = true) : let v := ((here s).readS a).toNat
    let off := ((here s).readS b).toNat
    v % 64 = 0 → transferOk s .wb off (64 * n.toNat) 64 = true → runBad s .dur false (runAddrs v n.toNat) = false →
    exec (.dget a b n) s =
      .next (transferGiven s .wb off (64 * n.toNat) 16 (runAddrs v n.toNat) (some 1) (.dget v ⟨.wb, off⟩ n.toNat)) := by
  intro v off hv ht hseg
  show execDget a b n s = _
  rw [execDget, withSlot_free h]
  exact congrArg (finish s) (transfer_ok rfl hseg (beq_iff_eq.mpr hv) ht ..)

end

/-! ### FATOM, queue commands, LAUNCH and SIGNAL at issue (R277, R281–R283) -/

theorem exec_fatom (h : slotFree s = true) (d a b : SReg) (op : AmoOp) (sz64 sx sys : Bool) : let c := here s
    let v := (c.readS a).toNat
    let n := if sz64 then 8 else 4
    segmentOk s v n (fun k => k == .rem && atomicAllowed c k) true = true → resultRoom s (resultFor d) = true →
    exec (.fatom d a b op sz64 sx sys) s = .next (globalGiven (reserve s [openSpan s 8]) v n true
      (.atomic op v n sx (c.readS b) (c.readS d) (if sys then .sys else .dom)) (resultFor d) true) := by
  intro c v n hs hr
  show execFatom d a b op sz64 sx sys s = _
  rw [execFatom, withSlot_free h]
  have hs' : segmentOk (reserve s [openSpan s 8]) v n (fun k => k == .rem && atomicAllowed c k) true = true := hs
  have hr' : resultRoom (reserve s [openSpan s 8]) (resultFor d) = true := hr
  exact congrArg (finish s) (globalAccess_ok hs' hr')

theorem exec_qsend (h : slotFree s = true) (a b : SReg) (q : QueueIx) (eos : Bool) : exec (.qsend a b q eos) s = .next (queued s
    (.qsend q.val eos (clusIx s.cur * 16 + fieldOf ((here s).readS b).toNat 0 4) ((here s).readS a)) none false [] []) := by
  show execQsend a b q eos s = _
  rw [execQsend, withSlot_free h]
  exact congrArg (finish s) (issueUntimed_none ..)

theorem exec_qrecv (h : slotFree s = true) {d : SReg} (hr : resultRoom s (resultFor d) = true) (q : QueueIx) :
    exec (.qrecv d q) s = .next (queued s (.qrecv q.val) (resultFor d) false [] []) := by
  show execQrecv d q s = _
  rw [execQrecv, withSlot_free h]
  exact congrArg (finish s) (issueUntimed_ok hr)

theorem exec_launch (h : slotFree s = true) (a : SReg) : let off := ((here s).readS a).toNat
    off % 64 = 0 → inPartition (here s) .dm off 64 = true → noPending s .dm off 64 = true → stagedLaunches s < 256 →
    exec (.launch a) s = .next (flown s 1 (.launchRead off) []) := by
  intro off hoff hpart hpend hroom
  have hreads : (off % 64 == 0 && inPartition (here s) .dm off 64) = true := by rw [hoff, hpart]; rfl
  have hfull : decide (256 ≤ stagedLaunches s) = false := decide_eq_false (by omega)
  show execLaunch a s = _
  rw [execLaunch, withSlot_free h]
  dsimp only
  rw [hreads, if_pos rfl, checkPort_ok hpend, hfull, Bool.and_false]
  rfl

/-- A SIGNAL posts its page whatever its bytes. -/
theorem postHeld_signal (v : Nat) (bytes bytes' : List Byte) (msi msi' : Option Nat) (sub : Nat) :
    postHeld s (.signal v bytes msi) v sub = postHeld s (.signal v bytes' msi') v sub := rfl

theorem exec_signal (h : slotFree s = true) (a b : SReg) (msi : Bool) (vec : BitVec 11) : let v := ((here s).readS a).toNat
    segmentOk s v 8 (fun k => k == .plain || k == .pg || k == .host) true = true →
    (msi = true → vec.toNat < (tenantOf s (nodeIds (here s)).1).msix) → exec (.signal a b msi vec) s =
      .next (globalGiven s v 8 true (.signal v (bytesOfNat 8 ((here s).readS b).toNat) (if msi then some vec.toNat else none)) none
        false) := by
  intro v hs hvec
  simp only [segmentOk, Bool.and_eq_true, beq_iff_eq, Option.any_eq_true] at hs
  obtain ⟨halign, k, hk, hkind, hwrite⟩ := hs
  have hlimit : (v % 8 != 0 || (msi && decide ((tenantOf s (nodeIds (here s)).1).msix ≤ vec.toNat))) = false := by
    rw [halign]
    cases msi with
    | false => rfl
    | true => simpa using hvec rfl
  show execSignal a b msi vec s = _
  rw [execSignal, withSlot_free h]
  dsimp only
  rw [hk, issueUntimed_none, andThen_ok]
  refine congrArg (finish s) (unless_ok.mpr ⟨unless_ok.mpr ⟨?_, ?_⟩, hlimit⟩)
  · rw [postHeld_signal v [] _ none _]
    rfl
  · simpa [hkind] using hwrite

end

end Sys2Proof.Machine
end

section
/-! PROOFS. GATHER, SCATTER, and the fabric and durable transfers as they perform (R83, R92, R94, R115, R274, R276, R278). -/

namespace Sys2Proof.Machine

/-! ### What is done -/

theorem isDone_finishJob (s : State) (k seq : Nat) (x : Option W64) (fault : Option (Nat × W64)) :
    IsDone (finishJob s k seq x fault) k seq := fun _ hw hs => (finishJob_done hw hs).1

theorem issueKept_modUntimed (s : State) (k seq : Nat) (f : Untimed → Untimed) : IssueKept s (modUntimed s k seq f) := by
  unfold modUntimed
  exact issueKept_modCtx (by constructor <;> simp)

theorem BufferWritten.finishJob {s t : State} {q : Nat} {b : Buf} {off len : Nat} {byte : Nat → Byte}
    (h : BufferWritten s t q b off len byte) (k seq : Nat) (x : Option W64) (fault : Option (Nat × W64)) :
    BufferWritten s (finishJob t k seq x fault) q b off len byte :=
  h.between (.refl s) rfl rfl rfl (issueKept_modUntimed ..).regs

theorem BufferWritten.nextFresh {s t : State} {q : Nat} {b : Buf} {off len : Nat} {byte : Nat → Byte}
    (h : BufferWritten s t q b off len byte) (n : Nat) : BufferWritten s (nextFresh t n) q b off len byte :=
  h.between (.refl s) rfl rfl rfl fun _ => .refl _

theorem MemoryWritten.finishJob {s t : State} {a len : Nat} {byte : Nat → Byte} (h : MemoryWritten s t a len byte) (k seq : Nat)
    (x : Option W64) (fault : Option (Nat × W64)) : MemoryWritten s (finishJob t k seq x fault) a len byte :=
  ⟨h.bytes, h.buf, h.tiles, fun j => (h.regs j).trans ((issueKept_modUntimed ..).regs j)⟩

/-! ### Lists of chunks of one size -/

section
variable {α : Type} {f : α → List Byte} {size : Nat} {l : List α}

theorem length_flatMap_const (h : ∀ x ∈ l, (f x).length = size) : (l.flatMap f).length = l.length * size := by
  induction l with
  | nil => simp
  | cons x r ih =>
    rw [List.flatMap_cons, List.length_append, h x (by simp), ih fun y hy => h y (by simp [hy]), List.length_cons, Nat.add_mul,
      Nat.one_mul, Nat.add_comm]

theorem getD_flatMap_const (h : ∀ x ∈ l, (f x).length = size) {i j : Nat} {x : α} (hx : l[i]? = some x) (hj : j < size) :
    (l.flatMap f).getD (i * size + j) 0 = (f x).getD j 0 := by
  induction l generalizing i with
  | nil => simp at hx
  | cons y r ih =>
    have hy := h y (by simp)
    rw [List.flatMap_cons]
    cases i with
    | zero =>
      obtain rfl : y = x := by simpa using hx
      rw [Nat.zero_mul, Nat.zero_add, List.getD_append _ _ _ _ (by omega)]
    | succ i =>
      have hpos : (i + 1) * size + j = size + (i * size + j) := by rw [Nat.add_mul, Nat.one_mul]; omega
      rw [hpos, List.getD_append_right _ _ _ _ (by omega), hy, Nat.add_sub_cancel_left]
      exact ih (fun z hz => h z (by simp [hz])) (by simpa using hx)

end

/-- What holds after no step and is carried on by each of `n` holds after them. -/
theorem foldl_range_induction {σ : Type} {P : Nat → σ → Prop} {f : σ → Nat → σ} {s : σ} {n : Nat} (h0 : P 0 s)
    (hs : ∀ i t, i < n → P i t → P (i + 1) (f t i)) : P n ((List.range n).foldl f s) := by
  induction n with
  | zero => exact h0
  | succ n ih =>
    rw [List.range_succ, List.foldl_append]
    exact hs n _ (Nat.lt_succ_self n) (ih fun i t hi => hs i t (Nat.lt_succ_of_lt hi))

/-! ### GATHER (R83, R274) -/

theorem foldl_cachePage_mem (k : Nat) (l : List Nat) (s : State) : (l.foldl (fun s a => cachePage s k a) s).mem = s.mem := by
  induction l generalizing s with
  | nil => rfl
  | cons a r ih => exact (ih _).trans (cachePage_frame ..).1

section
variable {s : State} {k : Nat}

theorem firstHeld_none {l : List Nat} (h : ∀ a ∈ l, ∃ p, translate s k a = .hit p) : firstHeld s k l = none := by
  rw [firstHeld, List.find?_eq_none]
  intro a ha
  obtain ⟨p, hp⟩ := h a ha
  simp [hp]

theorem firstFailed_none {write : Bool} {l : List Nat}
    (h : ∀ a ∈ l, ∃ p, translate s k a = .hit p ∧ (p.kind = .plain ∨ p.kind = .pg) ∧ (write = true → p.write = true)) :
    firstFailed s k write l = none := by
  rw [firstFailed, List.find?_eq_none]
  intro a ha
  obtain ⟨p, hp, hkind, hw⟩ := h a ha
  have hof : kindOf s k a = some (p.kind, p.write) := by rw [kindOf, hp]
  rw [hof]
  cases write with
  | false => rcases hkind with hk | hk <;> simp [hk]
  | true => rcases hkind with hk | hk <;> simp [hk, hw rfl]

/-- The bytes of an element that a GATHER reads. -/
def gathered (s : State) (k a size : Nat) : List Byte × Bool :=
  match translate s k a with
  | .hit p => homeRead s k p.paddr size
  | _ => ([], false)

theorem gathered_hit {a : Nat} {p : Spot} (h : translate s k a = .hit p) (size : Nat) :
    (gathered s k a size).1 = physReadList s (nodeIds (ctxOf s k)).1 (nodeIds (ctxOf s k)).2 p.paddr size := by
  rw [gathered, h]
  rfl

/-- A GATHER whose elements are all there is one write of its lines. -/
theorem performGather_ok {v size : Nat} {idx : List Nat} {place : Place} (u : Untimed)
    (h : ∀ x ∈ idx, ∃ p, translate s k (entryAddr v size x) = .hit p ∧ (p.kind = .plain ∨ p.kind = .pg)) :
    ∃ bad, performGather s k u v size idx place =
      finishJob (bufWrite ((idx.map (entryAddr v size)).foldl (fun s a => cachePage s k a) s) k place.buf place.off
        ((idx.length * size + 255) / 256 * 256)
        (memWriteList [] 0 (idx.flatMap fun x => (gathered s k (entryAddr v size x) size).1)) bad) k u.seq none none := by
  have hall : ∀ a ∈ idx.map (entryAddr v size), ∃ p, translate s k a = .hit p ∧ (p.kind = .plain ∨ p.kind = .pg) := by
    simpa using h
  have hheld : firstHeld s k (idx.map (entryAddr v size)) = none :=
    firstHeld_none fun a ha => (hall a ha).imp fun _ hp => hp.1
  have hfailed : firstFailed s k false (idx.map (entryAddr v size)) = none :=
    firstFailed_none fun a ha => (hall a ha).imp fun _ hp => ⟨hp.1, hp.2, fun hf => Bool.noConfusion hf⟩
  have hdata : ((idx.map (entryAddr v size)).map (fun a => gathered s k a size)).flatMap (fun e => e.1) =
      idx.flatMap fun x => (gathered s k (entryAddr v size x) size).1 := by
    simp [List.flatMap_map]
  rw [performGather, hheld, hfailed, ← hdata]
  exact ⟨_, rfl⟩

end

theorem performJob_gather {s : State} {k v size : Nat} {u : Untimed} {idx : List Nat} {place : Place}
    (hu : u.job = .gather v size idx place)
    (h : ∀ x ∈ idx, ∃ p, translate s k (entryAddr v size x) = .hit p ∧ (p.kind = .plain ∨ p.kind = .pg)) :
    let t := performJob s k u
    IsDone t k u.seq ∧ ∃ byte, BufferWritten s t k place.buf place.off ((idx.length * size + 255) / 256 * 256) byte ∧
      (∀ i j x p, idx[i]? = some x → j < size → translate s k (entryAddr v size x) = .hit p → byte (i * size + j) =
        physRead s (nodeIds (ctxOf s k)).1 (nodeIds (ctxOf s k)).2 (p.paddr + j)) ∧
      ∀ i, idx.length * size ≤ i → byte i = 0 := by
  intro t
  obtain ⟨bad, hperform⟩ := performGather_ok u h (place := place)
  have hjob : performJob s k u = performGather s k u v size idx place := by rw [performJob, hu]
  have ht := hjob.trans hperform
  have hlen : ∀ x ∈ idx, (gathered s k (entryAddr v size x) size).1.length = size := fun x hx => by
    obtain ⟨p, hp, -⟩ := h x hx
    rw [gathered_hit hp, length_physReadList]
  have hcached := issueKept_foldl (f := fun s a => cachePage s k a) (fun s a => issueKept_cachePage s k a)
    (idx.map (entryAddr v size)) s
  simp only [t, ht]
  refine ⟨isDone_finishJob _ _ _ _ _, _, ((bufferWritten_bufWrite _ k place.buf place.off _ bad (wf_memWriteList wf_nil 0 _)).between hcached
    (foldl_cachePage_mem ..) rfl rfl fun _ => .refl _).finishJob .., fun i j x p hx hj hp => ?_, fun i hi => ?_⟩
  · have hi : i < idx.length := (List.getElem?_eq_some_iff.mp hx).1
    have hin : i * size + j < idx.length * size := by
      calc i * size + j < (i + 1) * size := by rw [Nat.add_mul, Nat.one_mul]; omega
        _ ≤ idx.length * size := Nat.mul_le_mul_right size hi
    rw [memRead_ofList (by rwa [length_flatMap_const hlen]), getD_flatMap_const hlen hx hj, gathered_hit hp, getD_physReadList _ _ _ _ hj]
  · rw [memRead_memWriteList, length_flatMap_const hlen, if_neg (by omega)]
    rfl

/-! ### What stands in a side log (R89) -/

theorem translate_congr {s t : State} {k : Nat} (h : SameRegisters (ctxOf s k) (ctxOf t k))
    (hpage : ∀ tenant v, pageOf t k tenant v = pageOf s k tenant v) (v : Nat) : translate t k v = translate s k v := by
  obtain ⟨-, -, -, htask⟩ := h.place
  obtain ⟨hbase, hlim, hoff⟩ := h.heap
  simp only [translate, ← htask, ← hbase, ← hlim, ← hoff, hpage]

/-- A translation that reads no page table stands as long as its context's segments do. -/
theorem translate_plain {s t : State} {k v : Nat} {p : Spot} (h : SameRegisters (ctxOf s k) (ctxOf t k)) (hp : translate s k v = .hit p)
    (hk : p.kind ≠ .pg) : translate t k v = .hit p := by
  obtain ⟨-, -, -, htask⟩ := h.place
  obtain ⟨hbase, hlim, hoff⟩ := h.heap
  rw [translate] at hp ⊢
  rw [← htask, ← hbase, ← hlim, ← hoff]
  cases htk : (ctxOf s k).task with
  | none => simp [htk] at hp
  | some x =>
    simp only [htk] at hp ⊢
    split
    · next hheap => rwa [if_pos hheap] at hp
    · next hheap =>
      rw [if_neg hheap] at hp
      cases hseg : segmentAt (some x.segs) v with
      | none => simp [hseg] at hp
      | some g =>
        simp only [hseg] at hp ⊢
        cases hkind : g.kind with
        | pg =>
          simp only [hkind] at hp
          split at hp
          · cases hp
          · cases hp
            exact absurd rfl hk
        | plain | dur | host | rem => simpa only [hkind] using hp

/-- An operation with another fault noted, if it is the one numbered `seq`. -/
def withFault (seq : Nat) (fault : Option (Nat × W64)) (u : Untimed) : Untimed := if u.seq = seq then { u with fault := fault } else u

section
variable (seq : Nat) (fault : Option (Nat × W64)) (u : Untimed)

@[simp] theorem withFault_seq : (withFault seq fault u).seq = u.seq := by unfold withFault; split <;> rfl
@[simp] theorem withFault_job : (withFault seq fault u).job = u.job := by unfold withFault; split <;> rfl
@[simp] theorem withFault_done : (withFault seq fault u).done = u.done := by unfold withFault; split <;> rfl
@[simp] theorem withFault_held : (withFault seq fault u).held = u.held := by unfold withFault; split <;> rfl
@[simp] theorem withFault_lines : (withFault seq fault u).lines = u.lines := by unfold withFault; split <;> rfl

@[simp] theorem isLogHead_withFault : isLogHead (withFault seq fault u) = isLogHead u := by
  simp [isLogHead, heldPages]

@[simp] theorem logEntries_withFault : logEntries (withFault seq fault u) = logEntries u := by simp [logEntries]

end

/-- The state with a fault noted for the operation numbered `seq`. -/
def noteFault (s : State) (k seq : Nat) (fault : Option (Nat × W64)) : State := modUntimed s k seq (fun u => { u with fault := fault })

section
variable (s : State) (k seq : Nat) (fault : Option (Nat × W64))

theorem beside_noteFault : Beside s (noteFault s k seq fault) where
  cores := rfl
  regs := (issueKept_modUntimed ..).regs
  fabric := ⟨rfl, rfl, rfl⟩
  home := ⟨rfl, rfl⟩
  grants _ := ⟨rfl, rfl, rfl⟩

theorem allUntimed_noteFault (j : Nat) : (ctxOf (noteFault s k seq fault) j).allUntimed =
    (ctxOf s j).allUntimed.map (if j = k then withFault seq fault else id) := by
  rw [noteFault, modUntimed, ctxOf_modCtx]
  split
  · next hj =>
    subst hj
    simp [Ctx.allUntimed]
    rfl
  · rw [List.map_id]

/-- What a noted fault leaves alone: every operation's number, work and lines, and whether it heads a log. -/
theorem noteFault_view (j : Nat) (u : Untimed) : let g := if j = k then withFault seq fault else id
    (g u).seq = u.seq ∧ (g u).job = u.job ∧ (g u).done = u.done ∧ (g u).lines = u.lines ∧ isLogHead (g u) = isLogHead u ∧
      logEntries (g u) = logEntries u := by
  intro g
  by_cases hj : j = k <;> simp [g, hj]

theorem meetLines_noteFault (j : Nat) (xs ys : List Nat) : meetLines (noteFault s k seq fault) j xs ys = meetLines s j xs ys := by
  have hphys : ∀ l, physLine (noteFault s k seq fault) j l = physLine s j l := fun l => by
    rw [physLine, translate_congr ((beside_noteFault s k seq fault).regs j) (fun _ _ => rfl)]
    rfl
  have hfun : physLine (noteFault s k seq fault) j = physLine s j := funext hphys
  rw [meetLines, hfun]
  rfl

/-- Whether an operation stands in a side log, by the heads of the log before it. -/
theorem isLogged_eq (j : Nat) (u : Untimed) : isLogged s j u = (isLogHead u || (!u.done && (jobUnit u.job).any (·.2) &&
    !isScatter u.job && (ctxOf s j).allUntimed.any (fun v => isLogHead v && decide (v.seq < u.seq) && meetLines s j v.lines u.lines))) := by
  have hany : (logHeads s j u != []) =
      (ctxOf s j).allUntimed.any (fun v => isLogHead v && decide (v.seq < u.seq) && meetLines s j v.lines u.lines) := by
    rw [Bool.eq_iff_iff, logHeads, bne_iff_ne, ne_eq, List.filter_eq_nil_iff]
    simp [and_assoc]
  rw [isLogged, hany]

theorem isLogged_noteFault (j : Nat) (u : Untimed) :
    isLogged (noteFault s k seq fault) j ((if j = k then withFault seq fault else id) u) = isLogged s j u := by
  obtain ⟨hs, hj, hd, hl, hh, -⟩ := noteFault_view k seq fault j u
  rw [isLogged_eq, isLogged_eq, allUntimed_noteFault, List.any_map, hs, hj, hd, hl, hh]
  have hfun : ((fun v => isLogHead v && decide (v.seq < u.seq) && meetLines (noteFault s k seq fault) j v.lines u.lines) ∘
      (if j = k then withFault seq fault else id)) =
      fun v => isLogHead v && decide (v.seq < u.seq) && meetLines s j v.lines u.lines := funext fun v => by
    obtain ⟨vs, -, -, vl, vh, -⟩ := noteFault_view k seq fault j v
    simp only [Function.comp, vs, vl, vh, meetLines_noteFault]
  rw [hfun]

theorem logCount_noteFault (core unit : Nat) : logCount (noteFault s k seq fault) core unit = logCount s core unit := by
  unfold logCount
  congr 1
  refine List.map_congr_left fun i _ => ?_
  dsimp only
  rw [allUntimed_noteFault, List.filter_map, List.map_map]
  congr 1
  have hp : ((fun u => (jobUnit u.job).any (·.1 == unit) && isLogged (noteFault s k seq fault) (core * 4 + i) u) ∘
      (if core * 4 + i = k then withFault seq fault else id)) =
      fun u => (jobUnit u.job).any (·.1 == unit) && isLogged s (core * 4 + i) u := funext fun u => by
    obtain ⟨-, hj, -⟩ := noteFault_view k seq fault (core * 4 + i) u
    simp only [Function.comp, hj, isLogged_noteFault]
  have he : (logEntries ∘ (if core * 4 + i = k then withFault seq fault else id)) = logEntries := funext fun u =>
    (noteFault_view k seq fault (core * 4 + i) u).2.2.2.2.2
  rw [hp, he]

end

/-! ### SCATTER (R83, R89, R274) -/

/-- A SCATTER none of whose elements waits for its page stands in no side log. -/
theorem isLogged_scatter (s : State) (k : Nat) {u : Untimed} {v size : Nat} {idx : List Nat} {place : Place}
    (hu : u.job = .scatter v size idx place) (hheld : u.held = none) : isLogged s k u = false := by
  have hhead : isLogHead u = false := by simp [isLogHead, heldPages, hu, hheld]
  simp [isLogged, hhead, hu, isScatter]

/-- Elements of plain memory behind an empty log are stored in list order. -/
theorem scatterElements_plain {k seq room : Nat} (hroom : room ≠ 0) {addr home : Nat → Nat} {bytes : Nat → List Byte} {l : List Nat}
    {s : State} (h : ∀ i ∈ l, translate s k (addr i) = .hit ⟨.plain, 0, home i, true⟩) :
    scatterElements k seq (l.map fun i => (addr i, bytes i)) [] room s =
      (l.foldl (fun t i => storeAt t k seq 0 (addr i) ⟨.plain, 0, home i, true⟩ (bytes i) false) s, [], []) := by
  induction l generalizing s with
  | nil => rfl
  | cons i r ih =>
    have hi := h i (by simp)
    have henters : entersLog s k [] (addr i, bytes i) = false := by
      rw [entersLog, hi]
      rfl
    have hregs := (storeAt_writes_plain (s := s) (k := k) (seq := seq) (ix := 0) (v := addr i) (p := ⟨.plain, 0, home i, true⟩)
      (bytes := bytes i) (bad := false) rfl).beside.regs k
    rw [List.map_cons, scatterElements, if_neg hroom, henters, List.foldl_cons]
    simp only [Bool.false_eq_true, if_false, hi]
    exact ih fun j hj => translate_plain hregs (h j (by simp [hj])) (by simp)

/-- With nothing of the context in the log, elements that all perform end their operation. -/
theorem scatterOn_first {s t : State} {k : Nat} {u : Untimed} {els : List (Nat × List Byte)}
    (hahead : (ctxOf s k).allUntimed.filter (fun w => decide (w.seq < u.seq) && isLogged s k w) = []) (hown : isLogged s k u = false)
    (hrun : scatterElements k u.seq els [] (256 - logCount s (coreIx k) 2) s = (t, [], [])) :
    scatterOn s k u els = finishJob t k u.seq none none := by
  rw [scatterOn, hahead, hown, if_neg Bool.false_ne_true, List.flatMap_nil, Nat.sub_zero, hrun, if_pos ⟨rfl, rfl⟩]

/-- The bytes of the `i`-th of `n` elements that a SCATTER reads from its buffer. -/
def scattered (s : State) (k : Nat) (place : Place) (n size i : Nat) : List Byte :=
  ((memReadList (bufPrior s k place.buf place.off (n * size)) 0 (n * size)).drop (i * size)).take size

theorem chunk_le {i n : Nat} (size : Nat) (h : i < n) : i * size + size ≤ n * size := by
  rw [← Nat.succ_mul]
  exact Nat.mul_le_mul_right size h

section
variable {s : State} {k : Nat} {place : Place} {n size i : Nat}

theorem length_scattered (h : i < n) : (scattered s k place n size i).length = size := by
  have := chunk_le size h
  rw [scattered, List.length_take, List.length_drop, length_memReadList]
  omega

theorem getD_scattered (h : i < n) {b : Nat} (hb : b < size) :
    (scattered s k place n size i).getD b 0 = memRead (bufPrior s k place.buf place.off (n * size)) (i * size + b) := by
  have := chunk_le size h
  simp only [scattered, List.getD_eq_getElem?_getD, List.getElem?_take, hb, if_true, List.getElem?_drop]
  rw [← List.getD_eq_getElem?_getD, getD_memReadList _ _ (by omega), Nat.zero_add]

end

/-- A SCATTER of plain memory stores its elements, the first log entries of its context. -/
theorem performScatter_ok {s : State} {k v size : Nat} {u : Untimed} {idx : List Nat} {place : Place} {home : Nat → Nat}
    (hu : u.job = .scatter v size idx place) (hheld : u.held = none) (hroom : logCount s (coreIx k) 2 < 256)
    (hfirst : ∀ w ∈ (ctxOf s k).allUntimed, w.seq < u.seq → isLogged s k w = false)
    (hhome : ∀ i x, idx[i]? = some x → translate s k (entryAddr v size x) = .hit ⟨.plain, 0, home i, true⟩) :
    performScatter s k u v size idx place = nextFresh (finishJob ((List.range idx.length).foldl (fun t i =>
      storeAt t k u.seq 0 (entryAddr v size (idx.getD i 0)) ⟨.plain, 0, home i, true⟩ (scattered s k place idx.length size i) false)
      (noteFault s k u.seq none)) k u.seq none none) (idx.length * size) := by
  have hfailed : firstFailed s k true (idx.map (entryAddr v size)) = none := firstFailed_none fun a ha => by
    obtain ⟨x, hx, rfl⟩ := List.mem_map.mp ha
    obtain ⟨i, hi⟩ := List.mem_iff_getElem?.mp hx
    exact ⟨_, hhome i x hi, .inl rfl, fun _ => rfl⟩
  have hels : ((idx.map (entryAddr v size)).zipIdx.map fun a => (a.1, scattered s k place idx.length size a.2)) =
      (List.range idx.length).map fun i => (entryAddr v size (idx.getD i 0), scattered s k place idx.length size i) :=
    List.ext_getElem (by simp) fun i h₁ h₂ => by
      have hi : i < idx.length := by simpa using h₂
      simp [hi]
  have hahead : (ctxOf (noteFault s k u.seq none) k).allUntimed.filter
      (fun w => decide (w.seq < u.seq) && isLogged (noteFault s k u.seq none) k w) = [] := by
    rw [allUntimed_noteFault, List.filter_eq_nil_iff]
    intro w hw
    obtain ⟨y, hy, rfl⟩ := List.mem_map.mp hw
    obtain ⟨hseq, -⟩ := noteFault_view k u.seq none k y
    rw [hseq, isLogged_noteFault, Bool.and_eq_true, decide_eq_true_eq]
    exact fun ⟨hlt, hlog⟩ => Bool.false_ne_true ((hfirst y hy hlt).symm.trans hlog)
  have hregs := (beside_noteFault s k u.seq none).regs k
  have hrun := scatterElements_plain (s := noteFault s k u.seq none) (k := k) (seq := u.seq)
    (room := 256 - logCount (noteFault s k u.seq none) (coreIx k) 2) (by rw [logCount_noteFault]; omega) (home := home)
    (bytes := scattered s k place idx.length size) (l := List.range idx.length) (addr := fun i => entryAddr v size (idx.getD i 0))
    fun i hi => by
      have hlen : i < idx.length := by simpa using hi
      exact translate_plain hregs (hhome i _ (by simp [hlen])) (by simp)
  have hon := scatterOn_first hahead (isLogged_scatter _ k hu hheld) hrun
  rw [performScatter, hfailed]
  exact congrArg (nextFresh · _) ((congrArg (scatterOn _ k u) hels).trans hon)

/-- The first `m` of a SCATTER's elements stand at their homes, and every other byte as it stood. -/
structure Scattered (s : State) (home : Nat → Nat) (bytes : Nat → List Byte) (size m : Nat) (t : State) : Prop where
  beside : Beside s t
  written : ∀ i b, i < m → b < size → memRead t.mem (home i + b) = (bytes i).getD b 0
  rest : ∀ a, (∀ i, i < m → a < home i ∨ home i + size ≤ a) → memRead t.mem a = memRead s.mem a

theorem Scattered.next {s t w : State} {home : Nat → Nat} {bytes : Nat → List Byte} {size m : Nat}
    (h : Scattered s home bytes size m t) (hw : WrittenTo t w (home m) (bytes m)) (hlen : (bytes m).length = size)
    (hapart : ∀ i, i < m → home i + size ≤ home m ∨ home m + size ≤ home i) : Scattered s home bytes size (m + 1) w where
  beside := h.beside.trans hw.beside
  written i b hi hb := by
    rw [hw.mem, memRead_memWriteList, hlen]
    by_cases him : i = m
    · subst him
      rw [if_pos (by omega), Nat.add_sub_cancel_left]
    · have := hapart i (by omega)
      rw [if_neg (by omega)]
      exact h.written i b (by omega) hb
  rest a ha := by
    have := ha m (by omega)
    rw [hw.mem, memRead_memWriteList, hlen, if_neg (by omega)]
    exact h.rest a fun i hi => ha i (by omega)

theorem performJob_scatter {s : State} {k v size : Nat} {u : Untimed} {idx : List Nat} {place : Place} {home : Nat → Nat}
    (hu : u.job = .scatter v size idx place) (hheld : u.held = none) (hroom : logCount s (coreIx k) 2 < 256)
    (hfirst : ∀ w ∈ (ctxOf s k).allUntimed, w.seq < u.seq → isLogged s k w = false)
    (hhome : ∀ i x, idx[i]? = some x → translate s k (entryAddr v size x) = .hit ⟨.plain, 0, home i, true⟩)
    (hapart : ∀ i j, i < idx.length → j < idx.length → i ≠ j → home i + size ≤ home j ∨ home j + size ≤ home i) :
    let t := performJob s k u
    let n := idx.length
    IsDone t k u.seq ∧
      (∀ i b, i < n → b < size → memRead t.mem (home i + b) = memRead (bufPrior s k place.buf place.off (n * size)) (i * size + b)) ∧
      (∀ a, (∀ i, i < n → a < home i ∨ home i + size ≤ a) → memRead t.mem a = memRead s.mem a) ∧
      (∀ c q a, memRead ((coreOf t c).bufMem q) a = memRead ((coreOf s c).bufMem q) a) ∧
      ∀ j, SameRegisters (ctxOf s j) (ctxOf t j) := by
  intro t n
  have hjob : performJob s k u = performScatter s k u v size idx place := by rw [performJob, hu]
  have ht := hjob.trans (performScatter_ok hu hheld hroom hfirst hhome)
  have hstored := foldl_range_induction (n := n)
    (P := Scattered (noteFault s k u.seq none) home (scattered s k place n size) size)
    (f := fun w i => storeAt w k u.seq 0 (entryAddr v size (idx.getD i 0)) ⟨.plain, 0, home i, true⟩ (scattered s k place n size i) false)
    ⟨.refl _, fun i b hi => absurd hi (Nat.not_lt_zero i), fun _ _ => rfl⟩
    fun i w hi hw => hw.next (storeAt_writes_plain rfl) (length_scattered hi) fun j hj => hapart j i (by omega) hi (by omega)
  obtain ⟨hbeside, hwritten, hrest⟩ := hstored
  have hall := (beside_noteFault s k u.seq none).trans hbeside
  simp only [t, ht]
  refine ⟨isDone_finishJob _ _ _ _ _, fun i b hi hb => (hwritten i b hi hb).trans (getD_scattered hi hb), hrest, fun c q a => ?_,
    fun j => (hall.regs j).trans ((issueKept_modUntimed ..).regs j)⟩
  have hcore : ∀ w m, coreOf (nextFresh (finishJob w k u.seq none none) m) c = coreOf w c := fun _ _ => rfl
  rw [hcore, hall.coreOf]

/-! ### Transfers piece by piece (R276, R278) -/

@[simp] theorem settle_mem (s : State) (k seq : Nat) : (settle s k seq).mem = s.mem := by unfold settle; split <;> rfl

@[simp] theorem settle_outbound (s : State) (k seq : Nat) : (settle s k seq).outbound = s.outbound := by unfold settle; split <;> rfl

theorem Beside.task {s t : State} (h : Beside s t) (k : Nat) : (ctxOf t k).task = (ctxOf s k).task := by
  obtain ⟨-, -, -, htask⟩ := (h.regs k).place
  exact htask.symm

/-- The pieces of a run, one after the other. -/
theorem foldl_pieces (f : State → Nat × Nat × Nat → State) (s : State) (v off n : Nat) :
    (pieces v off n).foldl f s = (List.range n).foldl (fun t i => f t (i, v + 64 * i, off + 64 * i)) s := by
  rw [pieces, List.foldl_map]

/-- The `i`-th piece of 64 bytes of a place in a buffer. -/
def pieceRead (s : State) (k : Nat) (place : Place) (i : Nat) : List Byte :=
  memReadList (bufPrior s k place.buf (place.off + 64 * i) 64) 0 64

/-- A byte of a place in a buffer, read by the piece. -/
def pieceByte (s : State) (k : Nat) (place : Place) (i : Nat) : Byte :=
  memRead (bufPrior s k place.buf (place.off + 64 * (i / 64)) 64) (i % 64)

@[simp] theorem length_pieceRead (s : State) (k : Nat) (place : Place) (i : Nat) : (pieceRead s k place i).length = 64 :=
  length_memReadList ..

theorem pieceByte_of_lt (s : State) (k : Nat) (place : Place) (i : Nat) {b : Nat} (hb : b < 64) : pieceByte s k place (64 * i + b) =
    memRead (bufPrior s k place.buf (place.off + 64 * i) 64) b := by
  have hdiv : (64 * i + b) / 64 = i := by omega
  have hmod : (64 * i + b) % 64 = b := by omega
  rw [pieceByte, hdiv, hmod]

theorem getD_pieceRead (s : State) (k : Nat) (place : Place) (i : Nat) {b : Nat} (hb : b < 64) :
    (pieceRead s k place i).getD b 0 = pieceByte s k place (64 * i + b) := by
  rw [pieceRead, getD_memReadList _ _ hb, pieceByte_of_lt s k place i hb, Nat.zero_add]

theorem pieceRead_eq (s : State) (k : Nat) (place : Place) (i : Nat) :
    pieceRead s k place i = (List.range 64).map fun b => pieceByte s k place (64 * i + b) :=
  List.map_congr_left fun b hb => by rw [pieceByte_of_lt s k place i (by simpa using hb), Nat.zero_add]

/-! ### DPUT and FPUT -/

section
variable {s : State} {k : Nat}

/-- What each piece's write carries on holds once a transfer to memory has written its last. -/
theorem performPut_induction {v n p : Nat} {ok : Spot → Prop} {P : Nat → State → Prop} (u : Untimed) (place : Place)
    (hpieces : piecesAt s k v n p ok) (h0 : P 0 s) (hs : ∀ i t q bad, i < n → q.paddr = p + 64 * i → ok q → P i t →
      P (i + 1) (storeAt t k u.seq i (v + 64 * i) q (pieceRead s k place i) bad)) :
    ∃ t, P n t ∧ performPut s k u v place n = settle t k u.seq := by
  have hheld : firstHeld s k ((pieces v place.off n).map fun p => p.2.1) = none := firstHeld_none fun a ha => by
    obtain ⟨i, hi, rfl⟩ : ∃ i, i < n ∧ v + 64 * i = a := by simpa [pieces] using ha
    obtain ⟨q, hq, -⟩ := hpieces i hi
    exact ⟨q, hq⟩
  simp only [performPut, whenMapped, hheld, foldl_pieces]
  refine ⟨_, ?_, rfl⟩
  refine foldl_range_induction h0 fun i t hi ht => ?_
  obtain ⟨q, hq, haddr, hok⟩ := hpieces i hi
  rw [hq]
  exact hs i t q _ hi haddr hok ht

/-- The first `i` pieces of a place in a buffer stand in memory from `p` on. -/
structure Put (s : State) (k : Nat) (place : Place) (p i : Nat) (t : State) : Prop where
  written : MemoryWritten s t p (64 * i) (pieceByte s k place)
  beside : Beside s t

theorem put_zero (place : Place) (p : Nat) : Put s k place p 0 s :=
  ⟨(Beside.refl s).memoryWritten_nil rfl p _, .refl s⟩

theorem Put.next {place : Place} {p i : Nat} {t w : State} (h : Put s k place p i t)
    (hw : WrittenTo t w (p + 64 * i) (pieceRead s k place i)) : Put s k place p (i + 1) w := by
  refine ⟨?_, h.beside.trans hw.beside⟩
  have := h.written.append hw fun b hb => getD_pieceRead s k place i (by simpa using hb)
  rwa [length_pieceRead, ← Nat.mul_succ] at this

/-- A transfer that has written its pieces is done when none of its transactions is outstanding. -/
theorem Put.settle {place : Place} {p n seq : Nat} {t : State} (h : Put s k place p n t) (ho : isOutstanding s k seq = false) :
    MemoryWritten s (settle t k seq) p (64 * n) (pieceByte s k place) ∧ IsDone (settle t k seq) k seq := by
  rw [settle_finished ((h.beside.fabric.isOutstanding k seq).trans ho)]
  exact ⟨h.written.finishJob .., isDone_finishJob _ _ _ _ _⟩

theorem performPut_dur {v n p : Nat} {u : Untimed} {place : Place} {x : Task} (hx : (ctxOf s k).task = some x) (ht : x.twin = false)
    (ho : isOutstanding s k u.seq = false) (h : piecesAt s k v n p (fun q => q.kind = .dur)) :
    MemoryWritten s (performPut s k u v place n) p (64 * n) (pieceByte s k place) ∧ IsDone (performPut s k u v place n) k u.seq := by
  obtain ⟨t, hput, heq⟩ := performPut_induction (P := Put s k place p) u place h (put_zero ..) fun i t q bad _ haddr hkind hput =>
    hput.next (haddr ▸ storeAt_writes_dur hkind (by rw [hput.beside.task, hx]; exact ht))
  rw [heq]
  exact hput.settle ho

theorem performPut_home {v n p : Nat} {u : Untimed} {place : Place} {x : Task} (hx : (ctxOf s k).task = some x) (ht : x.twin = false)
    (hs : x.spec = false) (ho : isOutstanding s k u.seq = false)
    (h : piecesAt s k v n p (fun q => q.kind = .rem ∧ q.pkg = s.pkgId ∧ homeAccepts s s.pkgId x.tenant q.paddr 64 = true)) :
    MemoryWritten s (performPut s k u v place n) p (64 * n) (pieceByte s k place) ∧ IsDone (performPut s k u v place n) k u.seq := by
  obtain ⟨t, hput, heq⟩ := performPut_induction (P := Put s k place p) u place h (put_zero ..)
    fun i t q bad _ haddr ⟨hkind, hpkg, hacc⟩ hput => by
      have hid := hput.beside.home.1
      refine hput.next (haddr ▸ storeAt_writes_home hkind ((hput.beside.task k).trans hx) ht hs (hpkg.trans hid.symm) ?_)
      rw [hput.beside.homeAccepts, hid, length_pieceRead]
      exact hacc
  rw [heq]
  exact hput.settle ho

/-! ### Transactions of a transfer (R115, R276, R363) -/

/-- What a transaction asks of another package: its destination, operation, address and data. -/
def asked (o : Outbound) : Nat × Nat × Nat × List Byte := (o.dest, o.tr.op.val, o.tr.addr.toNat, o.tr.data)

theorem sendTrans_asked (s : State) (k seq ix dest op addr detail : Nat) (data : List Byte) :
    (sendTrans s k seq ix dest op addr detail data).outbound.map asked =
      s.outbound.map asked ++ [(dest, op % 16, addr % 2 ^ 45, padData data)] := by
  simp [sendTrans, enter, asked, makeTrans, Fin.ofNat]

theorem padData_line {data : List Byte} (h : data.length = 64) : padData data = data := by
  simp [padData, h]

/-- A write of the fabric to another package is one transaction (R115). -/
theorem storeAt_sends {seq ix v : Nat} {p : Spot} {bytes : List Byte} {bad : Bool} {x : Task} (hp : p.kind = .rem)
    (hx : (ctxOf s k).task = some x) (ht : x.twin = false) (hs : x.spec = false) (hpkg : p.pkg ≠ s.pkgId) :
    storeAt s k seq ix v p bytes bad =
      sendTrans (logWrite s k seq v bytes) k seq ix p.pkg 0 p.paddr (writeDetail bytes bad) bytes := by
  have htask : (ctxOf (logWrite s k seq v bytes) k).task = some x := by rw [ctxOf, logWrite_ctxs]; exact hx
  have hid : (logWrite s k seq v bytes).pkgId = s.pkgId := (beside_logWrite s k seq v bytes).home.1
  simp only [storeAt, hp, putRemote, htask, ht, hs, hid, hpkg, Bool.false_eq_true, if_false]

/-- `i` transactions of operation `op` have entered the fabric to package `g`, one for each piece from `p` on. -/
structure Sent (s : State) (g op p : Nat) (data : Nat → List Byte) (i : Nat) (t : State) : Prop where
  mem : t.mem = s.mem
  ctxs : t.ctxs = s.ctxs
  pkgId : t.pkgId = s.pkgId
  outbound : t.outbound.map asked = s.outbound.map asked ++ (List.range i).map fun j => (g, op, p + 64 * j, data j)

theorem sent_zero (g op p : Nat) (data : Nat → List Byte) : Sent s g op p data 0 s := ⟨rfl, rfl, rfl, by simp⟩

theorem Sent.next {g op p i : Nat} {data : Nat → List Byte} {t w : State} (h : Sent s g op p data i t) (hmem : w.mem = t.mem)
    (hctxs : w.ctxs = t.ctxs) (hpkg : w.pkgId = t.pkgId) (hout : w.outbound = t.outbound) (hop : op < 16) (hp : p + 64 * i < 2 ^ 45)
    {bytes : List Byte} (hdata : padData bytes = data i) (seq ix detail : Nat) :
    Sent s g op p data (i + 1) (sendTrans w k seq ix g op (p + 64 * i) detail bytes) where
  mem := hmem.trans h.mem
  ctxs := hctxs.trans h.ctxs
  pkgId := hpkg.trans h.pkgId
  outbound := by
    rw [sendTrans_asked, hout, h.outbound, hdata, Nat.mod_eq_of_lt hop, Nat.mod_eq_of_lt hp, List.range_succ, List.map_append,
      List.append_assoc]
    rfl

theorem performPut_sends {v n p g : Nat} (u : Untimed) (place : Place) {x : Task} (hx : (ctxOf s k).task = some x)
    (ht : x.twin = false) (hs : x.spec = false) (hg : g ≠ s.pkgId) (hp : p + 64 * n ≤ 2 ^ 45)
    (h : piecesAt s k v n p (fun q => q.kind = .rem ∧ q.pkg = g)) :
    (performPut s k u v place n).mem = s.mem ∧ (performPut s k u v place n).outbound.map asked =
      s.outbound.map asked ++ (List.range n).map fun i => (g, 0, p + 64 * i, pieceRead s k place i) := by
  obtain ⟨t, hsent, heq⟩ := performPut_induction (P := Sent s g 0 p (pieceRead s k place)) u place h (sent_zero ..)
    fun i t q bad hi haddr ⟨hkind, hpkg⟩ hsent => by
      have htask : (ctxOf t k).task = some x := by rw [ctxOf, hsent.ctxs]; exact hx
      have hlog := beside_logWrite t k u.seq (v + 64 * i) (pieceRead s k place i)
      rw [storeAt_sends hkind htask ht hs (by rwa [hpkg, hsent.pkgId]), hpkg, haddr]
      exact hsent.next (logWrite_frame ..).1 (logWrite_ctxs ..) hlog.home.1 hlog.fabric.outbound (by omega) (by omega)
        (padData_line (length_pieceRead ..)) ..
  rw [heq, settle_mem, settle_outbound]
  exact ⟨hsent.mem, hsent.outbound⟩

/-! ### DGET and FGET -/

/-- A piece of memory that is not marked lands whole. -/
theorem landPiece_written (t : State) (place : Place) (i : Nat) {bytes : List Byte} (hlen : bytes.length = 64) :
    BufferWritten t (landPiece t k place i bytes false) k place.buf (place.off + 64 * i) 64 (bytes.getD · 0) :=
  ((bufferWritten_bufWrite t k place.buf _ 64 [] (wf_memWriteList wf_nil 0 bytes)).nextFresh 0).congr fun b hb =>
    memRead_ofList (by omega)

/-- The first `i` pieces from `p` on, as the context's node sees them, stand in a place of its buffers. -/
structure Got (s : State) (k : Nat) (place : Place) (p i : Nat) (t : State) : Prop where
  written : BufferWritten s t k place.buf place.off (64 * i)
    fun b => physRead s (nodeIds (ctxOf s k)).1 (nodeIds (ctxOf s k)).2 (p + b)
  fabric : SameFabric s t

theorem got_zero (place : Place) (p : Nat) : Got s k place p 0 s := ⟨.refl_nil .., .refl s⟩

theorem Got.next {place : Place} {p i : Nat} {t : State} (h : Got s k place p i t) {bytes : List Byte}
    (hbytes : bytes = (homeRead s k (p + 64 * i) 64).1) : Got s k place p (i + 1) (landPiece t k place i bytes false) := by
  subst hbytes
  refine ⟨h.written.append (landPiece_written t place i (length_physReadList ..)) fun b hb => ?_, h.fabric.trans ⟨rfl, rfl, rfl⟩⟩
  exact (getD_physReadList _ _ _ _ hb).trans (by rw [Nat.add_assoc])

theorem performDget_ok {v n p : Nat} (u : Untimed) (place : Place) (h : piecesAt s k v n p (fun q => isMarked s q.paddr = false)) :
    BufferWritten s (performDget s k u v place n) k place.buf place.off (64 * n)
      (fun b => physRead s (nodeIds (ctxOf s k)).1 (nodeIds (ctxOf s k)).2 (p + b)) ∧ IsDone (performDget s k u v place n) k u.seq := by
  rw [performDget, foldl_pieces]
  refine ⟨BufferWritten.finishJob ?_ .., isDone_finishJob _ _ _ _ _⟩
  refine (foldl_range_induction (P := Got s k place p) (got_zero ..) fun i t hi hgot => ?_).written
  obtain ⟨q, hq, haddr, hmark⟩ := h i hi
  have hread : (homeRead s k q.paddr 64).2 = false := hmark
  rw [hq]
  dsimp only
  rw [hread]
  exact hgot.next (by rw [haddr])

/-- With nothing staged, a node sees what stands at home. -/
theorem heldFabric_unstaged (hs : (nodeOf s (nodeIds (ctxOf s k)).1 (nodeIds (ctxOf s k)).2).staged = []) (pkg a : Nat)
    (bytes : List Byte) : heldFabric s k pkg a bytes = bytes := by
  simp [heldFabric, overStaged, hs]

theorem performFget_home {v n p : Nat} (u : Untimed) (place : Place) (ho : isOutstanding s k u.seq = false)
    (hs : (nodeOf s (nodeIds (ctxOf s k)).1 (nodeIds (ctxOf s k)).2).staged = [])
    (h : piecesAt s k v n p (fun q => q.pkg = s.pkgId ∧ isMarked s q.paddr = false ∧
      homeAccepts s s.pkgId (nodeIds (ctxOf s k)).1 q.paddr 64 = true)) :
    BufferWritten s (performFget s k u v place n) k place.buf place.off (64 * n)
      (fun b => physRead s (nodeIds (ctxOf s k)).1 (nodeIds (ctxOf s k)).2 (p + b)) ∧ IsDone (performFget s k u v place n) k u.seq := by
  obtain ⟨t, hgot, heq⟩ : ∃ t, Got s k place p n t ∧ performFget s k u v place n = settle t k u.seq := by
    rw [performFget, foldl_pieces]
    refine ⟨_, ?_, rfl⟩
    refine foldl_range_induction (got_zero ..) fun i t hi hgot => ?_
    obtain ⟨q, hq, haddr, hpkg, hmark, hacc⟩ := h i hi
    rw [hq]
    dsimp only
    rw [if_pos hpkg, if_pos hacc, hmark, heldFabric_unstaged hs]
    exact hgot.next (by rw [haddr])
  rw [heq, settle_finished ((hgot.fabric.isOutstanding k u.seq).trans ho)]
  exact ⟨hgot.written.finishJob .., isDone_finishJob _ _ _ _ _⟩

theorem performFget_asks {v n p g : Nat} (u : Untimed) (place : Place) (hg : g ≠ s.pkgId) (hp : p + 64 * n ≤ 2 ^ 45)
    (h : piecesAt s k v n p (fun q => q.pkg = g)) :
    (performFget s k u v place n).mem = s.mem ∧ (performFget s k u v place n).outbound.map asked =
      s.outbound.map asked ++ (List.range n).map fun i => (g, 1, p + 64 * i, []) := by
  obtain ⟨t, hsent, heq⟩ : ∃ t, Sent s g 1 p (fun _ => []) n t ∧ performFget s k u v place n = settle t k u.seq := by
    rw [performFget, foldl_pieces]
    refine ⟨_, ?_, rfl⟩
    refine foldl_range_induction (sent_zero ..) fun i t hi hsent => ?_
    obtain ⟨q, hq, haddr, hpkg⟩ := h i hi
    rw [hq]
    dsimp only
    rw [if_neg (hpkg ▸ hg), hpkg, haddr]
    exact hsent.next rfl rfl rfl rfl (by omega) (by omega) rfl ..
  rw [heq, settle_mem, settle_outbound]
  exact ⟨hsent.mem, hsent.outbound⟩

end

section
variable {s : State} {k v n : Nat} {u : Untimed} {place : Place}

theorem performJob_dput (h : u.job = .dput v place n) : performJob s k u = performPut s k u v place n := by rw [performJob, h]

theorem performJob_fput (h : u.job = .fput v place n) : performJob s k u = performPut s k u v place (4 * n) := by rw [performJob, h]

theorem performJob_dget (h : u.job = .dget v place n) : performJob s k u = performDget s k u v place n := by rw [performJob, h]

theorem performJob_fget (h : u.job = .fget v place n) : performJob s k u = performFget s k u v place (4 * n) := by rw [performJob, h]

end

/-- Settles O49, a clause for each command at issue, then for each transfer as it performs. -/
theorem engineWork : Obligations.EngineWork := by
  unfold Obligations.EngineWork
  have hbytes : ∀ n, 64 * (4 * n) = 256 * n := fun n => by omega
  refine ⟨?gatherOp, ?transfers, ?fatom, ?queues, ?launch, ?signal, ?gather, ?scatter, ?put, ?get⟩
  case gatherOp =>
    intro s d a b lsz buf iw n c size base off w idx addrs hslot hport halign hok hkind
    exact ⟨fun hbuf => gatherOp_ok false hslot hport halign hok hkind (by rcases hbuf with rfl | rfl <;> rfl),
      fun hbuf => gatherOp_ok true hslot hport halign hok hkind (by simpa using hbuf)⟩
  case transfers =>
    exact fun s a b buf n hslot =>
      ⟨fun hv hok => ⟨fun hb hseg => exec_fput hslot hv hok hb hseg, fun hseg => exec_fget hslot hv hok hseg⟩,
        fun hv => ⟨fun hb hok hseg => exec_dput hslot hv hb hok hseg, fun hok hseg => exec_dget hslot hv hok hseg⟩⟩
  case fatom => exact fun s d a b op sz64 sx sys hslot hseg hroom => exec_fatom hslot d a b op sz64 sx sys hseg hroom
  case queues => exact fun s d a b q eos hslot => ⟨exec_qsend hslot a b q eos, fun hroom => exec_qrecv hslot hroom q⟩
  case launch => exact fun s a hslot hoff hpart hpend hroom => exec_launch hslot a hoff hpart hpend hroom
  case signal => exact fun s a b msi vec hslot hseg hvec => exec_signal hslot a b msi vec hseg hvec
  case gather => exact fun s k v size u idx place hu h => performJob_gather hu h
  case scatter =>
    exact fun s k v size u idx place home hu _ hheld hroom hfirst hhome hapart =>
      performJob_scatter hu hheld hroom hfirst (fun i x hx => (hhome i x hx).2) hapart
  case put =>
    intro s k v n p u place x hx ht t piece ho
    refine ⟨fun hu h => ?_, fun hu hs => ⟨fun h => ?_, fun g hg hp h => ?_⟩⟩
    · simp only [t, performJob_dput hu]
      exact performPut_dur hx ht ho h
    · simp only [t, performJob_fput hu, ← hbytes]
      exact performPut_home hx ht hs ho h
    · obtain ⟨hmem, hout⟩ := performPut_sends u place hx ht hs hg (by omega) h
      simp only [pieceRead_eq] at hout
      simp only [t, performJob_fput hu]
      exact ⟨hmem, hout⟩
  case get =>
    intro s k v n p u place ids t read
    refine ⟨fun hu h => ?_, fun hu ho => ⟨fun hs h => ?_, fun g hg hp h => ?_⟩⟩
    · simp only [t, performJob_dget hu]
      exact performDget_ok u place h
    · simp only [t, performJob_fget hu, ← hbytes]
      exact performFget_home u place ho hs h
    · simp only [t, performJob_fget hu]
      exact performFget_asks u place hg (by omega) h

end Sys2Proof.Machine
end

section
/-! PROOFS. A cluster that retires with a context whose sync group does not list it (R35, R378). -/

namespace Sys2Proof.Machine

/-- A machine whose context 0, of cluster 0, runs a task and lists a sync group of context 1 alone. -/
def strayMember : State :=
  { State.reset with
    ctxs := [(0, { Ctx.reset with task := some placedTask, group := [1] })]
    diesT := [(0, { DieState.reset with spares := 1 })] }

/-- Its cluster retires: context 0 stands in it, runs, and yet has no pre-emption posted. -/
theorem strayMember_retires :
    0 ∈ occupants strayMember 0 ∧ (ctxOf strayMember 0).freeze = none ∧ (ctxOf strayMember 0).halted = none ∧
      goesOnTo (fun t => (ctxOf t 0).preAt.isNone) (exec (.clusterRetire 0 0) strayMember) = true := by decide +kernel

/-- Refutes O60, in the clause of CLUSTER_RETIRE: a context of the retired cluster can be left without a pre-emption. The clause would
need the premise that a context that is in a sync group lists itself there: the posting goes to the members that are listed. -/
theorem not_powerAndService : ¬ Obligations.PowerAndService := by
  unfold Obligations.PowerAndService
  rintro ⟨-, -, -, -, -, -, -, -, -, hretire, -⟩
  obtain ⟨hin, hfreeze, hhalted, hleft⟩ := strayMember_retires
  obtain ⟨t, ht, -, -, hpre⟩ := ((hretire strayMember 0 (by decide)).2 rfl rfl).2.1 0 hin (by decide) hfreeze hhalted
  rw [ht] at hleft
  exact hpre (Option.isNone_iff_eq_none.mp hleft)

end Sys2Proof.Machine
end

section
/-! PROOFS. The scalar operations (R102, R164, R196–R203). -/

namespace Sys2Proof.Machine

/-! ### The values of the S operations (R197–R202) -/

theorem boolWord_slt (x y : W64) : boolWord (x.slt y) = if x.toInt < y.toInt then 1 else 0 := by simp [boolWord, BitVec.slt]

theorem boolWord_ult (x y : W64) : boolWord (x.ult y) = if x.toNat < y.toNat then 1 else 0 := by simp [boolWord, BitVec.ult]

theorem boolWord_beq (x y : W64) : boolWord (x == y) = if x = y then 1 else 0 := by simp [boolWord]

theorem ofInt_min_toInt (x y : W64) : BitVec.ofInt 64 (min x.toInt y.toInt) = if x.slt y then x else y := by
  rcases Int.lt_or_le x.toInt y.toInt with h | h
  · simp [BitVec.slt, h, Int.min_eq_left h.le]
  · simp [BitVec.slt, h]

theorem ofInt_max_toInt (x y : W64) : BitVec.ofInt 64 (max x.toInt y.toInt) = if x.slt y then y else x := by
  rcases Int.lt_or_le x.toInt y.toInt with h | h
  · simp [BitVec.slt, h, Int.max_eq_right h.le]
  · simp [BitVec.slt, h]

theorem ofNat_min_toNat (x y : W64) : BitVec.ofNat 64 (min x.toNat y.toNat) = if x.ult y then x else y := by
  rcases Nat.lt_or_ge x.toNat y.toNat with h | h
  · simp [BitVec.ult, h, Nat.min_eq_left h.le]
  · simp [BitVec.ult, h]

theorem ofNat_max_toNat (x y : W64) : BitVec.ofNat 64 (max x.toNat y.toNat) = if x.ult y then y else x := by
  rcases Nat.lt_or_ge x.toNat y.toNat with h | h
  · simp [BitVec.ult, h, Nat.max_eq_right h.le]
  · simp [BitVec.ult, h]

theorem getElem_lowOnes (n : Nat) {i : Nat} (hi : i < 64) : (lowOnes n)[i] = decide (i < n) := by
  simp [lowOnes, ← BitVec.getLsbD_eq_getElem, BitVec.getLsbD_ofNat, Nat.testBit_two_pow_sub_one, hi]

/-- EXTS: the field's highest bit, at the top after the first shift, fills what the second one opens (R201). -/
theorem signedField_eq (x : W64) {pos len : Nat} (h : pos + len < 64) :
    (x <<< (63 - len - pos)).sshiftRight (63 - len) = (x.extractLsb' pos (len + 1)).signExtend 64 := by
  refine BitVec.eq_of_getElem_eq fun i hi => ?_
  rw [BitVec.getElem_sshiftRight, BitVec.getElem_signExtend, BitVec.msb_eq_getLsbD_last, BitVec.msb_eq_getLsbD_last]
  by_cases hl : i ≤ len
  · have hs : 63 - len + i < 64 := by omega
    have hp : ¬63 - len + i < 63 - len - pos := by omega
    have hd : 63 - len + i - (63 - len - pos) = pos + i := by omega
    simp [hs, hp, hd, Nat.lt_succ_iff.mpr hl]
    grind
  · have hs : ¬63 - len + i < 64 := by omega
    have hp : ¬63 < 63 - len - pos := by omega
    have hd : 63 - (63 - len - pos) = pos + len := by omega
    simp [hs, hp, hd, hl]
    grind

theorem field_eq (x : W64) (pos len : Nat) :
    (x >>> pos) &&& lowOnes (len + 1) = (x.extractLsb' pos (len + 1)).setWidth 64 := by
  refine BitVec.eq_of_getElem_eq fun i hi => ?_
  simp [getElem_lowOnes _ hi, Bool.and_comm]

theorem placedField_eq (x : W64) (pos len : Nat) :
    (x <<< pos) &&& (lowOnes (len + 1) <<< pos) = (x.extractLsb' 0 (len + 1)).setWidth 64 <<< pos := by
  rw [← field_eq, BitVec.ushiftRight_zero, BitVec.shiftLeft_and_distrib]

theorem highProduct_signed (x y : W64) :
    BitVec.ofInt 64 (x.toInt * y.toInt / 2 ^ 64) = (x.signExtend 128 * y.signExtend 128).extractLsb' 64 64 := by
  have h : x.signExtend 128 * y.signExtend 128 = BitVec.ofInt 128 (x.toInt * y.toInt) := (BitVec.ofInt_mul ..).symm
  refine BitVec.eq_of_toNat_eq ?_
  simp only [h, BitVec.extractLsb'_toNat, BitVec.toNat_ofInt, Nat.shiftRight_eq_div_pow]
  omega

theorem highProduct_unsigned (x y : W64) :
    BitVec.ofNat 64 (x.toNat * y.toNat / 2 ^ 64) = (x.setWidth 128 * y.setWidth 128).extractLsb' 64 64 := by
  have hx : x.toNat % 2 ^ 128 = x.toNat := by omega
  have hy : y.toNat % 2 ^ 128 = y.toNat := by omega
  refine BitVec.eq_of_toNat_eq ?_
  simp only [BitVec.toNat_ofNat, BitVec.extractLsb'_toNat, BitVec.toNat_mul, BitVec.toNat_setWidth, hx, hy,
    Nat.shiftRight_eq_div_pow]
  omega

/-! ### The S operations at issue (R102, R164, R196) -/

section
variable {s : State} {lat occ : Nat} {d : SReg}

/-- Every S operation is a `scalarOp` of its latency, occupancy and destination, and of its value where it is well-formed. -/
theorem exec_of_scalarResult {i : Instr} {x : W64} (h : scalarResult (here s) i = some (lat, occ, d, x)) :
    ∃ y, exec i s = scalarOp lat occ d y s ∧ (i.wf = true → y = x) := by
  unfold scalarResult at h
  split at h
  case h_42 => cases h
  all_goals
    obtain ⟨rfl, rfl, rfl, rfl⟩ := h
    refine ⟨_, rfl, fun hwf => ?_⟩
  case h_9 => exact boolWord_slt ..
  case h_10 => exact boolWord_ult ..
  case h_11 => exact boolWord_beq ..
  case h_12 => exact (ofInt_min_toInt ..).symm
  case h_13 => exact (ofInt_max_toInt ..).symm
  case h_14 => exact (ofNat_min_toNat ..).symm
  case h_15 => exact (ofNat_max_toNat ..).symm
  case h_23 => exact (boolWord_slt ..).trans (by rw [sext64, BitVec.toInt_signExtend_of_le (by decide)])
  case h_30 => exact signedField_eq _ (of_decide_eq_true hwf)
  case h_31 => exact field_eq ..
  case h_32 => exact congrArg (_ ||| ·) (placedField_eq ..)
  case h_34 => exact highProduct_signed ..
  case h_35 => exact highProduct_unsigned ..
  all_goals rfl

theorem noCollision_occupy (w : RegWrite) : noCollision (occupy s occ) lat w = noCollision s lat w := by
  simp [noCollision, collides_occupy]

theorem scalarOp_busy (h : slotFree s = false) (x : W64) :
    scalarOp lat occ d x s = .next (raiseAtIssue s 0x03 (some (BitVec.ofNat 64 s.slot.code))) := by
  rw [scalarOp, withSlot_busy h, finish_trap]

theorem scalarOp_collides (h : slotFree s = true) {x : W64} (hc : noCollision s lat (.s d x) = false) :
    scalarOp lat occ d x s = .next (raiseAtIssue s 0x0A (some (BitVec.ofNat 64 d.val))) := by
  have hr : result (occupy s occ) lat (.s d x) = .trap 0x0A (some (BitVec.ofNat 64 d.val)) :=
    flyTo_scalar_collides ((noCollision_occupy _).trans hc) ..
  rw [scalarOp, withSlot_free h, hr, finish_trap]

end

/-- Settles O11: every S operation is a `scalarOp`, which has one result and two faults. -/
theorem scalarResults : Obligations.ScalarResults := by
  unfold Obligations.ScalarResults
  refine ⟨fun s i lat occ d x hwf h hl => ?_, fun s i lat occ d x h => ?_⟩
  · obtain ⟨y, he, hv⟩ := exec_of_scalarResult h
    rw [he, hv hwf, scalarOp_next hl]
  · obtain ⟨y, he, -⟩ := exec_of_scalarResult h
    rw [he]
    exact ⟨fun hs => scalarOp_busy hs y, fun hs hc => scalarOp_collides hs hc⟩

end Sys2Proof.Machine
end

section
/-! PROOFS. The operations that neither branch nor wait, and pins (R91, R110, R112, R173, R179–R184). -/

namespace Sys2Proof.Machine

/-! ### Operations that take effect at once or join the untimed order (R110, R112, R173, R179, R181, R183, R184) -/

section
variable {s : State}

/-- An operation that finds its slot free is what it does. -/
theorem finish_withSlot (h : slotFree s = true) (f : State → Issue) : finish s (withSlot s f) = finish s (f s) := by
  rw [withSlot_free h]

variable (h : slotFree s = true)
include h

theorem exec_idle (n : BitVec 12) : exec (.idle n) s = .next (modHere s (fun c => { c with idle := n.toNat })) :=
  finish_withSlot h _

theorem exec_barinit (a b : SReg) : exec (.barinit a b) s =
    .next (flown s 1 (.barInit (((here s).readS a).toNat % 64) (((here s).readS b).setWidth 16)) []) := by
  have hx : fieldOf ((here s).readS a).toNat 0 6 = ((here s).readS a).toNat % 64 := by simp [fieldOf]
  rw [← hx]
  exact finish_withSlot h _

theorem exec_bararr (a : SReg) (hb : barrierOk s ((here s).readS a) = true) : exec (.bararr a) s =
    .next (queued s (.arrive (barrierName ((here s).readS a))) none false [] []) := by
  refine (finish_withSlot h _).trans ?_
  simp only [hb, if_true, issueUntimed_none, finish_ok]

theorem exec_fence (sc : Scope) : exec (.fence sc) s = .next (queued s (.fence sc) none false [] []) :=
  (finish_withSlot h _).trans (by rw [issueUntimed_none, finish_ok])

theorem exec_trap (imm : BitVec 19) : exec (.trap imm) s =
    .next (modHere s (fun c => { c with causes := c.causes ++ [(0x13, imm.setWidth 64)] })) :=
  finish_withSlot h _

theorem exec_ipf (a b : SReg) (l : CacheLevel) : exec (.ipf a b l) s = .next s := finish_withSlot h _

theorem exec_ipin (a b : SReg) (l2 : Bool) : exec (.ipin a b l2) s = .next (modPins s l2 (fun pins =>
    pinBlocks (if l2 then 0x10_0000 else 0x2_0000) (nodeIds (here s)) pins
      (codeBlocks (here s) ((here s).readS a) ((here s).readS b)))) :=
  finish_withSlot h _

theorem exec_iunpin (a b : SReg) (l2 : Bool) : exec (.iunpin a b l2) s = .next (modPins s l2 (fun pins =>
    unpinBlocks (nodeIds (here s)) pins (codeBlocks (here s) ((here s).readS a) ((here s).readS b)))) :=
  finish_withSlot h _

end

/-! ### Pins (R91, R183) -/

section
variable {limit : Nat} {ids : Nat × Nat} {pins qs : List (Nat × Nat × Nat)} {b : Nat} {blocks : List Nat}

theorem nodup_eraseDups : ∀ l : List Nat, l.eraseDups.Nodup
  | [] => by simp
  | a :: l => by
    rw [List.eraseDups_cons, List.nodup_cons]
    exact ⟨by simp, nodup_eraseDups _⟩
  termination_by l => l.length
  decreasing_by exact Nat.lt_succ_of_le (List.length_filter_le ..)

/-- Pins take 64 bytes for each block that is pinned, by however many nodes. -/
theorem pinnedBytes_eq (pins : List (Nat × Nat × Nat)) : pinnedBytes pins = 64 * (pins.map (fun p => p.1)).toFinset.card := by
  rw [pinnedBytes, ← List.toFinset_card_of_nodup (nodup_eraseDups _)]
  congr 2
  ext x
  simp

theorem pinnedBytes_mono (h : pins ⊆ qs) : pinnedBytes pins ≤ pinnedBytes qs := by
  rw [pinnedBytes_eq, pinnedBytes_eq]
  exact Nat.mul_le_mul_left 64 (Finset.card_le_card fun x hx => by
    simpa using List.map_subset _ h (List.mem_toFinset.mp hx))

theorem toFinset_blocks_append : ((pins ++ [(b, ids)]).map (fun p => p.1)).toFinset = insert b (pins.map (fun p => p.1)).toFinset := by
  ext x
  simp

theorem pinnedBytes_again (h : b ∈ pins.map (fun p => p.1)) : pinnedBytes (pins ++ [(b, ids)]) = pinnedBytes pins := by
  rw [pinnedBytes_eq, pinnedBytes_eq, toFinset_blocks_append, Finset.insert_eq_of_mem (List.mem_toFinset.mpr h)]

theorem pinnedBytes_new (h : b ∉ pins.map (fun p => p.1)) : pinnedBytes (pins ++ [(b, ids)]) = pinnedBytes pins + 64 := by
  rw [pinnedBytes_eq, pinnedBytes_eq, toFinset_blocks_append, Finset.card_insert_of_notMem fun hb => h (List.mem_toFinset.mp hb),
    Nat.mul_succ]

theorem pinBlocks_cons : pinBlocks limit ids pins (b :: blocks) = pinBlocks limit ids (pinBlocks limit ids pins [b]) blocks := rfl

/-- One block is pinned unless its node has it, or it is new and does not fit. -/
theorem pinBlocks_one (limit : Nat) (ids : Nat × Nat) (pins : List (Nat × Nat × Nat)) (b : Nat) :
    (pinBlocks limit ids pins [b] = pins ∧
      ((b, ids) ∈ pins ∨ b ∉ pins.map (fun p => p.1) ∧ limit < pinnedBytes pins + 64)) ∨
    (pinBlocks limit ids pins [b] = pins ++ [(b, ids)] ∧
      (b ∈ pins.map (fun p => p.1) ∨ pinnedBytes pins + 64 ≤ limit)) := by
  have hany : pins.any (fun p => p.1 == b) = true ↔ b ∈ pins.map (fun p => p.1) := by simp
  simp only [pinBlocks, List.foldl_cons, List.foldl_nil, List.contains_iff_mem, Bool.or_eq_true, hany, decide_eq_true_eq]
  split
  · next hm => exact .inl ⟨rfl, .inl hm⟩
  · split
    · next hf => exact .inr ⟨rfl, hf⟩
    · next hf => exact .inl ⟨rfl, .inr ⟨fun hb => hf (.inl hb), by omega⟩⟩

theorem subset_pinBlocks_one : pins ⊆ pinBlocks limit ids pins [b] := by
  rcases pinBlocks_one limit ids pins b with ⟨he, -⟩ | ⟨he, -⟩ <;> rw [he]
  · exact List.Subset.refl _
  · exact List.subset_append_left ..

theorem pinBlocks_one_subset : pinBlocks limit ids pins [b] ⊆ pins ++ [(b, ids)] := by
  rcases pinBlocks_one limit ids pins b with ⟨he, -⟩ | ⟨he, -⟩ <;> rw [he]
  · exact List.subset_append_left ..
  · exact List.Subset.refl _

theorem subset_pinBlocks : pins ⊆ pinBlocks limit ids pins blocks := by
  induction blocks generalizing pins with
  | nil => exact List.Subset.refl _
  | cons b r ih => exact List.Subset.trans subset_pinBlocks_one ih

theorem pinBlocks_one_append_subset :
    pinBlocks limit ids pins [b] ++ blocks.map (fun b => (b, ids)) ⊆ pins ++ (b :: blocks).map (fun b => (b, ids)) := by
  rw [List.map_cons, List.append_cons]
  exact List.append_subset.mpr ⟨List.Subset.trans pinBlocks_one_subset (List.subset_append_left ..), List.subset_append_right ..⟩

theorem pinBlocks_subset : pinBlocks limit ids pins blocks ⊆ pins ++ blocks.map (fun b => (b, ids)) := by
  induction blocks generalizing pins with
  | nil => exact List.subset_append_left ..
  | cons b r ih => exact List.Subset.trans ih pinBlocks_one_append_subset

theorem pinnedBytes_pinBlocks (h : pinnedBytes pins ≤ limit) : pinnedBytes (pinBlocks limit ids pins blocks) ≤ limit := by
  induction blocks generalizing pins with
  | nil => exact h
  | cons b r ih =>
    rw [pinBlocks_cons]
    refine ih ?_
    rcases pinBlocks_one limit ids pins b with ⟨he, -⟩ | ⟨he, hf⟩ <;> rw [he]
    · exact h
    · by_cases hb : b ∈ pins.map (fun p => p.1)
      · rwa [pinnedBytes_again hb]
      · rw [pinnedBytes_new hb]
        exact hf.resolve_left hb

/-- Where all blocks fit, each is pinned: were one left out, it would be new and the bytes of it and the pins above the limit. -/
theorem mem_pinBlocks (h : pinnedBytes (pins ++ blocks.map (fun b => (b, ids))) ≤ limit) :
    ∀ b ∈ blocks, (b, ids) ∈ pinBlocks limit ids pins blocks := by
  induction blocks generalizing pins with
  | nil => simp
  | cons b r ih =>
    have hb : (b, ids) ∈ pinBlocks limit ids pins [b] := by
      rcases pinBlocks_one limit ids pins b with ⟨he, hm | ⟨hn, hl⟩⟩ | ⟨he, -⟩ <;> rw [he]
      · exact hm
      · have hone : pins ++ [(b, ids)] ⊆ pins ++ (b :: r).map (fun b => (b, ids)) := by simp
        have := pinnedBytes_mono hone
        rw [pinnedBytes_new hn] at this
        omega
      · simp
    intro x hx
    rw [pinBlocks_cons]
    rcases List.mem_cons.mp hx with rfl | hx
    · exact subset_pinBlocks hb
    · exact ih ((pinnedBytes_mono pinBlocks_one_append_subset).trans h) x hx

theorem mem_unpinBlocks {p : Nat × Nat × Nat} : p ∈ unpinBlocks ids pins blocks ↔ p ∈ pins ∧ ¬(p.2 = ids ∧ p.1 ∈ blocks) := by
  simp [unpinBlocks, imp_iff_not_or]

end

/-- Settles O20: the operations by what they do in a free slot, pins by an induction over the blocks. -/
theorem controlOperations : Obligations.ControlOperations := by
  unfold Obligations.ControlOperations
  refine ⟨fun s h => ⟨exec_idle h, exec_barinit h, exec_bararr h, exec_fence h, exec_trap h, exec_ipf h, fun a b =>
    ⟨exec_ipin h a b false, exec_ipin h a b true, exec_iunpin h a b false, exec_iunpin h a b true⟩⟩,
    fun limit ids pins blocks => ⟨fun p hp => subset_pinBlocks hp, fun p hp => ?_, pinnedBytes_pinBlocks, mem_pinBlocks,
      fun p => mem_unpinBlocks⟩⟩
  rcases List.mem_append.mp (pinBlocks_subset hp) with hp | hp
  · exact .inl hp
  · obtain ⟨b, hb, rfl⟩ := List.mem_map.mp hp
    exact .inr ⟨rfl, hb⟩

end Sys2Proof.Machine
end

section
/-! PROOFS. Vector accesses as they perform (R78, R99, R101, R213, R242). -/

namespace Sys2Proof.Machine

/-! ### Numbers and registers, bit by bit of their bytes (R3, R231) -/

/-- A bit of a little-endian number is a bit of one of its bytes. -/
theorem testBit_natOfBytes (l : List Byte) (j : Nat) {r : Nat} (hr : r < 8) :
    (natOfBytes l).testBit (8 * j + r) = (l.getD j 0).getLsbD r := by
  induction l generalizing j with
  | nil => simp [natOfBytes]
  | cons b l ih =>
    rw [natOfBytes, Nat.add_comm, Nat.testBit_two_pow_mul_add _ (i := 8) b.isLt]
    cases j with
    | zero => simp [hr, BitVec.testBit_toNat]
    | succ j => rw [if_neg (by omega), show 8 * (j + 1) + r - 8 = 8 * j + r by omega, ih, List.getD_cons_succ]

theorem testBit_memReadNat (m : Memory) (a : Nat) {n j r : Nat} (hj : j < n) (hr : r < 8) :
    (memReadNat m a n).testBit (8 * j + r) = (memRead m (a + j)).getLsbD r := by
  rw [memReadNat, testBit_natOfBytes _ _ hr, getD_memReadList m a hj]

/-- The number that cells make, each byte at its own address. -/
def cellsNat (m : Memory) : Nat := (m.map (fun c => c.2.toNat * 2 ^ (8 * c.1))).sum

theorem vecOfMem_eq (m : Memory) : vecOfMem m = BitVec.ofNat 2048 (cellsNat (m.filter (fun c => decide (c.1 < 256)))) := by
  rw [vecOfMem, cellsNat, List.sum_eq_foldl, List.foldl_map]

theorem cellsNat_cons (c : Host.Cell) (m : Memory) : cellsNat (c :: m) = c.2.toNat * 2 ^ (8 * c.1) + cellsNat m := rfl

theorem dvd_cellsNat {m : Memory} {a : Nat} (h : ∀ c ∈ m, a ≤ c.1) : 2 ^ (8 * a) ∣ cellsNat m := by
  refine List.dvd_sum fun x hx => ?_
  obtain ⟨c, hc, rfl⟩ := List.mem_map.mp hx
  exact (Nat.pow_dvd_pow 2 (Nat.mul_le_mul_left 8 (h c hc))).mul_left _

/-- Cells at rising addresses add up without a carry. -/
theorem testBit_cellsNat {m : Memory} (h : m.Pairwise (fun c d => c.1 < d.1)) (q : Nat) {r : Nat} (hr : r < 8) :
    (cellsNat m).testBit (8 * q + r) = (memRead m q).getLsbD r := by
  induction m with
  | nil => simp [cellsNat, memRead]
  | cons c m ih =>
    obtain ⟨hc, hm⟩ := List.pairwise_cons.mp h
    obtain ⟨k, hk⟩ := dvd_cellsNat (a := c.1 + 1) hc
    have hlt : c.2.toNat * 2 ^ (8 * c.1) < 2 ^ (8 * (c.1 + 1)) := by
      rw [Nat.mul_succ, Nat.add_comm (8 * c.1), Nat.pow_add]
      exact Nat.mul_lt_mul_of_pos_right c.2.isLt (Nat.two_pow_pos _)
    rw [cellsNat_cons, hk, Nat.add_comm, Nat.testBit_two_pow_mul_add _ hlt, memRead]
    rcases Nat.lt_trichotomy q c.1 with hq | rfl | hq
    · rw [if_pos (by omega), if_neg (by omega), memRead_of_not_mem fun d hd => by have := hc d hd; omega]
      simp [Nat.testBit_mul_two_pow]
      omega
    · rw [if_pos (by omega), if_pos rfl, Nat.testBit_mul_two_pow]
      simp [BitVec.testBit_toNat]
    · have := ih hm
      rw [hk, Nat.testBit_two_pow_mul] at this
      rw [if_neg (by omega), if_neg (by omega), ← this]
      simp
      omega

theorem getLsbD_vecOfMem {m : Memory} (h : Memory.wf m) {q r : Nat} (hq : q < 256) (hr : r < 8) :
    (vecOfMem m).getLsbD (8 * q + r) = (memRead m q).getLsbD r := by
  rw [vecOfMem_eq, BitVec.getLsbD_ofNat, testBit_cellsNat (wf_filter h _).1 q hr, memRead_filter m (fun x => decide (x < 256))]
  simp [hq]
  omega

theorem getLsbD_cellMask (cells : List (Nat × Nat)) {q r : Nat} (hq : q < 256) (hr : r < 8) :
    (cellMask cells).getLsbD (8 * q + r) = cells.any (fun c => c.1 == q) := by
  have key : ∀ m : VWord, (cells.foldl (fun (m : VWord) c => m ||| (0xFF <<< (8 * c.1))) m).getLsbD (8 * q + r) =
      (m.getLsbD (8 * q + r) || cells.any (fun c => c.1 == q)) := by
    induction cells with
    | nil => simp
    | cons c l ih =>
      intro m
      have hbit : (((0xFF <<< (8 * c.1) : Nat)) : VWord).getLsbD (8 * q + r) = (c.1 == q) := by
        rw [BitVec.natCast_eq_ofNat, BitVec.getLsbD_ofNat, Nat.testBit_shiftLeft, show 0xFF = 2 ^ 8 - 1 from rfl,
          Nat.testBit_two_pow_sub_one, Bool.eq_iff_iff]
        simp
        omega
      rw [List.foldl_cons, ih, BitVec.getLsbD_or, hbit, List.any_cons, Bool.or_assoc]
  rw [cellMask, key]
  simp

/-! ### A vector load performs (R99, R101, R213) -/

theorem lane_bytes (t : Ty) : t.width = 8 * laneBytes t ∧ t.lanes * laneBytes t = 256 := by cases t <;> exact ⟨rfl, rfl⟩

/-- A byte of a register is one byte of one lane. -/
theorem laneByte_inj {w i i' j j' : Nat} (hj : j < w) (hj' : j' < w) (h : i' * w + j' = i * w + j) : i' = i ∧ j' = j := by
  have hi : i' = i := by
    have := congrArg (· / w) h
    simpa [Nat.mul_comm _ w, Nat.mul_add_div (Nat.zero_lt_of_lt hj), Nat.div_eq_of_lt hj, Nat.div_eq_of_lt hj'] using this
  subst hi
  exact ⟨rfl, Nat.add_left_cancel h⟩

theorem mem_laneCells {t : Ty} {act : PWord} {off : Nat → Nat} {c : Nat × Nat} : c ∈ laneCells t act off ↔
    ∃ i, i < t.lanes ∧ laneBit act t i = true ∧ ∃ j, j < laneBytes t ∧ c = (i * laneBytes t + j, off i + j) := by
  simp only [laneCells, List.mem_flatMap, List.mem_filter, List.mem_range, List.mem_map, and_assoc]
  simp only [eq_comm]

/-- Where all cells of an address write the same byte, their order does not matter. -/
theorem memRead_foldl_memWrite {α : Type} (l : List α) (at_ : α → Nat) (byte : α → Byte) (m : Memory) {i : Nat} {v : Byte}
    (h : ∀ c ∈ l, at_ c = i → byte c = v) :
    memRead (l.foldl (fun m c => memWrite m (at_ c) (byte c)) m) i = if l.any (fun c => at_ c == i) then v else memRead m i := by
  induction l generalizing m with
  | nil => rfl
  | cons c l ih =>
    rw [List.foldl_cons, ih _ fun d hd => h d (List.mem_cons_of_mem _ hd), memRead_memWrite, List.any_cons]
    have hc := h c (List.mem_cons_self ..)
    by_cases hi : at_ c = i
    · simp [hi, hc hi]
    · simp [hi, Ne.symm hi]

theorem wf_foldl_memWrite {α : Type} (l : List α) (at_ : α → Nat) (byte : α → Byte) {m : Memory} (h : Memory.wf m) :
    Memory.wf (l.foldl (fun m c => memWrite m (at_ c) (byte c)) m) := by
  induction l generalizing m with
  | nil => exact h
  | cons c l ih => exact ih (wf_memWrite h _ _)

/-- The byte that a load gives each byte of an active lane: that of the lane's element, as it stood before the writes of the cycle. -/
theorem memRead_loaded (s : State) (k : Nat) (b : Buf) {t : Ty} {act : PWord} (off : Nat → Nat) {i j : Nat} (hi : i < t.lanes)
    (ha : laneBit act t i = true) (hj : j < laneBytes t) :
    memRead ((laneCells t act off).foldl (fun m c => memWrite m c.1 (memRead (bufPrior s k b c.2 1) 0)) []) (i * laneBytes t + j) =
      memRead (bufPrior s k b (off i) (laneBytes t)) j := by
  rw [memRead_foldl_memWrite (laneCells t act off) (fun c => c.1) (fun c => memRead (bufPrior s k b c.2 1) 0)
    (v := memRead (bufPrior s k b (off i) (laneBytes t)) j)]
  · rw [if_pos]
    exact List.any_eq_true.mpr ⟨_, mem_laneCells.mpr ⟨i, hi, ha, j, hj, rfl⟩, by simp⟩
  · intro c hc he
    obtain ⟨i', -, -, j', hj', rfl⟩ := mem_laneCells.mp hc
    obtain ⟨rfl, rfl⟩ := laneByte_inj hj hj' he
    rw [memRead_bufPrior s k b _ Nat.one_pos, memRead_bufPrior s k b _ hj]
    simp [Nat.add_assoc]

/-- The bytes of the active lanes are those that a load writes. -/
theorem any_laneCells (t : Ty) (act : PWord) (off : Nat → Nat) {i j : Nat} (hi : i < t.lanes) (hj : j < laneBytes t) :
    (laneCells t act off).any (fun c => c.1 == i * laneBytes t + j) = laneBit act t i := by
  rw [Bool.eq_iff_iff, List.any_eq_true]
  constructor
  · rintro ⟨c, hc, he⟩
    obtain ⟨i', -, ha, j', hj', rfl⟩ := mem_laneCells.mp hc
    obtain ⟨rfl, -⟩ := laneByte_inj hj hj' (beq_iff_eq.mp he)
    exact ha
  · exact fun ha => ⟨_, mem_laneCells.mpr ⟨i, hi, ha, j, hj, rfl⟩, by simp⟩

/-- A load gives each active lane the element at its address and leaves the others. -/
theorem laneOf_loaded (s : State) (k : Nat) (b : Buf) (t : Ty) (act : PWord) (off : Nat → Nat) (old : VWord) {i : Nat} (hi : i < t.lanes) :
    let m := cellMask (laneCells t act off)
    let x := vecOfMem ((laneCells t act off).foldl (fun m c => memWrite m c.1 (memRead (bufPrior s k b c.2 1) 0)) [])
    laneOf ((old &&& ~~~m) ||| (x &&& m)) t.width i =
      if laneBit act t i then memReadNat (bufPrior s k b (off i) (laneBytes t)) 0 (laneBytes t) else laneOf old t.width i := by
  intro m x
  refine Nat.eq_of_testBit_eq fun p => ?_
  obtain ⟨hw, hl⟩ := lane_bytes t
  by_cases hp : p < t.width
  · obtain ⟨j, r, hj, hr, rfl⟩ : ∃ j r, j < laneBytes t ∧ r < 8 ∧ p = 8 * j + r := ⟨p / 8, p % 8, by omega, by omega, by omega⟩
    have hq : i * laneBytes t + j < 256 := by
      have := Nat.mul_le_mul_right (laneBytes t) (show i + 1 ≤ t.lanes from hi)
      rw [hl, Nat.succ_mul] at this
      omega
    have hbit : t.width * i + (8 * j + r) = 8 * (i * laneBytes t + j) + r := by rw [hw]; ring
    have hm : m.getLsbD (8 * (i * laneBytes t + j) + r) = laneBit act t i :=
      (getLsbD_cellMask _ hq hr).trans (any_laneCells t act off hi hj)
    have hx : x.getLsbD (8 * (i * laneBytes t + j) + r) = _ := getLsbD_vecOfMem (wf_foldl_memWrite _ _ _ wf_nil) hq hr
    have hlt : 8 * (i * laneBytes t + j) + r < 2048 := by omega
    rw [testBit_laneOf, hbit]
    simp only [BitVec.getLsbD_or, BitVec.getLsbD_and, BitVec.getLsbD_not, hm, hp, hlt, decide_true, Bool.true_and]
    cases ha : laneBit act t i with
    | true => simp [hx, memRead_loaded s k b off hi ha hj, testBit_memReadNat _ 0 hj hr]
    | false => simp [testBit_laneOf, hp, hbit]
  · have hlow : memReadNat (bufPrior s k b (off i) (laneBytes t)) 0 (laneBytes t) < 2 ^ t.width := by
      simpa [hw, memReadNat] using natOfBytes_lt (memReadList (bufPrior s k b (off i) (laneBytes t)) 0 (laneBytes t))
    have hhigh := Nat.testBit_lt_two_pow (hlow.trans_le (Nat.pow_le_pow_right Nat.two_pos (Nat.not_lt.mp hp)))
    rw [testBit_laneOf]
    cases laneBit act t i with
    | true => simp [hp, hhigh]
    | false => simp [testBit_laneOf, hp]

/-- A load that reads clean bytes writes its register two cycles later. -/
theorem performFlight_vmRead {s : State} {k : Nat} {f : Flight} {d : VReg} {b : Buf} {cells : List (Nat × Nat)}
    (hf : f.act = .vmRead d b cells) (hc : ∀ c ∈ cells, badBytes s k b c.2 1 = [] ∧ isRefused s k b c.2 false = false) :
    performFlight s k f = again (nextFresh s 1) k f (f.due + 2) (.result (.v d (cellMask cells)
      (vecOfMem (cells.foldl (fun m c => memWrite m c.1 (memRead (bufPrior s k b c.2 1) 0)) []))) 0 none) := by
  have hbad : cells.any (fun c => badBytes s k b c.2 1 != []) = false := by
    simp +contextual [hc]
  have hlost : cells.any (fun c => isRefused s k b c.2 false) = false := by
    simp +contextual [hc]
  simp only [performFlight, hf, performVmRead, hbad, hlost, loadResult, Bool.or_self, Bool.false_eq_true, if_false]

/-! ### A vector store performs (R101, R242) -/

/-- The cells of a store as they are written, one after another. -/
def writeCells (s : State) (k : Nat) (b : Buf) (cells : List (Nat × Byte)) : State :=
  cells.foldl (fun t c => bufWrite t k b c.1 1 (memWrite [] 0 c.2) []) s

theorem performFlight_vmWrite {s : State} {k : Nat} {f : Flight} {b : Buf} {cells : List (Nat × Byte)} (hf : f.act = .vmWrite b cells)
    (hc : ∀ c ∈ cells, isRefused s k b c.1 true = false) : performFlight s k f = writeCells s k b cells := by
  simp only [performFlight, hf, performVmWrite, writeCells]
  exact List.foldl_ext _ _ _ fun t c hm => if_neg (by simp [hc c hm])

section
variable (s : State) (k : Nat) (b : Buf)

theorem writeCells_mem (cells : List (Nat × Byte)) : (writeCells s k b cells).mem = s.mem := by
  induction cells generalizing s with
  | nil => rfl
  | cons c r ih => exact ih _

theorem writeCells_ctxs (cells : List (Nat × Byte)) : (writeCells s k b cells).ctxs = s.ctxs := by
  induction cells generalizing s with
  | nil => rfl
  | cons c r ih => exact ih _

theorem memRead_writeCell (x : Nat × Byte) (n : Nat) (q : Buf) (a : Nat) :
    memRead ((coreOf (bufWrite s k b x.1 1 (memWrite [] 0 x.2) []) n).bufMem q) a =
      if n = coreIx k ∧ q = b ∧ a = (ctxOf s k).base b + x.1 then x.2 else memRead ((coreOf s n).bufMem q) a := by
  rw [memRead_bufWrite s k b x.1 1 [] (wf_memWrite wf_nil 0 x.2), memRead_memWrite]
  by_cases h : n = coreIx k ∧ q = b ∧ a = (ctxOf s k).base b + x.1
  · rw [if_pos h, if_pos ⟨h.1, h.2.1, by omega, by omega⟩, if_pos (by omega)]
  · rw [if_neg h, if_neg fun ⟨hn, hq, hlo, hhi⟩ => h ⟨hn, hq, by omega⟩]

/-- A store writes no byte but those of its cells. -/
theorem memRead_writeCells_apart {cells : List (Nat × Byte)} {n : Nat} {q : Buf} {a : Nat}
    (h : ¬(n = coreIx k ∧ q = b ∧ ∃ c ∈ cells, a = (ctxOf s k).base b + c.1)) :
    memRead ((coreOf (writeCells s k b cells) n).bufMem q) a = memRead ((coreOf s n).bufMem q) a := by
  induction cells generalizing s with
  | nil => rfl
  | cons c r ih =>
    refine (ih (bufWrite s k b c.1 1 (memWrite [] 0 c.2) []) ?_).trans ?_
    · rintro ⟨hn, hq, d, hd, ha⟩
      exact h ⟨hn, hq, d, List.mem_cons_of_mem _ hd, ha⟩
    · rw [memRead_writeCell, if_neg fun ⟨hn, hq, ha⟩ => h ⟨hn, hq, c, List.mem_cons_self .., ha⟩]

/-- Each cell of a store stands at its address, where no two are of one address. -/
theorem memRead_writeCells {cells : List (Nat × Byte)} (h : (cells.map (fun c => c.1)).Nodup) {c : Nat × Byte} (hc : c ∈ cells) :
    memRead ((coreOf (writeCells s k b cells) (coreIx k)).bufMem b) ((ctxOf s k).base b + c.1) = c.2 := by
  induction cells generalizing s with
  | nil => simp at hc
  | cons d r ih =>
    obtain ⟨hd, hr⟩ := List.nodup_cons.mp h
    rcases List.mem_cons.mp hc with rfl | hc
    · refine (memRead_writeCells_apart (bufWrite s k b c.1 1 (memWrite [] 0 c.2) []) k b ?_).trans ?_
      · rintro ⟨-, -, e, he, ha⟩
        exact hd (List.mem_map.mpr ⟨e, he, (Nat.add_left_cancel ha).symm⟩)
      · rw [memRead_writeCell, if_pos ⟨rfl, rfl, rfl⟩]
    · exact ih (bufWrite s k b d.1 1 (memWrite [] 0 d.2) []) hr hc

end

/-- Settles O43: a load lane by lane of its cells, a store cell by cell. -/
theorem vectorAccessPerforms : Obligations.VectorAccessPerforms := by
  unfold Obligations.VectorAccessPerforms
  refine ⟨fun s k f d b t act off hf hc => ?_, fun s k f b cells hf hc hd => ?_⟩
  · exact ⟨_, _, performFlight_vmRead hf hc, fun i hi => laneOf_loaded s k b t act off _ hi⟩
  · rw [performFlight_vmWrite hf hc]
    exact ⟨fun c hm => memRead_writeCells s k b hd hm, fun n q a h => memRead_writeCells_apart s k b h,
      writeCells_mem s k b cells, writeCells_ctxs s k b cells⟩

end Sys2Proof.Machine
end

section
/-! PROOFS. What acknowledgements and transactions leave of the ports (R117, R121, R363–R367). -/

namespace Sys2Proof.Machine

/-! ### The ports stand: no operation of the state but the ports' own events changes one -/

@[simp] theorem foldl_ports {α : Type} {f : State → α → State} (h : ∀ s x, (f s x).ports = s.ports) (l : List α) (s : State) :
    (l.foldl f s).ports = s.ports := by
  induction l generalizing s with
  | nil => rfl
  | cons x r ih => exact (ih _).trans (h s x)

@[simp] theorem ite_ports {p : Prop} [Decidable p] {a b : State} : (if p then a else b).ports = if p then a.ports else b.ports := by
  split <;> rfl

@[simp] theorem bufWrite_ports (s : State) (k : Nat) (b : Buf) (off : Nat) (len : Nat) (sl : Memory) (bad : List Nat) :
    (bufWrite s k b off len sl bad).ports = s.ports := rfl
@[simp] theorem noteOwn_ports (s : State) (w : Writer) (a len : Nat) : (noteOwn s w a len).ports = s.ports := rfl
@[simp] theorem dropOwn_ports (s : State) (w : Writer) : (dropOwn s w).ports = s.ports := rfl
@[simp] theorem addMarks_ports (s : State) (ls : List Nat) : (addMarks s ls).ports = s.ports := rfl
@[simp] theorem putMem_ports (s : State) (a : Nat) (bytes : List Byte) : (putMem s a bytes).ports = s.ports := rfl
@[simp] theorem openWrite_ports (s : State) (by_ : Option Writer) (a : Nat) (bytes : List Byte) :
    (openWrite s by_ a bytes).ports = s.ports := rfl
@[simp] theorem liftClouds_ports (s : State) (gone : Nat → Nat → Bool) : (liftClouds s gone).ports = s.ports := rfl
@[simp] theorem modUntimed_ports (s : State) (k seq : Nat) (f : Untimed → Untimed) : (modUntimed s k seq f).ports = s.ports := rfl
@[simp] theorem finishJob_ports (s : State) (k seq : Nat) (x : Option W64) (fault : Option (Nat × W64)) :
    (finishJob s k seq x fault).ports = s.ports := rfl
@[simp] theorem noteWrite_ports (s : State) (paddr len : Nat) : (noteWrite s paddr len).ports = s.ports := rfl
@[simp] theorem enter_ports (s : State) (o : Outbound) : (enter s o).ports = s.ports := rfl
@[simp] theorem putAtomic_ports (s : State) (a : Nat) (bytes : List Byte) : (putAtomic s a bytes).ports = s.ports := rfl
@[simp] theorem landPiece_ports (s : State) (k : Nat) (place : Place) (ix : Nat) (bytes : List Byte) (bad : Bool) :
    (landPiece s k place ix bytes bad).ports = s.ports := rfl
@[simp] theorem putFinal_ports (s : State) (a : Nat) (bytes : List Byte) : (putFinal s a bytes).ports = s.ports := rfl
@[simp] theorem vacate_ports (s : State) (k : Nat) : (vacate s k).ports = s.ports := rfl
@[simp] theorem renameStaged_ports (s : State) (c : Ctx) (old new : Nat) : (renameStaged s c old new).ports = s.ports := rfl
@[simp] theorem dropPins_ports (s : State) (fn n : Nat) : (dropPins s fn n).ports = s.ports := rfl
@[simp] theorem sendDecision_ports (s : State) (fn : Nat) (n : Node) (op pkg : Nat) :
    (sendDecision s fn n op pkg).ports = s.ports := rfl
@[simp] theorem loseBytes_ports (s : State) (a len : Nat) : (loseBytes s a len).ports = s.ports := rfl
@[simp] theorem dropFabric_ports (s : State) (fn serial : Nat) : (dropFabric s fn serial).ports = s.ports := rfl
@[simp] theorem awaitDiscard_ports (s : State) (fn ix status : Nat) : (awaitDiscard s fn ix status).ports = s.ports := rfl
@[simp] theorem forgetClouds_ports (s : State) (fn : Nat) (gone : Nat → Bool) : (forgetClouds s fn gone).ports = s.ports := rfl

@[simp] theorem takeBack_ports (s : State) (w : Writer) : (takeBack s w).ports = s.ports := by
  unfold takeBack
  dsimp only
  rw [dropOwn_ports]
  exact foldl_ports (fun _ _ => by split <;> simp) _ _

@[simp] theorem rewriteDescriptor_ports (s : State) (k seq : Nat) : (rewriteDescriptor s k seq).ports = s.ports := by
  unfold rewriteDescriptor
  dsimp only
  (repeat' split) <;> simp

@[simp] theorem showFault_ports (s : State) (k seq : Nat) : (showFault s k seq).ports = s.ports := by
  simp [showFault]

@[simp] theorem markPoison_ports (s : State) (a : Nat) (bad : Bool) : (markPoison s a bad).ports = s.ports := by
  simp [markPoison]

@[simp] theorem applyWrite_ports (s : State) (src tenant serial a : Nat) (bytes : List Byte) (bad : Bool) :
    (applyWrite s src tenant serial a bytes bad).ports = s.ports := by
  simp [applyWrite]

@[simp] theorem applyRollback_ports (s : State) (src tenant serial : Nat) :
    (applyRollback s src tenant serial).ports = s.ports := by
  simp [applyRollback]

@[simp] theorem homeAtomic_ports (s : State) (by_ : Writer) (op : AmoOp) (a n : Nat) (v c : W64) :
    (homeAtomic s by_ op a n v c).1.ports = s.ports := by
  unfold homeAtomic
  dsimp only
  (repeat' split) <;> simp

@[simp] theorem sendMsix_ports (s : State) (fn vec : Nat) : (sendMsix s fn vec).ports = s.ports := by
  simp [sendMsix]

@[simp] theorem sendSignal_ports (s : State) (fn ix : Nat) (n : Node) (status : Nat) :
    (sendSignal s fn ix n status).ports = s.ports := by
  unfold sendSignal
  extract_lets a u
  have hu : u.ports = s.ports := by
    unfold u
    split
    · rfl
    · exact (putFinal_ports ..).trans (putFinal_ports ..)
  split
  · exact (sendMsix_ports ..).trans hu
  · exact hu

@[simp] theorem dropMember_ports (s : State) (k : Nat) : (dropMember s k).ports = s.ports := foldl_ports (fun _ _ => by simp) _ _

@[simp] theorem freeCtx_ports (s : State) (k : Nat) : (freeCtx s k).ports = s.ports := by
  simp [freeCtx]

@[simp] theorem loseOutputs_ports (s : State) (n : Node) : (loseOutputs s n).ports = s.ports := by
  simp [loseOutputs]

@[simp] theorem losePages_ports (s : State) (fn : Nat) (n : Node) : (losePages s fn n).ports = s.ports :=
  foldl_ports (fun _ _ => by (repeat' split) <;> simp) _ _

@[simp] theorem storageBack_ports (s : State) (fn ix : Nat) : (storageBack s fn ix).ports = s.ports := by
  unfold storageBack
  dsimp only
  split <;> simp

@[simp] theorem discardEffects_ports (s : State) (fn ix : Nat) : (discardEffects s fn ix).ports = s.ports := by
  rw [discardEffects_eq]
  exact (foldl_ports (sendDecision_ports · fn (nodeOf s fn ix) 6) _ _).trans (storageBack_ports ..)

@[simp] theorem retireNode_ports (n : Nat) (s : State) (fn ix status : Nat) : (retireNode n s fn ix status).ports = s.ports := by
  induction n generalizing s ix status with
  | zero => rfl
  | succ n ih => simp [retireNode, ih]

@[simp] theorem retire_ports (s : State) (fn ix status : Nat) : (retire s fn ix status).ports = s.ports := by
  simp [retire]

@[simp] theorem finishRollback_ports (s : State) (fn ix : Nat) : (finishRollback s fn ix).ports = s.ports := by
  simp [finishRollback]

@[simp] theorem applyStaged_ports (fn serial : Nat) (s : State) (x : Staged) : (applyStaged fn serial s x).ports = s.ports := by
  unfold applyStaged
  dsimp only
  (repeat' split) <;> simp

@[simp] theorem applyHostEffects_ports (s : State) (fn ix : Nat) : (applyHostEffects s fn ix).ports = s.ports := by
  unfold applyHostEffects
  exact foldl_ports (applyStaged_ports _ _) _ _

@[simp] theorem cancelRecord_ports (s : State) (fn : Nat) (r : GWord) : (cancelRecord s fn r).ports = s.ports := by
  simp [cancelRecord]

@[simp] theorem enterChildren_ports (s : State) (fn ix : Nat) : (enterChildren s fn ix).ports = s.ports := by
  unfold enterChildren
  dsimp only
  split
  · exact foldl_ports (fun _ _ => cancelRecord_ports ..) _ _
  · rfl

@[simp] theorem continueCommit_ports (s : State) (fn ix : Nat) : (continueCommit s fn ix).ports = s.ports := by
  simp [continueCommit]

@[simp] theorem decisionDone_ports (s : State) (o : Outbound) : (decisionDone s o).ports = s.ports :=
  foldl_ports (fun _ _ => by simp) _ _

/-- What has been received changes no port. -/
theorem onAck_ports (s : State) (o : Outbound) : (onAck s o).ports = s.ports := by
  unfold onAck
  split <;> simp

theorem deliver_ports (s : State) (o : Outbound) (t : Transaction) : (deliver s o t).ports = s.ports := by
  unfold deliver
  dsimp only
  (repeat' split) <;> simp

theorem takeAnswer_ports (s : State) (t : Transaction) : (takeAnswer s t).ports = s.ports := by
  unfold takeAnswer
  split
  · rfl
  · exact (showFault_ports ..).trans (deliver_ports ..)

theorem serveRead_ports (s : State) (t : Transaction) : (serveRead s t).ports = s.ports := by
  unfold serveRead
  dsimp only
  split <;> rfl

theorem serveAtomic_ports (s : State) (t : Transaction) : (serveAtomic s t).ports = s.ports := by
  unfold serveAtomic
  dsimp only
  generalize (if (transDetail t).testBit 4 then 8 else 4 : Nat) = n
  split
  · exact homeAtomic_ports ..
  · rfl

/-- Nor does a transaction that arrives. -/
theorem applyTrans_ports (s : State) (t : Transaction) : (applyTrans s t).ports = s.ports := by
  unfold applyTrans
  split
  · exact applyWrite_ports ..
  · exact serveRead_ports ..
  · exact takeAnswer_ports ..
  · exact serveAtomic_ports ..
  · exact takeAnswer_ports ..
  · rfl
  · exact applyRollback_ports ..
  · rfl

theorem receiveTrans_ports (s : State) (t : Transaction) : (receiveTrans s t).ports = s.ports := by
  unfold receiveTrans
  dsimp only
  split
  · rfl
  · exact applyTrans_ports ..

end Sys2Proof.Machine
end

section
/-! PROOFS. Flits, acknowledgement and replay, lanes, retraining and lost paths (R117, R363–R367). -/

namespace Sys2Proof.Machine

/-! ### The port on which an event acts -/

theorem portOf_congr {s t : State} (h : t.ports = s.ports) (p : Nat) : portOf t p = portOf s p := by rw [portOf, portOf, h]

theorem portOf_postHealth (s : State) (kind unit : Nat) (data : List Byte) (p : Nat) :
    portOf (postHealth s kind unit data) p = portOf s p := rfl

theorem portOf_ite {c : Prop} [Decidable c] (s t : State) (p : Nat) :
    portOf (if c then s else t) p = if c then portOf s p else portOf t p := apply_ite (portOf · p) c s t

theorem portOf_resend (s : State) (p : Nat) :
    portOf (resend s p) p = { portOf s p with replays := (portOf s p).replays + BitVec.ofNat 64 (portOf s p).replay.length } := by
  simp [resend]

/-- The flits of a port that an acknowledgement up to `ack` leaves in its replay buffer (R364). -/
def unacked (x : Port) (ack : BitVec 12) : List (BitVec 12 × List Outbound) :=
  x.replay.filter (fun f => !decide ((ack - f.1).toNat < 2048))

theorem portOf_ackPort (s : State) (p : Nat) (ack : BitVec 12) :
    portOf (ackPort s p ack) p = { portOf s p with replay := unacked (portOf s p) ack } := by
  refine (portOf_congr (foldl_ports onAck_ports _ _) p).trans ?_
  simp [unacked]

/-- With nothing unacknowledged an acknowledgement changes nothing but the empty buffer. -/
theorem ackPort_nil {s : State} {p : Nat} (h : (portOf s p).replay = []) (ack : BitVec 12) :
    ackPort s p ack = modPort s p (fun x => { x with replay := [] }) := by
  simp [ackPort, h]

/-! ### A data flit arrives (R117, R363, R364, R366) -/

section
variable {s : State} {p : Nat} {f : Flit}

/-- The port has heard a flit's acknowledgement and its NAK. -/
def heard (s : State) (p : Nat) (f : Flit) : State :=
  if flitNak f then resend (ackPort s p (flitAck f)) p else ackPort s p (flitAck f)

theorem exec_dataFlit (hs : (portOf s p).state = 2) (hc : flitCrcOk f = true) (ht : flitType f = 0) :
    exec (.dataFlit p f) s = .next (takeFlit (heard s p f) p f) := by
  rw [show exec (.dataFlit p f) s = execDataFlit p f s from rfl, execDataFlit, if_neg (not_not.mpr hs)]
  simp [hc, ht, heard]

theorem exec_dataFlit_refused (hs : (portOf s p).state = 2) (hc : flitCrcOk f = false) :
    exec (.dataFlit p f) s = .next (modPort s p (fun x => { x with crcerr := x.crcerr + 1, nakSent := true })) := by
  rw [show exec (.dataFlit p f) s = execDataFlit p f s from rfl, execDataFlit, if_neg (not_not.mpr hs)]
  simp [hc]

theorem rxSeq_heard : (portOf (heard s p f) p).rxSeq = (portOf s p).rxSeq := by
  unfold heard
  split
  · rw [portOf_resend, portOf_ackPort]
  · rw [portOf_ackPort]

theorem heard_nil (hn : flitNak f = false) (h : (portOf s p).replay = []) :
    heard s p f = modPort s p (fun x => { x with replay := [] }) := by
  rw [heard, hn, if_neg Bool.false_ne_true, ackPort_nil h]

/-- A flit in order is accepted: the port waits for the next one and asks for none again. -/
theorem portOf_takeFlit (h : flitSeq f = (portOf s p).rxSeq) :
    (portOf (takeFlit s p f) p).rxSeq = (portOf s p).rxSeq + 1 ∧ (portOf (takeFlit s p f) p).nakSent = false := by
  rw [takeFlit, if_pos h]
  dsimp only
  rw [portOf_congr (foldl_ports receiveTrans_ports _ _), portOf_modPort, if_pos rfl]
  exact ⟨rfl, rfl⟩

/-- A flit out of order is discarded where it has been accepted before, and asked for again where it is ahead. -/
theorem takeFlit_unordered (h : flitSeq f ≠ (portOf s p).rxSeq) : takeFlit s p f =
    if ((portOf s p).rxSeq - flitSeq f).toNat ≤ 2048 then s else modPort s p (fun x => { x with nakSent := true }) := by
  rw [takeFlit, if_neg h]

/-- A flit in order that completes one transaction hands it to its home or its source. -/
theorem takeFlit_one {tr : Transaction} (h : flitSeq f = (portOf s p).rxSeq)
    (ht : (takeTrans ((portOf s p).rxPart ++ flitPayload f).length ((portOf s p).rxPart ++ flitPayload f)).1 = [tr]) :
    ∃ g, takeFlit s p f = receiveTrans (modPort s p g) tr := by
  rw [takeFlit, if_pos h]
  dsimp only
  rw [ht]
  exact ⟨_, rfl⟩

/-- A write of the fabric is applied where the home accepts it and changes no other byte. -/
theorem memRead_applyWrite (s : State) (src tenant serial a : Nat) (bytes : List Byte) (bad : Bool) (i : Nat) :
    memRead (applyWrite s src tenant serial a bytes bad).mem i =
      if homeAccepts s src tenant a bytes.length = true ∧ a ≤ i ∧ i < a + bytes.length then bytes.getD (i - a) 0
      else memRead s.mem i := by
  by_cases h : homeAccepts s src tenant a bytes.length = true
  · rw [(applyWrite_writes h).mem, memRead_memWriteList]
    simp only [h, true_and]
  · rw [applyWrite, if_neg h, if_neg fun hx => h hx.1]

/-- A write that comes for the first time is applied. -/
theorem receiveTrans_write {t : Transaction} (ho : t.op = 0) (ha : s.applied.contains (transKey t) = false) :
    ∃ l, receiveTrans s t = applyWrite { s with applied := l } t.src.val t.tenant.val (transSerial t) t.addr.toNat
      (t.data.take (transDetail t % 128)) ((transDetail t).testBit 7) := by
  have hop : t.op.val = 0 := congrArg Fin.val ho
  rw [receiveTrans, ha, if_neg Bool.false_ne_true, applyTrans, hop]
  exact ⟨_, rfl⟩

end

/-! ### The fields of a flit (R363) -/

theorem natOfBytes_zeros {l : List Byte} (h : ∀ b ∈ l, b = 0) : natOfBytes l = 0 := by
  induction l with
  | nil => rfl
  | cons b l ih => simp [natOfBytes, h b (List.mem_cons_self ..), ih fun c hc => h c (List.mem_cons_of_mem _ hc)]

section
variable (x : Port) (seq : BitVec 12) (type : Nat) (os : List Outbound)

/-- The link header of a flit that a port sends. -/
def headerOf (x : Port) (seq : BitVec 12) (type : Nat) : Nat :=
  seq.toNat + (x.rxSeq - 1).toNat * 2 ^ 12 + (if x.nakSent then 2 ^ 24 else 0) + type * 2 ^ 25 + x.width % 4 * 2 ^ 28

theorem flitHeader_flitOf (ht : type < 8) : flitHeader (flitOf x seq type os) = headerOf x seq type := by
  have h8 : (flitBody x seq type os).take 8 = bytesOfNat 8 (headerOf x seq type) := by
    rw [flitBody, List.append_assoc]
    exact List.take_left' (length_bytesOfNat ..)
  have hlt : headerOf x seq type < 2 ^ 64 := by
    have := seq.isLt
    have := (x.rxSeq - 1).isLt
    unfold headerOf
    split <;> omega
  rw [flitHeader, flitOf, h8, natOfBytes_bytesOfNat, Nat.mod_eq_of_lt hlt]

theorem flit_fields (ht : type < 8) : let f := flitOf x seq type os
    flitSeq f = seq ∧ flitAck f = x.rxSeq - 1 ∧ flitNak f = x.nakSent ∧ flitType f = type ∧ flitWidth f = x.width % 4 := by
  have hs := seq.isLt
  have ha := (x.rxSeq - 1).isLt
  intro f
  have hf : flitHeader f = headerOf x seq type := flitHeader_flitOf x seq type os ht
  refine ⟨?_, ?_, ?_, ?_, ?_⟩
  · refine BitVec.eq_of_toNat_eq ?_
    rw [flitSeq, hf, BitVec.toNat_ofNat, fieldOf, headerOf]
    split <;> omega
  · refine BitVec.eq_of_toNat_eq ?_
    rw [flitAck, hf, BitVec.toNat_ofNat, fieldOf, headerOf]
    split <;> omega
  · rw [flitNak, hf, headerOf, Nat.testBit_eq_decide_div_mod_eq]
    cases x.nakSent
    · simp; omega
    · simp; omega
  · rw [flitType, hf, fieldOf, headerOf]
    split <;> omega
  · rw [flitWidth, hf, fieldOf, headerOf]
    split <;> omega

end

/-- The header of a transaction as a number. -/
def transHeader (t : Transaction) : Nat :=
  t.detail.toNat + t.data.length % 2 ^ 12 * 2 ^ 40 + t.addr.toNat * 2 ^ 52 + t.tag.toNat * 2 ^ 97 +
    t.lane.val * 2 ^ 109 + t.tenant.val * 2 ^ 113 + t.src.val * 2 ^ 117 + t.op.val * 2 ^ 124

theorem transBytes_eq (t : Transaction) : transBytes t = bytesOfNat 16 (transHeader t) ++ t.data := rfl

theorem transHeader_lt (t : Transaction) : transHeader t < 2 ^ 128 := by
  have := t.detail.isLt; have := t.addr.isLt; have := t.tag.isLt
  unfold transHeader
  omega

theorem transOf_transHeader (t : Transaction) : transOf (transHeader t) t.data = t := by
  obtain ⟨op, src, tenant, lane, tag, addr, detail, data⟩ := t
  have hd := detail.isLt
  have ha := addr.isLt
  have ht := tag.isLt
  simp only [transOf, transHeader, fieldOf, Transaction.mk.injEq, and_true]
  refine ⟨Fin.ext ?_, Fin.ext ?_, Fin.ext ?_, Fin.ext ?_, BitVec.eq_of_toNat_eq ?_, BitVec.eq_of_toNat_eq ?_, BitVec.eq_of_toNat_eq ?_⟩
  all_goals
    simp only [Fin.ofNat, BitVec.toNat_ofNat]
    omega

theorem length_field_transHeader (t : Transaction) : fieldOf (transHeader t) 40 12 = t.data.length % 2 ^ 12 := by
  have hd := t.detail.isLt
  have ha := t.addr.isLt
  have ht := t.tag.isLt
  unfold transHeader fieldOf
  omega

/-- Zeros up to the end of a payload are no transaction. -/
theorem takeTrans_zeros (fuel n : Nat) : takeTrans (fuel + 1) (List.replicate n 0) = ([], []) := by
  simp [takeTrans]

/-- The transaction of a payload that holds it alone reads back. -/
theorem takeTrans_one {t : Transaction} (hl : t.data.length ≤ 224) (hne : t.data ≠ [] ∨ t.op ≠ 0) (fuel n : Nat) :
    takeTrans (fuel + 2) (transBytes t ++ List.replicate n 0) = ([t], []) := by
  have h16 : (transBytes t ++ List.replicate n 0).take 16 = bytesOfNat 16 (transHeader t) := by
    rw [transBytes_eq, List.append_assoc]
    exact List.take_left' (length_bytesOfNat ..)
  have hh : natOfBytes ((transBytes t ++ List.replicate n 0).take 16) = transHeader t := by
    rw [h16, natOfBytes_bytesOfNat, Nat.mod_eq_of_lt (transHeader_lt t)]
  have hlen : (transBytes t).length = 16 + t.data.length := by simp [transBytes_eq]
  have hn : 16 + fieldOf (transHeader t) 40 12 = (transBytes t).length := by
    rw [length_field_transHeader, hlen, Nat.mod_eq_of_lt (by omega)]
  have hz : (transBytes t ++ List.replicate n 0).all (· == 0) = false := by
    refine Bool.eq_false_iff.mpr fun hall => ?_
    have h0 := natOfBytes_zeros (l := (transBytes t ++ List.replicate n 0).take 16) fun b hb => by
      simpa using List.all_eq_true.mp hall b (List.mem_of_mem_take hb)
    rw [hh] at h0
    unfold transHeader at h0
    rcases hne with hd | ho
    · have := List.length_pos_iff.mpr hd
      omega
    · have : 0 < t.op.val := Nat.pos_of_ne_zero fun h => ho (Fin.ext h)
      omega
  rw [takeTrans]
  dsimp only
  rw [hz, hh, hn, if_neg Bool.false_ne_true, if_neg (by simp [hlen]; omega), List.take_left, List.drop_left, takeTrans_zeros,
    transBytes_eq, List.drop_left' (length_bytesOfNat ..), transOf_transHeader]

/-- A flit of one transaction is full, and its payload gives the transaction back. -/
theorem flit_payload (x : Port) (seq : BitVec 12) (type : Nat) (o : Outbound) (hl : o.tr.data.length ≤ 224)
    (hne : o.tr.data ≠ [] ∨ o.tr.op ≠ 0) : (flitOf x seq type [o]).body.length = 248 ∧
      takeTrans 240 (flitPayload (flitOf x seq type [o])) = ([o.tr], []) := by
  have hbody : (flitOf x seq type [o]).body = bytesOfNat 8 (headerOf x seq type) ++ (transBytes o.tr ++
      List.replicate (240 - (transBytes o.tr).length) 0) := by
    simp [flitOf, flitBody, headerOf]
  have hlen : (transBytes o.tr).length = 16 + o.tr.data.length := by simp [transBytes_eq]
  have h248 : (flitOf x seq type [o]).body.length = 248 := by
    rw [hbody]
    simp [hlen]
    omega
  refine ⟨h248, ?_⟩
  rw [flitPayload, List.take_of_length_le h248.le, hbody, List.drop_left' (length_bytesOfNat ..)]
  exact takeTrans_one hl hne 238 _

/-! ### Lanes, width, retraining (R365–R367) -/

/-- The groups stand from the widest to the narrowest. -/
theorem laneGroups_rising : laneGroups.Pairwise (fun g h => g.2 ≤ h.2) := by decide

/-- A port uses the widest group of lanes without a faulted one. -/
theorem lanesFor_widest (faulted used : BitVec 8) : let g := lanesFor faulted used
    (g.2 = 3 ∧ ∀ h ∈ laneGroups, h.1 &&& faulted ≠ 0) ∨
      (g ∈ laneGroups ∧ g.1 &&& faulted = 0 ∧ ∀ h ∈ laneGroups, h.1 &&& faulted = 0 → g.2 ≤ h.2) := by
  intro g
  have hsorted := laneGroups_rising.filter (fun g => g.1 &&& faulted == 0)
  have hmem : ∀ h, h ∈ laneGroups.filter (fun g => g.1 &&& faulted == 0) ↔ h ∈ laneGroups ∧ h.1 &&& faulted = 0 := by simp
  generalize hc : laneGroups.filter (fun g => g.1 &&& faulted == 0) = clean at hsorted hmem
  cases clean with
  | nil =>
    have hg : g = (0, 3) := by simp only [g, lanesFor, hc, List.head?_nil]
    refine .inl ⟨by rw [hg], fun h hh h0 => ?_⟩
    simpa using (hmem h).mpr ⟨hh, h0⟩
  | cons a r =>
    have hg : g = if (a :: r).contains (used, a.2) then (used, a.2) else a := by
      simp only [g, lanesFor, hc, List.head?_cons]
    obtain ⟨hin, hwide⟩ : g ∈ a :: r ∧ g.2 = a.2 := by
      rw [hg]
      split
      · next hu => exact ⟨by simpa using hu, rfl⟩
      · exact ⟨List.mem_cons_self .., rfl⟩
    refine .inr ⟨((hmem g).mp hin).1, ((hmem g).mp hin).2, fun h hh h0 => ?_⟩
    rw [hwide]
    rcases List.mem_cons.mp ((hmem h).mpr ⟨hh, h0⟩) with rfl | hr
    · exact Nat.le_refl _
    · exact List.rel_of_pairwise_cons hsorted hr

theorem portOf_retrain (s : State) (p : Nat) : portOf (retrain s p) p =
    { portOf s p with state := 1, width := 3, lanes := 0, retrains := (portOf s p).retrains + 1 } := by
  simp [retrain]

/-- The port has taken up the lanes `g`, announced their width and resent what was unacknowledged. -/
structure MovedTo (x y : Port) (g : BitVec 8 × Nat) : Prop where
  lanes : y.lanes = g.1
  width : y.width = g.2
  markers : y.markers = x.markers ++ [g.2]
  replays : y.replays = x.replays + BitVec.ofNat 64 x.replay.length

theorem portOf_changeLanes (s : State) (p : Nat) (g : BitVec 8 × Nat) : portOf (changeLanes s p g) p =
    { portOf s p with
      lanes := g.1, width := g.2, markers := (portOf s p).markers ++ [g.2]
      replays := (portOf s p).replays + BitVec.ofNat 64 (portOf s p).replay.length } := by
  rw [changeLanes, portOf_resend, portOf_modPort, if_pos rfl]

/-- A port with one more faulted lane. -/
def faultLane (s : State) (p : Nat) (lane : Fin 8) : State :=
  modPort s p (fun x => { x with faulted := x.faulted ||| ((1 : BitVec 8) <<< lane.val), since := x.since.or (some (now s)) })

theorem portOf_faultLane (s : State) (p : Nat) (lane : Fin 8) : ∃ since, portOf (faultLane s p lane) p =
    { portOf s p with faulted := (portOf s p).faulted ||| ((1 : BitVec 8) <<< lane.val), since := since } := by
  rw [faultLane, portOf_modPort, if_pos rfl]
  exact ⟨_, rfl⟩

/-- A fault on a port that is down, or outside the lanes in use, is noted; any other moves the port or makes it retrain. -/
theorem exec_laneFault (s : State) (p : Nat) (lane : Fin 8) : let x := portOf s p
    let worse := x.faulted ||| ((1 : BitVec 8) <<< lane.val)
    let g := lanesFor worse x.lanes
    ∃ t, exec (.laneFault p lane) s = .next t ∧ (portOf t p).faulted = worse ∧
      (x.state ≠ 2 → (portOf t p).state = x.state ∧ (portOf t p).width = x.width) ∧
      (x.state = 2 → g.2 = 3 → (portOf t p).state = 1 ∧ (portOf t p).width = 3 ∧ (portOf t p).retrains = x.retrains + 1) ∧
      (x.state = 2 → g.2 ≠ 3 → g.1 ≠ x.lanes → MovedTo x (portOf t p) g) := by
  intro x worse g
  obtain ⟨since, hu⟩ := portOf_faultLane s p lane
  have hg : lanesFor (portOf (faultLane s p lane) p).faulted (portOf (faultLane s p lane) p).lanes = g := by rw [hu]
  have hf : (portOf (faultLane s p lane) p).faulted = worse := by rw [hu]
  have hs : (portOf (faultLane s p lane) p).state = x.state := by rw [hu]
  have hl : (portOf (faultLane s p lane) p).lanes = x.lanes := by rw [hu]
  have he : exec (.laneFault p lane) s = if x.state ≠ 2 then .next (faultLane s p lane)
      else if g.2 = 3 then .next (retrain (faultLane s p lane) p)
      else if g.1 ≠ x.lanes then .next (if g.2 ≠ (portOf (faultLane s p lane) p).width
        then postHealth (changeLanes (faultLane s p lane) p g) 4 p [] else changeLanes (faultLane s p lane) p g)
      else .next (faultLane s p lane) := by
    rw [← hg, ← hs, ← hl]
    rfl
  rw [he]
  split
  · next h => exact ⟨_, rfl, hf, fun _ => by rw [hu]; exact ⟨rfl, rfl⟩, fun h2 => absurd h2 h, fun h2 => absurd h2 h⟩
  split
  · next h h3 =>
    refine ⟨_, rfl, ?_, fun h2 => absurd h2 h, fun _ _ => ?_, fun _ h' => absurd h3 h'⟩
    · rw [portOf_retrain, hf]
    · rw [portOf_retrain, hu]
      exact ⟨rfl, rfl, rfl⟩
  split
  · next h h3 hm =>
    have hmove := portOf_changeLanes (faultLane s p lane) p g
    refine ⟨_, rfl, ?_, fun h2 => absurd h2 h, fun _ h' => absurd h' h3, fun _ _ _ => ?_⟩
    · rw [portOf_ite, portOf_postHealth, ite_self, hmove, hf]
    · rw [portOf_ite, portOf_postHealth, ite_self, hmove, hu]
      exact ⟨rfl, rfl, rfl, rfl⟩
  · next h h3 hm => exact ⟨_, rfl, hf, fun h2 => absurd h2 h, fun _ h' => absurd h' h3, fun _ _ h' => absurd h' hm⟩

/-- A port whose lanes in `passed` are no longer faulted. -/
def passLanes (s : State) (p : Nat) (passed : BitVec 8) : State := modPort s p (fun x => { x with faulted := x.faulted &&& ~~~passed })

theorem portOf_markBad (s : State) (p : Nat) (old : Bool) : ∃ bad, portOf (markBad s p old) p = { portOf s p with bad := bad } := by
  unfold markBad
  split
  · exact ⟨true, by rw [portOf_postHealth, portOf_modPort, if_pos rfl]⟩
  · exact ⟨_, rfl⟩

/-- After a retest a port with no faulted lane is no longer narrowed, but for what HEALTH keeps of it. -/
def retested (s : State) (p : Nat) (passed : BitVec 8) : State :=
  let u := passLanes s p passed
  if (portOf u p).faulted = 0 then
    markBad (modPort u p (fun x => { x with since := none })) p ((portOf u p).since.any (fun g => !isRecent u g))
  else u

theorem portOf_retested (s : State) (p : Nat) (passed : BitVec 8) : ∃ since bad, portOf (retested s p passed) p =
    { portOf s p with faulted := (portOf s p).faulted &&& ~~~passed, since := since, bad := bad } := by
  have hu : portOf (passLanes s p passed) p = { portOf s p with faulted := (portOf s p).faulted &&& ~~~passed } := by
    rw [passLanes, portOf_modPort, if_pos rfl]
  unfold retested
  dsimp only
  split
  · obtain ⟨bad, hb⟩ := portOf_markBad (modPort (passLanes s p passed) p (fun x => { x with since := none })) p
      ((portOf (passLanes s p passed) p).since.any (fun g => !isRecent (passLanes s p passed) g))
    rw [hb, portOf_modPort, if_pos rfl, hu]
    exact ⟨_, _, rfl⟩
  · rw [hu]
    exact ⟨_, _, rfl⟩

/-- Lanes that pass are usable again, and a port that is up takes up the widest group. -/
theorem exec_laneRetest (s : State) (p : Nat) (passed : BitVec 8) : let x := portOf s p
    let better := x.faulted &&& ~~~passed
    let g := lanesFor better x.lanes
    ∃ t, exec (.laneRetest p passed) s = .next t ∧ (portOf t p).faulted = better ∧
      (x.state = 2 → g.1 ≠ x.lanes → MovedTo x (portOf t p) g) := by
  intro x better g
  obtain ⟨since, bad, hu⟩ := portOf_retested s p passed
  have he : exec (.laneRetest p passed) s = if x.state = 2 ∧ g.1 ≠ x.lanes then .next (changeLanes (retested s p passed) p g)
      else .next (retested s p passed) := by
    have hp : portOf (passLanes s p passed) p = { x with faulted := better } := by rw [passLanes, portOf_modPort, if_pos rfl]
    have hg : g = lanesFor (portOf (passLanes s p passed) p).faulted (portOf (passLanes s p passed) p).lanes := by rw [hp]
    have hs : x.state = (portOf (passLanes s p passed) p).state := by rw [hp]
    have hl : x.lanes = (portOf (passLanes s p passed) p).lanes := by rw [hp]
    rw [hg, hs, hl]
    rfl
  rw [he]
  split
  · refine ⟨_, rfl, ?_, fun _ _ => ?_⟩
    · rw [portOf_changeLanes, hu]
    · rw [portOf_changeLanes, hu]
      exact ⟨rfl, rfl, rfl, rfl⟩
  · next h => exact ⟨_, rfl, by rw [hu], fun h2 hm => absurd ⟨h2, hm⟩ h⟩

/-- A port that retrains comes up with a listed peer, is disabled by any other, and goes on retraining with no usable pair. -/
theorem exec_retrainComplete {s : State} {p : Nat} (peer : Fin 256) (h : (portOf s p).state = 1) : let x := portOf s p
    let pass := peer.val ≠ s.pkgId ∧ isListed s peer.val = true
    ∃ t, exec (.retrainComplete p peer) s = .next t ∧
      ((lanesFor x.faulted 0).2 = 3 → (portOf t p).state = 1 ∧ (portOf t p).retrains = x.retrains + 1) ∧
      ((lanesFor x.faulted 0).2 ≠ 3 → (portOf t p).state = (if pass then 2 else 3) ∧
        (portOf t p).peer = (if pass then peer.val else 0xFF)) := by
  intro x pass
  rw [show exec (.retrainComplete p peer) s = execRetrainComplete p peer s from rfl, execRetrainComplete, if_neg (not_not.mpr h)]
  by_cases h3 : (lanesFor x.faulted 0).2 = 3
  · rw [if_pos h3]
    exact ⟨_, rfl, fun _ => by rw [portOf_retrain]; exact ⟨rfl, rfl⟩, fun h' => absurd h3 h'⟩
  rw [if_neg h3]
  by_cases hpass : pass
  · obtain ⟨hid, hlist⟩ := hpass
    rw [if_neg (by simp [hid, hlist]), if_pos ⟨hid, hlist⟩, if_pos ⟨hid, hlist⟩]
    refine ⟨_, rfl, fun h' => absurd h' h3, fun _ => ?_⟩
    rw [portOf_ite, portOf_postHealth, ite_self, portOf_resend, portOf_modPort, if_pos rfl]
    exact ⟨rfl, rfl⟩
  · rw [if_pos, if_neg hpass, if_neg hpass]
    · refine ⟨_, rfl, fun h' => absurd h' h3, fun _ => ?_⟩
      rw [portOf_modPort, if_pos rfl]
      exact ⟨rfl, rfl⟩
    · by_contra hn
      exact hpass (by simpa using hn)

/-! ### Where no path is left (R321, R366) -/

theorem exec_noPathTimeout_path {s : State} {dest : Fin 128} (h : hasPath s dest.val = true) :
    exec (.noPathTimeout dest) s = .next s := by
  rw [show exec (.noPathTimeout dest) s = execNoPathTimeout dest s from rfl, execNoPathTimeout, if_pos h]

theorem exec_noPathTimeout_lost {s : State} {dest : Fin 128} (h : hasPath s dest.val = false) :
    ∃ t, exec (.noPathTimeout dest) s = .next (discardTowards t dest.val) := by
  rw [show exec (.noPathTimeout dest) s = execNoPathTimeout dest s from rfl, execNoPathTimeout, if_neg (by simp [h])]
  exact ⟨_, rfl⟩

/-- What is under way after a discard is not towards the package, or of a commit that has begun. -/
theorem allOutbound_discardTowards {s : State} {dest : Nat} {o : Outbound} (h : o ∈ allOutbound (discardTowards s dest))
    (hd : o.dest = dest) : isCommitted (discardTowards s dest) o = true := by
  have hk : isCommitted (discardTowards s dest) o = isCommitted s o := rfl
  rw [hk]
  have hkeep : (o.dest != dest || isCommitted s o) = true := by
    simp only [allOutbound, discardTowards, List.mem_append, List.mem_flatMap, List.mem_map] at h
    rcases h with (h | h) | ⟨_, ⟨q, -, rfl⟩, h | ⟨e, he, h⟩⟩
    · exact (List.mem_filter.mp h).2
    · exact (List.mem_filter.mp h).2
    · exact (List.mem_filter.mp h).2
    · obtain ⟨f, -, rfl⟩ := List.mem_map.mp he
      exact (List.mem_filter.mp h).2
  simpa [hd] using hkeep

/-- Settles O59: the port's own changes by `portOf`, what a flit carries by its fields, and the rest by what leaves the ports alone. -/
theorem fabricEvents : Obligations.FabricEvents := by
  unfold Obligations.FabricEvents
  refine ⟨?_, ?_, ?_, lanesFor_widest, ?_, ?_⟩
  · intro s p a left
    have hack := portOf_ackPort s p a
    have hnak := portOf_resend (ackPort s p a) p
    refine ⟨⟨_, rfl, by rw [hack]; rfl⟩, ⟨_, rfl, ?_, ?_⟩⟩
    · rw [hnak, hack]; rfl
    · rw [hnak, hack]; rfl
  · intro s p f x hs
    refine ⟨exec_dataFlit_refused hs, fun hc ht hseq => ?_, fun hc ht hn hr hseq => ?_, ?_⟩
    · obtain ⟨hrx, hnak⟩ := portOf_takeFlit (hseq.trans rxSeq_heard.symm)
      exact ⟨_, exec_dataFlit hs hc ht, by rw [hrx, rxSeq_heard], hnak⟩
    · rw [exec_dataFlit hs hc ht, takeFlit_unordered (by rwa [rxSeq_heard]), rxSeq_heard, heard_nil hn hr]
    · intro tr payload data hc ht hn hseq hr hone ho ha
      have hp : portOf (heard s p f) p = { x with replay := [] } := by rw [heard_nil hn hr, portOf_modPort, if_pos rfl]
      obtain ⟨g, hg⟩ := takeFlit_one (s := heard s p f) (hseq.trans rxSeq_heard.symm) (tr := tr) (by rwa [hp])
      rw [exec_dataFlit hs hc ht, hg, heard_nil hn hr]
      obtain ⟨l, hl⟩ := receiveTrans_write (s := modPort (modPort s p (fun x => { x with replay := [] })) p g) ho ha
      exact ⟨_, rfl, fun i => by rw [hl]; exact memRead_applyWrite ..⟩
  · intro x seq o type ht f
    obtain ⟨hs, ha, hn, hty, hw⟩ := flit_fields x seq type [o] ht
    exact ⟨by simp [f, flitCrcOk, flitOf], hs, ha, hn, hty, hw, fun hl hne => flit_payload x seq type o hl hne⟩
  · intro s p w l passed peer x worse better moved
    obtain ⟨t, he, hf, hdown, hretrain, hmoved⟩ := exec_laneFault s p l
    obtain ⟨u, hu, huf, humoved⟩ := exec_laneRetest s p passed
    refine ⟨rfl, ⟨t, he, hf, hdown, hretrain, fun hs h3 hm => ?_⟩, ⟨u, hu, huf, fun hs hm => ?_⟩, fun h => exec_retrainComplete peer h⟩
    · obtain ⟨hlanes, hwidth, hmarkers, hreplays⟩ := hmoved hs h3 hm
      exact ⟨hlanes, hwidth, hmarkers, hreplays⟩
    · obtain ⟨hlanes, hwidth, hmarkers, hreplays⟩ := humoved hs hm
      exact ⟨hlanes, hwidth, hmarkers, hreplays⟩
  · intro s dest
    refine ⟨exec_noPathTimeout_path, fun h => ?_⟩
    obtain ⟨t, ht⟩ := exec_noPathTimeout_lost h
    exact ⟨_, ht, fun o ho hd => allOutbound_discardTowards ho hd⟩

end Sys2Proof.Machine
end

section
/-! PROOFS. The supervisor instructions (R77, R136, R195, R336, R341, R342). -/

namespace Sys2Proof.Machine

section
variable {s : State}

theorem fieldOf_zero (x n : Nat) : fieldOf x 0 n = x % 2 ^ n := by simp [fieldOf]

variable (h : slotFree s = true) (hm : (here s).mode = .supervisor)
include h hm

/-- In supervisor mode a supervisor instruction that finds its slot free is what it does (R195). -/
theorem finish_supervisor (f : State → Issue) : finish s (withSlot s (fun s => supervisorOnly s f)) = finish s (f s) := by
  rw [finish_withSlot h, supervisorOnly_supervisor hm]

/-! ### Allowances (R136) -/

theorem postAllow_own (isMode : Bool) (a b : SReg) : postAllow isMode a b false s =
    .next { s with posts := s.posts ++ [⟨s.cur / 4, s.gcc, isMode, (here s).readS b⟩] } := finish_supervisor h hm _

theorem postAllow_named (isMode : Bool) (a b : SReg) (hc : ((here s).readS a).toNat % 512 < Config.cores) :
    postAllow isMode a b true s =
      .next { s with posts := s.posts ++ [⟨((here s).readS a).toNat % 512, s.gcc, isMode, (here s).readS b⟩] } := by
  have hcore : fieldOf ((here s).readS a).toNat 0 9 = ((here s).readS a).toNat % 512 := fieldOf_zero _ 9
  have hinside : decide (Config.cores ≤ ((here s).readS a).toNat % 512) = false := decide_eq_false (Nat.not_le.mpr hc)
  refine (finish_supervisor h hm _).trans ?_
  simp only [hcore, hinside, if_true, Bool.and_false, Bool.false_eq_true, if_false, finish_ok]

/-! ### Named contexts (R195, R341, R342, R343) -/

theorem onCtx_named {a : SReg} {k : Nat} (hk : namedCtx s ((here s).readS a) = some k) (f : State → Nat → Issue) :
    onCtx a s f = finish s (f s k) := by
  refine (finish_supervisor h hm _).trans ?_
  rw [hk]

theorem onCtx_outside {a : SReg} (hk : namedCtx s ((here s).readS a) = none) (f : State → Nat → Issue) :
    onCtx a s f = .next (raiseAtIssue s 0x16 none) := by
  refine (finish_supervisor h hm _).trans ?_
  rw [hk, finish_trap]

/-- An instruction on a named context that joins the untimed work. -/
theorem onCtx_queued {d a : SReg} {k : Nat} (hk : namedCtx s ((here s).readS a) = some k)
    (hr : resultRoom s (resultFor d) = true) (job : State → Nat → Job) :
    onCtx a s (fun s k => issueUntimed s (job s k) (resultFor d) false [] []) =
      .next (queued s (job s k) (resultFor d) false [] []) := by
  rw [onCtx_named h hm hk, issueUntimed_ok hr, finish_ok]

theorem exec_gfreeze {d a : SReg} {k : Nat} (hk : namedCtx s ((here s).readS a) = some k)
    (hr : resultRoom s (resultFor d) = true) : exec (.gfreeze d a) s = .next (postPre (queued s (.gfreeze k
      (((ctxOf s k).freeze.map (fun z => z.f)).getD (s.gcc + 512))) (resultFor d) false [] []) k) := by
  refine (onCtx_named h hm hk _).trans ?_
  dsimp only
  rw [issueUntimed_ok hr, andThen_ok, finish_ok]

/-- GTHAW of a halted context: its boundary is the GCC of its HALT (R342). -/
theorem exec_gthaw_halted {a b : SReg} {k g : Nat} (hk : namedCtx s ((here s).readS a) = some k)
    (hf : (ctxOf s k).freeze = none) (hg : (ctxOf s k).halted = some g) : exec (.gthaw a b) s =
      .next (modCtx s k (fun c => { c with
        halted := none, freeze := some ⟨g, [], max ((here s).readS b).toNat (s.gcc + 1)⟩ })) := by
  refine (onCtx_named h hm hk _).trans ?_
  simp only [hf, thawHalted, hg, finish_ok]

/-- GTHAW of a frozen context clears PRE and PF of its group (R342). -/
theorem exec_gthaw_frozen {a b : SReg} {k : Nat} {f : Freeze} (hk : namedCtx s ((here s).readS a) = some k)
    (hf : (ctxOf s k).freeze = some f) (hmark : .pre ∈ f.marks ∨ .pf ∈ f.marks) : exec (.gthaw a b) s =
      .next (clearGroup (clearGroup s k .pre (max ((here s).readS b).toNat (s.gcc + 64))) k .pf
        (max ((here s).readS b).toNat (s.gcc + 64))) := by
  have hmarks : (f.marks.contains .pre || f.marks.contains .pf) = true := by simpa using hmark
  refine (onCtx_named h hm hk _).trans ?_
  simp only [hf, hmarks, if_true, finish_ok]

/-! ### Translations, messages, HALT (R77, R195, R336) -/

theorem exec_tlbinv (a b : SReg) (k : TlbKind) : exec (.tlbinv a b k) s =
    .next (queued s (.tlbinv k ((here s).readS a) (((here s).readS b).toNat % 2 ^ 16)) none false [] []) :=
  (finish_supervisor h hm _).trans (by rw [issueUntimed_none, finish_ok])

theorem exec_msgsend {a b : SReg} (hp : portReadable s ((here s).readS b).toNat 64 1 = true) : exec (.msgsend a b) s =
    .next (queued s (.message (((here s).readS a).toNat % 8)
      (memReadList (bufPrior s s.cur .dm ((here s).readS b).toNat 64) 0 64)) none false [] []) := by
  have hcore : fieldOf ((here s).readS a).toNat 0 3 = ((here s).readS a).toNat % 8 := fieldOf_zero _ 3
  refine (finish_supervisor h hm _).trans ?_
  rw [commandRead_ok hp, issueUntimed_none, finish_ok, hcore]

/-- HALT stops its context, and the HALT of a handler of TRAP posts its cause (R336; log 65). -/
theorem exec_halt : let t := modHere s (fun c => { c with halted := some s.gcc })
    exec .halt s = .next (if (here s).tcause = 0x13 ∧ (here s).task.isSome then
      postCtxFault t s.cur 0 0x26 (here s).tval 0 (here s).tpc.toNat else t) := by
  intro t
  have ht : ctxOf t s.cur = { here s with halted := some s.gcc } := by simp [t]
  refine (finish_supervisor h hm _).trans ?_
  rw [finish_ok, postTrapHalt]
  simp only [t, ht]

end

/-- Settles O23: each instruction is what it does in supervisor mode, those on a context by the context that they name. -/
theorem supervisorOperations : Obligations.SupervisorOperations := by
  intro s h hm
  refine ⟨fun a b => ⟨postAllow_own h hm false a b, postAllow_own h hm true a b, fun hc =>
      ⟨postAllow_named h hm false a b hc, postAllow_named h hm true a b hc⟩⟩,
    fun d a b k hk hr => ⟨onCtx_queued h hm hk hr fun s k => .ctxsave k ((here s).readS b).toNat,
      onCtx_queued h hm hk hr fun s k => .ctxload k ((here s).readS b).toNat,
      onCtx_queued h hm hk hr fun s k => .segload k ((here s).readS b).toNat, exec_gfreeze h hm hk hr⟩,
    fun a b k g hk hf hg => exec_gthaw_halted h hm hk hf hg, fun a b k f hk hf hmark => exec_gthaw_frozen h hm hk hf hmark,
    exec_tlbinv h hm, fun a b hp => exec_msgsend h hm hp, exec_halt h hm, fun d a b hk => ?_⟩
  exact ⟨onCtx_outside h hm hk _, onCtx_outside h hm hk _, onCtx_outside h hm hk _, onCtx_outside h hm hk _,
    onCtx_outside h hm hk _⟩

end Sys2Proof.Machine
end

section
/-! PROOFS. VHACC at issue and as it performs (R70, R225–R228). -/

namespace Sys2Proof.Machine

/-! ### VHACC at issue (R228) -/

theorem exec_vhacc {s : State} (h : slotFree s = true) (a : VReg) (b : VSrc) (p : PReg) (t : Ty) (x : HaccArgs) : let c := here s
    let base := (c.readS x.sb).toNat
    c.resultCount < 16 → base % 256 = 0 → inPartition c (haccBuf x) base (haccBytes x) = true →
    haccPending s (haccBuf x) base (haccBytes x) = none →
    exec (.vhacc a b p t x) s = .next (queued s (.vhacc t x base (c.readV a) (readSrc c t b) (activity c p) c.rm
      (if s.slot = .v1 then 1 else 0)) (some ⟨0, none⟩) false [] ((linesOf base (haccBytes x)).map (fun l => ⟨haccBuf x, l * 256⟩))) := by
  intro c base hroom halign hpart hpend
  have hres : resultRoom s (some ⟨0, none⟩) = true := decide_eq_true hroom
  have hplace : (base % 256 != 0 || !inPartition c (haccBuf x) base (haccBytes x)) = false := by rw [halign, hpart]; rfl
  show execVhacc a b p t x s = _
  rw [execVhacc, withSlot_free h]
  dsimp only
  rw [hpend, issueUntimed_ok hres]
  exact congrArg (finish s) (unless_ok.mpr ⟨rfl, hplace⟩)

/-! ### The probe (R226) -/

/-- What the first hit of a search over the numbers below `n` says: it hits, and none before it does. -/
theorem findSome?_range_eq_some {α : Type} {f : Nat → Option α} {n : Nat} {b : α} (h : (List.range n).findSome? f = some b) :
    ∃ j, j < n ∧ f j = some b ∧ ∀ i, i < j → f i = none := by
  induction n with
  | zero => simp at h
  | succ n ih =>
    rw [List.range_succ, List.findSome?_append] at h
    cases hfirst : (List.range n).findSome? f with
    | some c =>
      rw [hfirst] at h
      obtain ⟨j, hj, hb, hbefore⟩ := ih (hfirst.trans h)
      exact ⟨j, Nat.lt_succ_of_lt hj, hb, hbefore⟩
    | none =>
      rw [hfirst, Option.none_or] at h
      exact ⟨n, Nat.lt_succ_self n, by simpa using h, fun i hi => List.findSome?_eq_none_iff.mp hfirst i (List.mem_range.mpr hi)⟩

/-- The entry that the `j`-th step of a probe looks at, where it ends the probe. -/
def probeStep (m : Memory) (n key h j : Nat) : Option (Nat × Bool) :=
  let e := (h + j) % 2 ^ n
  let k := memReadNat m (8 * e) 4
  if k = key then some (e, true) else if k = 0xFFFF_FFFF then some (e, false) else none

section
variable {m : Memory} {n key h : Nat}

theorem haccProbe_eq : haccProbe m n key h = (List.range (min 8 (2 ^ n))).findSome? (probeStep m n key h) := rfl

theorem probeStep_none {j : Nat} : probeStep m n key h j = none ↔
    memReadNat m (8 * ((h + j) % 2 ^ n)) 4 ≠ key ∧ memReadNat m (8 * ((h + j) % 2 ^ n)) 4 ≠ 0xFFFF_FFFF := by
  unfold probeStep
  dsimp only
  split
  · next hk => simp [hk]
  · next hk => split <;> next he => simp [hk, he]

theorem probeStep_some {j e : Nat} {own : Bool} (hs : probeStep m n key h j = some (e, own)) :
    e = (h + j) % 2 ^ n ∧ own = decide (memReadNat m (8 * ((h + j) % 2 ^ n)) 4 = key) ∧
      (own = true ∨ memReadNat m (8 * ((h + j) % 2 ^ n)) 4 = 0xFFFF_FFFF) := by
  unfold probeStep at hs
  dsimp only at hs
  split at hs
  · next hk =>
    cases hs
    exact ⟨rfl, (decide_eq_true hk).symm, .inl rfl⟩
  · next hk =>
    split at hs
    · next he =>
      cases hs
      exact ⟨rfl, (decide_eq_false hk).symm, .inr he⟩
    · cases hs

theorem haccProbe_none (hn : haccProbe m n key h = none) {j : Nat} (hj : j < min 8 (2 ^ n)) :
    memReadNat m (8 * ((h + j) % 2 ^ n)) 4 ≠ key ∧ memReadNat m (8 * ((h + j) % 2 ^ n)) 4 ≠ 0xFFFF_FFFF := by
  rw [haccProbe_eq] at hn
  exact probeStep_none.mp (List.findSome?_eq_none_iff.mp hn j (List.mem_range.mpr hj))

/-- A probe ends at the first of its entries that is the key's own or empty. -/
theorem haccProbe_some {e : Nat} {own : Bool} (hs : haccProbe m n key h = some (e, own)) :
    let keyOf := fun j => memReadNat m (8 * ((h + j) % 2 ^ n)) 4
    ∃ j, j < min 8 (2 ^ n) ∧ e = (h + j) % 2 ^ n ∧ own = decide (keyOf j = key) ∧ (own = true ∨ keyOf j = 0xFFFF_FFFF) ∧
      ∀ i, i < j → keyOf i ≠ key ∧ keyOf i ≠ 0xFFFF_FFFF := by
  rw [haccProbe_eq] at hs
  obtain ⟨j, hj, hhit, hbefore⟩ := findSome?_range_eq_some hs
  obtain ⟨he, hown, hends⟩ := probeStep_some hhit
  exact ⟨j, hj, he, hown, hends, fun i hi => probeStep_none.mp (hbefore i hi)⟩

end

/-! ### The lanes of a VHACC (R226) -/

/-- A table with an entry written: its key and its value. -/
def putEntry (m : Memory) (e key v : Nat) : Memory := memWriteNat (memWriteNat m (8 * e) 4 key) (8 * e + 4) 4 v

theorem wf_putEntry {m : Memory} (h : Memory.wf m) (e key v : Nat) : Memory.wf (putEntry m e key v) :=
  wf_memWriteNat (wf_memWriteNat h ..) ..

theorem putEntry_key (m : Memory) (e v : Nat) {key : Nat} (h : key < 2 ^ 32) : memReadNat (putEntry m e key v) (8 * e) 4 = key := by
  rw [putEntry, memReadNat_memWriteNat_apart _ (.inr le_rfl), memReadNat_memWriteNat_of_lt m (8 * e) h]

theorem putEntry_value (m : Memory) (e key v : Nat) : memReadNat (putEntry m e key v) (8 * e + 4) 4 = v % 2 ^ 32 :=
  memReadNat_memWriteNat ..

theorem putEntry_apart (m : Memory) (e key v : Nat) {a : Nat} (h : a < 8 * e ∨ 8 * e + 8 ≤ a) :
    memRead (putEntry m e key v) a = memRead m a := by
  simp only [putEntry, memWriteNat, memRead_memWriteList, length_bytesOfNat]
  rw [if_neg (by omega), if_neg (by omega)]

section
variable (t : Ty) (x : HaccArgs) (keys vals : VWord) (act : PWord) (rm : Nat)

/-- The probe of lane 63 − left, behind which `left` lanes stand. -/
def laneProbe (left : Nat) (m : Memory) : Option (Nat × Bool) :=
  let key := laneOf keys 32 (63 - left)
  haccProbe m x.lgn.val key ((key ^^^ (key / 2 ^ 16)) % 2 ^ x.lgn.val)

/-- The value that lane 63 − left gives entry `e`, its key's own or an empty one, and its flags. -/
def laneUpdate (left : Nat) (m : Memory) (e : Nat) (own : Bool) : Nat × Flags :=
  let v := laneOf vals 32 (63 - left)
  if own then haccUpdate x.op t rm (memReadNat m (8 * e + 4) 4) v else (if x.op = .cnt then 1 else v, 0)

variable {left : Nat} {m : Memory}

theorem haccRun_idle (h : laneBit act t (63 - left) = false ∨ laneOf keys 32 (63 - left) = 0xFFFF_FFFF) :
    haccRun t x keys vals act rm (left + 1) m = haccRun t x keys vals act rm left m := by
  have hidle : (!laneBit act t (63 - left) || laneOf keys 32 (63 - left) == 0xFFFF_FFFF) = true := by simpa using h
  rw [haccRun, if_pos hidle]

section
variable (hact : laneBit act t (63 - left) = true) (hkey : laneOf keys 32 (63 - left) ≠ 0xFFFF_FFFF)
include hact hkey

theorem lane_acts : (!laneBit act t (63 - left) || laneOf keys 32 (63 - left) == 0xFFFF_FFFF) = false := by simp [hact, hkey]

theorem haccRun_stops (hp : laneProbe x keys left m = none) :
    haccRun t x keys vals act rm (left + 1) m = ⟨m, 0, some (63 - left), [], []⟩ := by
  rw [laneProbe] at hp
  rw [haccRun, lane_acts t keys act hact hkey, if_neg Bool.false_ne_true]
  dsimp only
  rw [hp]

theorem haccRun_updates {e : Nat} {own : Bool} (hp : laneProbe x keys left m = some (e, own)) :
    let u := laneUpdate t x vals rm left m e own
    let r := haccRun t x keys vals act rm (left + 1) m
    let rest := haccRun t x keys vals act rm left (putEntry m e (laneOf keys 32 (63 - left)) u.1)
    r.mem = rest.mem ∧ r.stop = rest.stop ∧ r.flags = u.2 ||| rest.flags := by
  rw [laneProbe] at hp
  rw [haccRun, lane_acts t keys act hact hkey, if_neg Bool.false_ne_true]
  dsimp only
  rw [hp]
  exact ⟨rfl, rfl, rfl⟩

end

/-- The table of a VHACC stays in canonical form, lane by lane. -/
theorem wf_haccRun (hm : Memory.wf m) : Memory.wf (haccRun t x keys vals act rm left m).mem := by
  induction left generalizing m with
  | zero => exact hm
  | succ left ih =>
    by_cases hidle : laneBit act t (63 - left) = false ∨ laneOf keys 32 (63 - left) = 0xFFFF_FFFF
    · rw [haccRun_idle t x keys vals act rm hidle]
      exact ih hm
    · obtain ⟨hact, hkey⟩ := not_or.mp hidle
      rw [Bool.not_eq_false] at hact
      cases hp : laneProbe x keys left m with
      | none =>
        rw [haccRun_stops t x keys vals act rm hact hkey hp]
        exact hm
      | some p =>
        obtain ⟨hmem, -, -⟩ := haccRun_updates t x keys vals act rm hact hkey hp
        rw [hmem]
        exact ih (wf_putEntry hm ..)

end

/-! ### The shadow unit (R70) -/

theorem issueKept_divLog (s : State) (l : List Nat) : IssueKept s { s with divLog := l } :=
  ⟨fun _ => .refl _, ⟨fun _ => rfl, fun _ _ _ => rfl, fun _ => rfl, fun _ => rfl, fun _ => ⟨rfl, rfl, rfl, rfl⟩, fun _ => rfl,
    fun _ _ => rfl⟩, rfl⟩

theorem issueKept_postHealth (s : State) (kind unit : Nat) (data : List Byte) : IssueKept s (postHealth s kind unit data) :=
  ⟨fun _ => .refl _, ⟨fun _ => rfl, fun _ _ _ => rfl, fun _ => rfl, fun _ => rfl, fun _ => ⟨rfl, rfl, rfl, rfl⟩, fun _ => rfl,
    fun _ _ => rfl⟩, rfl⟩

theorem issueKept_postCause (s : State) (k cause : Nat) (tval : W64) : IssueKept s (postCause s k cause tval) :=
  issueKept_modCtx (by constructor <;> simp)

/-- A shadow check draws its values and may log a divergence and post a cause: no register and no store changes. -/
theorem issueKept_shadowCheck (s : State) (k slot : Nat) (ty : Ty) (l : List (Nat × Nat)) : IssueKept s (shadowCheck s k slot ty l) := by
  have hdrawn : IssueKept s (nextFresh s ty.lanes) := issueKept_nextFresh _
  unfold shadowCheck
  dsimp only
  split
  · exact hdrawn
  · refine .trans ?_ (issueKept_postCause ..)
    refine .trans ?_ (issueKept_modCore (fun _ b => by cases b <;> rfl) (fun _ => ⟨rfl, rfl⟩) (fun _ => ⟨rfl, rfl, rfl, rfl⟩))
    refine .trans ?_ (issueKept_postHealth ..)
    exact hdrawn.trans (issueKept_divLog ..)

theorem shadowCheck_mem (s : State) (k slot : Nat) (ty : Ty) (l : List (Nat × Nat)) : (shadowCheck s k slot ty l).mem = s.mem := by
  unfold shadowCheck
  dsimp only
  split <;> rfl

/-! ### A VHACC performs (R70, R78, R226, R227) -/

/-- What a partition reads in its cycle is canonical where the partition is. -/
theorem wf_bufPrior {s : State} {k : Nat} {b : Buf} (h : Memory.wf ((coreOf s (coreIx k)).bufMem b)) (off len : Nat) :
    Memory.wf (bufPrior s k b off len) := by
  unfold bufPrior
  exact wf_foldl_memWrite _ (fun w : Nat × Nat × Byte => w.2.1 - ((ctxOf s k).base b + off)) (fun w => w.2.2) (wf_memSlice h ..)

/-- A partition written, and then what keeps registers, stores and memory. -/
theorem BufferWritten.kept {s t u : State} {k : Nat} {b : Buf} {off len : Nat} {byte : Nat → Byte}
    (h : BufferWritten s t k b off len byte) (g : IssueKept t u) (hm : u.mem = t.mem) : BufferWritten s u k b off len byte where
  bytes i hi := (g.stores.buf ..).trans (h.bytes i hi)
  rest n q a ha := (g.stores.buf ..).trans (h.rest n q a ha)
  mem := hm.trans h.mem
  tiles n := ⟨(g.stores.tiles n).trans (h.tiles n).1, (g.stores.barriers n).trans (h.tiles n).2⟩
  regs j := (h.regs j).trans (g.regs j)

/-- A VHACC that no earlier one stops writes the table that its run makes, and its progress becomes its result. -/
theorem performJob_vhacc {s : State} {k base rm slot : Nat} {u : Untimed} {t : Ty} {x : HaccArgs} {keys vals : VWord} {act : PWord}
    (hu : u.job = .vhacc t x base keys vals act rm slot) (hs : haccStopped (ctxOf s k) u.seq = false)
    (hwf : Memory.wf ((coreOf s (coreIx k)).bufMem (haccBuf x))) :
    let r := haccRun t x keys vals act rm 64 (bufPrior s k (haccBuf x) base (haccBytes x))
    ∃ v, performJob s k u = finishJob v k u.seq (some (haccResult r.stop.isSome (r.stop.getD 64) false r.flags)) none ∧
      BufferWritten s v k (haccBuf x) base (haccBytes x) (memRead r.mem) := by
  intro r
  have hr : Memory.wf r.mem := wf_haccRun t x keys vals act rm (wf_bufPrior hwf ..)
  have hw := bufferWritten_bufWrite s k (haccBuf x) base (haccBytes x)
    ((badBytes s k (haccBuf x) base (haccBytes x)).filter (fun i => !r.wrote.contains i)) hr
  rw [performJob, hu]
  dsimp only
  rw [performVhacc, hs, if_neg Bool.false_ne_true]
  refine ⟨_, rfl, ?_⟩
  split
  · exact hw.kept (issueKept_shadowCheck ..) (shadowCheck_mem ..)
  · exact hw

end Sys2Proof.Machine
end

section
/-! PROOFS. VNEST at issue, and its steps as they read and write (R70, R125, R229, R230). -/

namespace Sys2Proof.Machine

/-! ### VNEST at issue (R125, R229) -/

theorem exec_vnest {s : State} {x : NestArgs} (h : slotFree s = true) (hb : nestBusy s = false) : let c := here s
    let r := reserve s [span s c.ttc (c.ttc + 1 + x.steps + nestLat x.fop x.t) 40]
    (∀ n, n < x.steps → nestClash c x n = none ∧ lineOk c x.bufA (nestLineA x n) = true ∧
      lineOk c x.bufB (nestLineB x n) = true ∧ lineOk c x.bufD (nestLineD x n) = true) →
    exec (.vnest x) s = .next (modHere r (fun c => { c with
      seq := c.seq + 1
      flights := c.flights ++ [⟨c.seq, c.ttc + x.steps + 1, .occupy s.slot.code, []⟩,
        ⟨c.seq, c.ttc + 2, .nestStep x s.slot.code (activity c x.p) c.rm 0, []⟩] })) := by
  intro c r hsteps
  have hclash : (List.range x.steps).findSome? (nestClash c x) = none :=
    List.findSome?_eq_none_iff.mpr fun n hn => (hsteps n (List.mem_range.mp hn)).1
  have hlines : (List.range x.steps).all (fun n => lineOk c x.bufA (nestLineA x n) && lineOk c x.bufB (nestLineB x n) &&
      lineOk c x.bufD (nestLineD x n)) = true := List.all_eq_true.mpr fun n hn => by
    obtain ⟨-, hA, hB, hD⟩ := hsteps n (List.mem_range.mp hn)
    rw [hA, hB, hD]
    rfl
  show execVnest x s = _
  rw [execVnest, withSlot_free h]
  dsimp only
  rw [hb, if_neg Bool.false_ne_true, hclash]
  dsimp only
  rw [hlines]
  rfl

/-! ### A step reads (R230) -/

/-- The line of a buffer that a stream of a VNEST reads. -/
def nestData (s : State) (k : Nat) (b : Buf) (l : Int) : VWord := vecOfMem (bufPrior s k b (l.toNat * 256) 256)

/-- The streams of a step that are read: A and B, and D for VFMA. -/
theorem nestReads_eq (x : NestArgs) (n : Nat) : nestReads x n =
    [(11, x.bufA, (nestLineA x n).toNat), (12, x.bufB, (nestLineB x n).toNat)] ++
      if x.fop = .vfma then [(13, x.bufD, (nestLineD x n).toNat)] else [] := by
  unfold nestReads nestStreams
  split <;> rfl

/-- A stream of a step that may be read: its line is not pending, not refused, and of good parity. -/
def ReadsClean (s : State) (k : Nat) (r : Nat × Buf × Nat) : Prop :=
  pendingLine s k r.2.1 r.2.2 = false ∧ isRefused s k r.2.1 (r.2.2 * 256) false = false ∧
    badBytes s k r.2.1 (r.2.2 * 256) 256 = []

theorem nestRead_clean {s : State} {k code : Nat} {b : Buf} {l : Int} (h : ReadsClean s k (code, b, l.toNat)) :
    nestRead s k (code, b, l.toNat) = (s, nestData s k b l, false) := by
  obtain ⟨hpend, hrefused, hparity⟩ := h
  dsimp only at hpend hrefused hparity
  simp [nestRead, nestData, hpend, hrefused, hparity]

theorem laneOf_zero (w i : Nat) : laneOf 0#2048 w i = 0 := by simp [laneOf]

/-- The result of a step in lane i. -/
def nestOut (s : State) (k : Nat) (x : NestArgs) (rm n i : Nat) : Nat × Flags :=
  let lane := fun (b : Buf) (l : Int) => laneOf (nestData s k b l) x.t.width i
  nestLane x.fop x.t rm (lane x.bufA (nestLineA x n)) (lane x.bufB (nestLineB x n))
    (if x.fop = .vfma then lane x.bufD (nestLineD x n) else 0)

/-- A step whose streams read clean writes its lanes a latency later, and the next step reads in the next cycle. -/
theorem performFlight_nestStep {s : State} {k slot rm n : Nat} {f : Flight} {x : NestArgs} {mask : PWord}
    (hf : f.act = .nestStep x slot mask rm n) (hr : ∀ r ∈ nestReads x n, ReadsClean s k r) :
    performFlight s k f = againIf (decide (n + 1 < x.steps))
      (again s k f (f.due + nestLat x.fop x.t) (.nestWrite x slot mask (nestLineD x n).toNat
        (ofLanes x.t.width x.t.lanes (fun i => (nestOut s k x rm n i).1)) (laneFlags x.t mask (fun i => (nestOut s k x rm n i).2)) false))
      k f (f.due + 1) (.nestStep x slot mask rm (n + 1)) := by
  have hstreams := nestReads_eq x n
  rw [hstreams] at hr
  have hA := nestRead_clean (hr (11, x.bufA, (nestLineA x n).toNat) (by simp))
  have hB := nestRead_clean (hr (12, x.bufB, (nestLineB x n).toNat) (by simp))
  simp only [performFlight, hf, performNestStep, hstreams, nestOut]
  by_cases hop : x.fop = .vfma
  · have hD := nestRead_clean (hr (13, x.bufD, (nestLineD x n).toNat) (by simp [hop]))
    simp [hop, hA, hB, hD]
  · simp [hop, hA, hB, laneOf_zero]

/-! ### A step writes (R230) -/

/-- The bytes that a step writes: those of the active lanes of its D line. -/
def nestCells (x : NestArgs) (mask : PWord) (line : Nat) (data : VWord) : List (Nat × Byte) :=
  (laneCells x.t mask (fun i => line * 256 + i * laneBytes x.t)).map (fun c => (c.2, byteOf data c.1))

theorem mem_nestCells {x : NestArgs} {mask : PWord} {line : Nat} {data : VWord} {c : Nat × Byte} : c ∈ nestCells x mask line data ↔
    ∃ i, i < 256 ∧ laneBit mask x.t (i / laneBytes x.t) = true ∧ c = (line * 256 + i, byteOf data i) := by
  obtain ⟨-, hl⟩ := lane_bytes x.t
  have hpos : 0 < laneBytes x.t := Nat.pos_of_ne_zero fun h => by simp [h] at hl
  simp only [nestCells, List.mem_map, mem_laneCells]
  constructor
  · rintro ⟨_, ⟨q, hq, hact, j, hj, rfl⟩, rfl⟩
    refine ⟨q * laneBytes x.t + j, ?_, ?_, by simp [Nat.add_assoc]⟩
    · calc q * laneBytes x.t + j < (q + 1) * laneBytes x.t := by rw [Nat.succ_mul]; omega
        _ ≤ 256 := hl ▸ Nat.mul_le_mul_right _ hq
    · rwa [Nat.add_comm, Nat.add_mul_div_right _ _ hpos, Nat.div_eq_of_lt hj, Nat.zero_add]
  · rintro ⟨i, hi, hact, rfl⟩
    have hsplit : i / laneBytes x.t * laneBytes x.t + i % laneBytes x.t = i := Nat.div_add_mod' ..
    refine ⟨_, ⟨i / laneBytes x.t, (Nat.div_lt_iff_lt_mul hpos).mpr (hl ▸ hi), hact, i % laneBytes x.t, Nat.mod_lt _ hpos, rfl⟩, ?_⟩
    simp only [Nat.add_assoc, hsplit]

/-- No two cells of vector lanes are of one byte of the register. -/
theorem nodup_laneCells (t : Ty) (act : PWord) (off : Nat → Nat) : ((laneCells t act off).map (fun c => c.1)).Nodup := by
  rw [laneCells, List.map_flatMap, List.nodup_flatMap]
  refine ⟨fun i _ => ?_, (List.nodup_range.filter _).imp fun {i i'} hne => ?_⟩
  · rw [List.map_map]
    exact List.nodup_range.map fun _ _ h => Nat.add_left_cancel h
  · rw [Function.onFun, List.disjoint_left]
    intro q hq hq'
    simp only [List.map_map, List.mem_map, List.mem_range, Function.comp_apply] at hq hq'
    obtain ⟨j, hj, rfl⟩ := hq
    obtain ⟨j', hj', he⟩ := hq'
    exact hne (laneByte_inj hj hj' he).1.symm

theorem nodup_nestCells (x : NestArgs) (mask : PWord) (line : Nat) (data : VWord) :
    ((nestCells x mask line data).map (fun c => c.1)).Nodup := by
  have haddr : (nestCells x mask line data).map (fun c => c.1) =
      ((laneCells x.t mask (fun i => line * 256 + i * laneBytes x.t)).map (fun c => c.1)).map (line * 256 + ·) := by
    simp only [nestCells, List.map_map]
    refine List.map_congr_left fun c hc => ?_
    obtain ⟨i, -, -, j, -, rfl⟩ := mem_laneCells.mp hc
    exact Nat.add_assoc ..
  rw [haddr]
  exact (nodup_laneCells ..).map fun _ _ h => Nat.add_left_cancel h

/-- A step's write: its flags, its cells, and then what keeps registers, stores and memory. -/
theorem performFlight_nestWrite {s : State} {k slot line : Nat} {f : Flight} {x : NestArgs} {mask : PWord} {data : VWord} {fl : Flags}
    (hf : f.act = .nestWrite x slot mask line data fl false) (hp : pendingLine s k x.bufD line = false)
    (hr : isRefused s k x.bufD (line * 256) true = false) :
    let w := writeCells (modCtx s k (fun c => c.orFlags fl)) k x.bufD (nestCells x mask line data)
    IssueKept w (performFlight s k f) ∧ (performFlight s k f).mem = w.mem := by
  intro w
  have hw : (laneCells x.t mask (fun i => line * 256 + i * laneBytes x.t)).foldl
      (fun s c => bufWrite s k x.bufD c.2 1 (memWrite [] 0 (byteOf data c.1)) (allBad false 1)) (modCtx s k (fun c => c.orFlags fl)) = w := by
    simp only [w, writeCells, nestCells, List.foldl_map]
    rfl
  simp only [performFlight, hf, performNestWrite, hp, hr, hw, Bool.false_eq_true, if_false]
  split
  · exact ⟨issueKept_shadowCheck .., shadowCheck_mem ..⟩
  · exact ⟨.refl w, rfl⟩

/-- A step writes the active lanes of its D line and ORs its flags; no other byte and no other register changes. -/
theorem nestWrite_performs {s : State} {k slot line : Nat} {f : Flight} {x : NestArgs} {mask : PWord} {data : VWord} {fl : Flags}
    (hf : f.act = .nestWrite x slot mask line data fl false) (hp : pendingLine s k x.bufD line = false)
    (hr : isRefused s k x.bufD (line * 256) true = false) :
    let t := performFlight s k f
    let at_ := fun i => (ctxOf s k).base x.bufD + line * 256 + i
    (∀ i, i < 256 → memRead ((coreOf t (coreIx k)).bufMem x.bufD) (at_ i) =
      if laneBit mask x.t (i / laneBytes x.t) then byteOf data i else memRead ((coreOf s (coreIx k)).bufMem x.bufD) (at_ i)) ∧
    (∀ n b a, ¬(n = coreIx k ∧ b = x.bufD ∧ at_ 0 ≤ a ∧ a < at_ 256) →
      memRead ((coreOf t n).bufMem b) a = memRead ((coreOf s n).bufMem b) a) ∧
    t.mem = s.mem ∧ (ctxOf t k).vflags = (ctxOf s k).vflags ||| fl ∧
    SameRegisters { ctxOf s k with vflags := (ctxOf t k).vflags } (ctxOf t k) ∧
    ∀ j, j ≠ k → SameRegisters (ctxOf s j) (ctxOf t j) := by
  intro t at_
  obtain ⟨hkept, hmem⟩ := performFlight_nestWrite hf hp hr
  let flagged := modCtx s k (fun c => c.orFlags fl)
  have hctx : ∀ j, ctxOf (writeCells flagged k x.bufD (nestCells x mask line data)) j =
      if j = k then (ctxOf s k).orFlags fl else ctxOf s j := fun j => by
    rw [ctxOf, writeCells_ctxs]
    exact ctxOf_modCtx ..
  have hbase : (ctxOf flagged k).base x.bufD = (ctxOf s k).base x.bufD := by
    rw [ctxOf_modCtx, if_pos rfl]
    rfl
  have hregs : SameRegisters ((ctxOf s k).orFlags fl) (ctxOf t k) := by
    have := hkept.regs k
    rwa [hctx, if_pos rfl] at this
  have hflags : (ctxOf t k).vflags = (ctxOf s k).vflags ||| fl := hregs.vflags.1.symm
  refine ⟨fun i hi => (hkept.stores.buf ..).trans ?_, fun n b a hout => (hkept.stores.buf ..).trans ?_, ?_, hflags, ?_, fun j hj => ?_⟩
  · split
    · next hact =>
      have hcell := memRead_writeCells flagged k x.bufD (nodup_nestCells x mask line data) (mem_nestCells.mpr ⟨i, hi, hact, rfl⟩)
      rwa [hbase, ← Nat.add_assoc] at hcell
    · next hact =>
      refine memRead_writeCells_apart flagged k x.bufD fun ⟨_, _, c, hc, ha⟩ => hact ?_
      obtain ⟨i', -, hact', rfl⟩ := mem_nestCells.mp hc
      rw [hbase, ← Nat.add_assoc] at ha
      rwa [Nat.add_left_cancel ha]
  · refine memRead_writeCells_apart flagged k x.bufD fun ⟨hn, hb, c, hc, ha⟩ => hout ⟨hn, hb, ?_⟩
    obtain ⟨i, hi, -, rfl⟩ := mem_nestCells.mp hc
    rw [hbase] at ha
    dsimp only [at_] at ha ⊢
    omega
  · exact hmem.trans (writeCells_mem ..)
  · rw [hflags]
    exact hregs
  · have := hkept.regs j
    rwa [hctx, if_neg hj] at this

/-- Settles O44: VHACC and VNEST at issue by their checks, a VHACC lane by lane of its table, a VNEST by the reads and the write of a
step. -/
theorem hashAndNest : Obligations.HashAndNest := by
  unfold Obligations.HashAndNest
  refine ⟨?_, ?_, ?_, ?_, ?_, ?_, ?_⟩
  · intro s a b p t x c base h
    exact exec_vhacc h a b p t x
  · intro s x c r h hb
    exact exec_vnest h hb
  · intro s k base rm slot u t x keys vals act hu hs hwf r v
    obtain ⟨w, hw, hwritten⟩ := performJob_vhacc hu hs hwf
    have hv : v = finishJob w k u.seq (some (haccResult r.stop.isSome (r.stop.getD 64) false r.flags)) none := hw
    rw [hv]
    exact ⟨hwritten.finishJob .., isDone_finishJob _ _ _ _ _, fun w hw hs y hy => (finishJob_done hw hs).2 _ rfl y hy⟩
  · intro m n key h keyOf
    exact ⟨fun hn j hj => haccProbe_none hn hj, fun e own hs => haccProbe_some hs⟩
  · intro t x keys vals act rm left m _ i key v r probe
    refine ⟨haccRun_idle t x keys vals act rm, fun hact hkey => ⟨fun hp => ?_, fun e own hp => ?_⟩⟩
    · have hr : r = ⟨m, 0, some i, [], []⟩ := haccRun_stops t x keys vals act rm hact hkey hp
      rw [hr]
      exact ⟨rfl, rfl, rfl⟩
    · obtain ⟨hmem, hstop, hflags⟩ := haccRun_updates t x keys vals act rm hact hkey hp
      exact ⟨_, hmem, hstop, hflags, putEntry_key m e _ (BitVec.isLt _), putEntry_value .., fun a ha => putEntry_apart m e _ _ ha⟩
  · intro s k slot rm n f x mask hf hr
    exact performFlight_nestStep hf hr
  · intro s k slot line f x mask data fl hf hp hr
    exact nestWrite_performs hf hp hr

end Sys2Proof.Machine
end

section
/-! PROOFS. The fields of a syllable, the words of each format, and the codes in them (R147, R149). -/

namespace Sys2Proof

/-! ### Registers of fields (R149) -/

theorem fieldOf_lt (w lo n : Nat) : fieldOf w lo n < 2 ^ n := Nat.mod_lt _ (Nat.two_pow_pos n)
theorem fD_lt (w : Nat) : fD w < 64 := Nat.mod_lt _ (by decide)
theorem fA_lt (w : Nat) : fA w < 64 := Nat.mod_lt _ (by decide)
theorem fB_lt (w : Nat) : fB w < 64 := Nat.mod_lt _ (by decide)

theorem val_sReg {n : Nat} (h : n < 64) : (sReg n : Nat) = n := Nat.mod_eq_of_lt h
theorem val_vReg {n : Nat} (h : n < 32) : (vReg n : Nat) = n := Nat.mod_eq_of_lt h
theorem val_low5 {n : Nat} (h : n < 32) : (low5 n : Nat) = n := Nat.mod_eq_of_lt h
theorem val_pReg {n : Nat} (h : n < 16) : (pReg n : Nat) = n := Nat.mod_eq_of_lt h
theorem val_gReg {n : Nat} (h : n < 16) : (gReg n : Nat) = n := Nat.mod_eq_of_lt h
theorem val_tReg {n : Nat} (h : n < 4) : (tReg n : Nat) = n := Nat.mod_eq_of_lt h

theorem val_sReg_field (w lo : Nat) : (sReg (fieldOf w lo 6) : Nat) = fieldOf w lo 6 := val_sReg (fieldOf_lt w lo 6)
theorem val_sReg_fD (w : Nat) : (sReg (fD w) : Nat) = fD w := val_sReg (fD_lt w)
theorem val_sReg_fA (w : Nat) : (sReg (fA w) : Nat) = fA w := val_sReg (fA_lt w)
theorem val_sReg_fB (w : Nat) : (sReg (fB w) : Nat) = fB w := val_sReg (fB_lt w)

theorem sReg_val (r : SReg) : sReg r = r := Fin.ofNat_val_eq_self r
theorem vReg_val (r : VReg) : vReg r = r := Fin.ofNat_val_eq_self r
theorem pReg_val (r : PReg) : pReg r = r := Fin.ofNat_val_eq_self r
theorem gReg_val (r : GReg) : gReg r = r := Fin.ofNat_val_eq_self r
theorem tReg_val (r : TileIx) : tReg r = r := Fin.ofNat_val_eq_self r
theorem low5_val (r : Fin 32) : low5 r = r := Fin.ofNat_val_eq_self r

/-! ### Codes in fields -/

theorem VSrc.code_lt (a : VSrc) : a.code < 64 := by
  cases a with
  | vec r => exact r.isLt.trans (by decide)
  | scal r => exact Nat.add_lt_add_left r.isLt 32

theorem code_vSrc {n : Nat} (h : n < 64) : (vSrc n).code = n := by
  unfold vSrc
  split
  · exact val_vReg ‹_›
  · show 32 + (low5 (n - 32)).val = n
    rw [val_low5] <;> omega

theorem vSrc_code (a : VSrc) : vSrc a.code = a := by
  cases a with
  | vec r => exact (if_pos r.isLt).trans (congrArg VSrc.vec (vReg_val r))
  | scal r =>
    show vSrc (32 + r) = _
    rw [vSrc, if_neg (by omega), Nat.add_sub_cancel_left, low5_val]

theorem boolNat_lt (b : Bool) : boolNat b < 2 := by cases b <;> decide
theorem Ty.code_lt (t : Ty) : t.code < 7 := by cases t <;> decide
theorem Buf.code_lt (b : Buf) : b.code < 4 := by cases b <;> decide
theorem Sz.code_lt (z : Sz) : z.code < 4 := by cases z <;> decide
theorem Ovf.code_lt (o : Ovf) : o.code < 2 := by cases o <;> decide
theorem Fmt.code_lt (f : Fmt) : f.code < 32 := by cases f <;> decide
theorem RmSel.code_lt (r : RmSel) : r.code < 5 := by cases r <;> decide
theorem Scope.code_lt (c : Scope) : c.code < 6 := by cases c <;> decide
theorem Cmp.code_lt (c : Cmp) : c.code < 6 := by cases c <;> decide
theorem RedOp.code_lt (c : RedOp) : c.code < 6 := by cases c <;> decide
theorem HaccOp.code_lt (c : HaccOp) : c.code < 3 := by cases c <;> decide
theorem AmoOp.code_lt (c : AmoOp) : c.code < 10 := by cases c <;> decide
theorem NestOp.code_lt (c : NestOp) : c.code < 64 := by cases c <;> decide
theorem Half.code_lt (c : Half) : c.code < 2 := by cases c <;> decide
theorem CacheLevel.code_lt (c : CacheLevel) : c.code < 3 := by cases c <;> decide
theorem TlbKind.code_lt (c : TlbKind) : c.code < 3 := by cases c <;> decide

/-- A decoder of codes that undoes them and accepts no others. -/
theorem ofCode_eq_some {α : Type} {ofCode : Nat → Option α} {code : α → Nat} (hc : ∀ a, ofCode (code a) = some a)
    (ho : ∀ n a, ofCode n = some a → n = code a) {n : Nat} {a : α} : ofCode n = some a ↔ n = code a :=
  ⟨ho n a, fun h => h ▸ hc a⟩

theorem Ty.ofCode_eq {n : Nat} {t : Ty} : Ty.ofCode n = some t ↔ n = t.code :=
  ofCode_eq_some (by rintro ⟨⟩ <;> rfl) (by intro n a h; unfold ofCode at h; split at h <;> cases h <;> rfl)

theorem RmSel.ofCode_eq {n : Nat} {r : RmSel} : RmSel.ofCode n = some r ↔ n = r.code :=
  ofCode_eq_some (by rintro ⟨⟩ <;> rfl) (by intro n a h; unfold ofCode at h; split at h <;> cases h <;> rfl)

theorem Fmt.ofCode_eq {n : Nat} {f : Fmt} : Fmt.ofCode n = some f ↔ n = f.code :=
  ofCode_eq_some (by rintro ⟨⟩ <;> rfl) (by intro n a h; unfold ofCode at h; split at h <;> cases h <;> rfl)

theorem Scope.ofCode_eq {n : Nat} {c : Scope} : Scope.ofCode n = some c ↔ n = c.code :=
  ofCode_eq_some (by rintro ⟨⟩ <;> rfl) (by intro n a h; unfold ofCode at h; split at h <;> cases h <;> rfl)

theorem Cmp.ofCode_eq {n : Nat} {c : Cmp} : Cmp.ofCode n = some c ↔ n = c.code :=
  ofCode_eq_some (by rintro ⟨⟩ <;> rfl) (by intro n a h; unfold ofCode at h; split at h <;> cases h <;> rfl)

theorem RedOp.ofCode_eq {n : Nat} {c : RedOp} : RedOp.ofCode n = some c ↔ n = c.code :=
  ofCode_eq_some (by rintro ⟨⟩ <;> rfl) (by intro n a h; unfold ofCode at h; split at h <;> cases h <;> rfl)

theorem HaccOp.ofCode_eq {n : Nat} {c : HaccOp} : HaccOp.ofCode n = some c ↔ n = c.code :=
  ofCode_eq_some (by rintro ⟨⟩ <;> rfl) (by intro n a h; unfold ofCode at h; split at h <;> cases h <;> rfl)

theorem AmoOp.ofCode_eq {n : Nat} {c : AmoOp} : AmoOp.ofCode n = some c ↔ n = c.code :=
  ofCode_eq_some (by rintro ⟨⟩ <;> rfl) (by intro n a h; unfold ofCode at h; split at h <;> cases h <;> rfl)

theorem CacheLevel.ofCode_eq {n : Nat} {c : CacheLevel} : CacheLevel.ofCode n = some c ↔ n = c.code :=
  ofCode_eq_some (by rintro ⟨⟩ <;> rfl) (by intro n a h; unfold ofCode at h; split at h <;> cases h <;> rfl)

theorem TlbKind.ofCode_eq {n : Nat} {c : TlbKind} : TlbKind.ofCode n = some c ↔ n = c.code :=
  ofCode_eq_some (by rintro ⟨⟩ <;> rfl) (by intro n a h; unfold ofCode at h; split at h <;> cases h <;> rfl)

theorem NestOp.ofCode_eq {n : Nat} {c : NestOp} : NestOp.ofCode n = some c ↔ n = c.code :=
  ofCode_eq_some (by rintro ⟨⟩ <;> rfl) (by intro n a h; unfold ofCode at h; split at h <;> cases h <;> rfl)

theorem Ty.ofCode_code (t : Ty) : Ty.ofCode t.code = some t := ofCode_eq.mpr rfl
theorem RmSel.ofCode_code (r : RmSel) : RmSel.ofCode r.code = some r := ofCode_eq.mpr rfl
theorem Fmt.ofCode_code (f : Fmt) : Fmt.ofCode f.code = some f := ofCode_eq.mpr rfl
theorem Scope.ofCode_code (c : Scope) : Scope.ofCode c.code = some c := ofCode_eq.mpr rfl
theorem Cmp.ofCode_code (c : Cmp) : Cmp.ofCode c.code = some c := ofCode_eq.mpr rfl
theorem RedOp.ofCode_code (c : RedOp) : RedOp.ofCode c.code = some c := ofCode_eq.mpr rfl
theorem HaccOp.ofCode_code (c : HaccOp) : HaccOp.ofCode c.code = some c := ofCode_eq.mpr rfl
theorem AmoOp.ofCode_code (c : AmoOp) : AmoOp.ofCode c.code = some c := ofCode_eq.mpr rfl
theorem CacheLevel.ofCode_code (c : CacheLevel) : CacheLevel.ofCode c.code = some c := ofCode_eq.mpr rfl
theorem TlbKind.ofCode_code (c : TlbKind) : TlbKind.ofCode c.code = some c := ofCode_eq.mpr rfl
theorem NestOp.ofCode_code (c : NestOp) : NestOp.ofCode c.code = some c := ofCode_eq.mpr rfl

theorem bitOf_eq {w i : Nat} {b : Bool} : bitOf w i = b ↔ w / 2 ^ i % 2 = boolNat b := by
  rw [bitOf, Nat.testBit_eq_decide_div_mod_eq]
  cases b <;> simp [boolNat]

theorem bitOf_true {w i : Nat} : bitOf w i = true ↔ w / 2 ^ i % 2 = 1 := bitOf_eq
theorem bitOf_false {w i : Nat} : bitOf w i = false ↔ w / 2 ^ i % 2 = 0 := bitOf_eq

theorem boolNat_bitOf (w i : Nat) : boolNat (bitOf w i) = w / 2 ^ i % 2 := (bitOf_eq.mp rfl).symm

theorem ovOf_eq {n : Nat} {o : Ovf} : ovOf n = o ↔ n % 2 = o.code := by
  unfold ovOf
  rcases Nat.mod_two_eq_zero_or_one n with h | h <;> cases o <;> simp [h, Ovf.code]

theorem code_ovOf (n : Nat) : (ovOf n).code = n % 2 := (ovOf_eq.mp rfl).symm

theorem code_bufOf (n : Nat) : (bufOf n).code = n % 4 := by
  have h4 : n % 4 = 0 ∨ n % 4 = 1 ∨ n % 4 = 2 ∨ n % 4 = 3 := by omega
  rcases h4 with h | h | h | h <;> rw [bufOf, h] <;> rfl

theorem bufOf_eq {n : Nat} {b : Buf} : bufOf n = b ↔ n % 4 = b.code := by
  refine ⟨fun h => h ▸ (code_bufOf n).symm, fun h => ?_⟩
  unfold bufOf
  rw [h]
  cases b <;> rfl

theorem bufOf_code (b : Buf) : bufOf b.code = b := bufOf_eq.mpr (Nat.mod_eq_of_lt b.code_lt)

theorem code_szOf (n : Nat) : (szOf n).code = n % 4 := by
  have h4 : n % 4 = 0 ∨ n % 4 = 1 ∨ n % 4 = 2 ∨ n % 4 = 3 := by omega
  rcases h4 with h | h | h | h <;> rw [szOf, h] <;> rfl

theorem szOf_eq {n : Nat} {z : Sz} : szOf n = z ↔ n % 4 = z.code := by
  refine ⟨fun h => h ▸ (code_szOf n).symm, fun h => ?_⟩
  unfold szOf
  rw [h]
  cases z <;> rfl

/-! ### The words of each format (R147) -/

section
variable {op d a b fn w : Nat}

theorem eA_lt (ho : op < 128) (hd : d < 64) (ha : a < 64) (hb : b < 64) (hf : fn < 128) : eA op d a b fn < 2 ^ 32 := by
  unfold eA
  omega

theorem fOp_eA (ho : op < 128) (hd : d < 64) (ha : a < 64) (hb : b < 64) (hf : fn < 128) : fOp (eA op d a b fn) = op := by
  simp only [fOp, fieldOf, eA, Nat.reducePow]
  omega

theorem fD_eA (hd : d < 64) (ha : a < 64) (hb : b < 64) (hf : fn < 128) : fD (eA op d a b fn) = d := by
  simp only [fD, fieldOf, eA, Nat.reducePow]
  omega

theorem fA_eA (ha : a < 64) (hb : b < 64) (hf : fn < 128) : fA (eA op d a b fn) = a := by
  simp only [fA, fieldOf, eA, Nat.reducePow]
  omega

theorem fB_eA (hb : b < 64) (hf : fn < 128) : fB (eA op d a b fn) = b := by
  simp only [fB, fieldOf, eA, Nat.reducePow]
  omega

theorem fFn_eA (hf : fn < 128) : fFn (eA op d a b fn) = fn := by
  simp only [fFn, fieldOf, eA, Nat.reducePow]
  omega

/-- A syllable is the F-A word of its fields. -/
theorem eA_of_fields (hw : w < 2 ^ 32) (ho : fOp w = op) (hd : d = fD w) (ha : a = fA w) (hb : b = fB w) (hf : fn = fFn w) :
    eA op d a b fn = w := by
  subst ho hd ha hb hf
  simp only [fOp, fD, fA, fB, fFn, fieldOf, eA, Nat.reducePow] at *
  omega

variable {i : BitVec 13}

/-- An F-I word is the F-A word of the two halves of its immediate. -/
theorem eI_eq_eA : eI op d a i = eA op d a (i.toNat / 128) (i.toNat % 128) := by
  unfold eI eA
  omega

theorem eI_lt (ho : op < 128) (hd : d < 64) (ha : a < 64) : eI op d a i < 2 ^ 32 :=
  eI_eq_eA ▸ eA_lt ho hd ha (by omega) (by omega)

theorem fOp_eI (ho : op < 128) (hd : d < 64) (ha : a < 64) : fOp (eI op d a i) = op :=
  eI_eq_eA ▸ fOp_eA ho hd ha (by omega) (by omega)

theorem fD_eI (hd : d < 64) (ha : a < 64) : fD (eI op d a i) = d := eI_eq_eA ▸ fD_eA hd ha (by omega) (by omega)

theorem fA_eI (ha : a < 64) : fA (eI op d a i) = a := eI_eq_eA ▸ fA_eA ha (by omega) (by omega)

theorem fI13_eI : fI13 (eI op d a i) = i := by
  refine BitVec.eq_of_toNat_eq ?_
  simp only [fI13, eI, BitVec.toNat_ofNat, Nat.reducePow]
  omega

theorem eI_of_fields (hw : w < 2 ^ 32) (ho : fOp w = op) (hd : d = fD w) (ha : a = fA w) : eI op d a (fI13 w) = w := by
  refine eI_eq_eA.trans (eA_of_fields hw ho hd ha ?_ ?_) <;>
    simp only [fI13, fB, fFn, fieldOf, BitVec.toNat_ofNat, Nat.reducePow] <;> omega

/-- An F-L word is an F-I word of the two parts of its immediate. -/
theorem eL_eq_eA {i : BitVec 19} : eL op d i = eA op d (i.toNat / 8192) (i.toNat / 128 % 64) (i.toNat % 128) := by
  unfold eL eA
  omega

theorem ofNat_eL {i : BitVec 19} : BitVec.ofNat 19 (eL op d i) = i := by
  refine BitVec.eq_of_toNat_eq ?_
  simp only [eL, BitVec.toNat_ofNat, Nat.reducePow]
  omega

theorem eL_of_fields (hw : w < 2 ^ 32) (ho : fOp w = op) (hd : d = fD w) : eL op d (BitVec.ofNat 19 w) = w := by
  refine eL_eq_eA.trans (eA_of_fields hw ho hd ?_ ?_ ?_) <;>
    simp only [fA, fB, fFn, fieldOf, BitVec.toNat_ofNat, Nat.reducePow] <;> omega

theorem eJ_lt {x : BitVec 25} (ho : op < 128) : eJ op x < 2 ^ 32 := by
  unfold eJ
  omega

theorem fOp_eJ {x : BitVec 25} (ho : op < 128) : fOp (eJ op x) = op := by
  simp only [fOp, fieldOf, eJ, Nat.reducePow]
  omega

theorem ofNat_eJ {x : BitVec 25} : BitVec.ofNat 25 (eJ op x) = x := by
  refine BitVec.eq_of_toNat_eq ?_
  simp only [eJ, BitVec.toNat_ofNat, Nat.reducePow]
  omega

theorem eJ_of_fields (hw : w < 2 ^ 32) (ho : fOp w = op) : eJ op (BitVec.ofNat 25 w) = w := by
  simp only [eJ, ← ho, fOp, fieldOf, BitVec.toNat_ofNat, Nat.reducePow] at *
  omega

variable {p : PReg} {t : Ty}

/-- An F-V word is the F-A word whose FN holds P and T. -/
theorem eV_eq_eA : eV op d a b p t = eA op d a b (p * 8 + t.code) := Nat.add_assoc ..

theorem predTy_lt : p.val * 8 + t.code < 128 := by have := t.code_lt; omega

theorem eV_lt (ho : op < 128) (hd : d < 64) (ha : a < 64) (hb : b < 64) : eV op d a b p t < 2 ^ 32 :=
  eV_eq_eA ▸ eA_lt ho hd ha hb predTy_lt

theorem fOp_eV (ho : op < 128) (hd : d < 64) (ha : a < 64) (hb : b < 64) : fOp (eV op d a b p t) = op :=
  eV_eq_eA ▸ fOp_eA ho hd ha hb predTy_lt

theorem fD_eV (hd : d < 64) (ha : a < 64) (hb : b < 64) : fD (eV op d a b p t) = d := eV_eq_eA ▸ fD_eA hd ha hb predTy_lt

theorem fA_eV (ha : a < 64) (hb : b < 64) : fA (eV op d a b p t) = a := eV_eq_eA ▸ fA_eA ha hb predTy_lt

theorem fB_eV (hb : b < 64) : fB (eV op d a b p t) = b := eV_eq_eA ▸ fB_eA hb predTy_lt

theorem fT_eV : fT (eV op d a b p t) = t.code := by
  have := t.code_lt
  simp only [fT, fieldOf, eV, Nat.reducePow]
  omega

theorem fP_eV : fP (eV op d a b p t) = p := by
  have := t.code_lt
  refine Fin.ext ?_
  simp only [fP, Fin.val_ofNat, fieldOf, eV, Nat.reducePow]
  omega

theorem eV_of_fields (hw : w < 2 ^ 32) (ho : fOp w = op) (hd : d = fD w) (ha : a = fA w) (hb : b = fB w) (ht : fT w = t.code) :
    eV op d a b (fP w) t = w := by
  refine eV_eq_eA.trans (eA_of_fields hw ho hd ha hb ?_)
  rw [← ht]
  simp only [fP, fT, fFn, fieldOf, Fin.val_ofNat, Nat.reducePow]
  omega

/-! ### The second syllable of F-E -/

variable {v : BitVec 16} {x : Nat}

theorem eX_lt {imm : Nat} (h : imm < 2 ^ 16) : eX v imm < 2 ^ 32 := by
  unfold eX
  omega

theorem fAt_eX {imm : Nat} (h : imm < 2 ^ 16) : fAt (eX v imm) = v := by
  refine BitVec.eq_of_toNat_eq ?_
  simp only [fAt, eX, BitVec.toNat_ofNat, Nat.reducePow] at *
  omega

theorem fImm_eX {n : BitVec 16} : fImm (eX v n.toNat) = n := by
  refine BitVec.eq_of_toNat_eq ?_
  simp only [fImm, eX, BitVec.toNat_ofNat, Nat.reducePow]
  omega

theorem eX_of_fields (hx : x < 2 ^ 32) : eX (fAt x) (fImm x).toNat = x := by
  simp only [fAt, fImm, eX, BitVec.toNat_ofNat, Nat.reducePow] at *
  omega

/-- Where AT is 0 the syllable is its IMM16. -/
theorem toNat_fImm (hx : x < 2 ^ 32) (h : fAt x = 0) : (fImm x).toNat = x := by
  have := eX_of_fields hx
  rw [h] at this
  simpa [eX] using this

theorem fAt_toNat (n : BitVec 16) : fAt n.toNat = 0 := by
  rw [fAt, Nat.div_eq_of_lt n.isLt]
  rfl

theorem fImm_toNat (n : BitVec 16) : fImm n.toNat = n := by simp [fImm]

end

/-! ### What a refusing condition says of a decoded operation (R161) -/

theorem need_eq_ok {c : Bool} {ix r : Nat} {k : Decoded} {i : Instr} : need c ix r k = .ok i ↔ c = true ∧ k = .ok i := by
  cases c <;> simp [need]

theorem needSome_eq_ok {α : Type} {x : Option α} {ix r : Nat} {k : α → Decoded} {i : Instr} :
    needSome x ix r k = .ok i ↔ ∃ a, x = some a ∧ k a = .ok i := by
  cases x <;> simp [needSome]

theorem need_true {ix r : Nat} {k : Decoded} : need true ix r k = k := rfl

theorem need_of {c : Bool} (h : c = true) {ix r : Nat} {k : Decoded} : need c ix r k = k := h ▸ need_true

theorem needSome_some {α : Type} {a : α} {ix r : Nat} {k : α → Decoded} : needSome (some a) ix r k = k a := rfl

/-! ### Words that read as an operation of a slot -/

/-- The words `w :: r` are syllables, as many as their slot and OP say, and decode to `i`. -/
structure Reads (slot : Slot) (w : Nat) (r : List Nat) (i : Instr) : Prop where
  first : w < 2 ^ 32
  rest : ∀ y ∈ r, y < 2 ^ 32
  length : opLength slot (fOp w) = some (r.length + 1)
  decodes : decodeOp slot (w :: r) = .ok i

section
variable {slot : Slot} {w x : Nat} {i : Instr}

theorem Reads.one (hw : w < 2 ^ 32) (h : opLength slot (fOp w) = some 1 ∧ decodeOp slot [w] = .ok i) : Reads slot w [] i :=
  ⟨hw, fun _ hy => absurd hy List.not_mem_nil, h.1, h.2⟩

theorem Reads.two (hw : w < 2 ^ 32) (hx : x < 2 ^ 32) (h : opLength slot (fOp w) = some 2 ∧ decodeOp slot [w, x] = .ok i) :
    Reads slot w [x] i :=
  ⟨hw, fun _ hy => List.mem_singleton.mp hy ▸ hx, h.1, h.2⟩

end

end Sys2Proof
end

section
/-! PROOFS. The shapes of F-A and F-I words, and the S0 and S1 slots (R147, R152). -/

namespace Sys2Proof

/-! ### Shapes of F-A and F-I (R147) -/

section
variable {op w : Nat} {i : Instr}

theorem shapeDAB_eA {mk : SReg → SReg → SReg → Instr} (d a b : SReg) : shapeDAB (eA op d a b 0) mk = .ok (mk d a b) := by
  simp (disch := omega) only [shapeDAB, fD_eA, fA_eA, fB_eA, fFn_eA, sReg_val]
  rfl

theorem shapeDA_eA {mk : SReg → SReg → Instr} (d a : SReg) : shapeDA (eA op d a 0 0) mk = .ok (mk d a) := by
  simp (disch := omega) only [shapeDA, fD_eA, fA_eA, fB_eA, fFn_eA, sReg_val]
  rfl

theorem shapeAB_eA {mk : SReg → SReg → Instr} (a b : SReg) : shapeAB (eA op 0 a b 0) mk = .ok (mk a b) := by
  simp (disch := omega) only [shapeAB, fD_eA, fA_eA, fB_eA, fFn_eA, sReg_val]
  rfl

theorem shapeA_eA {mk : SReg → Instr} (a : SReg) : shapeA (eA op 0 a 0 0) mk = .ok (mk a) := by
  simp (disch := omega) only [shapeA, fD_eA, fA_eA, fB_eA, fFn_eA, sReg_val]
  rfl

theorem shape0_eA : shape0 (eA op 0 0 0 0) i = .ok i := by
  refine need_of (beq_iff_eq.mpr ?_)
  simp only [fieldOf, eA, Nat.reducePow]
  omega

theorem shapeI_eI {mk : SReg → SReg → BitVec 13 → Instr} (d a : SReg) (x : BitVec 13) : shapeI (eI op d a x) mk = .ok (mk d a x) := by
  simp (disch := omega) only [shapeI, fD_eI, fA_eI, fI13_eI, sReg_val]

theorem shapeK_eA {mk : SReg → SReg → Fin 64 → Instr} (d a : SReg) (k : Fin 64) : shapeK (eA op d a 0 k) mk = .ok (mk d a k) := by
  have hk : fieldOf (eA op d a 0 k) 0 6 = k := by
    simp only [fieldOf, eA, Nat.reducePow]
    omega
  have hz : (fieldOf (eA op d a 0 k) 6 7 == 0) = true := by
    simp only [fieldOf, eA, Nat.reducePow, beq_iff_eq]
    omega
  simp (disch := omega) only [shapeK, need_of hz, hk, fD_eA, fA_eA, sReg_val]

theorem shapeDAB_ok {mk : SReg → SReg → SReg → Instr} (hw : w < 2 ^ 32) (hop : fOp w = op) (h : shapeDAB w mk = .ok i) :
    ∃ d a b : SReg, eA op d a b 0 = w ∧ mk d a b = i := by
  obtain ⟨hfn, hi⟩ := need_eq_ok.mp h
  rw [beq_iff_eq] at hfn
  exact ⟨_, _, _, eA_of_fields hw hop (val_sReg_fD w) (val_sReg_fA w) (val_sReg_fB w) hfn.symm, Except.ok.inj hi⟩

theorem shapeDA_ok {mk : SReg → SReg → Instr} (hw : w < 2 ^ 32) (hop : fOp w = op) (h : shapeDA w mk = .ok i) :
    ∃ d a : SReg, eA op d a 0 0 = w ∧ mk d a = i := by
  obtain ⟨hz, hi⟩ := need_eq_ok.mp h
  simp only [Bool.and_eq_true, beq_iff_eq] at hz
  exact ⟨_, _, eA_of_fields hw hop (val_sReg_fD w) (val_sReg_fA w) hz.1.symm hz.2.symm, Except.ok.inj hi⟩

theorem shapeAB_ok {mk : SReg → SReg → Instr} (hw : w < 2 ^ 32) (hop : fOp w = op) (h : shapeAB w mk = .ok i) :
    ∃ a b : SReg, eA op 0 a b 0 = w ∧ mk a b = i := by
  obtain ⟨hz, hi⟩ := need_eq_ok.mp h
  simp only [Bool.and_eq_true, beq_iff_eq] at hz
  exact ⟨_, _, eA_of_fields hw hop hz.1.symm (val_sReg_fA w) (val_sReg_fB w) hz.2.symm, Except.ok.inj hi⟩

theorem shapeA_ok {mk : SReg → Instr} (hw : w < 2 ^ 32) (hop : fOp w = op) (h : shapeA w mk = .ok i) :
    ∃ a : SReg, eA op 0 a 0 0 = w ∧ mk a = i := by
  obtain ⟨hz, hi⟩ := need_eq_ok.mp h
  simp only [Bool.and_eq_true, beq_iff_eq] at hz
  obtain ⟨⟨hd, hb⟩, hf⟩ := hz
  exact ⟨_, eA_of_fields hw hop hd.symm (val_sReg_fA w) hb.symm hf.symm, Except.ok.inj hi⟩

theorem shape0_ok {j : Instr} (hw : w < 2 ^ 32) (hop : fOp w = op) (h : shape0 w j = .ok i) : eA op 0 0 0 0 = w ∧ j = i := by
  obtain ⟨hz, hi⟩ := need_eq_ok.mp h
  simp only [beq_iff_eq, fieldOf, Nat.reducePow] at hz
  refine ⟨eA_of_fields hw hop ?_ ?_ ?_ ?_, Except.ok.inj hi⟩ <;> simp only [fD, fA, fB, fFn, fieldOf, Nat.reducePow] <;> omega

theorem shapeI_ok {mk : SReg → SReg → BitVec 13 → Instr} (hw : w < 2 ^ 32) (hop : fOp w = op) (h : shapeI w mk = .ok i) :
    ∃ (d a : SReg) (x : BitVec 13), eI op d a x = w ∧ mk d a x = i :=
  ⟨_, _, _, eI_of_fields hw hop (val_sReg_fD w) (val_sReg_fA w), Except.ok.inj h⟩

theorem shapeK_ok {mk : SReg → SReg → Fin 64 → Instr} (hw : w < 2 ^ 32) (hop : fOp w = op) (h : shapeK w mk = .ok i) :
    ∃ (d a : SReg) (k : Fin 64), eA op d a 0 k = w ∧ mk d a k = i := by
  obtain ⟨hz, hi⟩ := need_eq_ok.mp h
  simp only [beq_iff_eq, fieldOf, Nat.reducePow] at hz
  refine ⟨_, _, _, eA_of_fields hw hop (val_sReg_fD w) (val_sReg_fA w) ?_ ?_, Except.ok.inj hi⟩
  · simp only [fB, fieldOf, Nat.reducePow]
    omega
  · rw [val_sReg_field]
    simp only [fFn, fieldOf, Nat.reducePow]
    omega

/-- The word of EXTS, EXTZ and INS: the length stands over the position (R201). -/
theorem fieldWord_eq_eA (d a : SReg) (pos len1 : Fin 64) : op * 0x200_0000 + d * 0x8_0000 + a * 0x2000 + len1 * 0x40 + pos =
    eA op d a (len1 / 2) (len1 % 2 * 64 + pos) := by
  unfold eA
  omega

theorem shapeX_word {mk : SReg → SReg → Fin 64 → Fin 64 → Instr} (d a : SReg) {pos len1 : Fin 64}
    (hlen : (decide (pos.val + len1.val + 1 ≤ 64)) = true) :
    shapeX (eA op d a (len1 / 2) (len1 % 2 * 64 + pos)) mk = .ok (mk d a pos len1) := by
  have hpos : fieldOf (eA op d a (len1 / 2) (len1 % 2 * 64 + pos)) 0 6 = pos := by
    simp only [fieldOf, eA, Nat.reducePow]
    omega
  have hl : fieldOf (eA op d a (len1 / 2) (len1 % 2 * 64 + pos)) 6 6 = len1 := by
    simp only [fieldOf, eA, Nat.reducePow]
    omega
  have hz : (fieldOf (eA op d a (len1 / 2) (len1 % 2 * 64 + pos)) 12 1 == 0) = true := by
    simp only [fieldOf, eA, Nat.reducePow, beq_iff_eq]
    omega
  simp (disch := omega) only [shapeX, hz, hpos, hl, hlen, Bool.and_self, need_true, fD_eA, fA_eA, sReg_val]

theorem shapeX_ok {mk : SReg → SReg → Fin 64 → Fin 64 → Instr} (hw : w < 2 ^ 32) (hop : fOp w = op) (h : shapeX w mk = .ok i) :
    ∃ d a pos len1 : Fin 64, decide (pos.val + len1.val + 1 ≤ 64) = true ∧
      op * 0x200_0000 + d * 0x8_0000 + a * 0x2000 + len1 * 0x40 + pos = w ∧ mk d a pos len1 = i := by
  obtain ⟨hz, hi⟩ := need_eq_ok.mp h
  simp only [Bool.and_eq_true, beq_iff_eq, decide_eq_true_eq] at hz
  obtain ⟨hz, hlen⟩ := hz
  refine ⟨sReg (fD w), sReg (fA w), sReg (fieldOf w 0 6), sReg (fieldOf w 6 6), decide_eq_true ?_,
    (fieldWord_eq_eA ..).trans (eA_of_fields hw hop (val_sReg_fD w) (val_sReg_fA w) ?_ ?_), Except.ok.inj hi⟩
  · rwa [val_sReg_field, val_sReg_field]
  · rw [val_sReg_field]
    simp only [fB, fieldOf, Nat.reducePow] at *
    omega
  · rw [val_sReg_field, val_sReg_field]
    simp only [fFn, fieldOf, Nat.reducePow] at *
    omega

end

/-! ### S0 and S1 (R152) -/

/-- SEL holds its condition register in FN (R200). -/
theorem decodeS_sel {w : Nat} {i : Instr} (hw : w < 2 ^ 32) (hop : fOp w = 0x1B) (h : decodeS w = .ok i) :
    i.wf = true ∧ encode i = [w] := by
  simp only [decodeS, hop, need_eq_ok, beq_iff_eq] at h
  obtain ⟨hz, hi⟩ := h
  cases hi
  refine ⟨rfl, congrArg (fun w => [w]) (eA_of_fields hw hop (val_sReg_fD w) (val_sReg_fA w) (val_sReg_fB w) ?_)⟩
  rw [val_sReg_field]
  simp only [fFn, fieldOf, Nat.reducePow] at *
  omega

theorem decodeS_ok {w : Nat} {i : Instr} (hw : w < 2 ^ 32) (h : decodeS w = .ok i) : i.wf = true ∧ encode i = [w] := by
  have hall := h
  unfold decodeS at h
  split at h
  case h_1 hop | h_2 hop | h_4 hop | h_5 hop | h_6 hop | h_7 hop | h_8 hop | h_9 hop | h_10 hop | h_11 hop | h_12 hop | h_13 hop |
      h_14 hop | h_18 hop | h_19 hop | h_20 hop | h_24 hop | h_25 hop | h_26 hop | h_29 hop | h_30 hop | h_31 hop | h_32 hop |
      h_40 hop | h_41 hop =>
    obtain ⟨d, a, b, rfl, rfl⟩ := shapeDAB_ok hw hop h
    exact ⟨rfl, rfl⟩
  case h_3 hop | h_15 hop | h_16 hop | h_17 hop | h_27 hop =>
    obtain ⟨d, a, x, rfl, rfl⟩ := shapeI_ok hw hop h
    exact ⟨rfl, rfl⟩
  case h_21 hop | h_22 hop | h_23 hop =>
    obtain ⟨d, a, k, rfl, rfl⟩ := shapeK_ok hw hop h
    exact ⟨rfl, rfl⟩
  case h_28 hop => exact decodeS_sel hw hop hall
  case h_33 hop | h_34 hop =>
    cases h
    exact ⟨rfl, congrArg (fun w => [w]) (eL_of_fields hw hop (val_sReg_fD w))⟩
  case h_35 hop | h_36 hop =>
    obtain ⟨d, a, rfl, rfl⟩ := shapeDA_ok hw hop h
    exact ⟨rfl, rfl⟩
  case h_37 hop | h_38 hop | h_39 hop =>
    obtain ⟨d, a, pos, len1, hlen, rfl, rfl⟩ := shapeX_ok hw hop h
    exact ⟨hlen, rfl⟩
  case h_42 => cases h

theorem reads_s0 {i : Instr} {w : Nat} {r : List Nat} (hs : slotOf i = some .s0) (hwf : i.wf = true) (he : encode i = w :: r) :
    Reads .s0 w r i := by
  cases i with
  | add d a b | sub d a b | mul d a b | mulh d a b | mulhn d a b | madd d a b | div d a b | divn d a b | rem d a b | remn d a b
  | and d a b | or d a b | xor d a b | shl d a b | shr d a b | sar d a b | slt d a b | sltn d a b | seq d a b | min d a b | max d a b
  | minn d a b | maxn d a b | ceilm d a b | divc d a b =>
    cases he
    refine .one (eA_lt (by decide) d.isLt a.isLt b.isLt (by decide)) ?_
    simp (disch := omega) only [fOp_eA, decodeOp, List.getD_cons_zero, decodeS, shapeDAB_eA, opLength]
    exact ⟨rfl, trivial⟩
  | clz d a | popc d a =>
    cases he
    refine .one (eA_lt (by decide) d.isLt a.isLt (by decide) (by decide)) ?_
    simp (disch := omega) only [fOp_eA, decodeOp, List.getD_cons_zero, decodeS, shapeDA_eA, opLength]
    exact ⟨rfl, trivial⟩
  | addi d a x | andi d a x | ori d a x | xori d a x | slti d a x =>
    cases he
    refine .one (eI_lt (by decide) d.isLt a.isLt) ?_
    simp (disch := omega) only [fOp_eI, decodeOp, List.getD_cons_zero, decodeS, shapeI_eI, opLength]
    exact ⟨rfl, trivial⟩
  | shli d a k | shri d a k | sari d a k =>
    cases he
    refine .one (eA_lt (by decide) d.isLt a.isLt (by decide) (k.isLt.trans (by decide))) ?_
    simp (disch := omega) only [fOp_eA, decodeOp, List.getD_cons_zero, decodeS, shapeK_eA, opLength]
    exact ⟨rfl, trivial⟩
  | sel d c a b =>
    cases he
    have hz : fieldOf (eA 0x1B d a b c) 6 1 = 0 := by
      simp only [fieldOf, eA, Nat.reducePow]
      omega
    have hc : fieldOf (eA 0x1B d a b c) 0 6 = c := by
      simp only [fieldOf, eA, Nat.reducePow]
      omega
    refine .one (eA_lt (by decide) d.isLt a.isLt b.isLt (c.isLt.trans (by decide))) ?_
    simp (disch := omega) only [fOp_eA, fD_eA, fA_eA, fB_eA, decodeOp, List.getD_cons_zero, decodeS, hz, hc, sReg_val, opLength]
    exact ⟨rfl, rfl⟩
  | li d x | lih d x =>
    cases he
    rw [eL_eq_eA]
    refine .one (eA_lt (by decide) d.isLt (by omega) (by omega) (by omega)) ?_
    simp (disch := omega) only [fOp_eA, fD_eA, decodeOp, List.getD_cons_zero, decodeS, opLength, sReg_val]
    exact ⟨rfl, by rw [← eL_eq_eA, ofNat_eL]⟩
  | exts d a pos len1 | extz d a pos len1 | ins d a pos len1 =>
    cases he
    rw [fieldWord_eq_eA]
    refine .one (eA_lt (by decide) d.isLt a.isLt (by omega) (by omega)) ?_
    simp (disch := omega) only [fOp_eA, decodeOp, List.getD_cons_zero, decodeS, opLength]
    exact ⟨rfl, shapeX_word d a hwf⟩
  | _ => cases hs

end Sys2Proof
end

section
/-! PROOFS. The LS and AG slots (R153, R154, R204). -/

namespace Sys2Proof

/-! ### LS (R153, R204) -/

section
variable {op w : Nat} {i : Instr}

theorem shapeLd_word {mk : SReg → SReg → SReg → Bool → Sz → Instr} (d a b : SReg) {sx : Bool} {sz : Sz} (hok : loadOk sx sz = true) :
    shapeLd (eA op d a b (sz.code + 4 * boolNat sx)) mk = .ok (mk d a b sx sz) := by
  have hsz := sz.code_lt
  have hsx := boolNat_lt sx
  have hz : fieldOf (eA op d a b (sz.code + 4 * boolNat sx)) 3 4 = 0 := by
    simp only [fieldOf, eA, Nat.reducePow]
    omega
  have hx : bitOf (eA op d a b (sz.code + 4 * boolNat sx)) 2 = sx := bitOf_eq.mpr (by
    simp only [eA, Nat.reducePow]
    omega)
  have hs : szOf (eA op d a b (sz.code + 4 * boolNat sx)) = sz := szOf_eq.mpr (by
    simp only [eA]
    omega)
  simp (disch := omega) only [shapeLd, hz, hx, hs, hok, fD_eA, fA_eA, fB_eA, sReg_val]
  rfl

theorem shapeLd_ok {mk : SReg → SReg → SReg → Bool → Sz → Instr} (hw : w < 2 ^ 32) (hop : fOp w = op) (h : shapeLd w mk = .ok i) :
    ∃ (d a b : SReg) (sx : Bool) (sz : Sz), loadOk sx sz = true ∧ eA op d a b (sz.code + 4 * boolNat sx) = w ∧
      mk d a b sx sz = i := by
  obtain ⟨hz, hi⟩ := need_eq_ok.mp h
  simp only [Bool.and_eq_true, beq_iff_eq] at hz
  obtain ⟨hz, hok⟩ := hz
  refine ⟨_, _, _, _, _, hok, eA_of_fields hw hop (val_sReg_fD w) (val_sReg_fA w) (val_sReg_fB w) ?_, Except.ok.inj hi⟩
  rw [code_szOf, boolNat_bitOf]
  simp only [fFn, fieldOf, Nat.reducePow] at *
  omega

theorem shapeSt_word {mk : SReg → SReg → SReg → Sz → Instr} (d a b : SReg) (sz : Sz) :
    shapeSt (eA op d a b sz.code) mk = .ok (mk d a b sz) := by
  have hsz := sz.code_lt
  have hz : fieldOf (eA op d a b sz.code) 2 5 = 0 := by
    simp only [fieldOf, eA, Nat.reducePow]
    omega
  have hs : szOf (eA op d a b sz.code) = sz := szOf_eq.mpr (by
    simp only [eA]
    omega)
  simp (disch := omega) only [shapeSt, hz, hs, fD_eA, fA_eA, fB_eA, sReg_val]
  rfl

theorem shapeSt_ok {mk : SReg → SReg → SReg → Sz → Instr} (hw : w < 2 ^ 32) (hop : fOp w = op) (h : shapeSt w mk = .ok i) :
    ∃ (d a b : SReg) (sz : Sz), eA op d a b sz.code = w ∧ mk d a b sz = i := by
  obtain ⟨hz, hi⟩ := need_eq_ok.mp h
  rw [beq_iff_eq] at hz
  refine ⟨_, _, _, _, eA_of_fields hw hop (val_sReg_fD w) (val_sReg_fA w) (val_sReg_fB w) ?_, Except.ok.inj hi⟩
  rw [code_szOf]
  simp only [fFn, fieldOf, Nat.reducePow] at *
  omega

variable {dm : SReg → SReg → SReg → Bool → Sz → Instr} {gl : SReg → SReg → SReg → Scope → Bool → Sz → Instr}

theorem shapeAmo_dm (d a b : SReg) {sx : Bool} {sz : Sz} (hok : amoOk sx sz = true) :
    shapeAmo (eA op d a b (sz.code + 4 * boolNat sx)) dm gl = .ok (dm d a b sx sz) := by
  have hsz := sz.code_lt
  have hsx := boolNat_lt sx
  have hz : fieldOf (eA op d a b (sz.code + 4 * boolNat sx)) 3 3 = 0 := by
    simp only [fieldOf, eA, Nat.reducePow]
    omega
  have hg : bitOf (eA op d a b (sz.code + 4 * boolNat sx)) 6 = false := bitOf_false.mpr (by
    simp only [eA, Nat.reducePow]
    omega)
  have hx : bitOf (eA op d a b (sz.code + 4 * boolNat sx)) 2 = sx := bitOf_eq.mpr (by
    simp only [eA, Nat.reducePow]
    omega)
  have hs : szOf (eA op d a b (sz.code + 4 * boolNat sx)) = sz := szOf_eq.mpr (by
    simp only [eA]
    omega)
  simp (disch := omega) only [shapeAmo, hz, hg, hx, hs, hok, fD_eA, fA_eA, fB_eA, sReg_val]
  rfl

theorem shapeAmo_gl (d a b : SReg) {sc : Scope} {sx : Bool} {sz : Sz} (hok : (amoOk sx sz && amoScopeOk sc) = true) :
    shapeAmo (eA op d a b (64 + 8 * sc.code + 4 * boolNat sx + sz.code)) dm gl = .ok (gl d a b sc sx sz) := by
  have hsz := sz.code_lt
  have hsx := boolNat_lt sx
  have hsc := sc.code_lt
  obtain ⟨hamo, hscope⟩ := Bool.and_eq_true_iff.mp hok
  have hc : Scope.ofCode (fieldOf (eA op d a b (64 + 8 * sc.code + 4 * boolNat sx + sz.code)) 3 3) = some sc :=
    Scope.ofCode_eq.mpr (by
      simp only [fieldOf, eA, Nat.reducePow]
      omega)
  have hg : bitOf (eA op d a b (64 + 8 * sc.code + 4 * boolNat sx + sz.code)) 6 = true := bitOf_true.mpr (by
    simp only [eA, Nat.reducePow]
    omega)
  have hx : bitOf (eA op d a b (64 + 8 * sc.code + 4 * boolNat sx + sz.code)) 2 = sx := bitOf_eq.mpr (by
    simp only [eA, Nat.reducePow]
    omega)
  have hs : szOf (eA op d a b (64 + 8 * sc.code + 4 * boolNat sx + sz.code)) = sz := szOf_eq.mpr (by
    simp only [eA]
    omega)
  simp (disch := omega) only [shapeAmo, hc, hg, hx, hs, hamo, hscope, fD_eA, fA_eA, fB_eA, sReg_val, needSome_some]
  rfl

theorem shapeAmo_ok (hw : w < 2 ^ 32) (hop : fOp w = op) (h : shapeAmo w dm gl = .ok i) :
    (∃ (d a b : SReg) (sx : Bool) (sz : Sz), amoOk sx sz = true ∧ eA op d a b (sz.code + 4 * boolNat sx) = w ∧
      dm d a b sx sz = i) ∨
    ∃ (d a b : SReg) (sc : Scope) (sx : Bool) (sz : Sz), (amoOk sx sz && amoScopeOk sc) = true ∧
      eA op d a b (64 + 8 * sc.code + 4 * boolNat sx + sz.code) = w ∧ gl d a b sc sx sz = i := by
  obtain ⟨hok, h⟩ := need_eq_ok.mp h
  cases hg : bitOf w 6 with
  | false =>
    rw [hg, if_neg Bool.false_ne_true] at h
    obtain ⟨hz, hi⟩ := need_eq_ok.mp h
    rw [beq_iff_eq] at hz
    refine .inl ⟨_, _, _, _, _, hok, eA_of_fields hw hop (val_sReg_fD w) (val_sReg_fA w) (val_sReg_fB w) ?_, Except.ok.inj hi⟩
    rw [code_szOf, boolNat_bitOf]
    simp only [bitOf_false, fFn, fieldOf, Nat.reducePow] at *
    omega
  | true =>
    rw [hg, if_pos rfl] at h
    obtain ⟨sc, hc, h⟩ := needSome_eq_ok.mp h
    obtain ⟨hscope, hi⟩ := need_eq_ok.mp h
    refine .inr ⟨_, _, _, sc, _, _, Bool.and_eq_true_iff.mpr ⟨hok, hscope⟩,
      eA_of_fields hw hop (val_sReg_fD w) (val_sReg_fA w) (val_sReg_fB w) ?_, Except.ok.inj hi⟩
    rw [code_szOf, boolNat_bitOf, ← Scope.ofCode_eq.mp hc]
    simp only [bitOf_true, fFn, fieldOf, Nat.reducePow] at *
    omega

end

theorem decodeLs_ok {w : Nat} {i : Instr} (hw : w < 2 ^ 32) (h : decodeLs w = .ok i) : i.wf = true ∧ encode i = [w] := by
  unfold decodeLs at h
  split at h
  case h_1 hop | h_3 hop =>
    obtain ⟨d, a, b, sx, sz, hok, rfl, rfl⟩ := shapeLd_ok hw hop h
    exact ⟨hok, rfl⟩
  case h_2 hop | h_4 hop =>
    obtain ⟨d, a, b, sz, rfl, rfl⟩ := shapeSt_ok hw hop h
    exact ⟨rfl, rfl⟩
  case h_5 hop | h_6 hop | h_7 hop | h_8 hop | h_9 hop | h_10 hop | h_11 hop | h_12 hop | h_13 hop | h_14 hop =>
    obtain ⟨d, a, b, sx, sz, hok, rfl, rfl⟩ | ⟨d, a, b, sc, sx, sz, hok, rfl, rfl⟩ := shapeAmo_ok hw hop h
    · exact ⟨hok, rfl⟩
    · exact ⟨hok, rfl⟩
  case h_15 => cases h

theorem reads_ls {i : Instr} {w : Nat} {r : List Nat} (hs : slotOf i = some .ls) (hwf : i.wf = true) (he : encode i = w :: r) :
    Reads .ls w r i := by
  cases i with
  | ld d a b sx sz | ldg d a b sx sz =>
    cases he
    have hf : sz.code + 4 * boolNat sx < 128 := by have := sz.code_lt; have := boolNat_lt sx; omega
    refine .one (eA_lt (by decide) d.isLt a.isLt b.isLt hf) ?_
    simp (disch := omega) only [fOp_eA, decodeOp, List.getD_cons_zero, decodeLs, opLength]
    exact ⟨rfl, shapeLd_word d a b hwf⟩
  | st d a b sz | stg d a b sz =>
    cases he
    have hf : sz.code < 128 := sz.code_lt.trans (by decide)
    refine .one (eA_lt (by decide) d.isLt a.isLt b.isLt hf) ?_
    simp (disch := omega) only [fOp_eA, decodeOp, List.getD_cons_zero, decodeLs, opLength]
    exact ⟨rfl, shapeSt_word d a b sz⟩
  | amoaddDm d a b sx sz | amominDm d a b sx sz | amomaxDm d a b sx sz | amominnDm d a b sx sz | amomaxnDm d a b sx sz
  | amoandDm d a b sx sz | amoorDm d a b sx sz | amoxorDm d a b sx sz | amoswapDm d a b sx sz | amocasDm d a b sx sz =>
    cases he
    have hf : sz.code + 4 * boolNat sx < 128 := by have := sz.code_lt; have := boolNat_lt sx; omega
    refine .one (eA_lt (by decide) d.isLt a.isLt b.isLt hf) ?_
    simp (disch := omega) only [fOp_eA, decodeOp, List.getD_cons_zero, decodeLs, opLength]
    exact ⟨rfl, shapeAmo_dm d a b hwf⟩
  | amoaddGlobal d a b sc sx sz | amominGlobal d a b sc sx sz | amomaxGlobal d a b sc sx sz | amominnGlobal d a b sc sx sz
  | amomaxnGlobal d a b sc sx sz | amoandGlobal d a b sc sx sz | amoorGlobal d a b sc sx sz | amoxorGlobal d a b sc sx sz
  | amoswapGlobal d a b sc sx sz | amocasGlobal d a b sc sx sz =>
    cases he
    have hf : 64 + 8 * sc.code + 4 * boolNat sx + sz.code < 128 := by
      have := sz.code_lt; have := boolNat_lt sx; have := sc.code_lt; omega
    refine .one (eA_lt (by decide) d.isLt a.isLt b.isLt hf) ?_
    simp (disch := omega) only [fOp_eA, decodeOp, List.getD_cons_zero, decodeLs, opLength]
    exact ⟨rfl, shapeAmo_gl d a b hwf⟩
  | _ => cases hs

/-! ### AG (R154, R248–R250) -/

theorem decodeAg_ok {w : Nat} {i : Instr} (hw : w < 2 ^ 32) (h : decodeAg w = .ok i) : i.wf = true ∧ encode i = [w] := by
  unfold decodeAg at h
  split at h
  case h_8 => cases h
  all_goals simp only [need_eq_ok, Bool.and_eq_true, beq_iff_eq, decide_eq_true_eq] at h
  case h_1 hop | h_6 hop =>
    obtain ⟨hf, hd, h⟩ := h
    cases h
    exact ⟨rfl, congrArg (fun w => [w]) (eA_of_fields hw hop (val_gReg hd) (val_sReg_fA w) (val_sReg_fB w) hf.symm)⟩
  case h_2 hop =>
    obtain ⟨hf, hd, h⟩ := h
    cases h
    refine ⟨rfl, congrArg (fun w => [w]) (eA_of_fields hw hop (val_gReg hd) (val_sReg_fA w) ?_ ?_)⟩ <;>
      simp only [fB, fFn, Fin.val_ofNat, fieldOf, Nat.reducePow] at * <;> omega
  case h_3 hop =>
    obtain ⟨hf, ha, h⟩ := h
    cases h
    refine ⟨rfl, congrArg (fun w => [w]) (eA_of_fields hw hop (val_sReg_fD w) (val_gReg ha) ?_ ?_)⟩ <;>
      simp only [fB, fFn, Fin.val_ofNat, fieldOf, Nat.reducePow] at * <;> omega
  case h_4 hop =>
    obtain ⟨⟨hb, hf⟩, hd, h⟩ := h
    cases h
    exact ⟨rfl, congrArg (fun w => [w]) (eA_of_fields hw hop (val_gReg hd) (val_sReg_fA w) hb.symm hf.symm)⟩
  case h_5 hop =>
    obtain ⟨⟨⟨ha, hb⟩, hf⟩, hd, h⟩ := h
    cases h
    exact ⟨rfl, congrArg (fun w => [w]) (eA_of_fields hw hop (val_gReg hd) ha.symm hb.symm hf.symm)⟩
  case h_7 hop =>
    obtain ⟨⟨hb, hf⟩, ⟨hd, ha⟩, h⟩ := h
    cases h
    exact ⟨rfl, congrArg (fun w => [w]) (eA_of_fields hw hop (val_gReg hd) (val_gReg ha) hb.symm hf.symm)⟩

/-- The field number of GSETF and GGET stands in the low 13 bits. -/
theorem fieldOf_eA_low {op d a fn : Nat} (hf : fn < 128) : fieldOf (eA op d a 0 fn) 0 13 = fn := by
  simp only [fieldOf, eA, Nat.reducePow]
  omega

theorem reads_ag {i : Instr} {w : Nat} {r : List Nat} (hs : slotOf i = some .ag) (he : encode i = w :: r) :
    Reads .ag w r i := by
  cases i with
  | gset d a b | gmask d a b =>
    cases he
    refine .one (eA_lt (by decide) (by omega) a.isLt b.isLt (by decide)) ?_
    simp (disch := omega) only [fOp_eA, fD_eA, fA_eA, fB_eA, fFn_eA, decodeOp, List.getD_cons_zero, decodeAg, opLength, gReg_val, sReg_val, d.isLt]
    exact ⟨rfl, rfl⟩
  | gsetf d a f =>
    cases he
    refine .one (eA_lt (by decide) (by omega) a.isLt (by decide) (by omega)) ?_
    simp (disch := omega) only [fOp_eA, fD_eA, fA_eA, fieldOf_eA_low, decodeOp, List.getD_cons_zero, decodeAg, opLength, gReg_val, sReg_val, d.isLt, f.isLt,
      Fin.ofNat_val_eq_self]
    exact ⟨rfl, rfl⟩
  | gget d a f =>
    cases he
    refine .one (eA_lt (by decide) d.isLt (by omega) (by decide) (by omega)) ?_
    simp (disch := omega) only [fOp_eA, fD_eA, fA_eA, fieldOf_eA_low, decodeOp, List.getD_cons_zero, decodeAg, opLength, gReg_val, sReg_val, a.isLt, f.isLt,
      Fin.ofNat_val_eq_self]
    exact ⟨rfl, rfl⟩
  | gadv d a =>
    cases he
    refine .one (eA_lt (by decide) (by omega) a.isLt (by decide) (by decide)) ?_
    simp (disch := omega) only [fOp_eA, fD_eA, fA_eA, fB_eA, fFn_eA, decodeOp, List.getD_cons_zero, decodeAg, opLength, gReg_val, sReg_val, d.isLt]
    exact ⟨rfl, rfl⟩
  | grst d =>
    cases he
    refine .one (eA_lt (by decide) (by omega) (by decide) (by decide) (by decide)) ?_
    simp (disch := omega) only [fOp_eA, fD_eA, fA_eA, fB_eA, fFn_eA, decodeOp, List.getD_cons_zero, decodeAg, opLength, gReg_val, d.isLt]
    exact ⟨rfl, rfl⟩
  | gcopy d a =>
    cases he
    refine .one (eA_lt (by decide) (by omega) (by omega) (by decide) (by decide)) ?_
    simp (disch := omega) only [fOp_eA, fD_eA, fA_eA, fB_eA, fFn_eA, decodeOp, List.getD_cons_zero, decodeAg, opLength, gReg_val, d.isLt, a.isLt]
    exact ⟨rfl, rfl⟩
  | _ => cases hs

end Sys2Proof
end

section
/-! PROOFS. The BR slot (R151, R165–R184, R195). -/

namespace Sys2Proof

section
variable {op w : Nat} {i : Instr}

/-! ### Branches and loops (R165, R167) -/

theorem toNat_fI13 (w : Nat) : (fI13 w).toNat = fieldOf w 0 13 := by simp [fI13, fieldOf]

theorem shapeB2_eI {mk : SReg → SReg → BitVec 13 → Instr} (a b : SReg) (x : BitVec 13) : shapeB2 (eI op a b x) mk = .ok (mk a b x) :=
  shapeI_eI a b x

theorem shapeB1_eI {mk : SReg → BitVec 13 → Instr} (a : SReg) (x : BitVec 13) : shapeB1 (eI op a 0 x) mk = .ok (mk a x) := by
  simp (disch := omega) only [shapeB1, fD_eI, fA_eI, fI13_eI, sReg_val]
  rfl

theorem shapeBp_eI {mk : PReg → BitVec 13 → Instr} (a : PReg) (x : BitVec 13) : shapeBp (eI op a 0 x) mk = .ok (mk a x) := by
  simp (disch := omega) only [shapeBp, fD_eI, fA_eI, fI13_eI, pReg_val, a.isLt]
  rfl

theorem shapeLoop_eI {mk : SReg → Fin 4 → BitVec 13 → Decoded} (a : SReg) (n : Fin 4) {x : BitVec 13} (hx : loopDispOk x = true) :
    shapeLoop (eI op a n x) mk = mk a n x := by
  have hz : fieldOf (eI op a n x) 15 4 = 0 := by
    simp only [fieldOf, eI, Nat.reducePow]
    omega
  have hn : fieldOf (eI op a n x) 13 2 = n := by
    simp only [fieldOf, eI, Nat.reducePow]
    omega
  simp (disch := omega) only [shapeLoop, hz, hn, fD_eI, fI13_eI, hx, sReg_val, Fin.ofNat_val_eq_self]
  rfl

theorem shapeB2_ok {mk : SReg → SReg → BitVec 13 → Instr} (hw : w < 2 ^ 32) (hop : fOp w = op) (h : shapeB2 w mk = .ok i) :
    ∃ (a b : SReg) (x : BitVec 13), eI op a b x = w ∧ mk a b x = i :=
  shapeI_ok hw hop h

theorem shapeB1_ok {mk : SReg → BitVec 13 → Instr} (hw : w < 2 ^ 32) (hop : fOp w = op) (h : shapeB1 w mk = .ok i) :
    ∃ (a : SReg) (x : BitVec 13), eI op a 0 x = w ∧ mk a x = i := by
  obtain ⟨hz, hi⟩ := need_eq_ok.mp h
  exact ⟨_, _, eI_of_fields hw hop (val_sReg_fD w) (beq_iff_eq.mp hz).symm, Except.ok.inj hi⟩

theorem shapeBp_ok {mk : PReg → BitVec 13 → Instr} (hw : w < 2 ^ 32) (hop : fOp w = op) (h : shapeBp w mk = .ok i) :
    ∃ (a : PReg) (x : BitVec 13), eI op a 0 x = w ∧ mk a x = i := by
  obtain ⟨hz, h⟩ := need_eq_ok.mp h
  obtain ⟨hd, hi⟩ := need_eq_ok.mp h
  exact ⟨_, _, eI_of_fields hw hop (val_pReg (of_decide_eq_true hd)) (beq_iff_eq.mp hz).symm, Except.ok.inj hi⟩

theorem shapeLoop_ok {mk : SReg → Fin 4 → BitVec 13 → Decoded} (hw : w < 2 ^ 32) (hop : fOp w = op) (h : shapeLoop w mk = .ok i) :
    ∃ (a : SReg) (n : Fin 4) (x : BitVec 13), loopDispOk x = true ∧ eI op a n x = w ∧ mk a n x = .ok i := by
  obtain ⟨hz, hi⟩ := need_eq_ok.mp h
  simp only [Bool.and_eq_true, beq_iff_eq] at hz
  obtain ⟨hz, hx⟩ := hz
  refine ⟨_, _, _, hx, eI_of_fields hw hop (val_sReg_fD w) ?_, hi⟩
  simp only [Fin.val_ofNat, fA, fieldOf, Nat.reducePow] at *
  omega

/-! ### The word of IDLE (R173) -/

theorem idleWord_eq_eA (n : BitVec 12) : 0x17 * 0x200_0000 + n.toNat * 0x80 = eA 0x17 0 (n.toNat / 64) (n.toNat % 64) 0 := by
  unfold eA
  omega

/-! ### What decodes in BR is encoded by its words -/

/-- LOOPP holds its stages in a second syllable (R169). -/
theorem decodeBr_loopp {x : Nat} (hw : w < 2 ^ 32) (hop : fOp w = 0x11) (h : decodeBr w x = .ok i) :
    i.wf = true ∧ encode i = [w, x] := by
  simp only [decodeBr, hop] at h
  obtain ⟨a, n, d, hd, rfl, hk⟩ := shapeLoop_ok hw hop h
  obtain ⟨hx, hi⟩ := need_eq_ok.mp hk
  cases hi
  refine ⟨hd, congrArg (fun y => [eI 0x11 a n d, y]) ?_⟩
  rw [beq_iff_eq] at hx
  simp only [Fin.val_ofNat]
  omega

/-- WAITM holds its timeout in a second syllable (R176). -/
theorem decodeBr_waitm {x : Nat} (hw : w < 2 ^ 32) (hop : fOp w = 0x1C) (h : decodeBr w x = .ok i) :
    i.wf = true ∧ encode i = [w, x] := by
  simp only [decodeBr, hop, need_eq_ok, needSome_eq_ok, Cmp.ofCode_eq, beq_iff_eq] at h
  obtain ⟨hz, cc, hcc, hx, hi⟩ := h
  cases hi
  refine ⟨rfl, congrArg₂ (fun w x => [w, x]) (eA_of_fields hw hop (val_sReg_fD w) (val_sReg_fA w) (val_sReg_fB w) ?_) ?_⟩
  · rw [← hcc, boolNat_bitOf]
    simp only [fFn, fieldOf, Nat.reducePow] at *
    omega
  · rw [BitVec.toNat_ofNat]
    simp only [Nat.reducePow] at *
    omega

theorem decodeBr_ok {x : Nat} (hw : w < 2 ^ 32) (hlen : opLength .br (fOp w) = some 1) (h : decodeBr w x = .ok i) :
    i.wf = true ∧ encode i = [w] := by
  unfold decodeBr at h
  split at h
  case h_1 hop | h_12 hop | h_13 hop =>
    cases h
    exact ⟨rfl, congrArg (fun w => [w]) (eJ_of_fields hw hop)⟩
  case h_2 hop | h_3 hop =>
    obtain ⟨a, d, rfl, rfl⟩ := shapeB1_ok hw hop h
    exact ⟨rfl, rfl⟩
  case h_4 hop | h_5 hop | h_6 hop | h_7 hop | h_8 hop | h_9 hop =>
    obtain ⟨a, b, d, rfl, rfl⟩ := shapeB2_ok hw hop h
    exact ⟨rfl, rfl⟩
  case h_10 hop | h_11 hop =>
    obtain ⟨a, d, rfl, rfl⟩ := shapeBp_ok hw hop h
    exact ⟨rfl, rfl⟩
  case h_14 hop | h_46 hop =>
    obtain ⟨d, a, rfl, rfl⟩ := shapeDA_ok hw hop h
    exact ⟨rfl, rfl⟩
  case h_15 hop | h_31 hop =>
    obtain ⟨a, rfl, rfl⟩ := shapeA_ok hw hop h
    exact ⟨rfl, rfl⟩
  case h_16 hop =>
    obtain ⟨a, n, d, hd, rfl, hi⟩ := shapeLoop_ok hw hop h
    cases hi
    exact ⟨hd, rfl⟩
  case h_17 hop | h_28 hop =>
    rw [hop] at hlen
    cases hlen
  case h_18 hop =>
    simp only [need_eq_ok, Bool.and_eq_true, bne_iff_ne, decide_eq_true_eq] at h
    obtain ⟨⟨⟨hd, ha⟩, hx⟩, ha16, hi⟩ := h
    cases hi
    refine ⟨Bool.and_eq_true_iff.mpr ⟨hx, bne_iff_ne.mpr fun h0 => ha ?_⟩,
      congrArg (fun w => [w]) (eI_of_fields hw hop (val_low5 hd) (val_pReg ha16))⟩
    exact (val_pReg ha16).symm.trans (congrArg Fin.val h0)
  case h_19 hop | h_30 hop | h_32 hop | h_35 hop | h_47 hop | h_50 hop =>
    obtain ⟨a, b, rfl, rfl⟩ := shapeAB_ok hw hop h
    exact ⟨rfl, rfl⟩
  case h_20 hop =>
    simp only [need_eq_ok, Bool.and_eq_true, beq_iff_eq, decide_eq_true_eq] at h
    obtain ⟨⟨⟨hd, hb⟩, hf⟩, ha, hi⟩ := h
    cases hi
    exact ⟨rfl, congrArg (fun w => [w]) (eA_of_fields hw hop hd.symm (val_pReg ha) hb.symm hf.symm)⟩
  case h_21 hop | h_22 hop | h_24 hop | h_25 hop | h_26 hop | h_29 hop | h_34 hop | h_39 hop | h_51 hop =>
    obtain ⟨rfl, rfl⟩ := shape0_ok hw hop h
    exact ⟨rfl, rfl⟩
  case h_23 hop =>
    simp only [need_eq_ok, Bool.and_eq_true, beq_iff_eq] at h
    obtain ⟨⟨hd, hf⟩, hi⟩ := h
    cases hi
    refine ⟨rfl, congrArg (fun w => [w]) ((idleWord_eq_eA _).trans (eA_of_fields hw hop hd.symm ?_ ?_ hf.symm))⟩ <;>
      simp only [fA, fB, fieldOf, BitVec.toNat_ofNat, Nat.reducePow] <;> omega
  case h_27 hop =>
    simp only [need_eq_ok, Bool.and_eq_true, beq_iff_eq, decide_eq_true_eq] at h
    obtain ⟨⟨⟨⟨hd, hb⟩, hf⟩, ha⟩, hi⟩ := h
    cases hi
    exact ⟨rfl, congrArg (fun w => [w]) (eA_of_fields hw hop hd.symm (val_low5 ha) hb.symm hf.symm)⟩
  case h_33 hop =>
    simp only [need_eq_ok, needSome_eq_ok, Scope.ofCode_eq, beq_iff_eq] at h
    obtain ⟨hz, sc, hsc, hi⟩ := h
    cases hi
    refine ⟨rfl, congrArg (fun w => [w]) (eA_of_fields hw hop ?_ ?_ ?_ ?_)⟩ <;>
      simp only [fD, fA, fB, fFn, fieldOf, Nat.reducePow] at * <;> omega
  case h_36 hop =>
    simp only [need_eq_ok, beq_iff_eq] at h
    obtain ⟨ha, hok, hi⟩ := h
    cases hi
    exact ⟨(congrArg controlIndexOk (toNat_fI13 w)).trans hok, congrArg (fun w => [w]) (eI_of_fields hw hop (val_sReg_fD w) ha.symm)⟩
  case h_37 hop =>
    simp only [need_eq_ok, beq_iff_eq] at h
    obtain ⟨hd, hok, hi⟩ := h
    cases hi
    exact ⟨(congrArg controlIndexOk (toNat_fI13 w)).trans hok, congrArg (fun w => [w]) (eI_of_fields hw hop hd.symm (val_sReg_fA w))⟩
  case h_38 hop =>
    simp only [need_eq_ok, beq_iff_eq] at h
    obtain ⟨hz, hi⟩ := h
    cases hi
    refine ⟨decide_eq_true ?_, congrArg (fun w => [w]) (eL_of_fields hw hop ?_)⟩ <;>
      simp only [fD, fieldOf, BitVec.toNat_ofNat, Nat.reducePow] at * <;> omega
  case h_40 hop =>
    simp only [need_eq_ok, needSome_eq_ok, CacheLevel.ofCode_eq, Bool.and_eq_true, beq_iff_eq] at h
    obtain ⟨⟨hd, hz⟩, l, hl, hi⟩ := h
    cases hi
    refine ⟨rfl, congrArg (fun w => [w]) (eA_of_fields hw hop hd.symm (val_sReg_fA w) (val_sReg_fB w) ?_)⟩
    simp only [fFn, fieldOf, Nat.reducePow] at *
    omega
  case h_41 hop | h_42 hop =>
    simp only [need_eq_ok, Bool.and_eq_true, beq_iff_eq] at h
    obtain ⟨⟨hd, hz⟩, hi⟩ := h
    cases hi
    refine ⟨rfl, congrArg (fun w => [w]) (eA_of_fields hw hop hd.symm (val_sReg_fA w) (val_sReg_fB w) ?_)⟩
    rw [boolNat_bitOf]
    simp only [fFn, fieldOf, Nat.reducePow] at *
    omega
  case h_43 hop =>
    simp only [need_eq_ok, Bool.and_eq_true, Bool.or_eq_true, beq_iff_eq] at h
    obtain ⟨⟨⟨hd, hz⟩, hn⟩, hi⟩ := h
    have hself : (bitOf w 0 || sReg (fA w) == 0) = true := by
      rw [Bool.or_eq_true, beq_iff_eq]
      exact hn.imp_right fun h => congrArg sReg h
    cases hm : bitOf w 1 with
    | true =>
      rw [hm] at hi
      cases hi
      refine ⟨hself, congrArg (fun w => [w]) (eA_of_fields hw hop hd.symm (val_sReg_fA w) (val_sReg_fB w) ?_)⟩
      rw [boolNat_bitOf]
      simp only [bitOf_true, fFn, fieldOf, Nat.reducePow] at *
      omega
    | false =>
      rw [hm] at hi
      cases hi
      refine ⟨hself, congrArg (fun w => [w]) (eA_of_fields hw hop hd.symm (val_sReg_fA w) (val_sReg_fB w) ?_)⟩
      rw [boolNat_bitOf]
      simp only [bitOf_false, fFn, fieldOf, Nat.reducePow] at *
      omega
  case h_44 hop | h_45 hop | h_49 hop =>
    obtain ⟨d, a, b, rfl, rfl⟩ := shapeDAB_ok hw hop h
    exact ⟨rfl, rfl⟩
  case h_48 hop =>
    simp only [need_eq_ok, needSome_eq_ok, TlbKind.ofCode_eq, Bool.and_eq_true, beq_iff_eq] at h
    obtain ⟨⟨hd, hz⟩, k, hk, hi⟩ := h
    cases hi
    refine ⟨rfl, congrArg (fun w => [w]) (eA_of_fields hw hop hd.symm (val_sReg_fA w) (val_sReg_fB w) ?_)⟩
    simp only [fFn, fieldOf, Nat.reducePow] at *
    omega
  case h_52 => cases h

end

/-! ### Every operation of BR decodes from its words -/

/-- The low fields of FN. -/
theorem fieldOf_eA_fn {op d a b fn lo n : Nat} (h : lo + n ≤ 7) : fieldOf (eA op d a b fn) lo n = fieldOf fn lo n := by
  have he : eA op d a b fn = 128 * (op * 0x4_0000 + d * 0x1000 + a * 64 + b) + fn := by
    unfold eA
    omega
  have h7 : (128 : Nat) = 2 ^ lo * (2 ^ n * 2 ^ (7 - (lo + n))) := by
    rw [← pow_add, ← pow_add, show lo + (n + (7 - (lo + n))) = 7 by omega]
    rfl
  rw [fieldOf, fieldOf, he, h7, Nat.mul_assoc, Nat.mul_add_div (Nat.two_pow_pos lo), Nat.mul_assoc, Nat.mul_add_mod]

theorem bitOf_eA_fn {op d a b fn k : Nat} (h : k < 7) : bitOf (eA op d a b fn) k = bitOf fn k := by
  rw [bitOf_eq, boolNat_bitOf]
  have := fieldOf_eA_fn (op := op) (d := d) (a := a) (b := b) (fn := fn) (lo := k) (n := 1) (by omega)
  rwa [fieldOf, fieldOf] at this

/-- SETALLOW of the own core names no other core (R195). -/
theorem ownCore {a : SReg} {n : Bool} (h : (n || a == 0) = true) : (n || a.val == 0) = true := by
  rw [Bool.or_eq_true, beq_iff_eq] at *
  exact h.imp_right (congrArg Fin.val)

theorem reads_br {i : Instr} {w : Nat} {r : List Nat} (hs : slotOf i = some .br) (hwf : i.wf = true) (he : encode i = w :: r) :
    Reads .br w r i := by
  cases i with
  | b x | bmz x | call x =>
    cases he
    refine .one (eJ_lt (by decide)) ?_
    simp (disch := omega) only [fOp_eJ, decodeOp, List.getD_cons_zero, decodeBr, opLength, ofNat_eJ]
    exact ⟨rfl, trivial⟩
  | bz a x | bnz a x =>
    cases he
    refine .one (eI_lt (by decide) a.isLt (by decide)) ?_
    simp (disch := omega) only [fOp_eI, decodeOp, List.getD_cons_zero, decodeBr, opLength, shapeB1_eI]
    exact ⟨rfl, trivial⟩
  | beq a b x | bne a b x | blt a b x | bge a b x | bltn a b x | bgen a b x =>
    cases he
    refine .one (eI_lt (by decide) a.isLt b.isLt) ?_
    simp (disch := omega) only [fOp_eI, decodeOp, List.getD_cons_zero, decodeBr, opLength, shapeB2_eI]
    exact ⟨rfl, trivial⟩
  | bany a x | bnone a x =>
    cases he
    refine .one (eI_lt (by decide) (by omega) (by decide)) ?_
    simp (disch := omega) only [fOp_eI, decodeOp, List.getD_cons_zero, decodeBr, opLength, shapeBp_eI]
    exact ⟨rfl, trivial⟩
  | calli d a | gfreeze d a =>
    cases he
    refine .one (eA_lt (by decide) d.isLt a.isLt (by decide) (by decide)) ?_
    simp (disch := omega) only [fOp_eA, decodeOp, List.getD_cons_zero, decodeBr, opLength, shapeDA_eA]
    exact ⟨rfl, trivial⟩
  | jmpi a | bararr a =>
    cases he
    refine .one (eA_lt (by decide) (by decide) a.isLt (by decide) (by decide)) ?_
    simp (disch := omega) only [fOp_eA, decodeOp, List.getD_cons_zero, decodeBr, opLength, shapeA_eA]
    exact ⟨rfl, trivial⟩
  | loop a n x =>
    cases he
    refine .one (eI_lt (by decide) a.isLt (by omega)) ?_
    simp (disch := omega) only [fOp_eI, decodeOp, List.getD_cons_zero, decodeBr, opLength, shapeLoop_eI a n hwf]
    exact ⟨rfl, trivial⟩
  | loopp a n x st =>
    cases he
    refine .two (eI_lt (by decide) a.isLt (by omega)) (st.isLt.trans (by decide)) ?_
    have hst : (st.val / 8 == 0) = true := beq_iff_eq.mpr (Nat.div_eq_of_lt st.isLt)
    simp (disch := omega) only [fOp_eI, decodeOp, List.getD_cons_zero, decodeBr, opLength, shapeLoop_eI a n hwf, List.getD_cons_succ, hst, need_true,
      Fin.ofNat_val_eq_self]
    exact ⟨rfl, trivial⟩
  | sloop q p x =>
    cases he
    obtain ⟨hx, hp⟩ := Bool.and_eq_true_iff.mp hwf
    have hp0 : (p.val != 0) = true := bne_iff_ne.mpr fun h => bne_iff_ne.mp hp (Fin.ext h)
    refine .one (eI_lt (by decide) (by omega) (by omega)) ?_
    simp (disch := omega) only [fOp_eI, fD_eI, fA_eI, fI13_eI, decodeOp, List.getD_cons_zero, decodeBr, opLength, hx, hp0, q.isLt, p.isLt, low5_val, pReg_val]
    exact ⟨rfl, rfl⟩
  | bsel a b | barinit a b | barwait a b | pcommit a b | gthaw a b | msgsend a b =>
    cases he
    refine .one (eA_lt (by decide) (by decide) a.isLt b.isLt (by decide)) ?_
    simp (disch := omega) only [fOp_eA, decodeOp, List.getD_cons_zero, decodeBr, opLength, shapeAB_eA]
    exact ⟨rfl, trivial⟩
  | mpush a =>
    cases he
    refine .one (eA_lt (by decide) (by decide) (by omega) (by decide) (by decide)) ?_
    simp (disch := omega) only [fOp_eA, fD_eA, fA_eA, fB_eA, fFn_eA, decodeOp, List.getD_cons_zero, decodeBr, opLength, a.isLt, pReg_val]
    exact ⟨rfl, rfl⟩
  | minv | mpop | endTask | yield | waite | csync | pbar | rte | halt =>
    cases he
    refine .one (eA_lt (by decide) (by decide) (by decide) (by decide) (by decide)) ?_
    simp (disch := omega) only [fOp_eA, decodeOp, List.getD_cons_zero, decodeBr, opLength, shape0_eA]
    exact ⟨rfl, trivial⟩
  | idle n =>
    cases he
    have hn : BitVec.ofNat 12 (eA 0x17 0 (n.toNat / 64) (n.toNat % 64) 0 / 2 ^ 7) = n := by
      refine BitVec.eq_of_toNat_eq ?_
      simp only [eA, BitVec.toNat_ofNat, Nat.reducePow]
      omega
    rw [idleWord_eq_eA]
    refine .one (eA_lt (by decide) (by decide) (by omega) (by omega) (by decide)) ?_
    simp (disch := omega) only [fOp_eA, fD_eA, fFn_eA, decodeOp, List.getD_cons_zero, decodeBr, opLength, hn]
    exact ⟨rfl, rfl⟩
  | waitq q =>
    cases he
    refine .one (eA_lt (by decide) (by decide) (by omega) (by decide) (by decide)) ?_
    simp (disch := omega) only [fOp_eA, fD_eA, fA_eA, fB_eA, fFn_eA, decodeOp, List.getD_cons_zero, decodeBr, opLength, q.isLt, low5_val]
    exact ⟨rfl, rfl⟩
  | waitm d a b cc w32 timeout =>
    cases he
    have hcc := cc.code_lt
    have hb := boolNat_lt w32
    have hz : fieldOf (cc.code + 8 * boolNat w32) 4 3 = 0 := by simp only [fieldOf, Nat.reducePow]; omega
    have hc : Cmp.ofCode (fieldOf (cc.code + 8 * boolNat w32) 0 3) = some cc := by
      rw [Cmp.ofCode_eq]; simp only [fieldOf, Nat.reducePow]; omega
    have hw : bitOf (cc.code + 8 * boolNat w32) 3 = w32 := by rw [bitOf_eq]; omega
    have ht : (timeout.toNat / 2 ^ 16 == 0) = true := beq_iff_eq.mpr (Nat.div_eq_of_lt timeout.isLt)
    refine .two (eA_lt (by decide) d.isLt a.isLt b.isLt (by omega)) (timeout.isLt.trans (by decide)) ?_
    simp (disch := omega) only [fOp_eA, fD_eA, fA_eA, fB_eA, fieldOf_eA_fn, bitOf_eA_fn, decodeOp, List.getD_cons_zero, List.getD_cons_succ, decodeBr, opLength, hz, hc,
      hw, ht, needSome_some, need_true, sReg_val, BitVec.ofNat_toNat, BitVec.setWidth_eq]
    exact ⟨rfl, rfl⟩
  | fence sc =>
    cases he
    have hsc := sc.code_lt
    have hz : fieldOf (eA 0x21 0 0 0 sc.code) 3 22 = 0 := by simp only [fieldOf, eA, Nat.reducePow]; omega
    have hc : Scope.ofCode (fieldOf sc.code 0 3) = some sc := by
      rw [Scope.ofCode_eq]; simp only [fieldOf, Nat.reducePow]; omega
    refine .one (eA_lt (by decide) (by decide) (by decide) (by decide) (by omega)) ?_
    simp (disch := omega) only [fOp_eA, hz, fieldOf_eA_fn, decodeOp, List.getD_cons_zero, decodeBr, opLength, hc, needSome_some]
    exact ⟨rfl, rfl⟩
  | getc d x =>
    cases he
    have hx : controlIndexOk (fieldOf (eI 0x24 d 0 x) 0 13) = true := by rwa [← toNat_fI13, fI13_eI]
    refine .one (eI_lt (by decide) d.isLt (by decide)) ?_
    simp (disch := omega) only [fOp_eI, fD_eI, fA_eI, fI13_eI, decodeOp, List.getD_cons_zero, decodeBr, opLength, hx, sReg_val]
    exact ⟨rfl, rfl⟩
  | setc a x =>
    cases he
    have hx : controlIndexOk (fieldOf (eI 0x25 0 a x) 0 13) = true := by rwa [← toNat_fI13, fI13_eI]
    refine .one (eI_lt (by decide) (by decide) a.isLt) ?_
    simp (disch := omega) only [fOp_eI, fD_eI, fA_eI, fI13_eI, decodeOp, List.getD_cons_zero, decodeBr, opLength, hx, sReg_val]
    exact ⟨rfl, rfl⟩
  | trap imm =>
    cases he
    have hz : fieldOf (eL 0x26 0 imm) 18 7 = 0 := by
      have := of_decide_eq_true hwf
      simp only [fieldOf, eL, Nat.reducePow]
      omega
    refine .one (eL_eq_eA ▸ eA_lt (by decide) (by decide) (by omega) (by omega) (by omega)) ?_
    have hop : fOp (eL 0x26 0 imm) = 0x26 := eL_eq_eA ▸ fOp_eA (by decide) (by decide) (by omega) (by omega) (by omega)
    simp only [hop, hz, ofNat_eL, decodeOp, List.getD_cons_zero, decodeBr, opLength]
    exact ⟨rfl, rfl⟩
  | ipf a b l =>
    cases he
    have hl := l.code_lt
    have hz : fieldOf l.code 2 5 = 0 := by simp only [fieldOf, Nat.reducePow]; omega
    have hc : CacheLevel.ofCode (fieldOf l.code 0 2) = some l := by
      rw [CacheLevel.ofCode_eq]; simp only [fieldOf, Nat.reducePow]; omega
    refine .one (eA_lt (by decide) (by decide) a.isLt b.isLt (by omega)) ?_
    simp (disch := omega) only [fOp_eA, fD_eA, fA_eA, fB_eA, fieldOf_eA_fn, decodeOp, List.getD_cons_zero, decodeBr, opLength, hz, hc, needSome_some, sReg_val]
    exact ⟨rfl, rfl⟩
  | ipin a b l2 | iunpin a b l2 =>
    cases he
    have hl := boolNat_lt l2
    have hz : fieldOf (boolNat l2) 1 6 = 0 := by simp only [fieldOf, Nat.reducePow]; omega
    have hc : bitOf (boolNat l2) 0 = l2 := by rw [bitOf_eq]; omega
    refine .one (eA_lt (by decide) (by decide) a.isLt b.isLt (by omega)) ?_
    simp (disch := omega) only [fOp_eA, fD_eA, fA_eA, fB_eA, fieldOf_eA_fn, bitOf_eA_fn, decodeOp, List.getD_cons_zero, decodeBr, opLength, hz, hc, sReg_val]
    exact ⟨rfl, rfl⟩
  | setallow a b n =>
    cases he
    have hn := boolNat_lt n
    have hz : fieldOf (boolNat n) 2 5 = 0 := by simp only [fieldOf, Nat.reducePow]; omega
    have hc : bitOf (boolNat n) 0 = n := by rw [bitOf_eq]; omega
    have hm : bitOf (boolNat n) 1 = false := by rw [bitOf_false]; omega
    refine .one (eA_lt (by decide) (by decide) a.isLt b.isLt (by omega)) ?_
    simp (disch := omega) only [fOp_eA, fD_eA, fA_eA, fB_eA, fieldOf_eA_fn, bitOf_eA_fn, decodeOp, List.getD_cons_zero, decodeBr, opLength, hz, hc, hm, sReg_val]
    refine ⟨rfl, need_of (ownCore hwf)⟩
  | setallowMode a b n =>
    cases he
    have hn := boolNat_lt n
    have hz : fieldOf (2 + boolNat n) 2 5 = 0 := by simp only [fieldOf, Nat.reducePow]; omega
    have hc : bitOf (2 + boolNat n) 0 = n := by rw [bitOf_eq]; omega
    have hm : bitOf (2 + boolNat n) 1 = true := by rw [bitOf_true]; omega
    refine .one (eA_lt (by decide) (by decide) a.isLt b.isLt (by omega)) ?_
    simp (disch := omega) only [fOp_eA, fD_eA, fA_eA, fB_eA, fieldOf_eA_fn, bitOf_eA_fn, decodeOp, List.getD_cons_zero, decodeBr, opLength, hz, hc, hm, sReg_val]
    refine ⟨rfl, need_of (ownCore hwf)⟩
  | ctxsave d a b | ctxload d a b | segload d a b =>
    cases he
    refine .one (eA_lt (by decide) d.isLt a.isLt b.isLt (by decide)) ?_
    simp (disch := omega) only [fOp_eA, decodeOp, List.getD_cons_zero, decodeBr, opLength, shapeDAB_eA]
    exact ⟨rfl, trivial⟩
  | tlbinv a b k =>
    cases he
    have hk := k.code_lt
    have hz : fieldOf k.code 2 5 = 0 := by simp only [fieldOf, Nat.reducePow]; omega
    have hc : TlbKind.ofCode (fieldOf k.code 0 2) = some k := by
      rw [TlbKind.ofCode_eq]; simp only [fieldOf, Nat.reducePow]; omega
    refine .one (eA_lt (by decide) (by decide) a.isLt b.isLt (by omega)) ?_
    simp (disch := omega) only [fOp_eA, fD_eA, fA_eA, fB_eA, fieldOf_eA_fn, decodeOp, List.getD_cons_zero, decodeBr, opLength, hz, hc, needSome_some, sReg_val]
    exact ⟨rfl, rfl⟩
  | _ => cases hs

end Sys2Proof
end

section
/-! PROOFS. The shapes of F-V words (R147, R149, R155). -/

namespace Sys2Proof

section
variable {op w : Nat} {i : Instr}

/-! ### What a vector operation decodes to -/

theorem shapeV_eq_ok {vecA vecB : Bool} {ok : Ty → Bool} {mk : VReg → VSrc → VSrc → PReg → Ty → Decoded} :
    shapeV w vecA vecB ok mk = .ok i ↔ (fD w < 32 ∧ (vecA = true → fA w < 32) ∧ (vecB = true → fB w < 32)) ∧
      ∃ t, fT w = t.code ∧ ok t = true ∧ mk (vReg (fD w)) (vSrc (fA w)) (vSrc (fB w)) (fP w) t = .ok i := by
  simp only [shapeV, need_eq_ok, needSome_eq_ok, Ty.ofCode_eq]
  refine and_congr_left' ?_
  cases vecA <;> cases vecB <;> simp [and_assoc]

theorem code_vSrc_fA (w : Nat) : (vSrc (fA w)).code = fA w := code_vSrc (fA_lt w)
theorem code_vSrc_fB (w : Nat) : (vSrc (fB w)).code = fB w := code_vSrc (fB_lt w)

/-- Bit 5 of VA or VB set: the scalar is the rest (R149). -/
theorem scalar_code {n : Nat} (h32 : 32 ≤ n) (h : n < 64) : 32 + (low5 (n - 32)).val = n := by
  rw [val_low5] <;> omega

theorem tyAll_of {t : Ty} (h : fT w = t.code) (f : Ty → Bool) : tyAll w f = f t := by
  rw [tyAll, Ty.ofCode_eq.mpr h]
  rfl

theorem shapeV2_ok {ok : Ty → Bool} {mk : VReg → VSrc → VSrc → PReg → Ty → Instr} (hw : w < 2 ^ 32) (hop : fOp w = op)
    (h : shapeV2 w ok mk = .ok i) :
    ∃ (d : VReg) (a b : VSrc) (p : PReg) (t : Ty), ok t = true ∧ eV op d a.code b.code p t = w ∧ mk d a b p t = i := by
  obtain ⟨⟨hd, -, -⟩, t, ht, hok, hi⟩ := shapeV_eq_ok.mp h
  exact ⟨_, _, _, _, t, hok, eV_of_fields hw hop (val_vReg hd) (code_vSrc_fA w) (code_vSrc_fB w) ht, Except.ok.inj hi⟩

theorem shapeV1_ok {ok : Ty → Bool} {mk : VReg → VSrc → PReg → Ty → Instr} (hw : w < 2 ^ 32) (hop : fOp w = op)
    (h : shapeV1 w ok mk = .ok i) :
    ∃ (d : VReg) (a : VSrc) (p : PReg) (t : Ty), ok t = true ∧ eV op d a.code 0 p t = w ∧ mk d a p t = i := by
  obtain ⟨hb, h⟩ := need_eq_ok.mp h
  obtain ⟨⟨hd, -, -⟩, t, ht, hok, hi⟩ := shapeV_eq_ok.mp h
  exact ⟨_, _, _, t, hok, eV_of_fields hw hop (val_vReg hd) (code_vSrc_fA w) (beq_iff_eq.mp hb).symm ht, Except.ok.inj hi⟩

theorem shapeVc_ok {mk : PReg → VSrc → VSrc → PReg → Ty → Instr} (hw : w < 2 ^ 32) (hop : fOp w = op) (h : shapeVc w mk = .ok i) :
    ∃ (d : PReg) (a b : VSrc) (p : PReg) (t : Ty), eV op d a.code b.code p t = w ∧ mk d a b p t = i := by
  obtain ⟨hd, h⟩ := need_eq_ok.mp h
  obtain ⟨-, t, ht, -, hi⟩ := shapeV_eq_ok.mp h
  exact ⟨_, _, _, _, t, eV_of_fields hw hop (val_pReg (of_decide_eq_true hd)) (code_vSrc_fA w) (code_vSrc_fB w) ht, Except.ok.inj hi⟩

theorem shapeVv_ok {even : Bool} {mk : VReg → VReg → VReg → PReg → Ty → Instr} (hw : w < 2 ^ 32) (hop : fOp w = op)
    (h : shapeVv w even mk = .ok i) :
    ∃ (d a b : VReg) (p : PReg) (t : Ty), (even = true → d.val % 2 = 0) ∧ eV op d a b p t = w ∧ mk d a b p t = i := by
  obtain ⟨he, h⟩ := need_eq_ok.mp h
  obtain ⟨⟨hd, ha, hb⟩, t, ht, -, hi⟩ := shapeV_eq_ok.mp h
  refine ⟨_, _, _, _, t, fun heven => ?_,
    eV_of_fields hw hop (val_vReg hd) (val_vReg (ha rfl)) (val_vReg (hb rfl)) ht, Except.ok.inj hi⟩
  rw [val_vReg hd]
  rw [heven, Bool.true_and, Bool.not_eq_true', beq_eq_false_iff_ne] at he
  omega

theorem shapeVs_ok {mk : VReg → VReg → Fin 32 → PReg → Ty → Instr} (hw : w < 2 ^ 32) (hop : fOp w = op) (h : shapeVs w mk = .ok i) :
    ∃ (d a : VReg) (b : Fin 32) (p : PReg) (t : Ty), eV op d a (32 + b) p t = w ∧ mk d a b p t = i := by
  obtain ⟨hb, h⟩ := need_eq_ok.mp h
  obtain ⟨⟨hd, ha, -⟩, t, ht, -, hi⟩ := shapeV_eq_ok.mp h
  exact ⟨_, _, _, _, t, eV_of_fields hw hop (val_vReg hd) (val_vReg (ha rfl)) (scalar_code (of_decide_eq_true hb) (fB_lt w)) ht,
    Except.ok.inj hi⟩

theorem shapeVss_ok {ok : Ty → Bool} {mk : VReg → Fin 32 → Fin 32 → PReg → Ty → Instr} (hw : w < 2 ^ 32) (hop : fOp w = op)
    (h : shapeVss w ok mk = .ok i) :
    ∃ (d : VReg) (a b : Fin 32) (p : PReg) (t : Ty), ok t = true ∧ eV op d (32 + a) (32 + b) p t = w ∧ mk d a b p t = i := by
  obtain ⟨hab, h⟩ := need_eq_ok.mp h
  obtain ⟨ha, hb⟩ := of_decide_eq_true hab
  obtain ⟨⟨hd, -, -⟩, t, ht, hok, hi⟩ := shapeV_eq_ok.mp h
  exact ⟨_, _, _, _, t, hok, eV_of_fields hw hop (val_vReg hd) (scalar_code ha (fA_lt w)) (scalar_code hb (fB_lt w)) ht, Except.ok.inj hi⟩

/-- The types that a reduction or scan accepts (R221). -/
def redTyOk (o : RedOp) (t : Ty) : Bool := !t.isFloat || o == .add || o == .max || o == .min

theorem shapeRed_ok {high : Nat} {mk : VReg → VReg → RedOp → PReg → Ty → Instr} (hw : w < 2 ^ 32) (hop : fOp w = op)
    (h : shapeRed w high mk = .ok i) :
    ∃ (d a : VReg) (o : RedOp) (p : PReg) (t : Ty), redTyOk o t = true ∧ fieldOf w high (13 - high) = 0 ∧ fieldOf w 7 3 = o.code ∧
      eV op d a (fB w) p t = w ∧ mk d a o p t = i := by
  simp only [shapeRed, need_eq_ok, needSome_eq_ok, RedOp.ofCode_eq, beq_iff_eq] at h
  obtain ⟨hz, o, ho, hty, h⟩ := h
  obtain ⟨⟨hd, ha, -⟩, t, ht, -, hi⟩ := shapeV_eq_ok.mp h
  rw [tyAll_of ht] at hty
  exact ⟨_, _, o, _, t, hty, hz, ho, eV_of_fields hw hop (val_vReg hd) (val_vReg (ha rfl)) rfl ht, Except.ok.inj hi⟩

/-! ### The words of a vector operation -/

variable {d a b : Nat} {p : PReg} {t : Ty} {ok : Ty → Bool} {mk : VReg → VSrc → VSrc → PReg → Ty → Decoded}

theorem anyTy_eq (t : Ty) : anyTy t = true := rfl

theorem shapeV_any (hd : d < 32) (ha : a < 64) (hb : b < 64) :
    shapeV (eV op d a b p t) false false ok mk = need (ok t) 0 6 (mk (vReg d) (vSrc a) (vSrc b) p t) := by
  have ht : Ty.ofCode t.code = some t := Ty.ofCode_eq.mpr rfl
  simp (disch := omega) only [shapeV, fD_eV, fA_eV, fB_eV, fT_eV, fP_eV, hd, ht, needSome_some]
  rfl

theorem shapeV_vec (hd : d < 32) (ha : a < 32) (hb : b < 64) :
    shapeV (eV op d a b p t) true false ok mk = need (ok t) 0 6 (mk (vReg d) (vSrc a) (vSrc b) p t) := by
  have ht : Ty.ofCode t.code = some t := Ty.ofCode_eq.mpr rfl
  simp (disch := omega) only [shapeV, fD_eV, fA_eV, fB_eV, fT_eV, fP_eV, hd, ht, needSome_some, Nat.not_le.mpr ha]
  rfl

theorem shapeV_vecs (hd : d < 32) (ha : a < 32) (hb : b < 32) :
    shapeV (eV op d a b p t) true true ok mk = need (ok t) 0 6 (mk (vReg d) (vSrc a) (vSrc b) p t) := by
  have ht : Ty.ofCode t.code = some t := Ty.ofCode_eq.mpr rfl
  simp (disch := omega) only [shapeV, fD_eV, fA_eV, fB_eV, fT_eV, fP_eV, hd, ht, needSome_some, Nat.not_le.mpr ha, Nat.not_le.mpr hb]
  rfl

theorem shapeV2_eV {mk : VReg → VSrc → VSrc → PReg → Ty → Instr} (d : VReg) (a b : VSrc) (hok : ok t = true) :
    shapeV2 (eV op d a.code b.code p t) ok mk = .ok (mk d a b p t) := by
  rw [shapeV2, shapeV_any d.isLt a.code_lt b.code_lt, need_of hok, vReg_val, vSrc_code, vSrc_code]

theorem shapeV1_eV {mk : VReg → VSrc → PReg → Ty → Instr} (d : VReg) (a : VSrc) (hok : ok t = true) :
    shapeV1 (eV op d a.code 0 p t) ok mk = .ok (mk d a p t) := by
  rw [shapeV1, fB_eV (by decide), shapeV_any d.isLt a.code_lt (by decide), beq_self_eq_true, need_true, need_of hok, vReg_val, vSrc_code]

theorem shapeVc_eV {mk : PReg → VSrc → VSrc → PReg → Ty → Instr} (d : PReg) (a b : VSrc) :
    shapeVc (eV op d a.code b.code p t) mk = .ok (mk d a b p t) := by
  rw [shapeVc, fD_eV (by omega) a.code_lt b.code_lt, shapeV_any (by omega) a.code_lt b.code_lt, need_of (decide_eq_true d.isLt),
    need_true, pReg_val, vSrc_code, vSrc_code]

theorem shapeVv_eV {even : Bool} {mk : VReg → VReg → VReg → PReg → Ty → Instr} (d a b : VReg) (he : (even && d.val % 2 == 1) = false) :
    shapeVv (eV op d a b p t) even mk = .ok (mk d a b p t) := by
  rw [shapeVv, fD_eV (by omega) (by omega) (by omega), fA_eV (by omega) (by omega), fB_eV (by omega),
    shapeV_vecs d.isLt a.isLt b.isLt, he, Bool.not_false, need_true, need_true, vReg_val, vReg_val, vReg_val]

theorem shapeVs_eV {mk : VReg → VReg → Fin 32 → PReg → Ty → Instr} (d a : VReg) (b : Fin 32) :
    shapeVs (eV op d a (32 + b) p t) mk = .ok (mk d a b p t) := by
  rw [shapeVs, fA_eV (by omega) (by omega), fB_eV (by omega), shapeV_vec d.isLt a.isLt (by omega),
    need_of (decide_eq_true (Nat.le_add_right 32 b)), need_true, vReg_val, vReg_val, Nat.add_sub_cancel_left, low5_val]

theorem shapeVss_eV {mk : VReg → Fin 32 → Fin 32 → PReg → Ty → Instr} (d : VReg) (a b : Fin 32) (hok : ok t = true) :
    shapeVss (eV op d (32 + a) (32 + b) p t) ok mk = .ok (mk d a b p t) := by
  rw [shapeVss, fA_eV (by omega) (by omega), fB_eV (by omega), shapeV_any d.isLt (by omega) (by omega),
    need_of (decide_eq_true ⟨Nat.le_add_right 32 a, Nat.le_add_right 32 b⟩), need_of hok, vReg_val, Nat.add_sub_cancel_left,
    Nat.add_sub_cancel_left, low5_val, low5_val]

/-- VB of a reduction: the operation, and above it what the reduction leaves room for. -/
theorem shapeRed_eV {high : Nat} {mk : VReg → VReg → RedOp → PReg → Ty → Instr} (d a : VReg) (o : RedOp) (hb : b < 64)
    (hz : fieldOf (eV op d a b p t) high (13 - high) = 0) (ho : b % 8 = o.code) (hty : redTyOk o t = true) :
    shapeRed (eV op d a b p t) high mk = .ok (mk d a o p t) := by
  have hc : RedOp.ofCode (fieldOf (eV op d a b p t) 7 3) = some o := by
    have := t.code_lt
    rw [RedOp.ofCode_eq]
    simp only [fieldOf, eV, Nat.reducePow]
    omega
  rw [redTyOk] at hty
  rw [shapeRed, hz, hc, beq_self_eq_true, need_true, needSome_some, tyAll_of fT_eV, need_of hty, shapeV_vec d.isLt a.isLt hb, need_of (anyTy_eq t),
    fA_eV (by omega) hb, vReg_val, vReg_val]

end

end Sys2Proof
end

section
/-! PROOFS. The V0 and V1 slots (R155, R215–R229). -/

namespace Sys2Proof

section
variable {w x : Nat} {i : Instr}

/-! ### What decodes in V0 and V1 is encoded by its words -/

theorem decodeV_ok (hw : w < 2 ^ 32) (hlen : opLength .v0 (fOp w) = some 1) (h : decodeV [w] = .ok i) : i.wf = true ∧ encode i = [w] := by
  unfold decodeV at h
  simp only [List.getD_cons_zero] at h
  split at h
  case h_1 hop | h_2 hop | h_3 hop | h_4 hop | h_5 hop | h_6 hop | h_7 hop | h_8 hop | h_11 hop | h_12 hop | h_13 hop | h_26 hop =>
    obtain ⟨d, a, b, p, t, -, rfl, rfl⟩ := shapeV2_ok hw hop h
    exact ⟨rfl, rfl⟩
  case h_15 hop | h_16 hop | h_17 hop | h_18 hop | h_20 hop =>
    obtain ⟨d, a, b, p, t, hok, rfl, rfl⟩ := shapeV2_ok hw hop h
    exact ⟨hok, rfl⟩
  case h_9 hop | h_10 hop | h_33 hop | h_34 hop | h_35 hop | h_36 hop | h_37 hop | h_38 hop | h_39 hop =>
    obtain ⟨d, a, p, t, hok, rfl, rfl⟩ := shapeV1_ok hw hop h
    exact ⟨hok, rfl⟩
  case h_14 hop | h_27 hop =>
    obtain ⟨d, a, p, t, -, rfl, rfl⟩ := shapeV1_ok hw hop h
    exact ⟨rfl, rfl⟩
  case h_21 hop | h_22 hop | h_23 hop | h_24 hop =>
    obtain ⟨d, a, b, p, t, rfl, rfl⟩ := shapeVc_ok hw hop h
    exact ⟨rfl, rfl⟩
  case h_25 hop =>
    obtain ⟨hd, h⟩ := need_eq_ok.mp h
    obtain ⟨-, t, ht, hok, hi⟩ := shapeV_eq_ok.mp h
    cases hi
    refine ⟨hok, congrArg (fun w => [w]) (eV_of_fields hw hop (val_pReg (of_decide_eq_true hd)) (code_vSrc_fA w) ?_ ht)⟩
    rw [BitVec.toNat_ofNat]
    exact Nat.mod_eq_of_lt (fB_lt w)
  case h_28 hop | h_30 hop | h_43 hop =>
    obtain ⟨d, a, b, p, t, rfl, rfl⟩ := shapeVs_ok hw hop h
    exact ⟨rfl, rfl⟩
  case h_29 hop =>
    obtain ⟨d, a, b, p, t, -, rfl, rfl⟩ := shapeVss_ok hw hop h
    exact ⟨rfl, rfl⟩
  case h_31 hop =>
    obtain ⟨d, a, b, p, t, hok, rfl, rfl⟩ := shapeVss_ok hw hop h
    exact ⟨hok, rfl⟩
  case h_40 hop =>
    obtain ⟨d, a, o, p, t, hty, hz, ho, he, rfl⟩ := shapeRed_ok hw hop h
    refine ⟨hty, congrArg (fun w => [w]) (Eq.trans (congrArg (fun b => eV 0x27 d a b p t) ?_) he)⟩
    rw [← ho]
    simp only [fB, fieldOf, Nat.reducePow] at *
    omega
  case h_41 hop =>
    obtain ⟨d, a, o, p, t, hty, hz, ho, he, rfl⟩ := shapeRed_ok hw hop h
    refine ⟨hty, congrArg (fun w => [w]) (Eq.trans (congrArg (fun b => eV 0x28 d a b p t) ?_) he)⟩
    rw [← ho, boolNat_bitOf]
    simp only [fB, fieldOf, Nat.reducePow] at *
    omega
  case h_42 hop =>
    obtain ⟨d, a, b, p, t, -, rfl, rfl⟩ := shapeVv_ok hw hop h
    exact ⟨rfl, rfl⟩
  case h_44 hop | h_45 hop =>
    obtain ⟨d, a, b, p, t, he, rfl, rfl⟩ := shapeVv_ok hw hop h
    exact ⟨beq_iff_eq.mpr (he rfl), rfl⟩
  case h_19 hop | h_32 hop | h_46 hop | h_47 hop | h_48 hop =>
    rw [hop] at hlen
    cases hlen
  case h_49 => cases h

/-- VCLAMP holds its third source in a second syllable. -/
theorem decodeV_vclamp (hw : w < 2 ^ 32) (hx : x < 2 ^ 32) (hop : fOp w = 0x12) (h : decodeV [w, x] = .ok i) :
    i.wf = true ∧ encode i = [w, x] := by
  simp only [decodeV, List.getD_cons_zero, List.getD_cons_succ, hop, need_eq_ok, shapeV_eq_ok, beq_iff_eq] at h
  obtain ⟨hz, ⟨hd, -⟩, t, ht, -, hi⟩ := h
  cases hi
  refine ⟨rfl, congrArg₂ (fun w x => [w, x]) (eV_of_fields hw hop (val_vReg hd) (code_vSrc_fA w) (code_vSrc_fB w) ht) ?_⟩
  rw [code_vSrc (fieldOf_lt x 26 6)]
  simp only [fieldOf, Nat.reducePow] at *
  omega

theorem sameWidth_some (t u : Ty) : sameWidth (some t) (some u) = (t.width == u.width) := rfl

/-- VCVT holds its target type, rounding and half in a second syllable (R219). -/
theorem decodeV_vcvt (hw : w < 2 ^ 32) (hx : x < 2 ^ 32) (hop : fOp w = 0x1F) (h : decodeV [w, x] = .ok i) :
    i.wf = true ∧ encode i = [w, x] := by
  simp only [decodeV, List.getD_cons_zero, List.getD_cons_succ, hop, decodeVcvt, need_eq_ok, needSome_eq_ok, shapeV_eq_ok,
    RmSel.ofCode_eq, Bool.and_eq_true, beq_iff_eq] at h
  obtain ⟨hb, ⟨hz, hwidth⟩, rm, hrm, ⟨hd, ha, -⟩, t, ht, -, dt, hdt, hne, hi⟩ := h
  cases hi
  rw [Ty.ofCode_eq.mpr ht, hdt, sameWidth_some] at hwidth
  refine ⟨Bool.and_eq_true_iff.mpr ⟨hne, hwidth⟩, congrArg₂ (fun w x => [w, x])
    (eV_of_fields hw hop (val_vReg hd) (val_vReg (ha trivial)) hb.symm ht) ?_⟩
  dsimp only
  rw [← hrm, ← Ty.ofCode_eq.mp hdt, code_ovOf, boolNat_bitOf]
  simp only [fieldOf, Nat.reducePow] at *
  omega

/-- VTOPK holds k and its order in a second syllable (R224). -/
theorem decodeV_vtopk (hw : w < 2 ^ 32) (hx : x < 2 ^ 32) (hop : fOp w = 0x2D) (h : decodeV [w, x] = .ok i) :
    i.wf = true ∧ encode i = [w, x] := by
  simp only [decodeV, List.getD_cons_zero, List.getD_cons_succ, hop, need_eq_ok, shapeV_eq_ok, Bool.and_eq_true, beq_iff_eq,
    decide_eq_true_eq] at h
  obtain ⟨hb, ⟨⟨hz, hk1, -⟩, hlanes⟩, heven, ⟨hd, ha, -⟩, t, ht, -, hi⟩ := h
  cases hi
  rw [tyAll_of ht, decide_eq_true_eq] at hlanes
  have hk : (BitVec.ofNat 8 (fieldOf x 24 8)).toNat = fieldOf x 24 8 :=
    (BitVec.toNat_ofNat ..).trans (Nat.mod_eq_of_lt (fieldOf_lt x 24 8))
  refine ⟨?_, congrArg₂ (fun w x => [w, x]) (eV_of_fields hw hop (val_vReg hd) (val_vReg (ha trivial)) hb.symm ht) ?_⟩
  · show ((vReg (fD w)).val % 2 == 0 && decide (1 ≤ (BitVec.ofNat 8 (fieldOf x 24 8)).toNat) &&
      decide ((BitVec.ofNat 8 (fieldOf x 24 8)).toNat ≤ t.lanes)) = true
    rw [hk, val_vReg hd, heven, decide_eq_true hk1, decide_eq_true hlanes]
    rfl
  · rw [hk, boolNat_bitOf]
    simp only [fieldOf, Nat.reducePow] at *
    omega

/-- VHACC holds its table in a second syllable (R225). -/
theorem decodeV_vhacc (hw : w < 2 ^ 32) (hx : x < 2 ^ 32) (hop : fOp w = 0x2E) (h : decodeV [w, x] = .ok i) :
    i.wf = true ∧ encode i = [w, x] := by
  simp only [decodeV, List.getD_cons_zero, List.getD_cons_succ, hop, need_eq_ok, needSome_eq_ok, shapeV_eq_ok, HaccOp.ofCode_eq,
    Bool.and_eq_true, beq_iff_eq, decide_eq_true_eq] at h
  obtain ⟨hd0, ⟨hz, hlgn⟩, o, ho, hcnt, ⟨-, ha, -⟩, t, ht, hty, hi⟩ := h
  cases hi
  have hl : (Fin.ofNat 16 (fieldOf x 21 4)).val = fieldOf x 21 4 := Nat.mod_eq_of_lt (fieldOf_lt x 21 4)
  refine ⟨?_, congrArg₂ (fun w x => [w, x]) (eV_of_fields hw hop hd0.symm (val_vReg (ha trivial)) (code_vSrc_fB w) ht) ?_⟩
  · have ht0 : (fT w == 0) = (t == .f32) := by
      rw [ht]
      cases t <;> rfl
    rw [ht0] at hcnt
    show ((t == .f32 || t == .i32) && decide (4 ≤ (Fin.ofNat 16 (fieldOf x 21 4)).val) && !(o == .cnt && t == .f32)) = true
    rw [hl, hty, hcnt, decide_eq_true hlgn]
    rfl
  · dsimp only
    rw [hl, val_sReg_field, boolNat_bitOf, ← ho]
    simp only [fieldOf, Nat.reducePow] at *
    omega

end

end Sys2Proof
end

section
/-! PROOFS. VNEST's eight syllables, and the words of the V0 and V1 slots (R155, R229). -/

namespace Sys2Proof

/-! ### VNEST (R229) -/

theorem code_ne_dm {b : Buf} : (b != .dm) = decide (b.code < 3) := by cases b <;> rfl

theorem toNat_ofNat_field (w lo n : Nat) : (BitVec.ofNat n (fieldOf w lo n)).toNat = fieldOf w lo n :=
  (BitVec.toNat_ofNat ..).trans (Nat.mod_eq_of_lt (fieldOf_lt w lo n))

theorem ofNat_field {w lo n : Nat} {v : BitVec n} (h : fieldOf w lo n = v.toNat) : BitVec.ofNat n (fieldOf w lo n) = v := by
  rw [h, BitVec.ofNat_toNat, BitVec.setWidth_eq]

theorem decodeV_vnest {y0 y1 y2 y3 y4 y5 y6 y7 : Nat} {i : Instr} (hw : ∀ y ∈ [y0, y1, y2, y3, y4, y5, y6, y7], y < 2 ^ 32)
    (hop : fOp y0 = 0x2F) (h : decodeV [y0, y1, y2, y3, y4, y5, y6, y7] = .ok i) :
    i.wf = true ∧ encode i = [y0, y1, y2, y3, y4, y5, y6, y7] := by
  simp only [decodeV, List.getD_cons_zero, hop, decodeVnest, List.getD_cons_succ, need_eq_ok, needSome_eq_ok, NestOp.ofCode_eq,
    Ty.ofCode_eq, Bool.and_eq_true, beq_iff_eq, decide_eq_true_eq] at h
  obtain ⟨fop, hfop, t, ht, ⟨⟨hd, hwb⟩, hD, hA, hB⟩, h1, h2, h3, h4, hsteps, hi⟩ := h
  cases hi
  simp only [List.forall_mem_cons] at hw
  obtain ⟨hw0, hw1, hw2, hw3, hw4, hw5, hw6, hw7, -⟩ := hw
  refine ⟨?_, ?_⟩
  · show ((bufOf _ != .wb) && (bufOf _ != .dm) && (bufOf _ != .dm) && (bufOf _ != .dm) && decide (_ ≤ 65536)) = true
    simp only [code_ne_dm, code_bufOf, Bool.and_eq_true, decide_eq_true_eq]
    refine ⟨⟨⟨⟨hwb, ?_⟩, ?_⟩, ?_⟩, hsteps⟩ <;> omega
  · show encodeNest _ = _
    simp only [encodeNest, nestLevel, toNat_ofNat_field, List.cons.injEq, and_true, code_bufOf]
    refine ⟨eV_of_fields hw0 hop hd.symm hfop.symm ?_ ht, ?_⟩
    · simp only [fB, fieldOf, Nat.reducePow] at *
      omega
    · clear hsteps hwb hD hA hB ht hfop hd hop
      refine ⟨?_, ?_, ?_, ?_, ?_, ?_, ?_⟩ <;> simp only [fieldOf, Nat.reducePow] at * <;> omega

theorem encodeNest_lt (x : NestArgs) : ∀ w ∈ encodeNest x, w < 2 ^ 32 := by
  have h0 := x.bufA.code_lt
  have h1 := x.bufB.code_lt
  have h2 := x.bufD.code_lt
  simp only [encodeNest, List.forall_mem_cons]
  refine ⟨eV_lt (by decide) (by decide) x.fop.code_lt (by omega), ?_, ?_, ?_, ?_, ?_, ?_, ?_, fun _ h => absurd h List.not_mem_nil⟩ <;>
    omega

theorem nestLevel_of {x sd sa sb : Nat} {l : NestLevel} (hx : x = l.x.toNat) (hd : sd = l.sd.toNat) (ha : sa = l.sa.toNat)
    (hb : sb = l.sb.toNat) : nestLevel x sd sa sb = l := by
  subst hx hd ha hb
  simp only [nestLevel, BitVec.ofNat_toNat, BitVec.setWidth_eq]

section
variable (x : NestArgs)

/-- The first syllable of a VNEST holds the buffers in VB. -/
theorem fieldOf_nestWord : let w := (encodeNest x).getD 0 0
    fD w = 0 ∧ fA w = x.fop.code ∧ fT w = x.t.code ∧ fP w = x.p ∧ fieldOf w 7 2 = x.bufA.code ∧ fieldOf w 9 2 = x.bufB.code ∧
      fieldOf w 11 2 = x.bufD.code := by
  have hA := x.bufA.code_lt
  have hB := x.bufB.code_lt
  have hD := x.bufD.code_lt
  have hf := x.fop.code_lt
  have ht := x.t.code_lt
  refine ⟨fD_eV (by decide) hf (by omega), fA_eV hf (by omega), fT_eV, fP_eV, ?_, ?_, ?_⟩ <;>
    simp only [encodeNest, List.getD_cons_zero, fieldOf, eV, Nat.reducePow] <;> omega

theorem nestBases : BitVec.ofNat 13 (fieldOf ((encodeNest x).getD 2 0) 19 13) = x.baseD ∧
    BitVec.ofNat 13 (fieldOf ((encodeNest x).getD 1 0) 19 13) = x.baseA ∧
    BitVec.ofNat 13 (fieldOf ((encodeNest x).getD 1 0) 6 13) = x.baseB := by
  refine ⟨ofNat_field ?_, ofNat_field ?_, ofNat_field ?_⟩ <;>
    simp only [encodeNest, List.getD_cons_zero, List.getD_cons_succ, fieldOf, Nat.reducePow] <;> omega

theorem nestZeros : fieldOf ((encodeNest x).getD 1 0) 0 6 = 0 ∧ fieldOf ((encodeNest x).getD 2 0) 0 1 = 0 ∧
    fieldOf ((encodeNest x).getD 3 0) 0 2 = 0 ∧ fieldOf ((encodeNest x).getD 4 0) 0 6 = 0 := by
  refine ⟨?_, ?_, ?_, ?_⟩ <;>
    simp only [encodeNest, List.getD_cons_zero, List.getD_cons_succ, fieldOf, Nat.reducePow] <;> omega

theorem nestLevels : let y (i : Nat) : Nat := (encodeNest x).getD i 0
    nestLevel (fieldOf (y 2) 9 10) (fieldOf (y 4) 6 8) (fieldOf (y 2) 1 8) (fieldOf (y 4) 14 8) = x.l0 ∧
    nestLevel (fieldOf (y 3) 22 10) (fieldOf (y 5) 8 8) (fieldOf (y 5) 24 8) (fieldOf (y 5) 16 8) = x.l1 ∧
    nestLevel (fieldOf (y 3) 12 10) (fieldOf (y 6) 8 8) (fieldOf (y 6) 24 8) (fieldOf (y 6) 16 8) = x.l2 ∧
    nestLevel (fieldOf (y 3) 2 10) (fieldOf (y 7) 8 8) (fieldOf (y 7) 24 8) (fieldOf (y 7) 16 8) = x.l3 ∧
    nestLevel (fieldOf (y 4) 22 10) (fieldOf (y 7) 0 8) (fieldOf (y 5) 0 8) (fieldOf (y 6) 0 8) = x.l4 := by
  refine ⟨nestLevel_of ?_ ?_ ?_ ?_, nestLevel_of ?_ ?_ ?_ ?_, nestLevel_of ?_ ?_ ?_ ?_, nestLevel_of ?_ ?_ ?_ ?_,
    nestLevel_of ?_ ?_ ?_ ?_⟩ <;>
    simp only [encodeNest, List.getD_cons_zero, List.getD_cons_succ, fieldOf, Nat.reducePow] <;> omega

end

theorem decodeVnest_encodeNest {x : NestArgs} (hwf : (Instr.vnest x).wf = true) : decodeVnest (encodeNest x) = .ok (.vnest x) := by
  obtain ⟨hbufs, hsteps⟩ := Bool.and_eq_true_iff.mp (show ((x.bufD != .wb && x.bufD != .dm && x.bufA != .dm && x.bufB != .dm) &&
    decide (x.steps ≤ 65536)) = true from hwf)
  simp only [code_ne_dm, Bool.and_eq_true, decide_eq_true_eq] at hbufs
  obtain ⟨⟨⟨hwb, hD3⟩, hA3⟩, hB3⟩ := hbufs
  obtain ⟨hd, hf, ht, hp, hA, hB, hD⟩ := fieldOf_nestWord x
  obtain ⟨hbD, hbA, hbB⟩ := nestBases x
  obtain ⟨hz1, hz2, hz3, hz4⟩ := nestZeros x
  obtain ⟨h0, h1, h2, h3, h4⟩ := nestLevels x
  simp only [decodeVnest, hd, hf, ht, hp, hA, hB, hD, hbD, hbA, hbB, hz1, hz2, hz3, hz4, h0, h1, h2, h3, h4, bufOf_code,
    NestOp.ofCode_code, Ty.ofCode_code, needSome_some, hwb, hD3, hA3, hB3, and_self]
  exact (need_of hsteps : need _ 2 5 (.ok (.vnest x)) = _)

end Sys2Proof
end

section
/-! PROOFS. The words of the operations of V0 and V1 (R155, R215–R229). -/

namespace Sys2Proof

theorem tyAll_eV {op d a b : Nat} {p : PReg} {t : Ty} (f : Ty → Bool) : tyAll (eV op d a b p t) f = f t := tyAll_of fT_eV f

theorem reads_v0 {i : Instr} {w : Nat} {r : List Nat} (hs : slotOf i = some .v0) (hwf : i.wf = true) (he : encode i = w :: r) :
    Reads .v0 w r i := by
  cases i with
  | vadd d a b p t | vsub d a b p t | vmul d a b p t | vfma d a b p t | vfms d a b p t | vfnma d a b p t | vmin d a b p t
  | vmax d a b p t | vand d a b p t | vor d a b p t | vxor d a b p t | vsel d a b p t =>
    cases he
    have ha := a.code_lt
    have hb := b.code_lt
    refine .one (eV_lt (by decide) (by omega) ha hb) ?_
    simp (disch := omega) only [fOp_eV, decodeOp, List.getD_cons_zero, decodeV, opLength]
    exact ⟨rfl, shapeV2_eV d a b (anyTy_eq t)⟩
  | vshl d a b p t | vshr d a b p t | vsar d a b p t | vmulh d a b p t | vscale d a b p t =>
    cases he
    have ha := a.code_lt
    have hb := b.code_lt
    refine .one (eV_lt (by decide) (by omega) ha hb) ?_
    simp (disch := omega) only [fOp_eV, decodeOp, List.getD_cons_zero, decodeV, opLength]
    exact ⟨rfl, shapeV2_eV d a b hwf⟩
  | vnot d a p t | vmov d a p t =>
    cases he
    have ha := a.code_lt
    refine .one (eV_lt (by decide) (by omega) ha (by decide)) ?_
    simp (disch := omega) only [fOp_eV, decodeOp, List.getD_cons_zero, decodeV, opLength]
    exact ⟨rfl, shapeV1_eV d a (anyTy_eq t)⟩
  | vabs d a p t | vneg d a p t | vrcp d a p t | vrsq d a p t | vsqrt d a p t | vexp2 d a p t | vlog2 d a p t | vtanh d a p t
  | vsin d a p t =>
    cases he
    have ha := a.code_lt
    refine .one (eV_lt (by decide) (by omega) ha (by decide)) ?_
    simp (disch := omega) only [fOp_eV, decodeOp, List.getD_cons_zero, decodeV, opLength]
    exact ⟨rfl, shapeV1_eV d a hwf⟩
  | vcmpeq d a b p t | vcmpne d a b p t | vcmplt d a b p t | vcmple d a b p t =>
    cases he
    have ha := a.code_lt
    have hb := b.code_lt
    refine .one (eV_lt (by decide) (by omega) ha hb) ?_
    simp (disch := omega) only [fOp_eV, decodeOp, List.getD_cons_zero, decodeV, opLength, shapeVc_eV]
    exact ⟨rfl, trivial⟩
  | vclass d a m p t =>
    cases he
    have ha := a.code_lt
    have hm : m.toNat < 64 := m.isLt
    refine .one (eV_lt (by decide) (by omega) ha hm) ?_
    simp (disch := omega) only [fOp_eV, fD_eV, fB_eV, decodeOp, List.getD_cons_zero, decodeV, opLength, shapeV_any, d.isLt,
      vSrc_code, pReg_val, BitVec.ofNat_toNat, BitVec.setWidth_eq]
    exact ⟨rfl, (need_of hwf : need (floatTy t) 0 6 _ = _)⟩
  | vclamp d a b c p t =>
    cases he
    have ha := a.code_lt
    have hb := b.code_lt
    have hc := c.code_lt
    have hz : fieldOf (c.code * 0x400_0000) 0 26 = 0 := by simp only [fieldOf, Nat.reducePow]; omega
    have hx : fieldOf (c.code * 0x400_0000) 26 6 = c.code := by simp only [fieldOf, Nat.reducePow]; omega
    refine .two (eV_lt (by decide) (by omega) ha hb) (by omega) ?_
    simp (disch := omega) only [fOp_eV, decodeOp, List.getD_cons_zero, List.getD_cons_succ, decodeV, opLength, shapeV_any, hz, hx,
      vSrc_code, vReg_val, anyTy_eq]
    exact ⟨rfl, rfl⟩
  | vbcast d a b p t | vext d a b p t | vrot d a b p t =>
    cases he
    refine .one (eV_lt (by decide) (by omega) (by omega) (by omega)) ?_
    simp (disch := omega) only [fOp_eV, decodeOp, List.getD_cons_zero, decodeV, opLength, shapeVs_eV]
    exact ⟨rfl, trivial⟩
  | vins d a b p t =>
    cases he
    refine .one (eV_lt (by decide) (by omega) (by omega) (by omega)) ?_
    simp (disch := omega) only [fOp_eV, decodeOp, List.getD_cons_zero, decodeV, opLength]
    exact ⟨rfl, shapeVss_eV d a b (anyTy_eq t)⟩
  | viota d a b p t =>
    cases he
    refine .one (eV_lt (by decide) (by omega) (by omega) (by omega)) ?_
    simp (disch := omega) only [fOp_eV, decodeOp, List.getD_cons_zero, decodeV, opLength]
    exact ⟨rfl, shapeVss_eV d a b hwf⟩
  | vcvt d a p t x =>
    cases he
    have hdt := x.dt.code_lt
    have hrm := x.rm.code_lt
    have hov := x.ov.code_lt
    have hhi := boolNat_lt x.hi
    obtain ⟨hne, hwidth⟩ := Bool.and_eq_true_iff.mp hwf
    refine .two (eV_lt (by decide) (by omega) (by omega) (by decide)) (by omega) ?_
    generalize hy : x.dt.code * 0x2000_0000 + x.rm.code * 0x400_0000 + x.ov.code * 0x200_0000 + boolNat x.hi * 0x100_0000 = y
    have hz : fieldOf y 0 24 = 0 := by simp only [fieldOf, Nat.reducePow]; omega
    have hD : fieldOf y 29 3 = x.dt.code := by simp only [fieldOf, Nat.reducePow]; omega
    have hR : fieldOf y 26 3 = x.rm.code := by simp only [fieldOf, Nat.reducePow]; omega
    have hO : ovOf (y / 2 ^ 25) = x.ov := by rw [ovOf_eq]; omega
    have hH : bitOf y 24 = x.hi := by rw [bitOf_eq]; omega
    simp (disch := omega) only [fOp_eV, fB_eV, fA_eV, fT_eV, decodeOp, List.getD_cons_zero, List.getD_cons_succ, decodeV, opLength,
      decodeVcvt, hz, hD, hR, hO, hH, Ty.ofCode_code, RmSel.ofCode_code, needSome_some, sameWidth_some, shapeV_vec, need_of hne,
      vReg_val, anyTy_eq, beq_self_eq_true, Bool.true_and, need_true, need_of hwidth]
    exact ⟨rfl, trivial⟩
  | vred d a o p t =>
    cases he
    have ho := o.code_lt
    refine .one (eV_lt (by decide) (by omega) (by omega) (by omega)) ?_
    simp (disch := omega) only [fOp_eV, decodeOp, List.getD_cons_zero, decodeV, opLength]
    refine ⟨rfl, shapeRed_eV d a o (by omega) ?_ (by omega) hwf⟩
    have := t.code_lt
    simp only [fieldOf, eV, Nat.reducePow]
    omega
  | vscan d a o e p t =>
    cases he
    have ho := o.code_lt
    have hb := boolNat_lt e
    have ht := t.code_lt
    have hexc : bitOf (eV 0x28 d a (o.code + 8 * boolNat e) p t) 10 = e := by
      rw [bitOf_eq]; simp only [eV, Nat.reducePow]; omega
    refine .one (eV_lt (by decide) (by omega) (by omega) (by omega)) ?_
    simp (disch := omega) only [fOp_eV, decodeOp, List.getD_cons_zero, decodeV, opLength, hexc]
    refine ⟨rfl, shapeRed_eV d a o (by omega) ?_ (by omega) hwf⟩
    simp only [fieldOf, eV, Nat.reducePow]
    omega
  | vperm d a b p t =>
    cases he
    refine .one (eV_lt (by decide) (by omega) (by omega) (by omega)) ?_
    simp (disch := omega) only [fOp_eV, decodeOp, List.getD_cons_zero, decodeV, opLength]
    exact ⟨rfl, shapeVv_eV d a b (Bool.false_and _)⟩
  | vzip d a b p t | vunzip d a b p t =>
    cases he
    have heven : (true && d.val % 2 == 1) = false := by
      have : d.val % 2 = 0 := beq_iff_eq.mp hwf
      rw [this]
      rfl
    refine .one (eV_lt (by decide) (by omega) (by omega) (by omega)) ?_
    simp (disch := omega) only [fOp_eV, decodeOp, List.getD_cons_zero, decodeV, opLength]
    exact ⟨rfl, shapeVv_eV d a b heven⟩
  | vtopk d a k m p t =>
    cases he
    have hm := boolNat_lt m
    obtain ⟨heven, hk1, hlanes⟩ : d.val % 2 = 0 ∧ 1 ≤ k.toNat ∧ k.toNat ≤ t.lanes := by
      simpa only [Instr.wf, Bool.and_eq_true, beq_iff_eq, decide_eq_true_eq, and_assoc] using hwf
    have h128 : t.lanes ≤ 128 := by cases t <;> decide
    generalize hy : k.toNat * 0x100_0000 + boolNat m * 0x80_0000 = y
    have hz : fieldOf y 0 23 = 0 := by simp only [fieldOf, Nat.reducePow]; omega
    have hK : fieldOf y 24 8 = k.toNat := by simp only [fieldOf, Nat.reducePow]; omega
    have hM : bitOf y 23 = m := by rw [bitOf_eq]; omega
    have hrange : 1 ≤ k.toNat ∧ k.toNat ≤ 128 := ⟨hk1, hlanes.trans h128⟩
    refine .two (eV_lt (by decide) (by omega) (by omega) (by decide)) (by omega) ?_
    simp (disch := omega) only [fOp_eV, fB_eV, fA_eV, fD_eV, decodeOp, List.getD_cons_zero, List.getD_cons_succ, decodeV, opLength,
      hz, hK, hM, tyAll_eV, hrange, hlanes, heven, shapeV_vec, anyTy_eq, vReg_val, BitVec.ofNat_toNat, BitVec.setWidth_eq]
    exact ⟨rfl, rfl⟩
  | vhacc a b p t x =>
    cases he
    have hb := b.code_lt
    have hcb := boolNat_lt x.cb
    have ho := x.op.code_lt
    obtain ⟨⟨hty, hlgn⟩, hcnt⟩ : ((t == .f32 || t == .i32) = true ∧ 4 ≤ x.lgn.val) ∧ (!(x.op == .cnt && t == .f32)) = true := by
      simpa only [Instr.wf, Bool.and_eq_true, decide_eq_true_eq] using hwf
    have ht0 : (t.code == 0) = (t == .f32) := by cases t <;> rfl
    generalize hy : x.sb * 0x400_0000 + boolNat x.cb * 0x200_0000 + x.lgn * 0x20_0000 + x.op.code * 0x8_0000 = y
    have hz : fieldOf y 0 19 = 0 := by simp only [fieldOf, Nat.reducePow]; omega
    have hL : fieldOf y 21 4 = x.lgn := by simp only [fieldOf, Nat.reducePow]; omega
    have hO : fieldOf y 19 2 = x.op.code := by simp only [fieldOf, Nat.reducePow]; omega
    have hS : fieldOf y 26 6 = x.sb := by simp only [fieldOf, Nat.reducePow]; omega
    have hC : bitOf y 25 = x.cb := by rw [bitOf_eq]; omega
    refine .two (eV_lt (by decide) (by decide) (by omega) hb) (by omega) ?_
    simp (disch := omega) only [fOp_eV, fA_eV, fD_eV, fT_eV, decodeOp, List.getD_cons_zero, List.getD_cons_succ, decodeV, opLength,
      hz, hL, hO, hS, hC, hlgn, HaccOp.ofCode_code, needSome_some, ht0, shapeV_vec, need_of hty, need_of hcnt, vReg_val, vSrc_code,
      sReg_val, Fin.ofNat_val_eq_self]
    exact ⟨rfl, rfl⟩
  | vnest x =>
    have hlt := encodeNest_lt x
    have hop : fOp ((encodeNest x).getD 0 0) = 0x2F := by
      have hf := x.fop.code_lt
      have hA := x.bufA.code_lt
      have hB := x.bufB.code_lt
      have hD := x.bufD.code_lt
      exact fOp_eV (by decide) (by decide) hf (by omega)
    have hdec := decodeVnest_encodeNest hwf
    have hlen : (encodeNest x).length = 8 := rfl
    change encodeNest x = w :: r at he
    rw [he] at hlt hop hdec hlen
    rw [List.getD_cons_zero] at hop
    refine ⟨hlt w List.mem_cons_self, fun y hy => hlt y (List.mem_cons_of_mem w hy), ?_, ?_⟩
    · rw [hop, ← List.length_cons, hlen]
      rfl
    · simp only [decodeOp, decodeV, List.getD_cons_zero, hop]
      exact hdec
  | _ => cases hs

end Sys2Proof
end

section
/-! PROOFS. The VX, VP and VM slots (R156, R231–R241). -/

namespace Sys2Proof

/-! ### The extension syllable of an unpack or pack (R233) -/

section
variable {x : Nat} {i : Instr} {k : PackArgs → Decoded}

theorem PackArgs.word_lt (a : PackArgs) : a.word < 2 ^ 32 := by
  have hf := a.fmt.code_lt
  have hr := a.rm.code_lt
  have ho := a.ov.code_lt
  unfold word
  omega

theorem packExt_ok (hx : x < 2 ^ 32) (h : packExt x k = .ok i) : ∃ a, a.word = x ∧ a.fmt.packAny = true ∧ k a = .ok i := by
  simp only [packExt, need_eq_ok, needSome_eq_ok, RmSel.ofCode_eq, Fmt.ofCode_eq, Bool.and_eq_true, beq_iff_eq, decide_eq_true_eq] at h
  obtain ⟨⟨hz, hg⟩, rm, hrm, f, hf, hany, hi⟩ := h
  refine ⟨_, ?_, hany, hi⟩
  simp only [PackArgs.word, ← hf, ← hrm, code_ovOf, grpOf, Fin.val_ofNat]
  simp only [fieldOf, Nat.reducePow] at *
  omega

theorem packExt_word (a : PackArgs) (hf : a.fmt.packAny = true) : packExt a.word k = k a := by
  have hfc := a.fmt.code_lt
  have hr := a.rm.code_lt
  have ho := a.ov.code_lt
  have hz : fieldOf a.word 0 17 = 0 := by simp only [PackArgs.word, fieldOf, Nat.reducePow]; omega
  have hg : fieldOf a.word 17 2 = a.grp := by simp only [PackArgs.word, fieldOf, Nat.reducePow]; omega
  have hrm : fieldOf a.word 20 3 = a.rm.code := by simp only [PackArgs.word, fieldOf, Nat.reducePow]; omega
  have hfm : fieldOf a.word 27 5 = a.fmt.code := by simp only [PackArgs.word, fieldOf, Nat.reducePow]; omega
  have hp : fieldOf a.word 23 4 = a.part := by simp only [PackArgs.word, fieldOf, Nat.reducePow]; omega
  have hov : ovOf (a.word / 2 ^ 19) = a.ov := by rw [ovOf_eq, PackArgs.word]; omega
  simp only [packExt, hz, hg, hrm, hfm, hp, hov, a.grp.isLt, RmSel.ofCode_code, Fmt.ofCode_code, needSome_some, need_of hf, grpOf,
    Fin.ofNat_val_eq_self]
  rfl

theorem partFits_of {w : Nat} {t : Ty} (h : fT w = t.code) (a : PackArgs) : partFits w a = partOk a.fmt a.part t := tyAll_of h _

theorem partFits_eV {op d a b : Nat} {p : PReg} {t : Ty} (e : PackArgs) : partFits (eV op d a b p t) e = partOk e.fmt e.part t :=
  partFits_of fT_eV e

end

/-! ### VX (R156, R233) -/

theorem decodeVx_ok {w x : Nat} {i : Instr} (hw : w < 2 ^ 32) (hx : x < 2 ^ 32) (h : decodeVx w x = .ok i) :
    i.wf = true ∧ encode i = [w, x] := by
  unfold decodeVx at h
  split at h
  case h_1 hop =>
    obtain ⟨hb, h⟩ := need_eq_ok.mp h
    obtain ⟨e, rfl, hany, h⟩ := packExt_ok hx h
    obtain ⟨hext, h⟩ := need_eq_ok.mp h
    obtain ⟨⟨hd, ha, -⟩, t, ht, hty, hi⟩ := shapeV_eq_ok.mp h
    cases hi
    rw [partFits_of ht] at hext
    simp only [Bool.and_eq_true] at hext
    obtain ⟨⟨⟨hrm, hov⟩, hgrp⟩, hpart⟩ := hext
    refine ⟨?_, congrArg (fun w => [w, e.word]) (eV_of_fields hw hop (val_vReg hd) (val_vReg (ha rfl)) (beq_iff_eq.mp hb).symm ht)⟩
    simp only [Instr.wf, hany, hpart, hrm, hov, hgrp, hty, Bool.and_self]
  case h_2 hop =>
    obtain ⟨e, rfl, hany, h⟩ := packExt_ok hx h
    obtain ⟨hext, h⟩ := need_eq_ok.mp h
    obtain ⟨⟨hd, ha, -⟩, t, ht, hty, hi⟩ := shapeV_eq_ok.mp h
    cases hi
    rw [partFits_of ht] at hext
    obtain ⟨hgrp, hpart⟩ := Bool.and_eq_true_iff.mp hext
    refine ⟨?_, congrArg (fun w => [w, e.word]) (eV_of_fields hw hop (val_vReg hd) (val_vReg (ha rfl)) (code_vSrc_fB w) ht)⟩
    rw [floatTy] at hty
    simp only [Instr.wf, hany, hpart, hgrp, hty, Bool.and_self]
  case h_3 hop =>
    obtain ⟨e, rfl, -, h⟩ := packExt_ok hx h
    obtain ⟨hext, h⟩ := need_eq_ok.mp h
    obtain ⟨hfmt, h⟩ := need_eq_ok.mp h
    obtain ⟨⟨hd, ha, -⟩, t, ht, hty, hi⟩ := shapeV_eq_ok.mp h
    cases hi
    rw [partFits_of ht] at hext
    obtain ⟨-, hpart⟩ := Bool.and_eq_true_iff.mp hext
    refine ⟨?_, congrArg (fun w => [w, e.word]) (eV_of_fields hw hop (val_vReg hd) (val_vReg (ha rfl)) (code_vSrc_fB w) ht)⟩
    rw [floatTy] at hty
    simp only [Instr.wf, hpart, hfmt, hty, Bool.and_self]
  case h_4 => cases h

/-- N8 and N4 are unsigned formats, which the unpacks and packs know. -/
theorem Fmt.packAny_of_unsigned {f : Fmt} (h : (f == .n8 || f == .n4) = true) : f.packAny = true ∧ f.packFloat = false := by
  simp only [Bool.or_eq_true, beq_iff_eq] at h
  obtain rfl | rfl := h
  · exact ⟨rfl, rfl⟩
  · exact ⟨rfl, rfl⟩

theorem reads_vx {i : Instr} {w : Nat} {r : List Nat} (hs : slotOf i = some .vx) (hwf : i.wf = true) (he : encode i = w :: r) :
    Reads .vx w r i := by
  cases i with
  | vunpk d a p t e =>
    cases he
    simp only [Instr.wf, Bool.and_eq_true] at hwf
    obtain ⟨⟨⟨⟨⟨hany, hpart⟩, hrm⟩, hov⟩, hgrp⟩, hty⟩ := hwf
    refine .two (eV_lt (by decide) (by omega) (by omega) (by decide)) e.word_lt ?_
    simp (disch := omega) only [fOp_eV, fA_eV, fB_eV, decodeOp, List.getD_cons_zero, List.getD_cons_succ, decodeVx, opLength,
      packExt_word e hany, partFits_eV, hpart, hrm, hov, hgrp, shapeV_vec, vReg_val, need_of hty]
    exact ⟨rfl, rfl⟩
  | vunpks d a b p t e =>
    cases he
    have hb := b.code_lt
    simp only [Instr.wf, Bool.and_eq_true] at hwf
    obtain ⟨⟨⟨hany, hpart⟩, hgrp⟩, hty⟩ := hwf
    refine .two (eV_lt (by decide) (by omega) (by omega) hb) e.word_lt ?_
    simp (disch := omega) only [fOp_eV, fA_eV, decodeOp, List.getD_cons_zero, List.getD_cons_succ, decodeVx, opLength,
      packExt_word e hany, partFits_eV, hpart, hgrp, shapeV_vec, vReg_val, vSrc_code, floatTy, need_of hty]
    exact ⟨rfl, rfl⟩
  | vunpkz d a b p t e =>
    cases he
    have hb := b.code_lt
    simp only [Instr.wf, Bool.and_eq_true] at hwf
    obtain ⟨⟨hpart, hfmt⟩, hty⟩ := hwf
    obtain ⟨hany, hfloat⟩ := Fmt.packAny_of_unsigned hfmt
    refine .two (eV_lt (by decide) (by omega) (by omega) hb) e.word_lt ?_
    simp (disch := omega) only [fOp_eV, fA_eV, decodeOp, List.getD_cons_zero, List.getD_cons_succ, decodeVx, opLength,
      packExt_word e hany, partFits_eV, hpart, hfloat, need_of hfmt, shapeV_vec, vReg_val, vSrc_code, floatTy, need_of hty]
    exact ⟨rfl, rfl⟩
  | _ => cases hs

/-! ### VP (R156, R235, R239, R240) -/

section
variable {op w x : Nat} {i : Instr}

theorem shapeP3_ok {mk : PReg → PReg → PReg → Instr} (hw : w < 2 ^ 32) (hop : fOp w = op) (h : shapeP3 w mk = .ok i) :
    ∃ d a b : PReg, eA op d a b 0 = w ∧ mk d a b = i := by
  simp only [shapeP3, need_eq_ok, beq_iff_eq, decide_eq_true_eq] at h
  obtain ⟨hf, ⟨hd, ha, hb⟩, hi⟩ := h
  exact ⟨_, _, _, eA_of_fields hw hop (val_pReg hd) (val_pReg ha) (val_pReg hb) hf.symm, Except.ok.inj hi⟩

theorem shapeP3_eA {mk : PReg → PReg → PReg → Instr} (d a b : PReg) : shapeP3 (eA op d a b 0) mk = .ok (mk d a b) := by
  simp (disch := omega) only [shapeP3, fFn_eA, fD_eA, fA_eA, fB_eA, d.isLt, a.isLt, b.isLt, pReg_val]
  rfl

theorem decodePset_ok (hw : w < 2 ^ 32) (hop : fOp w = 0x07) (h : decodePset w = .ok i) : i.wf = true ∧ encode i = [w] := by
  simp only [decodePset, need_eq_ok, Bool.and_eq_true, Bool.or_eq_true, beq_iff_eq, decide_eq_true_eq] at h
  obtain ⟨⟨hb, hf⟩, hd, hi⟩ := h
  have hword {fn : Nat} (hfn : fFn w = fn) : eA 0x07 (pReg (fD w)) (sReg (fA w)) 0 fn = w :=
    eA_of_fields hw hop (val_pReg hd) (val_sReg_fA w) hb.symm hfn.symm
  obtain ((hf | hf) | hf) | hf := hf <;> rw [hf] at hi <;> cases hi <;> exact ⟨rfl, congrArg (fun w => [w]) (hword hf)⟩

/-- PGET and PCNT name a half or a width in one bit of FN. -/
theorem bitOf_fFn (h : fFn w < 2) : boolNat (bitOf w 0) = fFn w := by
  rw [boolNat_bitOf]
  simp only [fFn, fieldOf, Nat.reducePow] at *
  omega

theorem code_half (b : Bool) : (if b = true then Half.hi else Half.lo).code = boolNat b := by cases b <;> rfl

/-- The operations of one syllable in VP: on predicates. -/
theorem decodeVp_pred (hw : w < 2 ^ 32) (hlen : opLength .vp (fOp w) = some 1) (h : decodeVp w x = .ok i) :
    i.wf = true ∧ encode i = [w] := by
  unfold decodeVp at h
  split at h
  case h_1 hop | h_2 hop | h_3 hop =>
    rw [hop] at hlen
    cases hlen
  case h_4 hop | h_5 hop | h_6 hop =>
    obtain ⟨d, a, b, rfl, rfl⟩ := shapeP3_ok hw hop h
    exact ⟨rfl, rfl⟩
  case h_7 hop =>
    simp only [need_eq_ok, Bool.and_eq_true, beq_iff_eq, decide_eq_true_eq] at h
    obtain ⟨⟨hb, hf⟩, ⟨hd, ha⟩, hi⟩ := h
    cases hi
    exact ⟨rfl, congrArg (fun w => [w]) (eA_of_fields hw hop (val_pReg hd) (val_pReg ha) hb.symm hf.symm)⟩
  case h_8 hop => exact decodePset_ok hw hop h
  case h_9 hop =>
    simp only [need_eq_ok, Bool.and_eq_true, beq_iff_eq, decide_eq_true_eq] at h
    obtain ⟨⟨hb, hf⟩, ha, hi⟩ := h
    cases hi
    exact ⟨rfl, congrArg (fun w => [w]) (eA_of_fields hw hop (val_sReg_fD w) (val_pReg ha) hb.symm ((code_half _).trans (bitOf_fFn hf)))⟩
  case h_10 hop =>
    simp only [need_eq_ok, Bool.and_eq_true, beq_iff_eq, decide_eq_true_eq] at h
    obtain ⟨⟨hb, hf⟩, ha, hi⟩ := h
    cases hi
    exact ⟨rfl, congrArg (fun w => [w]) (eA_of_fields hw hop (val_sReg_fD w) (val_pReg ha) hb.symm (bitOf_fFn hf))⟩
  case h_11 => cases h

/-- The operations of two syllables in VP: the packs. -/
theorem decodeVp_pack (hw : w < 2 ^ 32) (hx : x < 2 ^ 32) (hlen : opLength .vp (fOp w) = some 2) (h : decodeVp w x = .ok i) :
    i.wf = true ∧ encode i = [w, x] := by
  unfold decodeVp at h
  split at h
  case h_1 hop =>
    obtain ⟨hb, h⟩ := need_eq_ok.mp h
    obtain ⟨e, rfl, hany, h⟩ := packExt_ok hx h
    obtain ⟨hext, h⟩ := need_eq_ok.mp h
    obtain ⟨⟨hd, ha, -⟩, t, ht, hty, hi⟩ := shapeV_eq_ok.mp h
    cases hi
    rw [partFits_of ht] at hext
    obtain ⟨hgrp, hpart⟩ := Bool.and_eq_true_iff.mp hext
    refine ⟨?_, congrArg (fun w => [w, e.word]) (eV_of_fields hw hop (val_vReg hd) (val_vReg (ha rfl)) (beq_iff_eq.mp hb).symm ht)⟩
    simp only [Instr.wf, hany, hpart, hgrp, hty, Bool.and_self]
  case h_2 hop =>
    obtain ⟨hb, h⟩ := need_eq_ok.mp h
    obtain ⟨e, rfl, -, h⟩ := packExt_ok hx h
    obtain ⟨hext, h⟩ := need_eq_ok.mp h
    obtain ⟨heven, h⟩ := need_eq_ok.mp h
    obtain ⟨⟨hd, ha, -⟩, t, ht, hty, hi⟩ := shapeV_eq_ok.mp h
    cases hi
    rw [partFits_of ht] at hext
    simp only [Bool.and_eq_true] at hext
    obtain ⟨⟨hgrp, hfloat⟩, hpart⟩ := hext
    refine ⟨?_, congrArg (fun w => [w, e.word]) (eV_of_fields hw hop (val_vReg hd) (val_vReg (ha rfl)) (beq_iff_eq.mp hb).symm ht)⟩
    rw [floatTy] at hty
    simp only [Instr.wf, hfloat, hpart, hgrp, hty, val_vReg hd, heven, Bool.and_self]
  case h_3 hop =>
    obtain ⟨hb, h⟩ := need_eq_ok.mp h
    obtain ⟨e, rfl, -, h⟩ := packExt_ok hx h
    obtain ⟨hext, h⟩ := need_eq_ok.mp h
    obtain ⟨heven, h⟩ := need_eq_ok.mp h
    obtain ⟨⟨hd, ha, -⟩, t, ht, hty, hi⟩ := shapeV_eq_ok.mp h
    cases hi
    rw [partFits_of ht, tyAll_of ht] at hext
    simp only [Bool.and_eq_true] at hext
    obtain ⟨⟨hfmt, hpart⟩, hlanes⟩ := hext
    refine ⟨?_, congrArg (fun w => [w, e.word]) (eV_of_fields hw hop (val_vReg hd) (val_vReg (ha rfl)) (beq_iff_eq.mp hb).symm ht)⟩
    rw [floatTy] at hty
    simp only [Instr.wf, hfmt, hpart, hlanes, hty, val_vReg hd, heven, Bool.and_self]
  case h_4 hop | h_5 hop | h_6 hop | h_7 hop | h_8 hop | h_9 hop | h_10 hop =>
    rw [hop] at hlen
    cases hlen
  case h_11 => cases h

end

theorem Fmt.packAny_of_float {f : Fmt} (h : f.packFloat = true) : f.packAny = true := by simp only [packAny, h, Bool.true_or]

theorem decodePset_half (d : PReg) (a : SReg) (h : Half) : decodePset (eA 0x07 d a 0 h.code) = .ok (.psetHalf d a h) := by
  cases h <;> simp (disch := decide) only [Half.code, decodePset, fFn_eA] <;>
    simp (disch := omega) only [fD_eA, fA_eA, fB_eA, d.isLt, pReg_val, sReg_val] <;> rfl

theorem bitOf_eA_zero {op d a b fn : Nat} {c : Bool} (h : fn = boolNat c) : bitOf (eA op d a b fn) 0 = c := by
  rw [bitOf_eq, ← h]
  have := boolNat_lt c
  simp only [eA, Nat.reducePow]
  omega

theorem half_code (h : Half) : h.code = boolNat (h == .hi) := by cases h <;> rfl
theorem half_eq (h : Half) : (if (h == .hi) = true then Half.hi else Half.lo) = h := by cases h <;> rfl

theorem reads_vp {i : Instr} {w : Nat} {r : List Nat} (hs : slotOf i = some .vp) (hwf : i.wf = true) (he : encode i = w :: r) :
    Reads .vp w r i := by
  cases i with
  | vpack d a p t e =>
    cases he
    simp only [Instr.wf, Bool.and_eq_true] at hwf
    obtain ⟨⟨⟨hany, hpart⟩, hgrp⟩, hty⟩ := hwf
    refine .two (eV_lt (by decide) (by omega) (by omega) (by decide)) e.word_lt ?_
    simp (disch := omega) only [fOp_eV, fA_eV, fB_eV, decodeOp, List.getD_cons_zero, List.getD_cons_succ, decodeVp, opLength,
      packExt_word e hany, partFits_eV, hpart, hgrp, shapeV_vec, vReg_val, need_of hty]
    exact ⟨rfl, rfl⟩
  | vpacksc d a p t e =>
    cases he
    simp only [Instr.wf, Bool.and_eq_true] at hwf
    obtain ⟨⟨⟨⟨hfloat, hpart⟩, hgrp⟩, hty⟩, heven⟩ := hwf
    refine .two (eV_lt (by decide) (by omega) (by omega) (by decide)) e.word_lt ?_
    simp (disch := omega) only [fOp_eV, fA_eV, fB_eV, fD_eV, decodeOp, List.getD_cons_zero, List.getD_cons_succ, decodeVp, opLength,
      packExt_word e (Fmt.packAny_of_float hfloat), partFits_eV, hpart, hgrp, hfloat, need_of heven, shapeV_vec, vReg_val, floatTy,
      need_of hty]
    exact ⟨rfl, rfl⟩
  | vpackz d a p t e =>
    cases he
    simp only [Instr.wf, Bool.and_eq_true] at hwf
    obtain ⟨⟨⟨⟨hfmt, hpart⟩, hlanes⟩, hty⟩, heven⟩ := hwf
    refine .two (eV_lt (by decide) (by omega) (by omega) (by decide)) e.word_lt ?_
    simp (disch := omega) only [fOp_eV, fA_eV, fB_eV, fD_eV, decodeOp, List.getD_cons_zero, List.getD_cons_succ, decodeVp, opLength,
      packExt_word e (Fmt.packAny_of_unsigned hfmt).1, partFits_eV, tyAll_eV, hfmt, hpart, hlanes, need_of heven, shapeV_vec, vReg_val,
      floatTy, need_of hty]
    exact ⟨rfl, rfl⟩
  | pand d a b | por d a b | pxor d a b =>
    cases he
    refine .one (eA_lt (by decide) (by omega) (by omega) (by omega) (by decide)) ?_
    simp (disch := omega) only [fOp_eA, decodeOp, List.getD_cons_zero, decodeVp, opLength, shapeP3_eA]
    exact ⟨rfl, trivial⟩
  | pnot d a =>
    cases he
    refine .one (eA_lt (by decide) (by omega) (by omega) (by decide) (by decide)) ?_
    simp (disch := omega) only [fOp_eA, fD_eA, fA_eA, fB_eA, fFn_eA, decodeOp, List.getD_cons_zero, decodeVp, opLength, d.isLt, a.isLt,
      pReg_val]
    exact ⟨rfl, rfl⟩
  | psetHalf d a h =>
    cases he
    have hh := h.code_lt
    refine .one (eA_lt (by decide) (by omega) (by omega) (by decide) (by omega)) ?_
    simp (disch := omega) only [fOp_eA, decodeOp, List.getD_cons_zero, decodeVp, opLength]
    exact ⟨rfl, decodePset_half d a h⟩
  | psetL16 d a | psetL32 d a =>
    cases he
    refine .one (eA_lt (by decide) (by omega) (by omega) (by decide) (by decide)) ?_
    simp (disch := omega) only [fOp_eA, fFn_eA, fD_eA, fA_eA, fB_eA, decodeOp, List.getD_cons_zero, decodeVp, decodePset, opLength,
      d.isLt, pReg_val, sReg_val]
    exact ⟨rfl, rfl⟩
  | pget d a h =>
    cases he
    have hh := h.code_lt
    refine .one (eA_lt (by decide) (by omega) (by omega) (by decide) (by omega)) ?_
    simp (disch := omega) only [fOp_eA, fD_eA, fA_eA, fB_eA, fFn_eA, decodeOp, List.getD_cons_zero, decodeVp, opLength, a.isLt, hh,
      bitOf_eA_zero (half_code h), half_eq, pReg_val, sReg_val]
    exact ⟨rfl, rfl⟩
  | pcnt d a c =>
    cases he
    have hc := boolNat_lt c
    refine .one (eA_lt (by decide) (by omega) (by omega) (by decide) (by omega)) ?_
    simp (disch := omega) only [fOp_eA, fD_eA, fA_eA, fB_eA, fFn_eA, decodeOp, List.getD_cons_zero, decodeVp, opLength, a.isLt, hc,
      bitOf_eA_zero rfl, pReg_val, sReg_val]
    exact ⟨rfl, rfl⟩
  | _ => cases hs

/-! ### VM (R156, R241) -/

section
variable {op w x : Nat} {i : Instr}

theorem VmArgs.word_lt (a : VmArgs) : a.word < 2 ^ 32 := by
  have hb := a.buf.code_lt
  unfold word
  omega

theorem vmExt_ok {k : VmArgs → Decoded} (hx : x < 2 ^ 32) (h : vmExt x k = .ok i) : ∃ a, a.word = x ∧ k a = .ok i := by
  obtain ⟨hz, hi⟩ := need_eq_ok.mp h
  rw [beq_iff_eq] at hz
  refine ⟨_, ?_, hi⟩
  simp only [VmArgs.word, code_bufOf, val_sReg_field, BitVec.toNat_ofNat]
  simp only [fieldOf, Nat.reducePow] at *
  omega

theorem vmExt_word {k : VmArgs → Decoded} (a : VmArgs) : vmExt a.word k = k a := by
  have hb := a.buf.code_lt
  have hz : fieldOf a.word 0 8 = 0 := by simp only [VmArgs.word, fieldOf, Nat.reducePow]; omega
  have hs : fieldOf a.word 24 6 = a.sb := by simp only [VmArgs.word, fieldOf, Nat.reducePow]; omega
  have ho : fieldOf a.word 8 16 = a.off.toNat := by simp only [VmArgs.word, fieldOf, Nat.reducePow]; omega
  have hbuf : bufOf (a.word / 2 ^ 30) = a.buf := by rw [bufOf_eq, VmArgs.word]; omega
  simp only [vmExt, hz, hs, ho, hbuf, sReg_val, BitVec.ofNat_toNat, BitVec.setWidth_eq]
  rfl

theorem shapeVm_ok {mk : VReg → PReg → Ty → VmArgs → Instr} (hw : w < 2 ^ 32) (hx : x < 2 ^ 32) (hop : fOp w = op)
    (h : shapeVm w x mk = .ok i) : ∃ (d : VReg) (p : PReg) (t : Ty) (e : VmArgs), eV op d 0 0 p t = w ∧ e.word = x ∧ mk d p t e = i := by
  obtain ⟨hz, h⟩ := need_eq_ok.mp h
  simp only [Bool.and_eq_true, beq_iff_eq] at hz
  obtain ⟨ha, hb⟩ := hz
  obtain ⟨e, he, h⟩ := vmExt_ok hx h
  obtain ⟨⟨hd, -⟩, t, ht, -, hi⟩ := shapeV_eq_ok.mp h
  exact ⟨_, _, t, e, eV_of_fields hw hop (val_vReg hd) ha.symm hb.symm ht, he, Except.ok.inj hi⟩

theorem shapeVmS_ok {mk : VReg → Fin 32 → PReg → Ty → VmArgs → Instr} (hw : w < 2 ^ 32) (hx : x < 2 ^ 32) (hop : fOp w = op)
    (h : shapeVmS w x mk = .ok i) :
    ∃ (d : VReg) (st : Fin 32) (p : PReg) (t : Ty) (e : VmArgs), eV op d 0 (32 + st) p t = w ∧ e.word = x ∧ mk d st p t e = i := by
  obtain ⟨ha, h⟩ := need_eq_ok.mp h
  obtain ⟨e, he, h⟩ := vmExt_ok hx h
  obtain ⟨hb, h⟩ := need_eq_ok.mp h
  obtain ⟨⟨hd, -⟩, t, ht, -, hi⟩ := shapeV_eq_ok.mp h
  exact ⟨_, _, _, t, e, eV_of_fields hw hop (val_vReg hd) (beq_iff_eq.mp ha).symm (scalar_code (of_decide_eq_true hb) (fB_lt w)) ht, he,
    Except.ok.inj hi⟩

theorem shapeVmX_ok {mk : VReg → VReg → PReg → Ty → VmArgs → Instr} (hw : w < 2 ^ 32) (hx : x < 2 ^ 32) (hop : fOp w = op)
    (h : shapeVmX w x mk = .ok i) :
    ∃ (d a : VReg) (p : PReg) (t : Ty) (e : VmArgs), eV op d a 0 p t = w ∧ e.word = x ∧ mk d a p t e = i := by
  obtain ⟨hb, h⟩ := need_eq_ok.mp h
  obtain ⟨e, he, h⟩ := vmExt_ok hx h
  obtain ⟨⟨hd, ha, -⟩, t, ht, -, hi⟩ := shapeV_eq_ok.mp h
  exact ⟨_, _, _, t, e, eV_of_fields hw hop (val_vReg hd) (val_vReg (ha rfl)) (beq_iff_eq.mp hb).symm ht, he, Except.ok.inj hi⟩

variable {p : PReg} {t : Ty}

theorem shapeVm_eV {mk : VReg → PReg → Ty → VmArgs → Instr} (d : VReg) (e : VmArgs) :
    shapeVm (eV op d 0 0 p t) e.word mk = .ok (mk d p t e) := by
  simp (disch := omega) only [shapeVm, fA_eV, fB_eV, vmExt_word, shapeV_any, vReg_val, anyTy_eq]
  rfl

theorem shapeVmS_eV {mk : VReg → Fin 32 → PReg → Ty → VmArgs → Instr} (d : VReg) (st : Fin 32) (e : VmArgs) :
    shapeVmS (eV op d 0 (32 + st) p t) e.word mk = .ok (mk d st p t e) := by
  simp (disch := omega) only [shapeVmS, fA_eV, fB_eV, vmExt_word, shapeV_any, vReg_val, anyTy_eq, Nat.le_add_right,
    Nat.add_sub_cancel_left, low5_val]
  rfl

theorem shapeVmX_eV {mk : VReg → VReg → PReg → Ty → VmArgs → Instr} (d a : VReg) (e : VmArgs) :
    shapeVmX (eV op d a 0 p t) e.word mk = .ok (mk d a p t e) := by
  simp (disch := omega) only [shapeVmX, fA_eV, fB_eV, vmExt_word, shapeV_vec, vReg_val, anyTy_eq]
  rfl

theorem decodeVm_ok (hw : w < 2 ^ 32) (hx : x < 2 ^ 32) (h : decodeVm w x = .ok i) : i.wf = true ∧ encode i = [w, x] := by
  unfold decodeVm at h
  split at h
  case h_1 hop | h_2 hop | h_7 hop =>
    obtain ⟨d, p, t, e, rfl, rfl, rfl⟩ := shapeVm_ok hw hx hop h
    exact ⟨rfl, rfl⟩
  case h_3 hop | h_4 hop =>
    obtain ⟨d, st, p, t, e, rfl, rfl, rfl⟩ := shapeVmS_ok hw hx hop h
    exact ⟨rfl, rfl⟩
  case h_5 hop | h_6 hop =>
    obtain ⟨d, a, p, t, e, rfl, rfl, rfl⟩ := shapeVmX_ok hw hx hop h
    exact ⟨rfl, rfl⟩
  case h_8 => cases h

end

theorem reads_vm {i : Instr} {w : Nat} {r : List Nat} (hs : slotOf i = some .vm) (he : encode i = w :: r) : Reads .vm w r i := by
  cases i with
  | vld d p t e | vst d p t e | vldb d p t e =>
    cases he
    refine .two (eV_lt (by decide) (by omega) (by decide) (by decide)) e.word_lt ?_
    simp (disch := omega) only [fOp_eV, decodeOp, List.getD_cons_zero, List.getD_cons_succ, decodeVm, opLength, shapeVm_eV]
    exact ⟨rfl, trivial⟩
  | vlds d st p t e | vsts d st p t e =>
    cases he
    refine .two (eV_lt (by decide) (by omega) (by decide) (by omega)) e.word_lt ?_
    simp (disch := omega) only [fOp_eV, decodeOp, List.getD_cons_zero, List.getD_cons_succ, decodeVm, opLength, shapeVmS_eV]
    exact ⟨rfl, trivial⟩
  | vldx d a p t e | vstx d a p t e =>
    cases he
    refine .two (eV_lt (by decide) (by omega) (by omega) (by decide)) e.word_lt ?_
    simp (disch := omega) only [fOp_eV, decodeOp, List.getD_cons_zero, List.getD_cons_succ, decodeVm, opLength, shapeVmX_eV]
    exact ⟨rfl, trivial⟩
  | _ => cases hs

end Sys2Proof
end

section
/-! PROOFS. The MX slot (R157, R251–R263). -/

namespace Sys2Proof

section
variable {op w x : Nat} {i : Instr}

/-! ### What decodes in MX is encoded by its words -/

/-- A tile stands in the low two bits of D, below bits that must be 0. -/
theorem val_tReg_fD (h : fieldOf w 21 4 = 0) : (tReg (fD w) : Nat) = fD w := by
  refine val_tReg ?_
  simp only [fD, fieldOf, Nat.reducePow] at *
  omega

theorem eX_ofNat (hx : x < 2 ^ 32) {n : Nat} (hn : n ≤ 16) (hz : fieldOf x n (16 - n) = 0) :
    eX (fAt x) (BitVec.ofNat n x).toNat = x := by
  have hlow : x % 2 ^ n = x % 2 ^ 16 := by
    have h16 : 2 ^ 16 = 2 ^ n * 2 ^ (16 - n) := by rw [← Nat.pow_add, Nat.add_sub_cancel' hn]
    rw [fieldOf] at hz
    rw [h16, Nat.mod_mul, hz, Nat.mul_zero, Nat.add_zero]
  refine Eq.trans (congrArg (eX (fAt x)) ?_) (eX_of_fields hx)
  rw [BitVec.toNat_ofNat, hlow, fImm, BitVec.toNat_ofNat]

theorem ofNat_of_fAt (hx : x < 2 ^ 32) (hat : fAt x = 0) {n : Nat} (hn : n ≤ 16) (hz : fieldOf x n (16 - n) = 0) :
    (BitVec.ofNat n x).toNat = x := by
  have h := eX_ofNat hx hn hz
  rw [hat] at h
  simpa only [eX, BitVec.toNat_ofNat, Nat.zero_mod, Nat.zero_mul, Nat.zero_add, BitVec.ofNat_eq_ofNat] using h

theorem shapeMma_ok {mk : TileIx → GReg → GReg → BitVec 16 → BitVec 16 → Instr} (hw : w < 2 ^ 32) (hx : x < 2 ^ 32) (hop : fOp w = op)
    (h : shapeMma w x mk = .ok i) :
    ∃ (t : TileIx) (ga gb : GReg) (v nk : BitVec 16), (ga != gb && countOk nk) = true ∧ eA op t ga gb 0 = w ∧ eX v nk.toNat = x ∧
      mk t ga gb v nk = i := by
  simp only [shapeMma, need_eq_ok, Bool.and_eq_true, beq_iff_eq, bne_iff_ne, decide_eq_true_eq] at h
  obtain ⟨⟨⟨hd, hf⟩, hne⟩, hn, ⟨ha, hb⟩, hi⟩ := h
  refine ⟨_, _, _, _, _, ?_, eA_of_fields hw hop (val_tReg_fD hd) (val_gReg ha) (val_gReg hb) hf.symm, eX_of_fields hx, Except.ok.inj hi⟩
  rw [Bool.and_eq_true, bne_iff_ne]
  refine ⟨fun h => hne ?_, hn⟩
  have := congrArg Fin.val h
  rwa [val_gReg ha, val_gReg hb] at this

/-- A format that drains some row count drains none (R259). -/
theorem drainOk_zero {f : Fmt} {rows : BitVec 8} (h : drainOk f rows = true) : drainOk f 0 = true := by
  simp only [drainOk, Bool.and_eq_true] at *
  obtain ⟨⟨hfmt, -⟩, -⟩ := h
  exact ⟨⟨hfmt, rfl⟩, by simp⟩

/-- The operations of two syllables in MX. -/
theorem decodeMx_timed (hw : w < 2 ^ 32) (hx : x < 2 ^ 32) (hlen : opLength .mx (fOp w) = some 2) (h : decodeMx w x = .ok i) :
    i.wf = true ∧ encode i = [w, x] := by
  unfold decodeMx at h
  split at h
  case h_1 hop | h_2 hop =>
    obtain ⟨t, ga, gb, v, nk, hwf, rfl, rfl, rfl⟩ := shapeMma_ok hw hx hop h
    exact ⟨hwf, rfl⟩
  case h_3 hop =>
    simp only [need_eq_ok, beq_iff_eq, decide_eq_true_eq] at h
    obtain ⟨hf, hz, ⟨ha, hb⟩, hat, hi⟩ := h
    cases hi
    exact ⟨rfl, congrArg₂ (fun w x => [w, x]) (eA_of_fields hw hop (val_sReg_fD w) (val_gReg ha) (val_gReg hb) hf.symm)
      (ofNat_of_fAt hx hat (by decide) hz)⟩
  case h_4 hop =>
    simp only [need_eq_ok, Bool.and_eq_true, beq_iff_eq, decide_eq_true_eq] at h
    obtain ⟨⟨hd, hf⟩, himm, ⟨ha, hb⟩, hat, hi⟩ := h
    cases hi
    have hd5 : fD w < 32 := by
      simp only [fD, fieldOf, Nat.reducePow] at *
      omega
    have hx0 := toNat_fImm hx hat
    rw [himm] at hx0
    exact ⟨rfl, congrArg₂ (fun w x => [w, x]) (eA_of_fields hw hop (val_low5 hd5) (val_gReg ha) (val_gReg hb) hf.symm) hx0⟩
  case h_5 hop =>
    simp only [need_eq_ok, needSome_eq_ok, Bool.and_eq_true, beq_iff_eq, RmSel.ofCode_eq, Fmt.ofCode_eq, Bool.not_eq_true'] at h
    obtain ⟨⟨⟨hd, ha⟩, h6⟩, rm, hrm, f, hf, -, hz, hok, hi⟩ := h
    cases hi
    refine ⟨hok, congrArg₂ (fun w x => [w, x]) (eA_of_fields hw hop (val_tReg_fD hd) ?_ (val_sReg_fB w) ?_) (eX_ofNat hx (by decide) hz)⟩
    · rw [← hrm]
      simp only [fA, fieldOf, Nat.reducePow] at *
      omega
    · rw [← hf, code_ovOf]
      simp only [bitOf_false, fFn, fieldOf, Nat.reducePow] at *
      omega
  case h_6 hop =>
    simp only [need_eq_ok, needSome_eq_ok, Bool.and_eq_true, beq_iff_eq, Fmt.ofCode_eq] at h
    obtain ⟨⟨⟨hd, ha⟩, h5⟩, f, hf, -, hz, hok, hi⟩ := h
    cases hi
    refine ⟨hok, congrArg₂ (fun w x => [w, x]) (eA_of_fields hw hop (val_tReg_fD hd) ha.symm (val_sReg_fB w) ?_)
      (eX_ofNat hx (by decide) hz)⟩
    rw [← hf]
    simp only [fFn, fieldOf, Nat.reducePow] at *
    omega
  case h_7 hop | h_8 hop | h_9 hop | h_10 hop =>
    rw [hop] at hlen
    cases hlen
  case h_11 => cases h

/-- Two fields side by side are one. -/
theorem fieldOf_append (w lo n m : Nat) : fieldOf w lo n + 2 ^ n * fieldOf w (lo + n) m = fieldOf w lo (n + m) := by
  rw [fieldOf, fieldOf, fieldOf, Nat.pow_add, Nat.pow_add, ← Nat.div_div_eq_div_mul, ← Nat.mod_mul]

theorem boolNat_bitOf_field (w k : Nat) : boolNat (bitOf w k) = fieldOf w k 1 := boolNat_bitOf w k

/-- A PRECSET is the word of its fields (R262). -/
theorem precsetWord (hw : w < 2 ^ 32) (hop : fOp w = 0x08) (hz : fieldOf w 0 1 = 0) :
    0x08 * 0x200_0000 + (tReg (fieldOf w 23 2)).val * 0x80_0000 + (Fin.ofNat 4 (fieldOf w 21 2)).val * 0x20_0000 +
      (BitVec.ofNat 5 (fieldOf w 16 5)).toNat * 0x1_0000 + (BitVec.ofNat 5 (fieldOf w 11 5)).toNat * 0x800 +
      (Fin.ofNat 16 (fieldOf w 7 4)).val * 0x80 + (Fin.ofNat 16 (fieldOf w 3 4)).val * 8 + boolNat (bitOf w 2) * 4 +
      boolNat (bitOf w 1) * 2 = w := by
  have hall : fieldOf w 0 32 = w := (congrArg (· % 2 ^ 32) (Nat.div_one w)).trans (Nat.mod_eq_of_lt hw)
  have h1 := fieldOf_append w 0 1 1
  have h2 := fieldOf_append w 0 2 1
  have h3 := fieldOf_append w 0 3 4
  have h7 := fieldOf_append w 0 7 4
  have h11 := fieldOf_append w 0 11 5
  have h16 := fieldOf_append w 0 16 5
  have h21 := fieldOf_append w 0 21 2
  have h23 := fieldOf_append w 0 23 2
  have h25 := fieldOf_append w 0 25 7
  have hf (lo : Nat) : (Fin.ofNat 16 (fieldOf w lo 4)).val = fieldOf w lo 4 := Nat.mod_eq_of_lt (fieldOf_lt w lo 4)
  have hc : (Fin.ofNat 4 (fieldOf w 21 2)).val = fieldOf w 21 2 := Nat.mod_eq_of_lt (fieldOf_lt w 21 2)
  rw [val_tReg (fieldOf_lt w 23 2), hc, toNat_ofNat_field, toNat_ofNat_field, hf, hf, boolNat_bitOf_field, boolNat_bitOf_field]
  rw [fOp] at hop
  simp only [Nat.zero_add, Nat.reduceAdd, Nat.reducePow] at h1 h2 h3 h7 h11 h16 h21 h23 h25
  omega

/-- The operations of one syllable in MX. -/
theorem decodeMx_single (hw : w < 2 ^ 32) (hlen : opLength .mx (fOp w) = some 1) (h : decodeMx w x = .ok i) :
    i.wf = true ∧ encode i = [w] := by
  unfold decodeMx at h
  split at h
  case h_1 hop | h_2 hop | h_3 hop | h_4 hop | h_5 hop | h_6 hop =>
    rw [hop] at hlen
    cases hlen
  case h_7 hop =>
    simp only [need_eq_ok, Bool.and_eq_true, beq_iff_eq] at h
    obtain ⟨⟨hd, hz⟩, hi⟩ := h
    cases hi
    refine ⟨rfl, congrArg (fun w => [w]) (eA_of_fields hw hop (val_tReg_fD hd) ?_ ?_ ?_)⟩ <;>
      simp only [fA, fB, fFn, fieldOf, Nat.reducePow] at * <;> omega
  case h_8 hop =>
    simp only [need_eq_ok, Bool.and_eq_true, beq_iff_eq] at h
    obtain ⟨⟨hd, hf⟩, hi⟩ := h
    cases hi
    exact ⟨rfl, congrArg (fun w => [w]) (eA_of_fields hw hop (val_tReg_fD hd) (val_sReg_fA w) (val_sReg_fB w) hf.symm)⟩
  case h_9 hop =>
    simp only [need_eq_ok, beq_iff_eq] at h
    obtain ⟨hz, hi⟩ := h
    cases hi
    exact ⟨rfl, congrArg (fun w => [w]) (precsetWord hw hop hz)⟩
  case h_10 hop =>
    simp only [need_eq_ok, Bool.and_eq_true, beq_iff_eq] at h
    obtain ⟨⟨⟨ha, hb⟩, hf⟩, hi⟩ := h
    cases hi
    have hA : fA w < 4 := by
      simp only [fA, fieldOf, Nat.reducePow] at *
      omega
    refine ⟨rfl, congrArg (fun w => [w]) (eA_of_fields hw hop (val_sReg_fD w) (val_tReg hA) hb.symm ?_)⟩
    rw [boolNat_bitOf]
    simp only [fFn, fieldOf, Nat.reducePow] at *
    omega
  case h_11 => cases h

/-! ### The words of the operations of MX -/

variable {d a b fn : Nat}

theorem fieldOf_eA_tile (hd : d < 4) (ha : a < 64) (hb : b < 64) (hf : fn < 128) : fieldOf (eA op d a b fn) 21 4 = 0 := by
  simp only [fieldOf, eA, Nat.reducePow]
  omega

theorem fieldOf_eX {v : BitVec 16} {n : Nat} {rows : BitVec n} (hn : n ≤ 16) : fieldOf (eX v rows.toNat) n (16 - n) = 0 := by
  have h16 : v.toNat * 0x1_0000 = 2 ^ n * (2 ^ (16 - n) * v.toNat) := by
    rw [← Nat.mul_assoc, ← Nat.pow_add, Nat.add_sub_cancel' hn, Nat.mul_comm]
  rw [fieldOf, eX, h16, Nat.mul_add_div (Nat.two_pow_pos n), Nat.div_eq_of_lt rows.isLt, Nat.add_zero, Nat.mul_mod_right]

theorem ofNat_eX {v : BitVec 16} {n : Nat} {rows : BitVec n} (hn : n ≤ 16) : BitVec.ofNat n (eX v rows.toNat) = rows := by
  refine BitVec.eq_of_toNat_eq ?_
  have h16 : v.toNat * 0x1_0000 = 2 ^ n * (2 ^ (16 - n) * v.toNat) := by
    rw [← Nat.mul_assoc, ← Nat.pow_add, Nat.add_sub_cancel' hn, Nat.mul_comm]
  rw [BitVec.toNat_ofNat, eX, h16, Nat.mul_add_mod, Nat.mod_eq_of_lt rows.isLt]

theorem shapeMma_eA {mk : TileIx → GReg → GReg → BitVec 16 → BitVec 16 → Instr} (t : TileIx) (ga gb : GReg) (v nk : BitVec 16)
    (hwf : (ga != gb && countOk nk) = true) : shapeMma (eA op t ga gb 0) (eX v nk.toNat) mk = .ok (mk t ga gb v nk) := by
  obtain ⟨hne, hn⟩ := Bool.and_eq_true_iff.mp hwf
  have hne' : (ga.val != gb.val) = true := bne_iff_ne.mpr fun h => bne_iff_ne.mp hne (Fin.ext h)
  simp (disch := omega) only [shapeMma, fieldOf_eA_tile, fFn_eA, fA_eA, fB_eA, fD_eA, hne', fImm_eX, need_of hn, ga.isLt, gb.isLt,
    tReg_val, gReg_val, fAt_eX]
  rfl

end

theorem reads_mx {i : Instr} {w : Nat} {r : List Nat} (hs : slotOf i = some .mx) (hwf : i.wf = true) (he : encode i = w :: r) :
    Reads .mx w r i := by
  cases i with
  | mma t ga gb v nk | mmaz t ga gb v nk =>
    cases he
    refine .two (eA_lt (by decide) (by omega) (by omega) (by omega) (by decide)) (eX_lt nk.isLt) ?_
    simp (disch := omega) only [fOp_eA, decodeOp, List.getD_cons_zero, List.getD_cons_succ, decodeMx, opLength]
    exact ⟨rfl, shapeMma_eA t ga gb v nk hwf⟩
  | mmag d ga gb g =>
    cases he
    have hx : eX 0 g.toNat = g.toNat := by simp [eX]
    have hz : fieldOf g.toNat 12 4 = 0 := hx ▸ fieldOf_eX (v := 0) (by decide)
    have hat : fAt g.toNat = 0 := hx ▸ fAt_eX (v := 0) (by omega)
    refine .two (eA_lt (by decide) (by omega) (by omega) (by omega) (by decide)) (by omega) ?_
    simp (disch := omega) only [fOp_eA, fFn_eA, fA_eA, fB_eA, fD_eA, decodeOp, List.getD_cons_zero, List.getD_cons_succ, decodeMx,
      opLength, hz, hat, ga.isLt, gb.isLt, sReg_val, gReg_val, BitVec.ofNat_toNat, BitVec.setWidth_eq]
    exact ⟨rfl, rfl⟩
  | mmas q ga gb =>
    cases he
    have hq : fieldOf (eA 0x03 q ga gb 0) 24 1 = 0 := by simp only [fieldOf, eA, Nat.reducePow]; omega
    refine .two (eA_lt (by decide) (by omega) (by omega) (by omega) (by decide)) (by decide) ?_
    simp (disch := omega) only [fOp_eA, fFn_eA, fA_eA, fB_eA, fD_eA, decodeOp, List.getD_cons_zero, List.getD_cons_succ, decodeMx,
      opLength, hq, ga.isLt, gb.isLt, low5_val, gReg_val]
    exact ⟨rfl, rfl⟩
  | tdrain t rm b f ov v rows =>
    cases he
    have hrm := rm.code_lt
    have hf := f.code_lt
    have ho := ov.code_lt
    have hdrain : drainOk f rows = true := hwf
    have h16 : fieldOf (eA 0x04 t rm.code b (f.code + 32 * ov.code)) 16 3 = 0 := by simp only [fieldOf, eA, Nat.reducePow]; omega
    have hr : fieldOf (eA 0x04 t rm.code b (f.code + 32 * ov.code)) 13 3 = rm.code := by simp only [fieldOf, eA, Nat.reducePow]; omega
    have h6 : bitOf (f.code + 32 * ov.code) 6 = false := by rw [bitOf_false]; omega
    have hF : fieldOf (f.code + 32 * ov.code) 0 5 = f.code := by simp only [fieldOf, Nat.reducePow]; omega
    have hO : ovOf (eA 0x04 t rm.code b (f.code + 32 * ov.code) / 2 ^ 5) = ov := by
      rw [ovOf_eq]; simp only [eA, Nat.reducePow]; omega
    have hz : fieldOf (eX v rows.toNat) 8 8 = 0 := fieldOf_eX (by decide)
    have hR : BitVec.ofNat 8 (eX v rows.toNat) = rows := ofNat_eX (by decide)
    refine .two (eA_lt (by decide) (by omega) (by omega) (by omega) (by omega)) (eX_lt (by omega)) ?_
    simp (disch := omega) only [fOp_eA, fB_eA, fD_eA, decodeOp, List.getD_cons_zero, List.getD_cons_succ, decodeMx, opLength,
      fieldOf_eA_tile, fieldOf_eA_fn, bitOf_eA_fn, h16, hr, h6, hF, hO, hz, hR, RmSel.ofCode_code, Fmt.ofCode_code, needSome_some,
      need_of hdrain, need_of (drainOk_zero hdrain), tReg_val, sReg_val, fAt_eX]
    exact ⟨rfl, rfl⟩
  | tload t b f v rows =>
    cases he
    have hf := f.code_lt
    have hdrain : drainOk f rows = true := hwf
    have h5 : fieldOf f.code 5 2 = 0 := by simp only [fieldOf, Nat.reducePow]; omega
    have hF : fieldOf f.code 0 5 = f.code := by simp only [fieldOf, Nat.reducePow]; omega
    have hz : fieldOf (eX v rows.toNat) 8 8 = 0 := fieldOf_eX (by decide)
    have hR : BitVec.ofNat 8 (eX v rows.toNat) = rows := ofNat_eX (by decide)
    refine .two (eA_lt (by decide) (by omega) (by omega) (by omega) (by omega)) (eX_lt (by omega)) ?_
    simp (disch := omega) only [fOp_eA, fA_eA, fB_eA, fD_eA, decodeOp, List.getD_cons_zero, List.getD_cons_succ, decodeMx, opLength,
      fieldOf_eA_tile, fieldOf_eA_fn, h5, hF, hz, hR, Fmt.ofCode_code, needSome_some, need_of hdrain,
      need_of (drainOk_zero hdrain), tReg_val, sReg_val, fAt_eX]
    exact ⟨rfl, rfl⟩
  | tclr t =>
    cases he
    have hz : fieldOf (eA 0x06 t 0 0 0) 0 19 = 0 := by simp only [fieldOf, eA, Nat.reducePow]; omega
    refine .one (eA_lt (by decide) (by omega) (by decide) (by decide) (by decide)) ?_
    simp (disch := omega) only [fOp_eA, fD_eA, decodeOp, List.getD_cons_zero, decodeMx, opLength, fieldOf_eA_tile, hz, tReg_val]
    exact ⟨rfl, rfl⟩
  | tmask t a b =>
    cases he
    refine .one (eA_lt (by decide) (by omega) (by omega) (by omega) (by decide)) ?_
    simp (disch := omega) only [fOp_eA, fD_eA, fA_eA, fB_eA, fFn_eA, decodeOp, List.getD_cons_zero, decodeMx, opLength, fieldOf_eA_tile,
      tReg_val, sReg_val]
    exact ⟨rfl, rfl⟩
  | precset e =>
    cases he
    have h2 := boolNat_lt e.rnda
    have h1 := boolNat_lt e.rndb
    generalize hy : 0x08 * 0x200_0000 + e.tile * 0x80_0000 + e.accf * 0x20_0000 + e.fmtA.toNat * 0x1_0000 + e.fmtB.toNat * 0x800 +
      e.wa * 0x80 + e.wb * 8 + boolNat e.rnda * 4 + boolNat e.rndb * 2 = y
    have hop : fOp y = 0x08 := by simp only [fOp, fieldOf, Nat.reducePow]; omega
    have hz : fieldOf y 0 1 = 0 := by simp only [fieldOf, Nat.reducePow]; omega
    have hT : fieldOf y 23 2 = e.tile := by simp only [fieldOf, Nat.reducePow]; omega
    have hC : fieldOf y 21 2 = e.accf := by simp only [fieldOf, Nat.reducePow]; omega
    have hA : fieldOf y 16 5 = e.fmtA.toNat := by simp only [fieldOf, Nat.reducePow]; omega
    have hB : fieldOf y 11 5 = e.fmtB.toNat := by simp only [fieldOf, Nat.reducePow]; omega
    have hWa : fieldOf y 7 4 = e.wa := by simp only [fieldOf, Nat.reducePow]; omega
    have hWb : fieldOf y 3 4 = e.wb := by simp only [fieldOf, Nat.reducePow]; omega
    have hRa : bitOf y 2 = e.rnda := by rw [bitOf_eq]; omega
    have hRb : bitOf y 1 = e.rndb := by rw [bitOf_eq]; omega
    refine .one (by omega) ?_
    simp only [hop, decodeOp, List.getD_cons_zero, decodeMx, opLength, hz, hT, hC, hA, hB, hWa, hWb, hRa, hRb, tReg_val,
      Fin.ofNat_val_eq_self, BitVec.ofNat_toNat, BitVec.setWidth_eq]
    exact ⟨rfl, rfl⟩
  | tstat d t c =>
    cases he
    have hc := boolNat_lt c
    have hz : fieldOf (eA 0x09 d t 0 (boolNat c)) 15 4 = 0 := by simp only [fieldOf, eA, Nat.reducePow]; omega
    have h1 : fieldOf (boolNat c) 1 6 = 0 := by simp only [fieldOf, Nat.reducePow]; omega
    have hC : bitOf (boolNat c) 0 = c := by rw [bitOf_eq]; omega
    refine .one (eA_lt (by decide) (by omega) (by omega) (by decide) (by omega)) ?_
    simp (disch := omega) only [fOp_eA, fD_eA, fA_eA, fB_eA, decodeOp, List.getD_cons_zero, decodeMx, opLength, fieldOf_eA_fn,
      bitOf_eA_fn, hz, h1, hC, tReg_val, sReg_val]
    exact ⟨rfl, rfl⟩
  | _ => cases hs

end Sys2Proof
end

section
/-! PROOFS. The EC slot (R158, R264–R283). -/

namespace Sys2Proof

section
variable {op w x : Nat} {i : Instr}

/-! ### What decodes in EC is encoded by its words -/

theorem shapeGather_ok {mk : SReg → SReg → SReg → Fin 9 → Buf → Bool → BitVec 16 → Instr} (hw : w < 2 ^ 32) (hx : x < 2 ^ 32)
    (hop : fOp w = op) (h : shapeGather w x mk = .ok i) :
    ∃ (d a b : SReg) (l : Fin 9) (buf : Buf) (iw : Bool) (n : BitVec 16), countOk n = true ∧
      eA op d a b (l + 16 * buf.code + 64 * boolNat iw) = w ∧ n.toNat = x ∧ mk d a b l buf iw n = i := by
  simp only [shapeGather, need_eq_ok, beq_iff_eq, decide_eq_true_eq] at h
  obtain ⟨hl, hn, hat, hi⟩ := h
  refine ⟨_, _, _, _, _, _, _, hn, eA_of_fields hw hop (val_sReg_fD w) (val_sReg_fA w) (val_sReg_fB w) ?_, toNat_fImm hx hat,
    Except.ok.inj hi⟩
  rw [code_bufOf, boolNat_bitOf, Fin.val_ofNat, Nat.mod_eq_of_lt hl]
  simp only [fFn, fieldOf, Nat.reducePow]
  omega

theorem fFn_buf (h : fieldOf w 2 5 = 0) : (bufOf w).code = fFn w := by
  rw [code_bufOf]
  simp only [fFn, fieldOf, Nat.reducePow] at *
  omega

theorem shapeSend_ok {mk : SReg → SReg → Buf → BitVec 16 → BitVec 16 → Instr} (hw : w < 2 ^ 32) (hx : x < 2 ^ 32) (hop : fOp w = op)
    (h : shapeSend w x mk = .ok i) :
    ∃ (a b : SReg) (buf : Buf) (v n : BitVec 16), countOk n = true ∧ eA op 0 a b buf.code = w ∧ eX v n.toNat = x ∧ mk a b buf v n = i := by
  simp only [shapeSend, need_eq_ok, Bool.and_eq_true, beq_iff_eq] at h
  obtain ⟨⟨hd, hf⟩, hn, hi⟩ := h
  exact ⟨_, _, _, _, _, hn, eA_of_fields hw hop hd.symm (val_sReg_fA w) (val_sReg_fB w) (fFn_buf hf), eX_of_fields hx, Except.ok.inj hi⟩

theorem shapePut_ok {mk : SReg → SReg → Buf → BitVec 16 → Instr} (hw : w < 2 ^ 32) (hx : x < 2 ^ 32) (hop : fOp w = op)
    (h : shapePut w x mk = .ok i) :
    ∃ (a b : SReg) (buf : Buf) (n : BitVec 16), countOk n = true ∧ eA op 0 a b buf.code = w ∧ n.toNat = x ∧ mk a b buf n = i := by
  simp only [shapePut, need_eq_ok, Bool.and_eq_true, beq_iff_eq] at h
  obtain ⟨⟨hd, hf⟩, hn, hat, hi⟩ := h
  exact ⟨_, _, _, _, hn, eA_of_fields hw hop hd.symm (val_sReg_fA w) (val_sReg_fB w) (fFn_buf hf), toNat_fImm hx hat, Except.ok.inj hi⟩

theorem bare_ok {k : Decoded} (hx : x < 2 ^ 32) (h : bare x k = .ok i) : x = 0 ∧ k = .ok i := by
  simp only [bare, need_eq_ok, beq_iff_eq] at h
  obtain ⟨himm, hat, hk⟩ := h
  have hx0 := toNat_fImm hx hat
  rw [himm] at hx0
  exact ⟨hx0.symm, hk⟩

theorem fFn_low5 (h : fieldOf w 5 2 = 0) : (low5 (fieldOf w 0 5) : Nat) = fFn w := by
  rw [val_low5 (fieldOf_lt w 0 5)]
  simp only [fFn, fieldOf, Nat.reducePow] at *
  omega

theorem decodeEc_ok (hw : w < 2 ^ 32) (hx : x < 2 ^ 32) (h : decodeEc w x = .ok i) : i.wf = true ∧ encode i = [w, x] := by
  unfold decodeEc at h
  split at h
  case h_1 hop =>
    simp only [need_eq_ok, Bool.and_eq_true, beq_iff_eq] at h
    obtain ⟨⟨⟨h5, hout⟩, hmap⟩, hn, hi⟩ := h
    cases hi
    refine ⟨Bool.and_eq_true_iff.mpr ⟨Bool.and_eq_true_iff.mpr ⟨hn, hout⟩, ?_⟩, congrArg₂ (fun w x => [w, x])
      (eA_of_fields hw hop (val_sReg_fD w) (val_sReg_fA w) (val_sReg_fB w) ?_) (eX_of_fields hx)⟩
    · simp only [Bool.or_eq_true, beq_iff_eq] at hmap ⊢
      exact hmap.imp_right fun h => congrArg sReg h
    · rw [code_bufOf, boolNat_bitOf, boolNat_bitOf, boolNat_bitOf]
      simp only [fFn, fieldOf, Nat.reducePow] at *
      omega
  case h_2 hop =>
    simp only [need_eq_ok, Bool.and_eq_true, beq_iff_eq, Bool.not_eq_true', bitOf_false] at h
    obtain ⟨⟨h5, h3⟩, hn, hi⟩ := h
    cases hi
    refine ⟨hn, congrArg₂ (fun w x => [w, x]) (eA_of_fields hw hop (val_sReg_fD w) (val_sReg_fA w) (val_sReg_fB w) ?_)
      (eX_of_fields hx)⟩
    rw [code_bufOf, boolNat_bitOf, boolNat_bitOf]
    simp only [fFn, fieldOf, Nat.reducePow] at *
    omega
  case h_3 hop | h_4 hop =>
    obtain ⟨d, a, b, l, buf, iw, n, hn, rfl, rfl, rfl⟩ := shapeGather_ok hw hx hop h
    exact ⟨hn, rfl⟩
  case h_5 hop | h_6 hop =>
    obtain ⟨a, b, buf, v, n, hn, rfl, rfl, rfl⟩ := shapeSend_ok hw hx hop h
    exact ⟨hn, rfl⟩
  case h_7 hop | h_8 hop | h_10 hop =>
    obtain ⟨a, b, buf, n, hn, rfl, rfl, rfl⟩ := shapePut_ok hw hx hop h
    exact ⟨hn, rfl⟩
  case h_9 hop =>
    simp only [need_eq_ok, needSome_eq_ok, AmoOp.ofCode_eq] at h
    obtain ⟨o, ho, hsx, h⟩ := h
    obtain ⟨rfl, hi⟩ := bare_ok hx h
    cases hi
    refine ⟨hsx, congrArg (fun w => [w, 0]) (eA_of_fields hw hop (val_sReg_fD w) (val_sReg_fA w) (val_sReg_fB w) ?_)⟩
    rw [← ho, boolNat_bitOf, boolNat_bitOf, boolNat_bitOf]
    simp only [fFn, fieldOf, Nat.reducePow]
    omega
  case h_11 hop =>
    simp only [need_eq_ok, Bool.and_eq_true, beq_iff_eq] at h
    obtain ⟨⟨hd, hf⟩, hn, hat, hi⟩ := h
    cases hi
    exact ⟨hn, congrArg₂ (fun w x => [w, x]) (eA_of_fields hw hop hd.symm (val_sReg_fA w) (val_sReg_fB w) hf.symm) (toNat_fImm hx hat)⟩
  case h_12 hop =>
    simp only [need_eq_ok, Bool.and_eq_true, beq_iff_eq] at h
    obtain ⟨⟨hd, hf⟩, h⟩ := h
    obtain ⟨rfl, hi⟩ := bare_ok hx h
    cases hi
    exact ⟨rfl, congrArg (fun w => [w, 0]) (eA_of_fields hw hop hd.symm (val_sReg_fA w) (val_sReg_fB w) (fFn_low5 hf))⟩
  case h_13 hop =>
    obtain ⟨hz, h⟩ := need_eq_ok.mp h
    obtain ⟨rfl, hi⟩ := bare_ok hx h
    cases hi
    rw [beq_iff_eq] at hz
    refine ⟨rfl, congrArg (fun w => [w, 0]) (eA_of_fields hw hop ?_ ?_ ?_ ?_)⟩ <;>
      simp only [fD, fA, fB, fFn, fieldOf, Nat.reducePow] at * <;> omega
  case h_14 hop =>
    simp only [need_eq_ok, Bool.and_eq_true, beq_iff_eq, Bool.not_eq_true', bitOf_false] at h
    obtain ⟨⟨hd, h6⟩, h⟩ := h
    obtain ⟨rfl, hi⟩ := bare_ok hx h
    cases hi
    refine ⟨rfl, congrArg (fun w => [w, 0]) (eA_of_fields hw hop hd.symm (val_sReg_fA w) (val_sReg_fB w) ?_)⟩
    rw [val_low5 (fieldOf_lt w 0 5), boolNat_bitOf]
    simp only [fFn, fieldOf, Nat.reducePow] at *
    omega
  case h_15 hop =>
    simp only [need_eq_ok, Bool.and_eq_true, beq_iff_eq] at h
    obtain ⟨⟨⟨ha, hb⟩, hf⟩, h⟩ := h
    obtain ⟨rfl, hi⟩ := bare_ok hx h
    cases hi
    exact ⟨rfl, congrArg (fun w => [w, 0]) (eA_of_fields hw hop (val_sReg_fD w) ha.symm hb.symm (fFn_low5 hf))⟩
  case h_16 hop =>
    simp only [need_eq_ok, Bool.and_eq_true, beq_iff_eq] at h
    obtain ⟨⟨⟨hd, hb⟩, hf⟩, h⟩ := h
    obtain ⟨rfl, hi⟩ := bare_ok hx h
    cases hi
    exact ⟨rfl, congrArg (fun w => [w, 0]) (eA_of_fields hw hop hd.symm (val_sReg_fA w) hb.symm hf.symm)⟩
  case h_17 hop =>
    simp only [need_eq_ok, Bool.and_eq_true, beq_iff_eq] at h
    obtain ⟨⟨hd, h1⟩, ⟨h11, hmsi⟩, hat, hi⟩ := h
    cases hi
    refine ⟨?_, congrArg₂ (fun w x => [w, x]) (eA_of_fields hw hop hd.symm (val_sReg_fA w) (val_sReg_fB w) ?_)
      (ofNat_of_fAt hx hat (by decide) h11)⟩
    · simp only [Instr.wf, Bool.or_eq_true, beq_iff_eq] at hmsi ⊢
      refine hmsi.imp_right fun h => BitVec.eq_of_toNat_eq ?_
      rw [fieldOf, pow_zero, Nat.div_one] at h
      exact (BitVec.toNat_ofNat ..).trans h
    · rw [boolNat_bitOf]
      simp only [fFn, fieldOf, Nat.reducePow] at *
      omega
  case h_18 hop =>
    simp only [need_eq_ok, Bool.and_eq_true, beq_iff_eq] at h
    obtain ⟨⟨hd, h3⟩, hn, hi⟩ := h
    cases hi
    refine ⟨hn, congrArg₂ (fun w x => [w, x]) (eA_of_fields hw hop hd.symm (val_sReg_fA w) (val_sReg_fB w) ?_) (eX_of_fields hx)⟩
    rw [code_bufOf, boolNat_bitOf]
    simp only [fFn, fieldOf, Nat.reducePow] at *
    omega
  case h_19 => cases h

/-! ### The words of the operations of EC -/

theorem shapeGather_eA {mk : SReg → SReg → SReg → Fin 9 → Buf → Bool → BitVec 16 → Instr} (d a b : SReg) (l : Fin 9) (buf : Buf)
    (iw : Bool) {n : BitVec 16} (hn : countOk n = true) :
    shapeGather (eA op d a b (l + 16 * buf.code + 64 * boolNat iw)) n.toNat mk = .ok (mk d a b l buf iw n) := by
  have hbuf := buf.code_lt
  have hiw := boolNat_lt iw
  have hL : fieldOf (l + 16 * buf.code + 64 * boolNat iw) 0 4 = l := by simp only [fieldOf, Nat.reducePow]; omega
  have hB : bufOf (eA op d a b (l + 16 * buf.code + 64 * boolNat iw) / 2 ^ 4) = buf := by
    rw [bufOf_eq]; simp only [eA, Nat.reducePow]; omega
  have hI : bitOf (l + 16 * buf.code + 64 * boolNat iw) 6 = iw := by rw [bitOf_eq]; omega
  simp (disch := omega) only [shapeGather, fieldOf_eA_fn, bitOf_eA_fn, fD_eA, fA_eA, fB_eA, hL, hB, hI, l.isLt, need_of hn, fImm_toNat,
    fAt_toNat, sReg_val, Fin.ofNat_val_eq_self]
  rfl

theorem bufOf_eA (d a b : Nat) (buf : Buf) : bufOf (eA op d a b buf.code) = buf := by
  have := buf.code_lt
  rw [bufOf_eq, eA]
  omega

theorem fieldOf_buf (buf : Buf) : fieldOf buf.code 2 5 = 0 := by
  have := buf.code_lt
  simp only [fieldOf, Nat.reducePow]
  omega

theorem shapeSend_eA {mk : SReg → SReg → Buf → BitVec 16 → BitVec 16 → Instr} (a b : SReg) (buf : Buf) (v : BitVec 16) {n : BitVec 16}
    (hn : countOk n = true) : shapeSend (eA op 0 a b buf.code) (eX v n.toNat) mk = .ok (mk a b buf v n) := by
  have hbuf := buf.code_lt
  simp (disch := omega) only [shapeSend, fieldOf_eA_fn, fD_eA, fA_eA, fB_eA, bufOf_eA, fieldOf_buf, need_of hn, fImm_eX, fAt_eX, sReg_val]
  rfl

theorem shapePut_eA {mk : SReg → SReg → Buf → BitVec 16 → Instr} (a b : SReg) (buf : Buf) {n : BitVec 16} (hn : countOk n = true) :
    shapePut (eA op 0 a b buf.code) n.toNat mk = .ok (mk a b buf n) := by
  have hbuf := buf.code_lt
  simp (disch := omega) only [shapePut, fieldOf_eA_fn, fD_eA, fA_eA, fB_eA, bufOf_eA, fieldOf_buf, need_of hn, fImm_toNat, fAt_toNat,
    sReg_val]
  rfl

theorem bare_zero (k : Decoded) : bare 0 k = k := rfl

end

theorem fieldOf_queue (q : Fin 32) : fieldOf q 0 5 = q ∧ fieldOf q 5 2 = 0 := by
  constructor <;> simp only [fieldOf, Nat.reducePow] <;> omega

theorem reads_ec {i : Instr} {w : Nat} {r : List Nat} (hs : slotOf i = some .ec) (hwf : i.wf = true) (he : encode i = w :: r) :
    Reads .ec w r i := by
  cases i with
  | copy d a b e buf out map v n =>
    cases he
    have hbuf := buf.code_lt
    have he := boolNat_lt e
    have ho := boolNat_lt out
    have hm := boolNat_lt map
    obtain ⟨⟨hn, hout⟩, hd⟩ : (countOk n = true ∧ (!(map && out)) = true) ∧ (map || d == 0) = true := by
      simpa only [Instr.wf, Bool.and_eq_true] using hwf
    have hd' : (map || d.val == 0) = true := ownCore hd
    generalize hy : boolNat e + 2 * buf.code + 8 * boolNat out + 16 * boolNat map = y
    have h5 : fieldOf y 5 2 = 0 := by simp only [fieldOf, Nat.reducePow]; omega
    have h0 : bitOf y 0 = e := by rw [bitOf_eq]; omega
    have h3 : bitOf y 3 = out := by rw [bitOf_eq]; omega
    have h4 : bitOf y 4 = map := by rw [bitOf_eq]; omega
    have hB : bufOf (eA 0x00 d a b y / 2) = buf := by rw [bufOf_eq, eA]; omega
    refine .two (eA_lt (by decide) (by omega) (by omega) (by omega) (by omega)) (eX_lt n.isLt) ?_
    simp (disch := omega) only [fOp_eA, fA_eA, fB_eA, fD_eA, decodeOp, List.getD_cons_zero, List.getD_cons_succ, decodeEc, opLength,
      fieldOf_eA_fn, bitOf_eA_fn, h5, h0, h3, h4, hB, hout, hd', need_of hn, fImm_eX, fAt_eX, sReg_val]
    exact ⟨rfl, rfl⟩
  | copym d a b e buf map v n =>
    cases he
    have hbuf := buf.code_lt
    have he := boolNat_lt e
    have hm := boolNat_lt map
    have hn : countOk n = true := hwf
    generalize hy : boolNat e + 2 * buf.code + 16 * boolNat map = y
    have h5 : fieldOf y 5 2 = 0 := by simp only [fieldOf, Nat.reducePow]; omega
    have h0 : bitOf y 0 = e := by rw [bitOf_eq]; omega
    have h3 : bitOf y 3 = false := by rw [bitOf_false]; omega
    have h4 : bitOf y 4 = map := by rw [bitOf_eq]; omega
    have hB : bufOf (eA 0x01 d a b y / 2) = buf := by rw [bufOf_eq, eA]; omega
    refine .two (eA_lt (by decide) (by omega) (by omega) (by omega) (by omega)) (eX_lt n.isLt) ?_
    simp (disch := omega) only [fOp_eA, fA_eA, fB_eA, fD_eA, decodeOp, List.getD_cons_zero, List.getD_cons_succ, decodeEc, opLength,
      fieldOf_eA_fn, bitOf_eA_fn, h5, h0, h3, h4, hB, need_of hn, fImm_eX, fAt_eX, sReg_val]
    exact ⟨rfl, rfl⟩
  | gather d a b l buf iw n | scatter d a b l buf iw n =>
    cases he
    have hbuf := buf.code_lt
    have hiw := boolNat_lt iw
    refine .two (eA_lt (by decide) (by omega) (by omega) (by omega) (by omega)) (by omega) ?_
    simp (disch := omega) only [fOp_eA, decodeOp, List.getD_cons_zero, List.getD_cons_succ, decodeEc, opLength]
    exact ⟨rfl, shapeGather_eA d a b l buf iw hwf⟩
  | xsend a b buf v n | xrecv a b buf v n =>
    cases he
    have hbuf := buf.code_lt
    refine .two (eA_lt (by decide) (by omega) (by omega) (by omega) (by omega)) (eX_lt n.isLt) ?_
    simp (disch := omega) only [fOp_eA, decodeOp, List.getD_cons_zero, List.getD_cons_succ, decodeEc, opLength]
    exact ⟨rfl, shapeSend_eA a b buf v hwf⟩
  | fput a b buf n | fget a b buf n | dput a b buf n =>
    cases he
    have hbuf := buf.code_lt
    refine .two (eA_lt (by decide) (by omega) (by omega) (by omega) (by omega)) (by omega) ?_
    simp (disch := omega) only [fOp_eA, decodeOp, List.getD_cons_zero, List.getD_cons_succ, decodeEc, opLength]
    exact ⟨rfl, shapePut_eA a b buf hwf⟩
  | fatom d a b o sz64 sx sys =>
    cases he
    have ho := o.code_lt
    have h64 := boolNat_lt sz64
    have hsx := boolNat_lt sx
    have hsys := boolNat_lt sys
    have hext : (!(sz64 && sx)) = true := hwf
    generalize hy : o.code + 16 * boolNat sz64 + 32 * boolNat sx + 64 * boolNat sys = y
    have hO : fieldOf y 0 4 = o.code := by simp only [fieldOf, Nat.reducePow]; omega
    have h4 : bitOf y 4 = sz64 := by rw [bitOf_eq]; omega
    have h5 : bitOf y 5 = sx := by rw [bitOf_eq]; omega
    have h6 : bitOf y 6 = sys := by rw [bitOf_eq]; omega
    refine .two (eA_lt (by decide) (by omega) (by omega) (by omega) (by omega)) (by decide) ?_
    simp (disch := omega) only [fOp_eA, fA_eA, fB_eA, fD_eA, decodeOp, List.getD_cons_zero, List.getD_cons_succ, decodeEc, opLength,
      fieldOf_eA_fn, bitOf_eA_fn, hO, h4, h5, h6, AmoOp.ofCode_code, needSome_some, need_of hext, bare_zero, sReg_val]
    exact ⟨rfl, trivial⟩
  | dget a b n =>
    cases he
    have hn : countOk n = true := hwf
    refine .two (eA_lt (by decide) (by omega) (by omega) (by omega) (by decide)) (by omega) ?_
    simp (disch := omega) only [fOp_eA, fA_eA, fB_eA, fD_eA, fFn_eA, decodeOp, List.getD_cons_zero, List.getD_cons_succ, decodeEc,
      opLength, need_of hn, fImm_toNat, fAt_toNat, sReg_val]
    exact ⟨rfl, rfl⟩
  | wstart a b q =>
    cases he
    obtain ⟨hq, hz⟩ := fieldOf_queue q
    refine .two (eA_lt (by decide) (by omega) (by omega) (by omega) (by omega)) (by decide) ?_
    simp (disch := omega) only [fOp_eA, fA_eA, fB_eA, fD_eA, decodeOp, List.getD_cons_zero, List.getD_cons_succ, decodeEc, opLength,
      fieldOf_eA_fn, hq, hz, bare_zero, sReg_val, low5_val]
    exact ⟨rfl, rfl⟩
  | wstop =>
    cases he
    exact .two (by decide) (by decide) ⟨rfl, rfl⟩
  | qsend a b q eos =>
    cases he
    have heos := boolNat_lt eos
    generalize hy : q.val + 32 * boolNat eos = y
    have hQ : fieldOf y 0 5 = q := by simp only [fieldOf, Nat.reducePow]; omega
    have h5 : bitOf y 5 = eos := by rw [bitOf_eq]; omega
    have h6 : bitOf y 6 = false := by rw [bitOf_false]; omega
    refine .two (eA_lt (by decide) (by omega) (by omega) (by omega) (by omega)) (by decide) ?_
    simp (disch := omega) only [fOp_eA, fA_eA, fB_eA, fD_eA, decodeOp, List.getD_cons_zero, List.getD_cons_succ, decodeEc, opLength,
      fieldOf_eA_fn, bitOf_eA_fn, hQ, h5, h6, bare_zero, sReg_val, low5_val]
    exact ⟨rfl, rfl⟩
  | qrecv d q =>
    cases he
    obtain ⟨hq, hz⟩ := fieldOf_queue q
    refine .two (eA_lt (by decide) (by omega) (by omega) (by omega) (by omega)) (by decide) ?_
    simp (disch := omega) only [fOp_eA, fA_eA, fB_eA, fD_eA, decodeOp, List.getD_cons_zero, List.getD_cons_succ, decodeEc, opLength,
      fieldOf_eA_fn, hq, hz, bare_zero, sReg_val, low5_val]
    exact ⟨rfl, rfl⟩
  | launch a =>
    cases he
    refine .two (eA_lt (by decide) (by omega) (by omega) (by omega) (by omega)) (by decide) ?_
    simp (disch := omega) only [fOp_eA, fA_eA, fB_eA, fD_eA, fFn_eA, decodeOp, List.getD_cons_zero, List.getD_cons_succ, decodeEc,
      opLength, bare_zero, sReg_val]
    exact ⟨rfl, rfl⟩
  | signal a b msi vec =>
    cases he
    have hm := boolNat_lt msi
    have h1 : fieldOf (boolNat msi) 1 6 = 0 := by simp only [fieldOf, Nat.reducePow]; omega
    have h0 : bitOf (boolNat msi) 0 = msi := by rw [bitOf_eq]; omega
    have h11 : fieldOf vec.toNat 11 5 = 0 := by simp only [fieldOf, Nat.reducePow]; omega
    have hV : fieldOf vec.toNat 0 11 = vec.toNat := by simp only [fieldOf, Nat.reducePow]; omega
    have hvec : (msi || vec.toNat == 0) = true := by
      have h : (msi || vec == 0) = true := hwf
      simp only [Bool.or_eq_true, beq_iff_eq] at h ⊢
      exact h.imp_right fun h => congrArg BitVec.toNat h
    have hat : fAt vec.toNat = 0 := by
      rw [fAt, Nat.div_eq_of_lt (by omega)]
      rfl
    refine .two (eA_lt (by decide) (by omega) (by omega) (by omega) (by omega)) (by omega) ?_
    simp (disch := omega) only [fOp_eA, fA_eA, fB_eA, fD_eA, decodeOp, List.getD_cons_zero, List.getD_cons_succ, decodeEc, opLength,
      fieldOf_eA_fn, bitOf_eA_fn, h1, h0, h11, hV, hvec, hat, sReg_val, BitVec.ofNat_toNat, BitVec.setWidth_eq]
    exact ⟨rfl, rfl⟩
  | fill a b e buf v n =>
    cases he
    have hbuf := buf.code_lt
    have he := boolNat_lt e
    have hn : countOk n = true := hwf
    generalize hy : boolNat e + 2 * buf.code = y
    have h3 : fieldOf y 3 4 = 0 := by simp only [fieldOf, Nat.reducePow]; omega
    have h0 : bitOf y 0 = e := by rw [bitOf_eq]; omega
    have hB : bufOf (eA 0x11 0 a b y / 2) = buf := by rw [bufOf_eq, eA]; omega
    refine .two (eA_lt (by decide) (by omega) (by omega) (by omega) (by omega)) (eX_lt n.isLt) ?_
    simp (disch := omega) only [fOp_eA, fA_eA, fB_eA, fD_eA, decodeOp, List.getD_cons_zero, List.getD_cons_succ, decodeEc, opLength,
      fieldOf_eA_fn, bitOf_eA_fn, h3, h0, hB, need_of hn, fImm_eX, fAt_eX, sReg_val]
    exact ⟨rfl, rfl⟩
  | _ => cases hs

end Sys2Proof
end

section
/-! PROOFS. Walker syllables (R160, R288–R297). -/

namespace Sys2Proof

theorem val_wReg {n : Nat} (h : n < 16) : (wReg n : Nat) = n := Nat.mod_eq_of_lt h
theorem wReg_val (r : WReg) : wReg r = r := Fin.ofNat_val_eq_self r
theorem val_wReg_field (w lo : Nat) : (wReg (fieldOf w lo 4) : Nat) = fieldOf w lo 4 := val_wReg (fieldOf_lt w lo 4)

theorem toNat_ofNat_low (n w : Nat) : (BitVec.ofNat n w).toNat = fieldOf w 0 n := by
  rw [BitVec.toNat_ofNat, fieldOf, pow_zero, Nat.div_one]

theorem walkNeed_eq_some {ok : Bool} {i j : Instr} : walkNeed ok i = some j ↔ ok = true ∧ i = j := by
  cases ok <;> simp [walkNeed]

section
variable {op d a b imm w : Nat} {i : Instr}

/-! ### What decodes as a walker syllable is encoded by it -/

theorem eWI_of_fields (hw : w < 2 ^ 32) (ho : fieldOf w 26 6 = op) (hd : d = fieldOf w 22 4) (ha : a = fieldOf w 18 4)
    (hi : imm = fieldOf w 0 18) : eWI op d a imm = w := by
  subst ho hd ha hi
  have hall : fieldOf w 0 32 = w := (congrArg (· % 2 ^ 32) (Nat.div_one w)).trans (Nat.mod_eq_of_lt hw)
  have h18 := fieldOf_append w 0 18 4
  have h22 := fieldOf_append w 0 22 4
  have h26 := fieldOf_append w 0 26 6
  simp only [Nat.zero_add, Nat.reduceAdd, Nat.reducePow] at h18 h22 h26
  rw [eWI]
  omega

theorem eWR_of_fields (hw : w < 2 ^ 32) (ho : fieldOf w 26 6 = op) (hd : d = fieldOf w 22 4) (ha : a = fieldOf w 18 4)
    (hb : b = fieldOf w 14 4) (hi : imm = fieldOf w 0 14) : eWR op d a b imm = w := by
  have h14 := fieldOf_append w 0 14 4
  simp only [Nat.zero_add, Nat.reduceAdd, Nat.reducePow] at h14
  have hI : b * 0x4000 + imm = fieldOf w 0 18 := by rw [hb, hi]; omega
  exact (Nat.add_assoc _ _ _).trans (eWI_of_fields hw ho hd ha hI)

/-- The immediate of WTILE: format, FIRST and tile. -/
theorem tileFields (hz : fieldOf w 8 6 = 0) :
    (BitVec.ofNat 5 (fieldOf w 3 5)).toNat * 8 + boolNat (bitOf w 2) * 4 + (tReg w).val = fieldOf w 0 14 := by
  rw [toNat_ofNat_field, boolNat_bitOf, tReg, Fin.val_ofNat]
  simp only [fieldOf, Nat.reducePow] at *
  omega

theorem decodeWalker_ok (hw : w < 2 ^ 32) (h : decodeWalker w = some i) : i.wf = true ∧ encode i = [w] := by
  have word {v : Nat} (hv : v = w) : [v] = [w] := congrArg (fun w => [w]) hv
  unfold decodeWalker at h
  dsimp only at h
  split at h
  case h_1 hop | h_2 hop | h_4 hop =>
    cases h
    exact ⟨rfl, word (eWI_of_fields hw hop (val_wReg_field w 22) (val_wReg_field w 18) (toNat_ofNat_low 18 w))⟩
  case h_24 => cases h
  all_goals
    obtain ⟨hz, rfl⟩ := walkNeed_eq_some.mp h
    simp only [Bool.and_eq_true, beq_iff_eq] at hz
  case h_3 hop | h_5 hop | h_8 hop | h_23 hop =>
    exact ⟨rfl, word (eWR_of_fields hw hop (val_wReg_field w 22) (val_wReg_field w 18) (val_wReg_field w 14) hz.symm)⟩
  case h_6 hop | h_7 hop =>
    refine ⟨rfl, word (eWI_of_fields hw hop (val_wReg_field w 22) (val_wReg_field w 18) ?_)⟩
    rw [val_sReg_field]
    simp only [fieldOf, Nat.reducePow] at *
    omega
  case h_9 hop | h_14 hop =>
    exact ⟨rfl, word (eWI_of_fields hw hop (val_wReg_field w 22) hz.symm (toNat_ofNat_low 18 w))⟩
  case h_10 hop | h_11 hop | h_12 hop =>
    exact ⟨rfl, word (eWR_of_fields hw hop hz.symm (val_wReg_field w 18) (val_wReg_field w 14) (toNat_ofNat_low 14 w))⟩
  case h_13 hop =>
    exact ⟨rfl, word (eWI_of_fields hw hop hz.1.symm hz.2.symm (toNat_ofNat_low 18 w))⟩
  case h_15 hop =>
    exact ⟨rfl, word (eWR_of_fields hw hop hz.1.symm (val_wReg_field w 18) (val_wReg_field w 14) hz.2.symm)⟩
  case h_16 hop =>
    refine ⟨rfl, word (eWI_of_fields hw hop ?_ ?_ ?_)⟩ <;>
      simp only [tReg, Fin.val_ofNat, fieldOf, Nat.reducePow] at * <;> omega
  case h_17 hop =>
    exact ⟨rfl, word (eWR_of_fields hw hop hz.1.symm (val_wReg_field w 18) (val_wReg_field w 14) (tileFields hz.2))⟩
  case h_18 hop | h_19 hop | h_22 hop =>
    refine ⟨rfl, word (eWI_of_fields hw hop ?_ ?_ ?_)⟩ <;>
      simp only [fieldOf, Nat.reducePow] at * <;> omega
  case h_20 hop =>
    exact ⟨rfl, word (eWR_of_fields hw hop (val_wReg_field w 22) hz.1.symm hz.2.symm (toNat_ofNat_low 14 w))⟩
  case h_21 hop =>
    exact ⟨rfl, word (eWR_of_fields hw hop hz.1.symm (val_wReg_field w 18) hz.2.symm (toNat_ofNat_low 14 w))⟩

/-! ### The words of walker instructions -/

theorem eWI_lt (ho : op < 64) (hd : d < 16) (ha : a < 16) (hi : imm < 2 ^ 18) : eWI op d a imm < 2 ^ 32 := by
  unfold eWI
  omega

theorem op_eWI (ho : op < 64) (hd : d < 16) (ha : a < 16) (hi : imm < 2 ^ 18) : fieldOf (eWI op d a imm) 26 6 = op := by
  simp only [fieldOf, eWI, Nat.reducePow] at *
  omega

theorem d_eWI (hd : d < 16) (ha : a < 16) (hi : imm < 2 ^ 18) : fieldOf (eWI op d a imm) 22 4 = d := by
  simp only [fieldOf, eWI, Nat.reducePow] at *
  omega

theorem a_eWI (ha : a < 16) (hi : imm < 2 ^ 18) : fieldOf (eWI op d a imm) 18 4 = a := by
  simp only [fieldOf, eWI, Nat.reducePow] at *
  omega

theorem ofNat_eWI {i : BitVec 18} : BitVec.ofNat 18 (eWI op d a i.toNat) = i := by
  refine BitVec.eq_of_toNat_eq ?_
  simp only [eWI, BitVec.toNat_ofNat, Nat.reducePow]
  omega

/-- A W-R word is the W-I word whose immediate holds B. -/
theorem eWR_eq_eWI : eWR op d a b imm = eWI op d a (b * 0x4000 + imm) := Nat.add_assoc ..

section
variable (hb : b < 16) (hi : imm < 2 ^ 14)
include hb hi

theorem imm_lt : b * 0x4000 + imm < 2 ^ 18 := by omega

theorem eWR_lt (ho : op < 64) (hd : d < 16) (ha : a < 16) : eWR op d a b imm < 2 ^ 32 := eWR_eq_eWI ▸ eWI_lt ho hd ha (imm_lt hb hi)

theorem op_eWR (ho : op < 64) (hd : d < 16) (ha : a < 16) : fieldOf (eWR op d a b imm) 26 6 = op :=
  eWR_eq_eWI ▸ op_eWI ho hd ha (imm_lt hb hi)

theorem d_eWR (hd : d < 16) (ha : a < 16) : fieldOf (eWR op d a b imm) 22 4 = d := eWR_eq_eWI ▸ d_eWI hd ha (imm_lt hb hi)

theorem a_eWR (ha : a < 16) : fieldOf (eWR op d a b imm) 18 4 = a := eWR_eq_eWI ▸ a_eWI ha (imm_lt hb hi)

theorem b_eWR : fieldOf (eWR op d a b imm) 14 4 = b := by
  simp only [fieldOf, eWR, Nat.reducePow] at *
  omega

end

theorem low_eWR {lo n : Nat} (hln : lo + n ≤ 14) : fieldOf (eWR op d a b imm) lo n = fieldOf imm lo n := by
  have he : eWR op d a b imm = 2 ^ 14 * (op * 0x1000 + d * 0x100 + a * 16 + b) + imm := by
    unfold eWR
    omega
  have h14 : 2 ^ 14 = 2 ^ lo * (2 ^ n * 2 ^ (14 - (lo + n))) := by
    rw [← pow_add, ← pow_add, show lo + (n + (14 - (lo + n))) = 14 by omega]
  rw [he, fieldOf, fieldOf, h14, Nat.mul_assoc, Nat.mul_add_div (Nat.two_pow_pos lo), Nat.mul_assoc, Nat.mul_add_mod]

theorem ofNat_eWR {i : BitVec 14} : BitVec.ofNat 14 (eWR op d a b i.toNat) = i := by
  refine BitVec.eq_of_toNat_eq ?_
  simp only [eWR, BitVec.toNat_ofNat, Nat.reducePow]
  omega

end

theorem decodeWalker_encode {i : Instr} (h : isWalker i = true) : ∃ w, encode i = [w] ∧ w < 2 ^ 32 ∧ decodeWalker w = some i := by
  cases i with
  | wld d a x | wldp d a x | waddi d a x =>
    refine ⟨_, rfl, eWI_lt (by decide) d.isLt a.isLt x.isLt, ?_⟩
    simp (disch := omega) only [decodeWalker, op_eWI, d_eWI, a_eWI, ofNat_eWI, wReg_val]
  | wadd d a b | wsub d a b | wand d a b | wgath d a b =>
    refine ⟨_, rfl, eWR_lt b.isLt (by decide) (by decide) d.isLt a.isLt, ?_⟩
    simp (disch := omega) only [decodeWalker, op_eWR, d_eWR, a_eWR, b_eWR, low_eWR, wReg_val]
    rfl
  | wshli d a k | wshri d a k =>
    have hz (op : Nat) : fieldOf (eWI op d a k) 6 12 = 0 := by simp only [fieldOf, eWI, Nat.reducePow]; omega
    have hk (op : Nat) : fieldOf (eWI op d a k) 0 6 = k := by simp only [fieldOf, eWI, Nat.reducePow]; omega
    refine ⟨_, rfl, eWI_lt (by decide) d.isLt a.isLt (by omega), ?_⟩
    simp (disch := omega) only [decodeWalker, op_eWI, d_eWI, a_eWI, hz, hk, wReg_val, sReg_val]
    rfl
  | wli d x | wloop d x =>
    refine ⟨_, rfl, eWI_lt (by decide) d.isLt (by decide) x.isLt, ?_⟩
    simp (disch := omega) only [decodeWalker, op_eWI, d_eWI, a_eWI, ofNat_eWI, wReg_val]
    rfl
  | wbeq a b x | wbne a b x | wblt a b x =>
    refine ⟨_, rfl, eWR_lt b.isLt x.isLt (by decide) (by decide) a.isLt, ?_⟩
    simp (disch := omega) only [decodeWalker, op_eWR, d_eWR, a_eWR, b_eWR, ofNat_eWR, wReg_val]
    rfl
  | wj x =>
    refine ⟨_, rfl, eWI_lt (by decide) (by decide) (by decide) x.isLt, ?_⟩
    simp (disch := omega) only [decodeWalker, op_eWI, d_eWI, a_eWI, ofNat_eWI]
    rfl
  | wemit a b =>
    refine ⟨_, rfl, eWR_lt b.isLt (by decide) (by decide) (by decide) a.isLt, ?_⟩
    simp (disch := omega) only [decodeWalker, op_eWR, d_eWR, a_eWR, b_eWR, low_eWR, wReg_val]
    rfl
  | wemitz t =>
    have hz : fieldOf (eWI 0x10 0 0 t) 2 24 = 0 := by simp only [fieldOf, eWI, Nat.reducePow]; omega
    have ht : tReg (eWI 0x10 0 0 t) = t := Fin.ext (by simp only [tReg, Fin.val_ofNat, eWI]; omega)
    refine ⟨_, rfl, eWI_lt (by decide) (by decide) (by decide) (by omega), ?_⟩
    simp (disch := omega) only [decodeWalker, op_eWI, hz, ht]
    rfl
  | wtile a b f first t =>
    have hfirst := boolNat_lt first
    generalize hy : f.toNat * 8 + boolNat first * 4 + t.val = y
    have h8 : fieldOf y 8 6 = 0 := by simp only [fieldOf, Nat.reducePow]; omega
    have h3 : fieldOf y 3 5 = f.toNat := by simp only [fieldOf, Nat.reducePow]; omega
    have h2 : bitOf (eWR 0x11 0 a b y) 2 = first := by rw [bitOf_eq]; simp only [eWR, Nat.reducePow]; omega
    have ht : tReg (eWR 0x11 0 a b y) = t := Fin.ext (by simp only [tReg, Fin.val_ofNat, eWR]; omega)
    refine ⟨eWR 0x11 0 a b y, hy ▸ rfl, eWR_lt b.isLt (by omega) (by decide) (by decide) a.isLt, ?_⟩
    simp (disch := omega) only [decodeWalker, op_eWR, d_eWR, a_eWR, b_eWR, low_eWR, h8, h3, h2, ht, wReg_val, BitVec.ofNat_toNat,
      BitVec.setWidth_eq]
    rfl
  | wflush | weos | whalt => exact ⟨_, rfl, by decide, rfl⟩
  | wgetc d x =>
    refine ⟨_, rfl, eWR_lt (by decide) x.isLt (by decide) d.isLt (by decide), ?_⟩
    simp (disch := omega) only [decodeWalker, op_eWR, d_eWR, a_eWR, b_eWR, ofNat_eWR, wReg_val]
    rfl
  | wsetc a x =>
    refine ⟨_, rfl, eWR_lt (by decide) x.isLt (by decide) (by decide) a.isLt, ?_⟩
    simp (disch := omega) only [decodeWalker, op_eWR, d_eWR, a_eWR, b_eWR, ofNat_eWR, wReg_val]
    rfl
  | _ => cases h

end Sys2Proof
end

section
/-! PROOFS. Decode and encode agree (R147–R160): O2 and O3. -/

namespace Sys2Proof.Machine

/-! ### Every operation reads as itself from its words -/

section
variable {i : Instr} {slot : Slot}

theorem encode_ne_nil_of_slotOf (hs : slotOf i = some slot) : encode i ≠ [] := by
  intro he
  cases i <;> cases he <;> cases hs

theorem reads_of_slotOf {w : Nat} {r : List Nat} (hs : slotOf i = some slot) (hwf : i.wf = true) (he : encode i = w :: r) :
    Reads slot w r i := by
  cases slot with
  | br => exact reads_br hs hwf he
  | s0 => exact reads_s0 hs hwf he
  | ls => exact reads_ls hs hwf he
  | ag => exact reads_ag hs he
  | v0 => exact reads_v0 hs hwf he
  | vx => exact reads_vx hs hwf he
  | vp => exact reads_vp hs hwf he
  | vm => exact reads_vm hs he
  | mx => exact reads_mx hs hwf he
  | ec => exact reads_ec hs hwf he
  | s1 => exact absurd hs slotOf_ne_second.1
  | v1 => exact absurd hs slotOf_ne_second.2

/-- S1 and V1 decode as S0 and V0 (R152, R155). -/
theorem Reads.second {w : Nat} {r : List Nat} : (Reads .s0 w r i → Reads .s1 w r i) ∧ (Reads .v0 w r i → Reads .v1 w r i) :=
  ⟨fun h => ⟨h.first, h.rest, h.length, h.decodes⟩, fun h => ⟨h.first, h.rest, h.length, h.decodes⟩⟩

theorem standsIn_cases (h : standsIn i slot = true) :
    slotOf i = some slot ∨ (slotOf i = some .s0 ∧ slot = .s1) ∨ (slotOf i = some .v0 ∧ slot = .v1) := by
  simpa only [standsIn, Bool.or_eq_true, Bool.and_eq_true, beq_iff_eq, or_assoc] using h

/-- The words of a well-formed operation read as it in every slot where it may stand. -/
theorem reads_of_standsIn (hst : standsIn i slot = true) (hwf : i.wf = true) : ∃ w r, encode i = w :: r ∧ Reads slot w r i := by
  obtain ⟨first, hs⟩ : ∃ first, slotOf i = some first := by
    obtain hs | ⟨hs, -⟩ | ⟨hs, -⟩ := standsIn_cases hst <;> exact ⟨_, hs⟩
  obtain ⟨w, r, he⟩ := List.exists_cons_of_ne_nil (encode_ne_nil_of_slotOf hs)
  refine ⟨w, r, he, ?_⟩
  obtain hs | ⟨hs, rfl⟩ | ⟨hs, rfl⟩ := standsIn_cases hst
  · exact reads_of_slotOf hs hwf he
  · exact Reads.second.1 (reads_of_slotOf hs hwf he)
  · exact Reads.second.2 (reads_of_slotOf hs hwf he)

end

/-- Settles O2: an operation reads as itself from its words, slot by slot; a walker syllable holds every field of its instruction. -/
theorem decodeOfEncode : Obligations.DecodeOfEncode := by
  unfold Obligations.DecodeOfEncode
  refine ⟨fun i slot hwf hst => ?_, fun i _ hwalk => decodeWalker_encode hwalk⟩
  obtain ⟨w, r, he, hfirst, hrest, hlen, hdec⟩ := reads_of_standsIn hst hwf
  rw [he]
  exact ⟨hdec, hlen, List.forall_mem_cons.mpr ⟨hfirst, hrest⟩⟩

/-! ### What decodes is encoded by its words -/

section
variable {op n : Nat}

/-- The slots whose operations all have one length (R152–R154, R156, R158). -/
theorem opLength_fixed {slot : Slot} (h : opLength slot op = some n) :
    (slot = .s0 ∨ slot = .s1 ∨ slot = .ls ∨ slot = .ag → n = 1) ∧ (slot = .vx ∨ slot = .vm ∨ slot = .ec → n = 2) := by
  constructor
  · rintro (rfl | rfl | rfl | rfl) <;> simp only [opLength, Option.ite_none_right_eq_some, Option.some.injEq] at h <;> exact h.2.symm
  · rintro (rfl | rfl | rfl) <;> simp only [opLength, Option.ite_none_right_eq_some, Option.some.injEq] at h <;> exact h.2.symm

theorem opLength_br (h : opLength .br op = some n) : n = 1 ∨ n = 2 ∧ (op = 0x11 ∨ op = 0x1C) := by
  unfold opLength at h
  dsimp only at h
  split at h
  · exact .inr ⟨(Option.some.inj h).symm, ‹_›⟩
  · rw [Option.ite_none_right_eq_some] at h
    exact .inl (Option.some.inj h.2).symm

theorem opLength_v (h : opLength .v0 op = some n) :
    n = 1 ∨ n = 2 ∧ (op = 0x12 ∨ op = 0x1F ∨ op = 0x2D ∨ op = 0x2E) ∨ n = 8 ∧ op = 0x2F := by
  unfold opLength at h
  dsimp only at h
  split at h
  · exact .inr (.inr ⟨(Option.some.inj h).symm, ‹_›⟩)
  split at h
  · exact .inr (.inl ⟨(Option.some.inj h).symm, ‹_›⟩)
  · rw [Option.ite_none_right_eq_some] at h
    exact .inl (Option.some.inj h.2).symm

theorem opLength_mixed {slot : Slot} (h : opLength slot op = some n) (hs : slot = .vp ∨ slot = .mx) : n = 1 ∨ n = 2 := by
  obtain rfl | rfl := hs
  all_goals
    unfold opLength at h
    dsimp only at h
    split at h
    · exact .inr (Option.some.inj h).symm
    · rw [Option.ite_none_right_eq_some] at h
      exact .inl (Option.some.inj h.2).symm

end

section
variable {ws : List Nat} {i : Instr} (hw : ∀ w ∈ ws, w < 2 ^ 32)
include hw

theorem brWords (hlen : opLength .br (fOp (ws.getD 0 0)) = some ws.length) (h : decodeOp .br ws = .ok i) :
    i.wf = true ∧ encode i = ws := by
  obtain h1 | ⟨h2, hop⟩ := opLength_br hlen
  · obtain ⟨w, rfl⟩ := List.length_eq_one_iff.mp h1
    exact decodeBr_ok (hw w (by simp)) hlen h
  · obtain ⟨w, x, rfl⟩ := List.length_eq_two.mp h2
    obtain hop | hop := hop
    · exact decodeBr_loopp (hw w (by simp)) hop h
    · exact decodeBr_waitm (hw w (by simp)) hop h

theorem vWords (hlen : opLength .v0 (fOp (ws.getD 0 0)) = some ws.length) (h : decodeV ws = .ok i) :
    i.wf = true ∧ encode i = ws := by
  obtain h1 | ⟨h2, hop⟩ | ⟨h8, hop⟩ := opLength_v hlen
  · obtain ⟨w, rfl⟩ := List.length_eq_one_iff.mp h1
    exact decodeV_ok (hw w (by simp)) hlen h
  · obtain ⟨w, x, rfl⟩ := List.length_eq_two.mp h2
    have hw0 := hw w (by simp)
    have hx0 := hw x (by simp)
    obtain hop | hop | hop | hop := hop
    · exact decodeV_vclamp hw0 hx0 hop h
    · exact decodeV_vcvt hw0 hx0 hop h
    · exact decodeV_vtopk hw0 hx0 hop h
    · exact decodeV_vhacc hw0 hx0 hop h
  · match ws, h8 with
    | [y0, y1, y2, y3, y4, y5, y6, y7], rfl => exact decodeV_vnest hw hop h

theorem singleWord {slot : Slot} (hs : slot = .s0 ∨ slot = .s1 ∨ slot = .ls ∨ slot = .ag)
    (hlen : opLength slot (fOp (ws.getD 0 0)) = some ws.length) (h : decodeOp slot ws = .ok i) : i.wf = true ∧ encode i = ws := by
  obtain ⟨w, rfl⟩ := List.length_eq_one_iff.mp ((opLength_fixed hlen).1 hs)
  have hw0 := hw w (by simp)
  obtain rfl | rfl | rfl | rfl := hs
  · exact decodeS_ok hw0 h
  · exact decodeS_ok hw0 h
  · exact decodeLs_ok hw0 h
  · exact decodeAg_ok hw0 h

theorem doubleWord {slot : Slot} (hs : slot = .vx ∨ slot = .vm ∨ slot = .ec)
    (hlen : opLength slot (fOp (ws.getD 0 0)) = some ws.length) (h : decodeOp slot ws = .ok i) : i.wf = true ∧ encode i = ws := by
  obtain ⟨w, x, rfl⟩ := List.length_eq_two.mp ((opLength_fixed hlen).2 hs)
  have hw0 := hw w (by simp)
  have hx0 := hw x (by simp)
  obtain rfl | rfl | rfl := hs
  · exact decodeVx_ok hw0 hx0 h
  · exact decodeVm_ok hw0 hx0 h
  · exact decodeEc_ok hw0 hx0 h

theorem mixedWords {slot : Slot} (hs : slot = .vp ∨ slot = .mx)
    (hlen : opLength slot (fOp (ws.getD 0 0)) = some ws.length) (h : decodeOp slot ws = .ok i) : i.wf = true ∧ encode i = ws := by
  obtain h1 | h2 := opLength_mixed hlen hs
  · obtain ⟨w, rfl⟩ := List.length_eq_one_iff.mp h1
    obtain rfl | rfl := hs
    · exact decodeVp_pred (hw w (by simp)) hlen h
    · exact decodeMx_single (hw w (by simp)) hlen h
  · obtain ⟨w, x, rfl⟩ := List.length_eq_two.mp h2
    obtain rfl | rfl := hs
    · exact decodeVp_pack (hw w (by simp)) (hw x (by simp)) hlen h
    · exact decodeMx_timed (hw w (by simp)) (hw x (by simp)) hlen h

end

/-- Settles O3: slot by slot, each field of the words is a field of the instruction or must be 0. -/
theorem encodeOfDecode : Obligations.EncodeOfDecode := by
  unfold Obligations.EncodeOfDecode
  refine ⟨fun slot ws i hw hlen h => ?_, fun w i hw h => decodeWalker_ok hw h⟩
  cases slot with
  | br => exact brWords hw hlen h
  | s0 | s1 | ls | ag => exact singleWord hw (by decide) hlen h
  | v0 | v1 => exact vWords hw hlen h
  | vx | vm | ec => exact doubleWord hw (by decide) hlen h
  | vp | mx => exact mixedWords hw (by decide) hlen h

end Sys2Proof.Machine
end

section
/-! PROOFS. A bundle of one operation (R144–R146, R161): O6. -/

namespace Sys2Proof.Machine

/-! ### The header of one slot (R144) -/

section
variable {slot : Slot} {n w : Nat}

theorem encodeHeader_one (slot : Slot) (n w : Nat) : encodeHeader [slot] n w = 2 ^ (20 + slot.code) + n * 0x1_0000 + w * 0x100 := rfl

theorem Slot.code_lt (slot : Slot) : slot.code < 12 := by cases slot <;> decide

/-- The parts of a header are its fields. -/
theorem header_eq (slot : Slot) (n w : Nat) : encodeHeader [slot] n w = 2 ^ 8 * (w + 2 ^ 8 * (n + 2 ^ 4 * 2 ^ slot.code)) := by
  rw [encodeHeader_one, Nat.pow_add]
  omega

theorem headerCount_one (hn : n < 16) (hw : w < 256) : headerCount (encodeHeader [slot] n w) = n := by
  rw [headerCount, fieldOf, header_eq]
  simp only [Nat.reducePow]
  omega

theorem weight_one (hw : w < 256) : fieldOf (encodeHeader [slot] n w) 8 8 = w := by
  rw [fieldOf, header_eq]
  simp only [Nat.reducePow]
  omega

theorem unguarded_one : (encodeHeader [slot] n w).testBit 7 = false := by
  rw [header_eq, Nat.testBit_eq_decide_div_mod_eq, decide_eq_false_iff_not]
  simp only [Nat.reducePow]
  omega

theorem mask_one (hn : n < 16) (hw : w < 256) : encodeHeader [slot] n w / 2 ^ 20 = 2 ^ slot.code := by
  rw [header_eq]
  simp only [Nat.reducePow]
  omega

theorem presentSlots_one (hn : n < 16) (hw : w < 256) : presentSlots (encodeHeader [slot] n w) = [slot] := by
  have hbit (s : Slot) : (encodeHeader [slot] n w).testBit (20 + s.code) = decide (slot.code = s.code) := by
    rw [Nat.add_comm, ← Nat.testBit_div_two_pow, mask_one hn hw, Nat.testBit_two_pow]
  simp only [presentSlots, hbit]
  cases slot <;> rfl

theorem headerFault_one (hn : n < 16) (hw : w < 256) {a : Nat} (ha : a % 64 + 4 * (n + 1) ≤ 64) :
    headerFault (encodeHeader [slot] n w) a = none := by
  have hlow : fieldOf (encodeHeader [slot] n w) 0 7 = 0 := by
    rw [fieldOf, header_eq]
    simp only [Nat.reducePow]
    omega
  have hmask : fieldOf (encodeHeader [slot] n w) 20 12 ≠ 0 := by
    rw [fieldOf, mask_one hn hw, Nat.mod_eq_of_lt (Nat.pow_lt_pow_right (by decide) (Slot.code_lt slot))]
    exact (Nat.two_pow_pos _).ne'
  rw [headerFault, headerCount_one hn hw, if_neg, if_neg (Nat.not_lt.mpr ha)]
  rintro (h | ⟨h, -⟩)
  · exact h hlow
  · exact hmask h

end

/-! ### The bundle of the header and an operation's words (R144–R146, R161 steps 1 to 5) -/

/-- The bundle that holds one operation alone. -/
def soleBundle (slot : Slot) (i : Instr) (w : Nat) : Bundle := ⟨w, (encode i).length, [⟨slot, 1, i, none⟩]⟩

section
variable {i : Instr} {slot : Slot} {w : Nat}

theorem activeOps_soleBundle (c : Ctx) : activeOps c (soleBundle slot i w) = [⟨slot, 1, i, none⟩] := rfl

theorem newDraws_soleBundle (s : State) : newDraws s (soleBundle slot i w) = drawsOf s i := List.append_nil _

theorem vectorWeight_sole :
    vectorWeight [⟨slot, 1, i, none⟩] = if [Slot.v0, .v1, .vx, .vp, .vm].contains slot then opWeight i else 0 := by
  cases slot <;> rfl

/-- A sole operation that raises nothing is all that runs. -/
theorem runOps_sole {s u : State} (h : exec i { s with slot := slot } = .next u) (hu : u.issueFault = none) :
    runOps [⟨slot, 1, i, none⟩] s = .next u := by
  simp only [runOps, h, hu]
  rfl

theorem checkMode_sole {m : Mode} (hw : opWeight i ≤ w) (hs : isSupervisorOnly i = true → m = .supervisor) :
    checkMode m (soleBundle slot i w) = .ok (soleBundle slot i w) := by
  have hweight : ¬(soleBundle slot i w).weight < archWeight (soleBundle slot i w) := Nat.not_lt.mpr hw
  have hmode : ¬(m = .user ∧ (soleBundle slot i w).ops.any (fun o => isSupervisorOnly o.instr) = true) := by
    rintro ⟨rfl, h⟩
    cases hs (by simpa only [soleBundle, List.any_cons, List.any_nil, Bool.or_false] using h)
  rw [checkMode, if_neg hweight, if_neg hmode]

section
variable (hwf : i.wf = true) (hst : standsIn i slot = true)
include hwf hst

theorem locateOps_sole (h : Nat) :
    locateOps (h :: encode i) (encode i).length [slot] 1 = .ok [(slot, 1, (encode i).length)] := by
  obtain ⟨w0, r, he, hreads⟩ := reads_of_standsIn hst hwf
  have hlen : opLength slot (fOp w0) = some (encode i).length := he ▸ hreads.length
  have hpos : ¬(encode i).length < 1 := by
    rw [he, List.length_cons]
    omega
  have hend : 1 + (encode i).length = (encode i).length + 1 := Nat.add_comm ..
  rw [locateOps, if_neg hpos, List.getD_cons_succ]
  nth_rewrite 1 [he]
  rw [List.getD_cons_zero, hlen]
  simp only [locateOps, hend, if_true]

theorem decodeOps_sole {h : Nat} (hh : h.testBit 7 = false) {sup : Bool} (hu : isUserOnly i = true → sup = false) :
    decodeOps h (h :: encode i) true sup [(slot, 1, (encode i).length)] 0 = .ok [⟨slot, 1, i, none⟩] := by
  have hwords : ((h :: encode i).drop 1).take (encode i).length = encode i := List.take_length
  have hdec : decodeOp slot (encode i) = .ok i := (decodeOfEncode.1 i slot hwf hst).1
  have hmay : ¬(i = .rte ∧ (!true) = true ∨ isUserOnly i = true ∧ sup = true) := by
    rintro (⟨-, h⟩ | ⟨h, hsup⟩)
    · cases h
    · rw [hu h] at hsup
      cases hsup
  have hstage : guardStage h (h :: encode i) 0 = none := by
    rw [guardStage, hh]
    rfl
  simp only [decodeOps, hwords, hdec, if_neg hmay, hstage, ite_self]

theorem decodeBundle_sole (hw : w < 256) {a : Nat} (ha : a % 64 + 4 * ((encode i).length + 1) ≤ 64) {sup : Bool}
    (hu : isUserOnly i = true → sup = false) :
    decodeBundle (encodeHeader [slot] (encode i).length w :: encode i) a sup = .ok (soleBundle slot i w) := by
  have hn : (encode i).length < 16 := by omega
  have hguard : guardSyllables (encodeHeader [slot] (encode i).length w) = 0 := by
    rw [guardSyllables, unguarded_one]
    rfl
  have hfault : guardFault (encodeHeader [slot] (encode i).length w) (encodeHeader [slot] (encode i).length w :: encode i) = none := by
    rw [guardFault, unguarded_one]
    rfl
  simp only [decodeBundle, List.getD_cons_zero, headerFault_one hn hw ha, headerCount_one hn hw, presentSlots_one hn hw, hguard,
    Nat.add_zero, locateOps_sole hwf hst, hfault, List.length_singleton, beq_self_eq_true,
    decodeOps_sole hwf hst unguarded_one hu, weight_one hw, soleBundle]

theorem checkBundle_sole {t : State} {k a : Nat} (hw : w < 256) (hweight : opWeight i ≤ w)
    (hsup : isSupervisorOnly i = true → (ctxOf t k).mode = .supervisor) (husr : isUserOnly i = true → (ctxOf t k).mode = .user)
    (hpc : codeAddr (ctxOf t k) (ctxOf t k).pc = some a) (ha : a % 64 + 4 * ((encode i).length + 1) ≤ 64)
    (hcode : isCode t (ctxOf t k) = true)
    (hwords : bundleWords t (ctxOf t k) = encodeHeader [slot] (encode i).length w :: encode i) :
    checkBundle t k = .ok (soleBundle slot i w) := by
  have hu (h : isUserOnly i = true) : ((ctxOf t k).mode == .supervisor) = false := by
    rw [husr h]
    rfl
  simp only [checkBundle, hpc, hwords, hcode, Bool.not_true, Bool.and_false, Bool.false_eq_true, if_false,
    decodeBundle_sole hwf hst hw ha hu, checkMode_sole hweight hsup]

end

end

/-- Settles O6: the words at the pc decode to the bundle of the one operation, and the step runs that bundle. -/
theorem stepRunsInstruction : Obligations.StepRunsInstruction := by
  unfold Obligations.StepRunsInstruction
  intro s t u n r x i slot w a hwf hst hw hweight hin hphase hag hwidth ht hcan hsup husr hpc ha hcode hwords hwin hend hexec hu
  have hcur : here t = ctxOf t (n * 4 + x.val) := by
    rw [ht]
    rfl
  rw [hcur] at hsup husr hpc hcode hwords
  have hcheck := checkBundle_sole hwf hst hw hweight hsup husr hpc ha hcode hwords
  obtain ⟨v, hrun, hstep, -⟩ := stepRuns.1 s t n r x (soleBundle slot i w) hin hphase hag hwidth ht hcan hcheck
    (by rwa [newDraws_soleBundle]) hend
  rw [activeOps_soleBundle] at hrun hstep
  rw [newDraws_soleBundle] at hrun
  cases (runOps_sole hexec hu).symm.trans hrun
  rw [hstep hu, vectorWeight_sole]
  rfl

end Sys2Proof.Machine
end

section
/-! PROOFS. GETC and SETC, and what user mode may not issue (R150, R161, R182, R192, R195, R350): O21 and O24. -/

namespace Sys2Proof.Machine

section
variable {s : State}

/-! ### GETC and SETC in a mode that may touch the register (R150, R182) -/

theorem crAllowed_of {i : BitVec 13} (hm : (here s).mode = .supervisor ∨ i.toNat < 0x100) :
    ¬(isSupervisorCR i.toNat = true ∧ (here s).mode = .user) := by
  rintro ⟨hi, hu⟩
  obtain hm | hm := hm
  · rw [hm] at hu
    cases hu
  · exact absurd (of_decide_eq_true hi) (Nat.not_le.mpr hm)

theorem exec_getc {d : SReg} {i : BitVec 13} (hm : (here s).mode = .supervisor ∨ i.toNat < 0x100)
    (hl : Lands s 1 (.s d (readCR s s.cur i.toNat))) :
    exec (.getc d i) s = .next (scheduled s 1 (.s d (readCR s s.cur i.toNat)) 0 none) := by
  obtain ⟨hfree, hland⟩ := hl
  rw [exec, execGetc, finish_withSlot hfree, if_neg (crAllowed_of hm), result_ok hland, finish_ok]

section
variable {a : SReg} {i : BitVec 13} (hm : (here s).mode = .supervisor ∨ i.toNat < 0x100) (hi : i.toNat ≠ 0x192)
include hm hi

theorem exec_setc_writable (hwr : writableCR (here s).mode i.toNat = true) (hl : Lands s 2 (.cr i.toNat ((here s).readS a))) :
    exec (.setc a i) s = .next (scheduled s 2 (.cr i.toNat ((here s).readS a)) 0 none) := by
  obtain ⟨hfree, hland⟩ := hl
  simp only [exec, execSetc, finish_withSlot hfree, if_neg (crAllowed_of hm), if_neg hi, if_pos hwr, result_ok hland, finish_ok]

theorem exec_setc_readOnly (hro : writableCR (here s).mode i.toNat = false) (hfree : slotFree s = true) :
    exec (.setc a i) s = .next s := by
  simp only [exec, execSetc, finish_withSlot hfree, if_neg (crAllowed_of hm), if_neg hi, hro, Bool.false_eq_true, if_false, finish_ok]

end

/-- An untimed operation takes no register's cycle. -/
theorem noCollision_queued (j : Job) (r : Option Result) (o : Bool) (l : List Nat) (p : List Place) (lat : Nat) (w : RegWrite) :
    noCollision (queued s j r o l p) lat w = noCollision s lat w := by
  simp only [noCollision, queued, here_modHere]
  rfl

/-- A SETC to PGREQ of a system core is a request besides (R350). -/
theorem exec_setc_pgreq {a : SReg} (hm : (here s).mode = .supervisor) (hl : Lands s 2 (.cr 0x192 ((here s).readS a)))
    (hc : Config.firstSystemCore ≤ coreIx s.cur) : exec (.setc a 0x192) s =
      .next (scheduled (queued s (.pgreq ((here s).readS a)) none false [] []) 2 (.cr 0x192 ((here s).readS a)) 0 none) := by
  obtain ⟨hfree, hland⟩ := hl
  have hi : (0x192 : BitVec 13).toNat = 0x192 := rfl
  have hroom : resultRoom s none = true := rfl
  rw [← noCollision_queued (.pgreq ((here s).readS a)) none false [] []] at hland
  simp only [exec, execSetc, finish_withSlot hfree, if_neg (crAllowed_of (.inl hm)), if_pos hi, if_neg (Nat.not_lt.mpr hc),
    issueUntimed_ok hroom, andThen_ok, result_ok hland, finish_ok]

/-- In user mode the supervisor registers are privileged (R4, R150). -/
theorem exec_supervisorCR (d a : SReg) {i : BitVec 13} (hm : (here s).mode = .user) (hi : 0x100 ≤ i.toNat) (hfree : slotFree s = true) :
    exec (.getc d i) s = .next (raiseAtIssue s 0x14 none) ∧ exec (.setc a i) s = .next (raiseAtIssue s 0x14 none) := by
  have hpriv : isSupervisorCR i.toNat = true ∧ (here s).mode = .user := ⟨decide_eq_true hi, hm⟩
  constructor
  · rw [exec, execGetc, finish_withSlot hfree, if_pos hpriv, finish_trap]
  · simp only [exec, execSetc, finish_withSlot hfree, if_pos hpriv, finish_trap]

/-! ### Supervisor instructions in user mode (R161, R192, R195) -/

section
variable (hfree : slotFree s = true) (hm : (here s).mode = .user)
include hfree hm

theorem finish_user (f : State → Issue) :
    finish s (withSlot s (fun s => supervisorOnly s f)) = .next (raiseAtIssue s 0x14 none) := by
  have hne : ¬(here s).mode = .supervisor := by
    rw [hm]
    exact Mode.noConfusion
  rw [finish_withSlot hfree, supervisorOnly, if_neg hne, finish_trap]

theorem exec_privileged {i : Instr} (hi : isSupervisorOnly i = true ∨ i = .rte) : exec i s = .next (raiseAtIssue s 0x14 none) := by
  obtain hi | rfl := hi
  · cases i with
    | setallow a b n | setallowMode a b n => exact finish_user hfree hm _
    | ctxsave d a b | ctxload d a b | segload d a b | gfreeze d a | gthaw a b => exact finish_user hfree hm _
    | tlbinv a b k | msgsend a b | halt => exact finish_user hfree hm _
    | _ => cases hi
  · exact finish_user hfree hm _

end

theorem checkMode_privileged {b : Bundle} (hw : archWeight b ≤ b.weight) (h : ∃ o ∈ b.ops, isSupervisorOnly o.instr = true) :
    checkMode .user b = .error (0x14, none) := by
  have hany : b.ops.any (fun o => isSupervisorOnly o.instr) = true := List.any_eq_true.mpr h
  rw [checkMode, if_neg (Nat.not_lt.mpr hw), if_pos ⟨rfl, hany⟩]

end

/-- Settles O21: the mode check, then the result of the register at its latency. -/
theorem controlRegisterMoves : Obligations.ControlRegisterMoves := by
  unfold Obligations.ControlRegisterMoves
  exact ⟨fun _ _ _ hm hl => exec_getc hm hl,
    fun _ _ _ hm hi => ⟨exec_setc_writable hm hi, exec_setc_readOnly hm hi⟩,
    fun _ _ hm hl hc => exec_setc_pgreq hm hl hc,
    fun _ d a _ hm hi hfree => exec_supervisorCR d a hm hi hfree⟩

/-- Settles O24: each supervisor instruction looks at the mode before its operands, and step 5 of R161 before anything runs. -/
theorem privilege : Obligations.Privilege := by
  unfold Obligations.Privilege
  exact ⟨fun _ _ hi hfree hm => exec_privileged hfree hm hi, fun _ hw h => checkMode_privileged hw h⟩

end Sys2Proof.Machine
end

section
/-! PROOFS. Worked words, and the words of no operation (R151–R160, R162, R172, R173, R197–R203): O1. -/

namespace Sys2Proof.Machine

section
variable {ws : List Nat} {w x n k : Nat} {slot : Slot}

/-- An OP with no length is none that has one. -/
theorem opLength_ne_of_none (h : opLength slot (fOp w) = none) (hop : fOp w = k) (hk : opLength slot k = some n) : False := by
  rw [hop, hk] at h
  cases h

theorem decodeBr_unassigned (h : opLength .br (fOp w) = none) : decodeBr w x = .error (0, 4) := by
  unfold decodeBr
  split
  case h_52 => rfl
  all_goals exact (opLength_ne_of_none h ‹_› rfl).elim

theorem decodeS_unassigned (h : opLength .s0 (fOp w) = none) : decodeS w = .error (0, 4) := by
  unfold decodeS
  split
  case h_42 => rfl
  all_goals exact (opLength_ne_of_none h ‹_› rfl).elim

theorem decodeLs_unassigned (h : opLength .ls (fOp w) = none) : decodeLs w = .error (0, 4) := by
  unfold decodeLs
  split
  case h_15 => rfl
  all_goals exact (opLength_ne_of_none h ‹_› rfl).elim

theorem decodeAg_unassigned (h : opLength .ag (fOp w) = none) : decodeAg w = .error (0, 4) := by
  unfold decodeAg
  split
  case h_8 => rfl
  all_goals exact (opLength_ne_of_none h ‹_› rfl).elim

theorem decodeV_unassigned (h : opLength .v0 (fOp (ws.getD 0 0)) = none) : decodeV ws = .error (0, 4) := by
  unfold decodeV
  dsimp only
  split
  case h_49 => rfl
  all_goals exact (opLength_ne_of_none h ‹_› rfl).elim

theorem decodeVx_unassigned (h : opLength .vx (fOp w) = none) : decodeVx w x = .error (0, 4) := by
  unfold decodeVx
  split
  case h_4 => rfl
  all_goals exact (opLength_ne_of_none h ‹_› rfl).elim

theorem decodeVp_unassigned (h : opLength .vp (fOp w) = none) : decodeVp w x = .error (0, 4) := by
  unfold decodeVp
  split
  case h_11 => rfl
  all_goals exact (opLength_ne_of_none h ‹_› rfl).elim

theorem decodeVm_unassigned (h : opLength .vm (fOp w) = none) : decodeVm w x = .error (0, 4) := by
  unfold decodeVm
  split
  case h_8 => rfl
  all_goals exact (opLength_ne_of_none h ‹_› rfl).elim

theorem decodeMx_unassigned (h : opLength .mx (fOp w) = none) : decodeMx w x = .error (0, 4) := by
  unfold decodeMx
  split
  case h_11 => rfl
  all_goals exact (opLength_ne_of_none h ‹_› rfl).elim

theorem decodeEc_unassigned (h : opLength .ec (fOp w) = none) : decodeEc w x = .error (0, 4) := by
  unfold decodeEc
  split
  case h_19 => rfl
  all_goals exact (opLength_ne_of_none h ‹_› rfl).elim

/-- An OP with no assigned operation in its slot is REASON 4 (R162). -/
theorem decodeOp_unassigned (h : opLength slot (fOp (ws.getD 0 0)) = none) : decodeOp slot ws = .error (0, 4) := by
  cases slot with
  | br => exact decodeBr_unassigned h
  | s0 | s1 => exact decodeS_unassigned h
  | ls => exact decodeLs_unassigned h
  | ag => exact decodeAg_unassigned h
  | v0 | v1 => exact decodeV_unassigned h
  | vx => exact decodeVx_unassigned h
  | vp => exact decodeVp_unassigned h
  | vm => exact decodeVm_unassigned h
  | mx => exact decodeMx_unassigned h
  | ec => exact decodeEc_unassigned h

/-- The walker's OPs are 0x01 to 0x17 (R160). -/
theorem decodeWalker_unassigned (h : fieldOf w 26 6 = 0 ∨ 0x17 < fieldOf w 26 6) : decodeWalker w = none := by
  unfold decodeWalker
  dsimp only
  split
  case h_24 => rfl
  all_goals
    rename_i hop
    omega

end

/-- Settles O1: the worked words by evaluation, the unassigned OPs slot by slot. -/
theorem specWordsDecode : Obligations.SpecWordsDecode := by
  unfold Obligations.SpecWordsDecode
  refine ⟨?_, ?_, ?_, ?_, ?_, ?_, ?_, ?_, ?_, ?_, ?_, ?_, fun _ _ h => decodeOp_unassigned h, fun _ h => decodeWalker_unassigned h⟩ <;>
    decide

end Sys2Proof.Machine
end
